-- ==== Sys2Proof/Word.lean ====
section
/-! DEFINITION. The word types of the machine: what the spec treats as bits. -/

namespace Sys2Proof

/-- Eight bits, the smallest addressable unit. -/
abbrev Byte := BitVec 8

/-- One lane of a vector register, or one uniform register (R14). -/
abbrev Word := BitVec 32

/-- An address register, a predicate over all lanes, a 64-bit datum (R14). -/
abbrev DWord := BitVec 64

/-- One bit for each logical lane, lane 0 in bit 0 (R7, R43). -/
abbrev LaneMask := BitVec 64

/-- A horizon number, counted modulo 2^16 (R81). -/
abbrev HNum := BitVec 16

end Sys2Proof
end

