-- ==== Sys2Proof/Syntax.lean ====
section
/-! DEFINITION. The syntax of the machine: one constructor of `Instr` for each row of
spec/opcode_table.json. A word of a program carries the fields of its format (R249 to R266) as the
encoding has them; a step that no word makes carries what the outside or another unit chooses. -/

namespace Sys2Proof

/-- Bits [63] and [53:50] of an instruction word: switch marker and guard (R20, R22). -/
structure Ctl where
  sw : Bool
  gp : BitVec 3
  gn : Bool
  deriving DecidableEq, Repr

/-- Format VX (R253). -/
structure VX where
  d : BitVec 8
  a : BitVec 8
  b : BitVec 8
  c : BitVec 8
  bk : BitVec 2
  rm : BitVec 2
  sat : Bool
  t : BitVec 4
  t2 : BitVec 4
  mode : BitVec 5
  deriving DecidableEq, Repr

/-- Format VI (R254). -/
structure VI where
  d : BitVec 8
  imm : BitVec 32
  rsv : BitVec 10
  deriving DecidableEq, Repr

/-- Format UN (R255). With BK = 2 the bits of B, C and the rest are IMM32. -/
structure UN where
  d : BitVec 8
  a : BitVec 8
  bk : BitVec 2
  b : BitVec 8
  c : BitVec 8
  rsv : BitVec 11
  mode : BitVec 5
  deriving DecidableEq, Repr

/-- Format MG (R256). -/
structure MG where
  d : BitVec 8
  base : BitVec 4
  bs : Bool
  ik : BitVec 2
  idx : BitVec 8
  sc : BitVec 2
  sz : BitVec 3
  sx : Bool
  disp : BitVec 21
  deriving DecidableEq, Repr

/-- Format MA (R257). -/
structure MA where
  d : BitVec 8
  s : BitVec 8
  k : BitVec 8
  base : BitVec 4
  bs : Bool
  ik : BitVec 2
  idx : BitVec 8
  sc : BitVec 2
  aop : BitVec 4
  ord : BitVec 2
  w64 : Bool
  rsv : BitVec 2
  deriving DecidableEq, Repr

/-- Format MB (R258): object and the 29 bits that each opcode uses in its own way. -/
structure MB where
  spc : Bool
  obj : BitVec 20
  low : BitVec 29
  deriving DecidableEq, Repr

/-- Format EC (R259). -/
structure EC where
  dst : BitVec 17
  src : BitVec 5
  bar : BitVec 17
  len : BitVec 11
  deriving DecidableEq, Repr

/-- Format ED (R260). -/
structure ED where
  desc : BitVec 17
  aux : BitVec 5
  bar : BitVec 17
  rsv : BitVec 6
  pri : Bool
  comm : BitVec 4
  deriving DecidableEq, Repr

/-- Format ER (R261). -/
structure ER where
  reg : BitVec 8
  base : BitVec 4
  ik : BitVec 2
  idx : BitVec 8
  stream : BitVec 4
  fl : Bool
  w64 : Bool
  rsv : BitVec 5
  desc : BitVec 17
  deriving DecidableEq, Repr

/-- Format CB (R262). -/
structure CB where
  off : BitVec 30
  token : BitVec 8
  p : BitVec 3
  pn : Bool
  ht : Bool
  link : BitVec 4
  rsv : BitVec 3
  deriving DecidableEq, Repr

/-- Format CR (R263): the address register and the bits that each opcode uses in its own way. -/
structure CR where
  a : BitVec 4
  low : BitVec 46
  deriving DecidableEq, Repr

/-- Format CN (R264). -/
structure CN where
  low : BitVec 50
  deriving DecidableEq, Repr

/-- Format SR (R265). -/
structure SR where
  reg : BitVec 8
  uk : Bool
  num : BitVec 8
  sel : BitVec 7
  rsv : BitVec 26
  deriving DecidableEq, Repr

/-- One half of a pair word (R266). -/
structure Compact where
  cop : BitVec 5
  d : BitVec 8
  a : BitVec 8
  b : BitVec 8
  bu : Bool
  rsv : Bool
  deriving DecidableEq, Repr

/-- A clause header (R247). -/
structure Header where
  tag : BitVec 4
  cls : BitVec 3
  count : BitVec 4
  ldw : BitVec 6
  stw : BitVec 6
  engw : BitVec 4
  hzw : BitVec 6
  rsv : BitVec 31
  deriving DecidableEq, Repr

/-- Which register a register write of system software reaches: BAR0, core control space, or the
AtomicOp Requester Enable bit of the function's configuration space (R154, R396, R401). -/
inductive RegTarget where
  | bar0 (off width : Nat)
  | coreCtl (core off width : Nat)
  | atomicEnable
  deriving DecidableEq, Repr

/-- What answers a transaction to the host (R400, R401). -/
inductive HostAnswer where
  | data (bytes : List Byte)
  | refused
  | poisoned
  deriving DecidableEq, Repr

/-- Where a remote store comes from (R362, R405): a stream of this module, or another module. -/
inductive StoreSource where
  | own (core stream : Nat)
  | other (node core stream num place : Nat) (bytes : List Byte)
  deriving DecidableEq, Repr

/-- The header one member of a collective sends (R359). -/
structure CollHeader where
  cmd : Nat
  count : Nat
  dtype : BitVec 8
  rop : BitVec 8
  peer : Nat
  faulty : Bool
  deriving DecidableEq, Repr

/-- The part of a register file that carries one poison bit (R76). -/
inductive RegPart where
  | vec (reg lane : Nat) (upper : Bool)
  | uni (reg : Nat)
  | addr (reg : Nat) (upper : Bool)
  | pred (reg group : Nat)
  | winVec (reg lane : Nat) (upper : Bool)
  | winUni (reg : Nat)
  | winAddr (reg : Nat) (upper : Bool)
  | winPred (reg group : Nat)
  deriving DecidableEq, Repr

/-- What the background scrub finds (R75, R76). -/
inductive ScrubFinding where
  | corrected
  | uncorrectable (wave : Nat) (part : RegPart)
  deriving DecidableEq, Repr

/-- The caches whose lines an event can name (R95). -/
inductive CacheUnit where
  | l1 (core : Nat)
  | l2 (die : Nat)
  | l0 (core : Nat)
  | cl (cluster : Nat)
  deriving DecidableEq, Repr

/-- The translation caches (R127). -/
inductive TlbUnit where
  | core (core : Nat)
  | die (die : Nat)
  deriving DecidableEq, Repr

/-- The unit classes whose counters a Staram request names (R177, R412, R421). -/
inductive CounterUnit where
  | core
  | cluster
  | controller
  | collier
  | die
  | bellows
  | stoker
  | port
  deriving DecidableEq, Repr

/-- A received flit, as far as the key slots see it (R178, R409, R410). `slot` is the
key slot under which it is encrypted. -/
structure Flit where
  counter : Nat
  authentic : Bool
  resent : Bool
  slot : Nat
  deriving DecidableEq, Repr

/-- One constructor for each row of spec/opcode_table.json. -/
inductive Instr where
  -- uniform class (R277, R331)
  | umov (g : Ctl) (o : UN)
  | umovi (g : Ctl) (o : UN)
  | uadd (g : Ctl) (o : UN)
  | usub (g : Ctl) (o : UN)
  | umul (g : Ctl) (o : UN)
  | umulh (g : Ctl) (o : UN)
  | uand (g : Ctl) (o : UN)
  | uor (g : Ctl) (o : UN)
  | uxor (g : Ctl) (o : UN)
  | ushl (g : Ctl) (o : UN)
  | ushr (g : Ctl) (o : UN)
  | usra (g : Ctl) (o : UN)
  | umin (g : Ctl) (o : UN)
  | umax (g : Ctl) (o : UN)
  | ucmp (g : Ctl) (o : UN)
  | usel (g : Ctl) (o : UN)
  | addpc (g : Ctl) (o : UN)
  | aadd (g : Ctl) (o : UN)
  | aset (g : Ctl) (o : UN)
  | acpy (g : Ctl) (o : UN)
  | aget (g : Ctl) (o : UN)
  | rdhz (g : Ctl) (o : UN)
  -- integer and logical vector operations (R275)
  | mov (g : Ctl) (o : VX)
  | movi (g : Ctl) (o : VI)
  | iadd (g : Ctl) (o : VX)
  | isub (g : Ctl) (o : VX)
  | imul (g : Ctl) (o : VX)
  | imulh (g : Ctl) (o : VX)
  | imulhu (g : Ctl) (o : VX)
  | imad (g : Ctl) (o : VX)
  | imin (g : Ctl) (o : VX)
  | imax (g : Ctl) (o : VX)
  | iminu (g : Ctl) (o : VX)
  | imaxu (g : Ctl) (o : VX)
  | iabs (g : Ctl) (o : VX)
  | ineg (g : Ctl) (o : VX)
  | and (g : Ctl) (o : VX)
  | or (g : Ctl) (o : VX)
  | xor (g : Ctl) (o : VX)
  | not (g : Ctl) (o : VX)
  | ishl (g : Ctl) (o : VX)
  | ishr (g : Ctl) (o : VX)
  | isra (g : Ctl) (o : VX)
  | irol (g : Ctl) (o : VX)
  | popc (g : Ctl) (o : VX)
  | clz (g : Ctl) (o : VX)
  | brev (g : Ctl) (o : VX)
  | bfe (g : Ctl) (o : VX)
  | bfi (g : Ctl) (o : VX)
  | sel (g : Ctl) (o : VX)
  | icmp (g : Ctl) (o : VX)
  | idot4 (g : Ctl) (o : VX)
  | idot2 (g : Ctl) (o : VX)
  | plop (g : Ctl) (o : VX)
  -- floating point, four widths (R278 to R282)
  | fadd (g : Ctl) (o : VX)
  | fsub (g : Ctl) (o : VX)
  | fmul (g : Ctl) (o : VX)
  | ffma (g : Ctl) (o : VX)
  | fmin (g : Ctl) (o : VX)
  | fmax (g : Ctl) (o : VX)
  | fabs (g : Ctl) (o : VX)
  | fneg (g : Ctl) (o : VX)
  | fcmp (g : Ctl) (o : VX)
  | fclass (g : Ctl) (o : VX)
  | frnd (g : Ctl) (o : VX)
  | faddF64 (g : Ctl) (o : VX)
  | fsubF64 (g : Ctl) (o : VX)
  | fmulF64 (g : Ctl) (o : VX)
  | ffmaF64 (g : Ctl) (o : VX)
  | fminF64 (g : Ctl) (o : VX)
  | fmaxF64 (g : Ctl) (o : VX)
  | fabsF64 (g : Ctl) (o : VX)
  | fnegF64 (g : Ctl) (o : VX)
  | fcmpF64 (g : Ctl) (o : VX)
  | fclassF64 (g : Ctl) (o : VX)
  | frndF64 (g : Ctl) (o : VX)
  | faddF16 (g : Ctl) (o : VX)
  | fsubF16 (g : Ctl) (o : VX)
  | fmulF16 (g : Ctl) (o : VX)
  | ffmaF16 (g : Ctl) (o : VX)
  | fminF16 (g : Ctl) (o : VX)
  | fmaxF16 (g : Ctl) (o : VX)
  | fabsF16 (g : Ctl) (o : VX)
  | fnegF16 (g : Ctl) (o : VX)
  | fcmpF16 (g : Ctl) (o : VX)
  | fclassF16 (g : Ctl) (o : VX)
  | frndF16 (g : Ctl) (o : VX)
  | faddBf16 (g : Ctl) (o : VX)
  | fsubBf16 (g : Ctl) (o : VX)
  | fmulBf16 (g : Ctl) (o : VX)
  | ffmaBf16 (g : Ctl) (o : VX)
  | fminBf16 (g : Ctl) (o : VX)
  | fmaxBf16 (g : Ctl) (o : VX)
  | fabsBf16 (g : Ctl) (o : VX)
  | fnegBf16 (g : Ctl) (o : VX)
  | fcmpBf16 (g : Ctl) (o : VX)
  | fclassBf16 (g : Ctl) (o : VX)
  | frndBf16 (g : Ctl) (o : VX)
  -- conversions and special functions (R283 to R285)
  | cvt (g : Ctl) (o : VX)
  | pack (g : Ctl) (o : VX)
  | rcp (g : Ctl) (o : VX)
  | rsq (g : Ctl) (o : VX)
  | sqrt (g : Ctl) (o : VX)
  | exp2 (g : Ctl) (o : VX)
  | log2 (g : Ctl) (o : VX)
  | sin (g : Ctl) (o : VX)
  | cos (g : Ctl) (o : VX)
  | tanh (g : Ctl) (o : VX)
  | rcpF64 (g : Ctl) (o : VX)
  | sqrtF64 (g : Ctl) (o : VX)
  -- cross-lane (R288 to R291)
  | shflIdx (g : Ctl) (o : VX)
  | shflUp (g : Ctl) (o : VX)
  | shflDown (g : Ctl) (o : VX)
  | shflXor (g : Ctl) (o : VX)
  | voteAny (g : Ctl) (o : VX)
  | voteAll (g : Ctl) (o : VX)
  | voteBallot (g : Ctl) (o : VX)
  | voteEq (g : Ctl) (o : VX)
  | redl (g : Ctl) (o : VX)
  | scanl (g : Ctl) (o : VX)
  -- pair words (R266)
  | pairWord (sw : Bool) (l r : Compact)
  -- memory, atomics, barriers, horizon (R304 to R329)
  | ld (g : Ctl) (o : MG)
  | st (g : Ctl) (o : MG)
  | lds (g : Ctl) (o : MG)
  | sts (g : Ctl) (o : MG)
  | gather (g : Ctl) (o : MG)
  | scatter (g : Ctl) (o : MG)
  | uld (g : Ctl) (o : MG)
  | atom (g : Ctl) (o : MA)
  | atomn (g : Ctl) (o : MA)
  | cas (g : Ctl) (o : MA)
  | atoms (g : Ctl) (o : MA)
  | cass (g : Ctl) (o : MA)
  | fence (g : Ctl) (o : MB)
  | bind (g : Ctl) (o : MB)
  | unbind (g : Ctl) (o : MB)
  | acq (g : Ctl) (o : MB)
  | rel (g : Ctl) (o : MB)
  | binit (g : Ctl) (o : MB)
  | arrive (g : Ctl) (o : MB)
  | waitph (g : Ctl) (o : MB)
  | tryph (g : Ctl) (o : MB)
  | qwait (g : Ctl) (o : MB)
  | wake (g : Ctl) (o : MB)
  | waithz (g : Ctl) (o : MB)
  -- engines (R333 to R368)
  | cpy (g : Ctl) (o : EC)
  | cpy2 (g : Ctl) (o : ED)
  | cpyt (g : Ctl) (o : ED)
  | cpyg (g : Ctl) (o : ED)
  | tierp (g : Ctl) (o : EC)
  | tiere (g : Ctl) (o : EC)
  | wload (g : Ctl) (o : ED)
  | mtask (g : Ctl) (o : ED)
  | qcfg (g : Ctl) (o : ED)
  | commOpen (g : Ctl) (o : ED)
  | commClose (g : Ctl) (o : ED)
  | collRs (g : Ctl) (o : ED)
  | collAg (g : Ctl) (o : ED)
  | collAr (g : Ctl) (o : ED)
  | collBc (g : Ctl) (o : ED)
  | collBar (g : Ctl) (o : ED)
  | collSend (g : Ctl) (o : ED)
  | collRecv (g : Ctl) (o : ED)
  | rmoCas4 (g : Ctl) (o : ER)
  | rmoEnq (g : Ctl) (o : ER)
  | rmoChase (g : Ctl) (o : ER)
  | rst (g : Ctl) (o : ER)
  | rflush (g : Ctl) (o : ER)
  | matchArm (g : Ctl) (o : ED)
  -- control (R369 to R391, R330)
  | bra (g : Ctl) (o : CB)
  | brc (g : Ctl) (o : CB)
  | brx (g : Ctl) (o : CR)
  | call (g : Ctl) (o : CB)
  | ret (g : Ctl) (o : CR)
  | bhz (g : Ctl) (o : CB)
  | rcv (g : Ctl) (o : CN)
  | exit (g : Ctl) (o : CN)
  | yield (g : Ctl) (o : CN)
  | nop (g : Ctl) (o : CN)
  | prefi (g : Ctl) (o : CR)
  | pin (g : Ctl) (o : CR)
  | unpin (g : Ctl) (o : CR)
  | launch (g : Ctl) (o : CR)
  | fetchw (g : Ctl) (o : CR)
  | alloc (g : Ctl) (o : CN)
  | freea (g : Ctl) (o : CN)
  | shape (g : Ctl) (o : CR)
  | trap (g : Ctl) (o : CN)
  | rte (g : Ctl) (o : CR)
  | rdsr (g : Ctl) (o : SR)
  | wrsr (g : Ctl) (o : SR)
  | clauseHeader (h : Header)
  -- steps that units of the module take of their own accord
  | loadReturn (core wave : Nat) (num : HNum)
  | storeAccept (core wave : Nat) (num : HNum)
  | collierAtomic (core wave : Nat) (num : HNum)
  | barrierUpdate (core wave : Nat) (num : HNum)
  | collierLink (core wave : Nat) (num : HNum)
  | collierUnlink (core wave : Nat) (num : HNum)
  | heldOperationProceed (core wave : Nat) (num : HNum)
  | faultBufferEntry (core wave : Nat) (num : HNum)
  | rmoPerform (core wave : Nat) (num : HNum) (remote : Option (List Byte))
  | rmoResponse (core wave : Nat) (num : HNum)
  | failureRetry (core wave : Nat) (num : HNum)
  | horizonResolution (core wave : Nat)
  | heldLineDrain (core wave : Nat)
  | trapEntry (core wave : Nat)
  | waitphWake (core frag : Nat)
  | sfuComplete (core pos : Nat)
  | crossLaneComplete (core pos : Nat)
  | scratchpadLoadResult (core pos : Nat)
  | barrowLanding (core cmd : Nat)
  | wloadLatch (core : Nat)
  | kilnBoundary (core : Nat)
  | kilnTaskComplete (core : Nat)
  | allotmentGrant (core : Nat)
  | xinvComplete (core : Nat)
  | preemptionDrain (core slot : Nat)
  | drainComplete (core slot : Nat)
  | blockEnd (core slot : Nat)
  | remoteStorePerform (src : StoreSource)
  | remoteAck (core stream : Nat)
  | remoteAckTimer (core stream : Nat)
  | acknowledgementArrival (core stream : Nat) (count : Word)
  | groupRegistration (cluster pos : Nat)
  | hearthGateCheck (cluster pos : Nat)
  | hearthDispatch (cluster pos kiln : Nat)
  | bellowsChunk (die : Nat)
  | commOpenApply (die comm : Nat)
  | commCloseApply (die comm : Nat)
  | bellowsHeaderExchange (die comm : Nat) (others : List (Nat × CollHeader))
  | bellowsStepComplete (die comm : Nat) (others : List (Nat × List Byte))
  | launchEnd (launch : Nat)
  | blockPlacement (core : Nat)
  | contextStreamOut (core ctx : Nat)
  | contextRestore (core ctx : Nat)
  -- the Stoker and the host's posts
  | hostPost (queue : Nat) (record : List Byte)
  | stokerTake
  | priorityPreemptionRequest (launch core slot : Nat)
  | shapeNotification
  | shapeTimeout (launch : Nat)
  | fetchwDraw
  -- the Hearth, the Kiln and the Barrow
  | groupDispatch
  | hearthGateReread (cluster pos : Nat)
  -- operations of waves
  | faultStatusWrite (core entry : Nat) (status : Byte)
  -- core control, BAR0, contexts
  | xinvWrite (core : Nat) (value : DWord)
  | iinvWrite (core : Nat) (value : Word)
  | registerWrite (target : RegTarget) (value : DWord)
  | spclrWrite (value : Word)
  | preemptWrite (value : DWord)
  | restoreWrite (value : DWord)
  | eventRecordWrite
  | hostApertureWrite (off : Nat) (bytes : List Byte)
  | hostApertureRead (off len : Nat)
  | hostCompletion (core wave : Nat) (num : HNum) (answer : HostAnswer)
  | hostCompletionTimeout (core wave : Nat) (num : HNum)
  -- the Collier, the Bellows, the fabric
  | bellowsTimeout (die comm : Nat)
  | multicastAck (core stream : Nat) (bitmap members : DWord)
  | messageArrival (die node : Nat) (tag : Word) (data : List Byte)
  | flueTimeout (core wave : Nat) (num : HNum)
  | flitReceive (port : Nat) (flit : Flit)
  | keySwitchMarker (port : Nat) (receiving : Bool)
  | keyLoad (port : Nat) (receiving : Bool) (slot : Nat) (key : BitVec 256) (salt : Word) (id : Byte)
  | invctrThreshold (port : Nat)
  | linkRetrain (port : Nat)
  | cxlPortFail (port : Nat)
  | cxlRetrain (port : Nat)
  -- errors of the arrays
  | rfUncorrectableError (core wave : Nat) (part : RegPart)
  | backgroundScrub (core : Nat) (finding : ScrubFinding)
  | spadUncorrectableError (core slot word : Nat)
  | cacheUncorrectableError (unit : CacheUnit) (line : Nat)
  -- the Staram
  | opSet (mask : BitVec 8) (mhz : Nat)
  | capSet (watts : Nat)
  | dieGate (die : Nat)
  | dieWake (die : Nat)
  | countersRead (unit : CounterUnit) (clear : Bool)
  | telemetryRead
  | laneRetire (core lane : Nat)
  | fwUpdate (chunk : List Byte)
  | reportRead
  | powerMeasurement (powers : List Nat) (watts : Nat) (junctions : List Int)
  | ageingCheck (cluster birth now : Nat)
  | shadowLatchTrip (core : Nat) (lane : Option Nat)
  | getDigests
  | getCertificate
  | challenge (nonce : List Byte)
  | getMeasurements (nonce : List Byte)
  | powerUp
  -- what the units do of their own accord
  | cacheEviction (unit : CacheUnit) (line : Nat)
  | translationCacheDrop (unit : TlbUnit) (ctx page : Nat)
  | waveTermination (core wave : Nat)
  | hostLinkDown
  deriving DecidableEq, Repr

end Sys2Proof
end

