-- ==== Sys2Proof/Decode.lean ====
section
/-! DEFINITION. Decoding and encoding of instruction words and clause headers (R246 to R272), and
the field rules that R271 checks from the encoding alone. -/

namespace Sys2Proof

/-! ## Fields of the formats, from bits [49:0] of a word -/

/-- R253. -/
def VX.ofBits (x : BitVec 50) : VX :=
  { d := x.extractLsb' 42 8, a := x.extractLsb' 34 8, b := x.extractLsb' 26 8,
    c := x.extractLsb' 18 8, bk := x.extractLsb' 16 2, rm := x.extractLsb' 14 2,
    sat := x.getLsbD 13, t := x.extractLsb' 9 4, t2 := x.extractLsb' 5 4,
    mode := x.extractLsb' 0 5 }

/-- R254. -/
def VI.ofBits (x : BitVec 50) : VI :=
  { d := x.extractLsb' 42 8, imm := x.extractLsb' 10 32, rsv := x.extractLsb' 0 10 }

/-- R255. -/
def UN.ofBits (x : BitVec 50) : UN :=
  { d := x.extractLsb' 42 8, a := x.extractLsb' 34 8, bk := x.extractLsb' 32 2,
    b := x.extractLsb' 24 8, c := x.extractLsb' 16 8, rsv := x.extractLsb' 5 11,
    mode := x.extractLsb' 0 5 }

/-- R256. -/
def MG.ofBits (x : BitVec 50) : MG :=
  { d := x.extractLsb' 42 8, base := x.extractLsb' 38 4, bs := x.getLsbD 37,
    ik := x.extractLsb' 35 2, idx := x.extractLsb' 27 8, sc := x.extractLsb' 25 2,
    sz := x.extractLsb' 22 3, sx := x.getLsbD 21, disp := x.extractLsb' 0 21 }

/-- R257. -/
def MA.ofBits (x : BitVec 50) : MA :=
  { d := x.extractLsb' 42 8, s := x.extractLsb' 34 8, k := x.extractLsb' 26 8,
    base := x.extractLsb' 22 4, bs := x.getLsbD 21, ik := x.extractLsb' 19 2,
    idx := x.extractLsb' 11 8, sc := x.extractLsb' 9 2, aop := x.extractLsb' 5 4,
    ord := x.extractLsb' 3 2, w64 := x.getLsbD 2, rsv := x.extractLsb' 0 2 }

/-- R258. -/
def MB.ofBits (x : BitVec 50) : MB :=
  { spc := x.getLsbD 49, obj := x.extractLsb' 29 20, low := x.extractLsb' 0 29 }

/-- R259. -/
def EC.ofBits (x : BitVec 50) : EC :=
  { dst := x.extractLsb' 33 17, src := x.extractLsb' 28 5, bar := x.extractLsb' 11 17,
    len := x.extractLsb' 0 11 }

/-- R260. -/
def ED.ofBits (x : BitVec 50) : ED :=
  { desc := x.extractLsb' 33 17, aux := x.extractLsb' 28 5, bar := x.extractLsb' 11 17,
    rsv := x.extractLsb' 5 6, pri := x.getLsbD 4, comm := x.extractLsb' 0 4 }

/-- R261. -/
def ER.ofBits (x : BitVec 50) : ER :=
  { reg := x.extractLsb' 42 8, base := x.extractLsb' 38 4, ik := x.extractLsb' 36 2,
    idx := x.extractLsb' 28 8, stream := x.extractLsb' 24 4, fl := x.getLsbD 23,
    w64 := x.getLsbD 22, rsv := x.extractLsb' 17 5, desc := x.extractLsb' 0 17 }

/-- R262. -/
def CB.ofBits (x : BitVec 50) : CB :=
  { off := x.extractLsb' 20 30, token := x.extractLsb' 12 8, p := x.extractLsb' 9 3,
    pn := x.getLsbD 8, ht := x.getLsbD 7, link := x.extractLsb' 3 4,
    rsv := x.extractLsb' 0 3 }

/-- R263. -/
def CR.ofBits (x : BitVec 50) : CR :=
  { a := x.extractLsb' 46 4, low := x.extractLsb' 0 46 }

/-- R264. -/
def CN.ofBits (x : BitVec 50) : CN := { low := x }

/-- R265. -/
def SR.ofBits (x : BitVec 50) : SR :=
  { reg := x.extractLsb' 42 8, uk := x.getLsbD 41, num := x.extractLsb' 33 8,
    sel := x.extractLsb' 26 7, rsv := x.extractLsb' 0 26 }

/-- R266: one half, of 31 bits. -/
def Compact.ofBits (x : BitVec 31) : Compact :=
  { cop := x.extractLsb' 26 5, d := x.extractLsb' 18 8, a := x.extractLsb' 10 8,
    b := x.extractLsb' 2 8, bu := x.getLsbD 1, rsv := x.getLsbD 0 }

/-- R247. -/
def Header.ofBits (w : DWord) : Header :=
  { tag := w.extractLsb' 60 4, cls := w.extractLsb' 57 3, count := w.extractLsb' 53 4,
    ldw := w.extractLsb' 47 6, stw := w.extractLsb' 41 6, engw := w.extractLsb' 37 4,
    hzw := w.extractLsb' 31 6, rsv := w.extractLsb' 0 31 }

/-- Bits [63] and [53:50] (R249). -/
def Ctl.ofWord (w : DWord) : Ctl :=
  { sw := w.getLsbD 63, gp := w.extractLsb' 51 3, gn := w.getLsbD 50 }

/-! ## The opcode map (R268) -/

/-- The four shuffles share opcode 0x90, and MOD[1:0] selects one (R269, R288). -/
def shflOfMode (m : BitVec 2) (g : Ctl) (o : VX) : Instr :=
  match m.toNat with
  | 0 => .shflIdx g o
  | 1 => .shflUp g o
  | 2 => .shflDown g o
  | _ => .shflXor g o

/-- The four votes share opcode 0x91, and MOD[1:0] selects one (R269, R289). -/
def voteOfMode (m : BitVec 2) (g : Ctl) (o : VX) : Instr :=
  match m.toNat with
  | 0 => .voteAny g o
  | 1 => .voteAll g o
  | 2 => .voteBallot g o
  | _ => .voteEq g o

/-- The instruction an opcode names, with its fields as they stand; none for a dash of the map. -/
def ofOpcode (op : Nat) (g : Ctl) (w : DWord) : Option Instr :=
  let x : BitVec 50 := w.extractLsb' 0 50
  match op with
  | 0x00 => some (.umov g (UN.ofBits x))
  | 0x01 => some (.umovi g (UN.ofBits x))
  | 0x02 => some (.uadd g (UN.ofBits x))
  | 0x03 => some (.usub g (UN.ofBits x))
  | 0x04 => some (.umul g (UN.ofBits x))
  | 0x05 => some (.umulh g (UN.ofBits x))
  | 0x06 => some (.uand g (UN.ofBits x))
  | 0x07 => some (.uor g (UN.ofBits x))
  | 0x08 => some (.uxor g (UN.ofBits x))
  | 0x09 => some (.ushl g (UN.ofBits x))
  | 0x0A => some (.ushr g (UN.ofBits x))
  | 0x0B => some (.usra g (UN.ofBits x))
  | 0x0C => some (.umin g (UN.ofBits x))
  | 0x0D => some (.umax g (UN.ofBits x))
  | 0x0E => some (.ucmp g (UN.ofBits x))
  | 0x0F => some (.usel g (UN.ofBits x))
  | 0x10 => some (.addpc g (UN.ofBits x))
  | 0x11 => some (.aadd g (UN.ofBits x))
  | 0x12 => some (.aset g (UN.ofBits x))
  | 0x13 => some (.acpy g (UN.ofBits x))
  | 0x14 => some (.aget g (UN.ofBits x))
  | 0x15 => some (.rdhz g (UN.ofBits x))
  | 0x20 => some (.mov g (VX.ofBits x))
  | 0x21 => some (.movi g (VI.ofBits x))
  | 0x22 => some (.iadd g (VX.ofBits x))
  | 0x23 => some (.isub g (VX.ofBits x))
  | 0x24 => some (.imul g (VX.ofBits x))
  | 0x25 => some (.imulh g (VX.ofBits x))
  | 0x26 => some (.imulhu g (VX.ofBits x))
  | 0x27 => some (.imad g (VX.ofBits x))
  | 0x28 => some (.imin g (VX.ofBits x))
  | 0x29 => some (.imax g (VX.ofBits x))
  | 0x2A => some (.iminu g (VX.ofBits x))
  | 0x2B => some (.imaxu g (VX.ofBits x))
  | 0x2C => some (.iabs g (VX.ofBits x))
  | 0x2D => some (.ineg g (VX.ofBits x))
  | 0x2E => some (.and g (VX.ofBits x))
  | 0x2F => some (.or g (VX.ofBits x))
  | 0x30 => some (.xor g (VX.ofBits x))
  | 0x31 => some (.not g (VX.ofBits x))
  | 0x32 => some (.ishl g (VX.ofBits x))
  | 0x33 => some (.ishr g (VX.ofBits x))
  | 0x34 => some (.isra g (VX.ofBits x))
  | 0x35 => some (.irol g (VX.ofBits x))
  | 0x36 => some (.popc g (VX.ofBits x))
  | 0x37 => some (.clz g (VX.ofBits x))
  | 0x38 => some (.brev g (VX.ofBits x))
  | 0x39 => some (.bfe g (VX.ofBits x))
  | 0x3A => some (.bfi g (VX.ofBits x))
  | 0x3B => some (.sel g (VX.ofBits x))
  | 0x3C => some (.icmp g (VX.ofBits x))
  | 0x3D => some (.idot4 g (VX.ofBits x))
  | 0x3E => some (.idot2 g (VX.ofBits x))
  | 0x3F => some (.plop g (VX.ofBits x))
  | 0x40 => some (.fadd g (VX.ofBits x))
  | 0x41 => some (.fsub g (VX.ofBits x))
  | 0x42 => some (.fmul g (VX.ofBits x))
  | 0x43 => some (.ffma g (VX.ofBits x))
  | 0x44 => some (.fmin g (VX.ofBits x))
  | 0x45 => some (.fmax g (VX.ofBits x))
  | 0x46 => some (.fabs g (VX.ofBits x))
  | 0x47 => some (.fneg g (VX.ofBits x))
  | 0x48 => some (.fcmp g (VX.ofBits x))
  | 0x49 => some (.fclass g (VX.ofBits x))
  | 0x4A => some (.frnd g (VX.ofBits x))
  | 0x50 => some (.faddF64 g (VX.ofBits x))
  | 0x51 => some (.fsubF64 g (VX.ofBits x))
  | 0x52 => some (.fmulF64 g (VX.ofBits x))
  | 0x53 => some (.ffmaF64 g (VX.ofBits x))
  | 0x54 => some (.fminF64 g (VX.ofBits x))
  | 0x55 => some (.fmaxF64 g (VX.ofBits x))
  | 0x56 => some (.fabsF64 g (VX.ofBits x))
  | 0x57 => some (.fnegF64 g (VX.ofBits x))
  | 0x58 => some (.fcmpF64 g (VX.ofBits x))
  | 0x59 => some (.fclassF64 g (VX.ofBits x))
  | 0x5A => some (.frndF64 g (VX.ofBits x))
  | 0x60 => some (.faddF16 g (VX.ofBits x))
  | 0x61 => some (.fsubF16 g (VX.ofBits x))
  | 0x62 => some (.fmulF16 g (VX.ofBits x))
  | 0x63 => some (.ffmaF16 g (VX.ofBits x))
  | 0x64 => some (.fminF16 g (VX.ofBits x))
  | 0x65 => some (.fmaxF16 g (VX.ofBits x))
  | 0x66 => some (.fabsF16 g (VX.ofBits x))
  | 0x67 => some (.fnegF16 g (VX.ofBits x))
  | 0x68 => some (.fcmpF16 g (VX.ofBits x))
  | 0x69 => some (.fclassF16 g (VX.ofBits x))
  | 0x6A => some (.frndF16 g (VX.ofBits x))
  | 0x70 => some (.faddBf16 g (VX.ofBits x))
  | 0x71 => some (.fsubBf16 g (VX.ofBits x))
  | 0x72 => some (.fmulBf16 g (VX.ofBits x))
  | 0x73 => some (.ffmaBf16 g (VX.ofBits x))
  | 0x74 => some (.fminBf16 g (VX.ofBits x))
  | 0x75 => some (.fmaxBf16 g (VX.ofBits x))
  | 0x76 => some (.fabsBf16 g (VX.ofBits x))
  | 0x77 => some (.fnegBf16 g (VX.ofBits x))
  | 0x78 => some (.fcmpBf16 g (VX.ofBits x))
  | 0x79 => some (.fclassBf16 g (VX.ofBits x))
  | 0x7A => some (.frndBf16 g (VX.ofBits x))
  | 0x80 => some (.cvt g (VX.ofBits x))
  | 0x81 => some (.pack g (VX.ofBits x))
  | 0x82 => some (.rcp g (VX.ofBits x))
  | 0x83 => some (.rsq g (VX.ofBits x))
  | 0x84 => some (.sqrt g (VX.ofBits x))
  | 0x85 => some (.exp2 g (VX.ofBits x))
  | 0x86 => some (.log2 g (VX.ofBits x))
  | 0x87 => some (.sin g (VX.ofBits x))
  | 0x88 => some (.cos g (VX.ofBits x))
  | 0x89 => some (.tanh g (VX.ofBits x))
  | 0x8A => some (.rcpF64 g (VX.ofBits x))
  | 0x8B => some (.sqrtF64 g (VX.ofBits x))
  | 0x90 => some (shflOfMode (w.extractLsb' 0 2) g (VX.ofBits x))
  | 0x91 => some (voteOfMode (w.extractLsb' 0 2) g (VX.ofBits x))
  | 0x92 => some (.redl g (VX.ofBits x))
  | 0x93 => some (.scanl g (VX.ofBits x))
  | 0xA0 => some (.ld g (MG.ofBits x))
  | 0xA1 => some (.st g (MG.ofBits x))
  | 0xA2 => some (.lds g (MG.ofBits x))
  | 0xA3 => some (.sts g (MG.ofBits x))
  | 0xA4 => some (.gather g (MG.ofBits x))
  | 0xA5 => some (.scatter g (MG.ofBits x))
  | 0xA6 => some (.uld g (MG.ofBits x))
  | 0xA7 => some (.atom g (MA.ofBits x))
  | 0xA8 => some (.atomn g (MA.ofBits x))
  | 0xA9 => some (.cas g (MA.ofBits x))
  | 0xAA => some (.atoms g (MA.ofBits x))
  | 0xAB => some (.cass g (MA.ofBits x))
  | 0xAC => some (.fence g (MB.ofBits x))
  | 0xAD => some (.bind g (MB.ofBits x))
  | 0xAE => some (.unbind g (MB.ofBits x))
  | 0xAF => some (.acq g (MB.ofBits x))
  | 0xB0 => some (.rel g (MB.ofBits x))
  | 0xB1 => some (.binit g (MB.ofBits x))
  | 0xB2 => some (.arrive g (MB.ofBits x))
  | 0xB3 => some (.waitph g (MB.ofBits x))
  | 0xB4 => some (.tryph g (MB.ofBits x))
  | 0xB5 => some (.qwait g (MB.ofBits x))
  | 0xB6 => some (.wake g (MB.ofBits x))
  | 0xB7 => some (.waithz g (MB.ofBits x))
  | 0xC8 => some (.cpy g (EC.ofBits x))
  | 0xC9 => some (.cpy2 g (ED.ofBits x))
  | 0xCA => some (.cpyt g (ED.ofBits x))
  | 0xCB => some (.cpyg g (ED.ofBits x))
  | 0xCC => some (.tierp g (EC.ofBits x))
  | 0xCD => some (.tiere g (EC.ofBits x))
  | 0xCE => some (.wload g (ED.ofBits x))
  | 0xCF => some (.mtask g (ED.ofBits x))
  | 0xD0 => some (.qcfg g (ED.ofBits x))
  | 0xD1 => some (.commOpen g (ED.ofBits x))
  | 0xD2 => some (.commClose g (ED.ofBits x))
  | 0xD3 => some (.collRs g (ED.ofBits x))
  | 0xD4 => some (.collAg g (ED.ofBits x))
  | 0xD5 => some (.collAr g (ED.ofBits x))
  | 0xD6 => some (.collBc g (ED.ofBits x))
  | 0xD7 => some (.collBar g (ED.ofBits x))
  | 0xD8 => some (.collSend g (ED.ofBits x))
  | 0xD9 => some (.collRecv g (ED.ofBits x))
  | 0xDA => some (.rmoCas4 g (ER.ofBits x))
  | 0xDB => some (.rmoEnq g (ER.ofBits x))
  | 0xDC => some (.rmoChase g (ER.ofBits x))
  | 0xDD => some (.rst g (ER.ofBits x))
  | 0xDE => some (.rflush g (ER.ofBits x))
  | 0xDF => some (.matchArm g (ED.ofBits x))
  | 0xE4 => some (.bra g (CB.ofBits x))
  | 0xE5 => some (.brc g (CB.ofBits x))
  | 0xE6 => some (.brx g (CR.ofBits x))
  | 0xE7 => some (.call g (CB.ofBits x))
  | 0xE8 => some (.ret g (CR.ofBits x))
  | 0xE9 => some (.bhz g (CB.ofBits x))
  | 0xEA => some (.rcv g (CN.ofBits x))
  | 0xEB => some (.exit g (CN.ofBits x))
  | 0xEC => some (.yield g (CN.ofBits x))
  | 0xED => some (.nop g (CN.ofBits x))
  | 0xEE => some (.prefi g (CR.ofBits x))
  | 0xEF => some (.pin g (CR.ofBits x))
  | 0xF0 => some (.unpin g (CR.ofBits x))
  | 0xF1 => some (.launch g (CR.ofBits x))
  | 0xF2 => some (.fetchw g (CR.ofBits x))
  | 0xF3 => some (.alloc g (CN.ofBits x))
  | 0xF4 => some (.freea g (CN.ofBits x))
  | 0xF5 => some (.shape g (CR.ofBits x))
  | 0xF6 => some (.trap g (CN.ofBits x))
  | 0xF7 => some (.rte g (CR.ofBits x))
  | 0xF8 => some (.rdsr g (SR.ofBits x))
  | 0xF9 => some (.wrsr g (SR.ofBits x))
  | _ => none

/-- The instruction of a word, before any check of its fields (R249). -/
def ofWord (w : DWord) : Option Instr :=
  if w.getLsbD 62 then
    some (.pairWord (w.getLsbD 63) (Compact.ofBits (w.extractLsb' 31 31))
      (Compact.ofBits (w.extractLsb' 0 31)))
  else ofOpcode (w.extractLsb' 54 8).toNat (Ctl.ofWord w) w

/-! ## Classes (R17, R250) -/

/-- The classes of clauses and of instructions. -/
inductive Cls where
  | uniform | vector | memory | engine | control | mixed
  deriving DecidableEq, Repr

/-- Header bits [59:57]; the codes 0b110 and 0b111 are reserved (R17). -/
def Cls.ofCode (c : BitVec 3) : Option Cls :=
  match c.toNat with
  | 0 => some .uniform
  | 1 => some .vector
  | 2 => some .memory
  | 3 => some .engine
  | 4 => some .control
  | 5 => some .mixed
  | _ => none

/-- The class of an opcode (R250). -/
def Cls.ofOpcode (op : Nat) : Cls :=
  if op < 0x20 then .uniform
  else if op < 0xA0 then .vector
  else if op < 0xC8 then .memory
  else if op < 0xE4 then .engine
  else .control

/-- The class of a word; a pair word belongs to the vector class (R249, R250). -/
def Cls.ofWord (w : DWord) : Cls :=
  if w.getLsbD 62 then .vector else Cls.ofOpcode (w.extractLsb' 54 8).toNat

/-- A single-class clause admits its own class, a mixed clause every class (R17). -/
def Cls.admits (clause word : Cls) : Bool := clause == .mixed || clause == word

/-- BRA, BRC, BRX, CALL, RET and BHZ stand last in their clause (R271 item 1). -/
def wordEndsClause (w : DWord) : Bool :=
  !w.getLsbD 62 && (0xE4 ≤ (w.extractLsb' 54 8).toNat && (w.extractLsb' 54 8).toNat ≤ 0xE9)

/-! ## Immediates and small decoded values -/

/-- IMM16 of a VX word with BK = 2, bits [33:18] (R253). -/
def VX.imm16 (o : VX) : BitVec 16 := o.b ++ o.c

/-- IMM32 of a UN word with BK = 2, bits [31:0] (R255). -/
def UN.imm32 (o : UN) : BitVec 32 := o.b ++ o.c ++ o.rsv ++ o.mode

/-! ## Field rules that the encoding alone decides (R252, R269, R270, R271, R295, R315, R335, R393) -/

/-- What an opcode's row of R269 says about the fields of format VX. -/
structure VXUse where
  a : Bool := false
  b : Bool := true
  c : Bool := false
  maxBk : Nat := 2
  rm : Bool := false
  sat : Bool := false
  fmts : Bool := false
  dPred : Bool := false
  deriving DecidableEq, Repr

/-- The rules shared by every VX word: unused fields are 0, BK is admitted, an s-register code
has bit [7] clear, a predicate field has bits [7:3] clear. -/
def VX.fits (u : VXUse) (o : VX) : Bool :=
  decide (o.bk.toNat ≤ u.maxBk)
    && (u.a || o.a == 0)
    && (u.b || o.b == 0)
    && (u.c || o.bk == 2 || o.c == 0)
    && (o.bk != 1 || !o.b.getLsbD 7)
    && (u.rm || o.rm == 0)
    && (u.sat || !o.sat)
    && (u.fmts || (o.t == 0 && o.t2 == 0))
    && (!u.dPred || decide (o.d.toNat < 8))

/-- A uniform FP64 source is a pair that begins at an even s-register (R273 item 3). -/
def VX.uniPairOk (o : VX) : Bool := o.bk != 1 || !o.b.getLsbD 0

/-- The formats that stand as a vector operand (R54). -/
def isVectorFmt (t : BitVec 4) : Bool := decide (t.toNat < 8) || t == 14 || t == 15

/-- The formats that stand as a conversion output (R54). -/
def isConvFmt (t : BitVec 4) : Bool := decide (t.toNat < 11) || t == 14 || t == 15

/-- CVT pairs and source elements (R270). -/
def VX.cvtOk (o : VX) : Bool :=
  isVectorFmt o.t2 && isConvFmt o.t && o.t != o.t2 && decide (o.mode.toNat < 4)
    && (!(o.t2 == 0 || o.t2 == 1 || o.t2 == 14 || o.t2 == 15) || o.mode == 0)
    && (!(o.t2 == 2 || o.t2 == 3 || o.t2 == 6) || decide (o.mode.toNat < 2))
    && (o.t2 != 0 || o.uniPairOk)

/-- PACK formats and placement (R269, R284). -/
def VX.packOk (o : VX) : Bool :=
  (o.t2 == 1 || o.t2 == 14) && decide (2 ≤ o.t.toNat) && decide (o.t.toNat < 8)
    && (o.mode == 0 || (o.mode == 1 && (o.t == 4 || o.t == 5 || o.t == 7)))

/-- REDL and SCANL functions and types (R269, R270, R291). -/
def VX.redOk (o : VX) (excl : Bool) : Bool :=
  (o.t == 0 || o.t == 1 || o.t == 14 || o.t == 15) && o.t2 == 0
    && decide ((o.mode.extractLsb' 0 3).toNat < 6)
    && (!(o.t == 0 || o.t == 1) || decide ((o.mode.extractLsb' 0 3).toNat < 3))
    && !o.mode.getLsbD 4 && (excl || !o.mode.getLsbD 3)

/-- A uniform code that names an s-register (R251). -/
def isSCode (c : BitVec 8) : Bool := !c.getLsbD 7

/-- A uniform code that names an a-register (R251). -/
def isACode (c : BitVec 8) : Bool := c.extractLsb' 4 4 == 8

/-- The kinds a UN field can have. -/
inductive UKind where
  | none | s | a
  deriving DecidableEq, Repr

def UKind.ok (k : UKind) (c : BitVec 8) : Bool :=
  match k with
  | .none => c == 0
  | .s => isSCode c
  | .a => isACode c

/-- What an opcode's row of R269 says about the fields of format UN. -/
structure UNUse where
  d : UKind := .s
  a : UKind := .s
  b : UKind := .s
  c : UKind := .none
  reg : Bool := true
  imm : Bool := true
  maxMode : Nat := 0
  deriving DecidableEq, Repr

/-- The rules of UN words (R255, R269, R277). -/
def UN.fits (u : UNUse) (o : UN) : Bool :=
  u.d.ok o.d && u.a.ok o.a
    && ((u.imm && o.bk == 2)
      || (u.reg && o.bk == 0 && u.b.ok o.b && u.c.ok o.c && o.rsv == 0
        && decide (o.mode.toNat ≤ u.maxMode)))

/-- MG rules shared by all rows (R256, R304): sizes, index kinds, no base register with BS = 1. -/
def MG.fits (o : MG) (signed : Bool) : Bool :=
  decide (o.sz.toNat ≤ 4) && o.ik != 3 && (!o.bs || o.base == 0)
    && (!o.sx || (signed && decide (o.sz.toNat ≤ 1)))

/-- GATHER and SCATTER (R307). -/
def MG.gatherOk (o : MG) : Bool :=
  o.ik == 1 && o.bs && o.sc == 0 && !o.idx.getLsbD 0

/-- ULD (R308). -/
def MG.uldOk (o : MG) : Bool :=
  !o.bs && (o.ik == 0 || o.ik == 2) && (o.sz == 2 || o.sz == 3)
    && (isACode o.d || (isSCode o.d && o.sz == 2))

/-- MA rules (R257, R315). -/
def MA.fits (o : MA) (useD useK useOp : Bool) : Bool :=
  o.rsv == 0 && decide (o.ik.toNat ≤ 1) && (!o.bs || o.base == 0)
    && (useD || o.d == 0) && (useK || o.k == 0)
    && (if useOp then decide (o.aop.toNat ≤ 9) else o.aop == 0)

/-- The scratchpad offset of a barrier operand, or b_allot where the opcode reads it (R258). -/
def MB.objOk (o : MB) (allot : Bool) : Bool :=
  !o.spc || decide (o.obj.toNat ≤ 786431) || (allot && o.obj == 0xFFFF0)

/-- A location field of EC, ED and ER (R259). -/
def locOk (l : BitVec 17) : Bool :=
  if l.getLsbD 16 then decide ((l.extractLsb' 0 16).toNat ≤ 49151) else l.extractLsb' 0 11 == 0

/-- A location field that names a global address (L[16] = 0, AS = 0). -/
def locIsGlobal (l : BitVec 17) : Bool := !l.getLsbD 16 && !l.getLsbD 11

/-- LEN of EC (R259, R335). -/
def EC.lenOk (o : EC) : Bool :=
  if o.len.getLsbD 10 then o.len.extractLsb' 7 3 == 0 else o.len.extractLsb' 0 10 != 0

def EC.fits (o : EC) : Bool := o.lenOk && locOk o.dst && locOk o.bar

/-- What an opcode's row of R269 says about the fields of format ED. -/
def ED.fits (o : ED) (desc bar aux comm pri : Bool) : Bool :=
  o.rsv == 0 && (if desc then locOk o.desc else o.desc == 0)
    && (if bar then locOk o.bar else o.bar == 0)
    && (if aux then o.aux.getLsbD 4 || o.aux == 0 else o.aux == 0)
    && (comm || o.comm == 0) && (pri || !o.pri)

/-- ER rules of the RMO operations (R261, R269, R335). -/
def ER.rmoOk (o : ER) : Bool :=
  o.rsv == 0 && decide (o.ik.toNat ≤ 1) && o.stream == 0 && !o.fl && !o.w64 && locOk o.desc
    && !locIsGlobal o.desc

/-- The guard of a word: GP = 0 with GN = 1 is not allowed (R22, R271 item 2). -/
def Ctl.ok (g : Ctl) : Bool := g.gp != 0 || !g.gn

/-- Bits [53:50] are 0 where the operation acts on the whole fragment (R269). -/
def Ctl.none (g : Ctl) : Bool := g.gp == 0 && !g.gn

/-- COPs with one source, which read B and hold A = 0 (R266). -/
def copOneSource (c : BitVec 5) : Bool :=
  c == 0 || (decide (21 ≤ c.toNat) && decide (c.toNat ≤ 28)) || c == 31

def Compact.fits (h : Compact) : Bool :=
  !h.rsv && (!h.bu || !h.b.getLsbD 7) && (!copOneSource h.cop || h.a == 0)

/-- The rule of R271 item 2 for each instruction: false where a reserved field is nonzero or a
value is not allowed. The odd register of an ACQ or REL with VK = 1 is such a value, with SUB 2: R258 says that it is even,
and no rule names its sub-code (DESIGN CHOICE, log 34). A step that no word makes has no fields of this kind. -/
def Instr.fieldsOk : Instr → Bool
  | .umov g o => g.ok && o.fits { a := .none, imm := false }
  | .umovi g o => g.ok && o.fits { a := .none, reg := false }
  | .uadd g o | .usub g o | .umul g o | .uand g o | .uor g o | .uxor g o | .ushl g o
  | .ushr g o | .usra g o => g.ok && o.fits {}
  | .umulh g o | .umin g o | .umax g o => g.ok && o.fits { maxMode := 1 }
  | .ucmp g o => g.ok && o.fits { imm := false, maxMode := 9 }
  | .usel g o => g.ok && o.fits { c := .s, imm := false }
  | .addpc g o => g.ok && o.fits { d := .a, a := .none, reg := false }
  | .aadd g o => g.ok && o.fits { d := .a, a := .a }
  | .aset g o => g.ok && o.fits { d := .a, imm := false }
  | .acpy g o => g.ok && o.fits { d := .a, a := .a, b := .none, imm := false }
  | .aget g o => g.ok && o.fits { a := .a, b := .none, imm := false, maxMode := 1 }
  | .rdhz g o => g.ok && o.fits { a := .none, b := .none, imm := false }
  | .mov g o | .not g o | .popc g o | .clz g o | .brev g o => g.ok && o.fits {} && o.mode == 0
  | .movi g o => g.ok && o.rsv == 0
  | .iadd g o | .isub g o | .imul g o => g.ok && o.fits { a := true, sat := true } && o.mode == 0
  | .imulh g o | .imulhu g o | .imin g o | .imax g o | .iminu g o | .imaxu g o | .and g o
  | .or g o | .xor g o | .ishl g o | .ishr g o | .isra g o | .irol g o =>
    g.ok && o.fits { a := true } && o.mode == 0
  | .iabs g o | .ineg g o => g.ok && o.fits { sat := true } && o.mode == 0
  | .imad g o | .bfe g o | .bfi g o =>
    g.ok && o.fits { a := true, c := true, maxBk := 1 } && o.mode == 0
  | .sel g o =>
    g.ok && o.fits { a := true, c := true, maxBk := 1 } && o.c.extractLsb' 4 4 == 0 && o.mode == 0
  | .icmp g o => g.ok && o.fits { a := true, dPred := true } && decide (o.mode.toNat ≤ 9)
  | .idot4 g o | .idot2 g o =>
    g.ok && o.fits { a := true, c := true, maxBk := 1, sat := true } && o.mode == 0
  | .plop g o =>
    g.ok && o.fits { a := true, maxBk := 0, dPred := true } && decide (o.a.toNat < 8)
      && decide (o.b.toNat < 8) && !o.mode.getLsbD 4
  | .fadd g o | .fsub g o | .fmul g o | .faddF16 g o | .fsubF16 g o | .fmulF16 g o
  | .faddBf16 g o | .fsubBf16 g o | .fmulBf16 g o =>
    g.ok && o.fits { a := true, rm := true } && o.mode == 0
  | .faddF64 g o | .fsubF64 g o | .fmulF64 g o =>
    g.ok && o.fits { a := true, rm := true } && o.mode == 0 && o.uniPairOk
  | .ffma g o | .ffmaF16 g o | .ffmaBf16 g o =>
    g.ok && o.fits { a := true, c := true, maxBk := 1, rm := true } && o.mode == 0
  | .ffmaF64 g o =>
    g.ok && o.fits { a := true, c := true, maxBk := 1, rm := true } && o.mode == 0 && o.uniPairOk
  | .fmin g o | .fmax g o | .fminF16 g o | .fmaxF16 g o | .fminBf16 g o | .fmaxBf16 g o =>
    g.ok && o.fits { a := true } && o.mode == 0
  | .fminF64 g o | .fmaxF64 g o => g.ok && o.fits { a := true } && o.mode == 0 && o.uniPairOk
  | .fabs g o | .fneg g o | .fclass g o | .fabsF16 g o | .fnegF16 g o | .fclassF16 g o
  | .fabsBf16 g o | .fnegBf16 g o | .fclassBf16 g o => g.ok && o.fits {} && o.mode == 0
  | .fabsF64 g o | .fnegF64 g o | .fclassF64 g o =>
    g.ok && o.fits {} && o.mode == 0 && o.uniPairOk
  | .frnd g o | .frndF16 g o | .frndBf16 g o => g.ok && o.fits { rm := true } && o.mode == 0
  | .frndF64 g o => g.ok && o.fits { rm := true } && o.mode == 0 && o.uniPairOk
  | .fcmp g o => g.ok && o.fits { a := true, dPred := true } && decide (o.mode.toNat ≤ 7)
  | .fcmpF64 g o =>
    g.ok && o.fits { a := true, dPred := true } && decide (o.mode.toNat ≤ 7) && o.uniPairOk
  | .fcmpF16 g o | .fcmpBf16 g o => g.ok && o.fits { a := true, dPred := true } && !o.mode.getLsbD 3
  | .cvt g o => g.ok && o.fits { rm := true, sat := true, fmts := true } && o.cvtOk
  | .pack g o =>
    g.ok && o.fits { a := true, maxBk := 1, rm := true, sat := true, fmts := true } && o.packOk
  | .rcp g o | .rsq g o | .sqrt g o | .exp2 g o | .log2 g o | .sin g o | .cos g o | .tanh g o =>
    g.ok && o.fits {} && o.mode == 0
  | .rcpF64 g o | .sqrtF64 g o => g.ok && o.fits {} && o.mode == 0 && o.uniPairOk
  | .shflIdx g o => g.ok && o.fits { a := true } && o.mode == 0
  | .shflUp g o => g.ok && o.fits { a := true } && o.mode == 1
  | .shflDown g o => g.ok && o.fits { a := true } && o.mode == 2
  | .shflXor g o => g.ok && o.fits { a := true } && o.mode == 3
  | .voteAny g o =>
    g.ok && o.fits { a := true, b := false, maxBk := 0, dPred := true } && decide (o.a.toNat < 8)
      && o.mode == 0
  | .voteAll g o =>
    g.ok && o.fits { a := true, b := false, maxBk := 0, dPred := true } && decide (o.a.toNat < 8)
      && o.mode == 1
  | .voteBallot g o =>
    g.ok && o.fits { a := true, b := false, maxBk := 0 } && decide (o.a.toNat < 8)
      && !o.d.getLsbD 0 && o.mode == 2
  | .voteEq g o =>
    g.ok && o.fits { a := true, b := false, maxBk := 0, dPred := true } && o.mode == 3
  | .redl g o =>
    g.ok && o.fits { a := true, b := false, maxBk := 0, fmts := true } && o.redOk false
  | .scanl g o =>
    g.ok && o.fits { a := true, b := false, maxBk := 0, fmts := true } && o.redOk true
  | .pairWord _ l r => l.fits && r.fits
  | .ld g o => g.ok && o.fits true && !o.bs
  | .st g o => g.ok && o.fits false && !o.bs
  | .lds g o => g.ok && o.fits true
  | .sts g o => g.ok && o.fits false
  | .gather g o => g.ok && o.fits true && o.gatherOk
  | .scatter g o => g.ok && o.fits false && o.gatherOk
  | .uld g o => g.ok && o.fits false && o.uldOk
  | .atom g o | .atoms g o => g.ok && o.fits true false true
  | .atomn g o => g.ok && o.fits false false true
  | .cas g o | .cass g o => g.ok && o.fits true true false
  | .fence g o | .waithz g o => g.ok && !o.spc && o.obj == 0 && o.low == 0
  | .bind g o | .unbind g o => g.ok && o.objOk false && o.low.extractLsb' 0 3 == 0
  | .acq g o | .rel g o =>
    g.ok && o.objOk false
      && (if o.low.getLsbD 28 then !o.low.getLsbD 20 else o.low.extractLsb' 20 8 == 0)
      && o.low.extractLsb' 12 8 == 0 && o.low.extractLsb' 0 11 == 0
  | .binit g o => g.ok && o.objOk false && (!o.low.getLsbD 28 || o.low.extractLsb' 0 14 == 0)
  | .arrive g o =>
    g.ok && o.objOk false && (o.low.getLsbD 28 || o.low.extractLsb' 12 16 == 0)
      && o.low.extractLsb' 0 3 == 0
  | .waitph g o =>
    g.ok && o.objOk true
      && (if o.low.getLsbD 28 then o.low.extractLsb' 0 21 == 0 else o.low.extractLsb' 0 12 == 0)
  | .tryph g o =>
    g.ok && o.objOk true && o.low.extractLsb' 0 9 == 0
      && (!o.low.getLsbD 28 || o.low.extractLsb' 12 9 == 0)
  | .qwait g o => g.ok && !o.spc && o.low.extractLsb' 0 25 == 0
  | .wake g o =>
    g.ok && !o.spc
      && (if o.low.getLsbD 28 then o.low.extractLsb' 0 21 == 0 else o.low.extractLsb' 0 12 == 0)
  | .cpy g o => g.ok && o.fits
  | .tierp g o | .tiere g o => g.ok && o.fits && locIsGlobal o.dst && !o.src.getLsbD 4
  | .cpy2 g o | .cpyt g o | .cpyg g o | .wload g o => g.ok && o.fits true true true false false
  | .mtask g o | .qcfg g o => g.ok && o.fits true false false false false && !locIsGlobal o.desc
  | .commOpen g o => g.ok && o.fits true true false true true
  | .commClose g o => g.ok && o.fits false true false true false
  | .collRs g o | .collAg g o | .collAr g o | .collBc g o | .collBar g o | .collSend g o
  | .collRecv g o => g.ok && o.fits true true true true false
  | .matchArm g o => g.ok && o.fits true true true false false && locIsGlobal o.bar
  | .rmoCas4 g o | .rmoEnq g o | .rmoChase g o => g.ok && o.rmoOk
  | .rst g o => g.ok && o.rsv == 0 && decide (o.ik.toNat ≤ 1) && o.desc == 0
  | .rflush g o =>
    g.ok && o.reg == 0 && o.base == 0 && o.ik == 0 && o.idx == 0 && !o.fl && !o.w64 && o.rsv == 0
      && o.desc == 0
  | .bra g o | .bhz g o =>
    g.none && o.token == 0 && o.p == 0 && !o.pn && o.link == 0 && o.rsv == 0
  | .brc g o => g.ok && o.link == 0 && o.rsv == 0
  | .call g o => g.none && o.token == 0 && o.p == 0 && !o.pn && o.rsv == 0
  | .brx g o => g.ok && o.low.extractLsb' 20 26 == 0 && o.low.extractLsb' 0 12 == 0
  | .ret g o => g.none && o.low == 0
  | .prefi g o | .pin g o | .unpin g o =>
    g.ok && o.low.extractLsb' 30 16 != 0 && o.low.extractLsb' 0 29 == 0
  | .launch g o | .shape g o => g.ok && o.low.extractLsb' 0 42 == 0
  | .fetchw g o => g.ok && o.low.extractLsb' 0 30 == 0
  | .rte g o => g.ok && o.low == 0
  | .rcv g o => g.ok && o.low.extractLsb' 20 30 == 0 && o.low.extractLsb' 0 12 == 0
  | .exit g o | .yield g o | .nop g o | .alloc g o => g.ok && o.low == 0
  | .trap g o => g.ok && o.low.extractLsb' 0 42 == 0
  | .freea g o =>
    g.ok && o.low.extractLsb' 0 43 == 0 && decide (1 ≤ (o.low.extractLsb' 43 7).toNat)
      && decide ((o.low.extractLsb' 43 7).toNat ≤ 96)
  | .rdsr g o | .wrsr g o => g.ok && o.rsv == 0 && (!o.uk || !o.reg.getLsbD 7)
  | _ => true

/-- An even register number. -/
def evenReg (r : BitVec 8) : Bool := !r.getLsbD 0

/-- The rule of R271 item 3 for each instruction: false where a register pair or group is
misaligned (R15, R240 SUB 5, R256, R257, R261). -/
def Instr.pairsOk : Instr → Bool
  | .faddF64 _ o | .fsubF64 _ o | .fmulF64 _ o | .fminF64 _ o | .fmaxF64 _ o =>
    evenReg o.d && evenReg o.a && (o.bk != 0 || evenReg o.b)
  | .ffmaF64 _ o => evenReg o.d && evenReg o.a && (o.bk != 0 || evenReg o.b) && evenReg o.c
  | .fabsF64 _ o | .fnegF64 _ o | .frndF64 _ o | .rcpF64 _ o | .sqrtF64 _ o =>
    evenReg o.d && (o.bk != 0 || evenReg o.b)
  | .fclassF64 _ o => o.bk != 0 || evenReg o.b
  | .fcmpF64 _ o => evenReg o.a && (o.bk != 0 || evenReg o.b)
  | .cvt _ o => (o.t != 0 || evenReg o.d) && (o.t2 != 0 || o.bk != 0 || evenReg o.b)
  | .redl _ o | .scanl _ o => o.t != 0 || (evenReg o.d && evenReg o.a)
  | .ld _ o | .st _ o | .lds _ o | .sts _ o | .gather _ o | .scatter _ o =>
    (o.sz != 3 || evenReg o.d) && (o.sz != 4 || o.d.extractLsb' 0 2 == 0)
  | .atom _ o | .atomn _ o | .cas _ o | .atoms _ o | .cass _ o =>
    !o.w64 || (evenReg o.d && evenReg o.s && evenReg o.k)
  | .rst _ o => !o.w64 || evenReg o.reg
  | _ => true

/-! ## Headers (R247, R248) -/

/-- The sub-code of a header that breaks R247, or none. -/
def Header.fault (h : Header) : Option Nat :=
  if h.tag != 0xF || (Cls.ofCode h.cls).isNone then some 3
  else if h.rsv != 0 then some 2
  else none

/-- The first sub-code of E_ILLEGAL that the encoding alone decides, or none. -/
def Instr.fieldFault (i : Instr) : Option Nat :=
  match i with
  | .clauseHeader h => h.fault
  | _ => if !i.fieldsOk then some 2 else if !i.pairsOk then some 5 else none

/-! ## Decoding -/

/-- Why a word is no instruction. -/
inductive Reject where
  /-- a dash of the opcode map: E_ILLEGAL SUB 1 -/
  | undefinedOpcode
  /-- a reserved field or a value that is not allowed: E_ILLEGAL SUB 2 -/
  | reservedField
  /-- a misaligned register pair or group: E_ILLEGAL SUB 5 -/
  | misalignedPair
  /-- a header without its tag, or of a reserved class: E_ILLEGAL SUB 3 -/
  | badHeader
  deriving DecidableEq, Repr

/-- The sub-code that a rejection traps with (R240, R271). -/
def Reject.sub : Reject → Nat
  | .undefinedOpcode => 1
  | .reservedField => 2
  | .misalignedPair => 5
  | .badHeader => 3

def Reject.ofSub (n : Nat) : Reject :=
  match n with
  | 2 => .reservedField
  | 3 => .badHeader
  | _ => .misalignedPair

/-- The instruction of an instruction word, or why it is none (R249, R271 items 1 to 3). -/
def decode (w : DWord) : Except Reject Instr :=
  match ofWord w with
  | none => .error .undefinedOpcode
  | some i =>
    match i.fieldFault with
    | some n => .error (Reject.ofSub n)
    | none => .ok i

/-- The header of a header word, or why it is none (R248). -/
def decodeHeader (w : DWord) : Except Reject Instr :=
  match (Header.ofBits w).fault with
  | some n => .error (Reject.ofSub n)
  | none => .ok (.clauseHeader (Header.ofBits w))

/-- Eight bytes as one little-endian word (R6). -/
def leWord : List Byte → DWord
  | [b0, b1, b2, b3, b4, b5, b6, b7] => b7 ++ b6 ++ b5 ++ b4 ++ b3 ++ b2 ++ b1 ++ b0
  | _ => 0

/-- Decoding any bytes: the first eight make one instruction word; the rest is left. -/
def decodeBytes (bs : List Byte) : Except Reject (Instr × List Byte) :=
  if bs.length < 8 then .error .undefinedOpcode
  else
    match decode (leWord (bs.take 8)) with
    | .ok i => .ok (i, bs.drop 8)
    | .error r => .error r

/-- The eight bytes of a word, lowest address first (R6). -/
def wordBytes (w : DWord) : List Byte :=
  (List.range 8).map fun k => w.extractLsb' (8 * k) 8

/-- The instruction the decoder reads from an instruction whose bits are w. Every instruction is
one 64-bit word, so the bits above the row's are 0 and the bytes are those of w. -/
def decodeTableWord (_nbits w : Nat) : Option Instr :=
  match decodeBytes (wordBytes (BitVec.ofNat 64 w)) with
  | .ok (i, _) => some i
  | .error _ => none

/-! ## Encoding -/

def VX.toBits (o : VX) : BitVec 50 :=
  o.d ++ o.a ++ o.b ++ o.c ++ o.bk ++ o.rm ++ BitVec.ofBool o.sat ++ o.t ++ o.t2 ++ o.mode

def VI.toBits (o : VI) : BitVec 50 := o.d ++ o.imm ++ o.rsv

def UN.toBits (o : UN) : BitVec 50 := o.d ++ o.a ++ o.bk ++ o.b ++ o.c ++ o.rsv ++ o.mode

def MG.toBits (o : MG) : BitVec 50 :=
  o.d ++ o.base ++ BitVec.ofBool o.bs ++ o.ik ++ o.idx ++ o.sc ++ o.sz ++ BitVec.ofBool o.sx
    ++ o.disp

def MA.toBits (o : MA) : BitVec 50 :=
  o.d ++ o.s ++ o.k ++ o.base ++ BitVec.ofBool o.bs ++ o.ik ++ o.idx ++ o.sc ++ o.aop ++ o.ord
    ++ BitVec.ofBool o.w64 ++ o.rsv

def MB.toBits (o : MB) : BitVec 50 := BitVec.ofBool o.spc ++ o.obj ++ o.low

def EC.toBits (o : EC) : BitVec 50 := o.dst ++ o.src ++ o.bar ++ o.len

def ED.toBits (o : ED) : BitVec 50 :=
  o.desc ++ o.aux ++ o.bar ++ o.rsv ++ BitVec.ofBool o.pri ++ o.comm

def ER.toBits (o : ER) : BitVec 50 :=
  o.reg ++ o.base ++ o.ik ++ o.idx ++ o.stream ++ BitVec.ofBool o.fl ++ BitVec.ofBool o.w64
    ++ o.rsv ++ o.desc

def CB.toBits (o : CB) : BitVec 50 :=
  o.off ++ o.token ++ o.p ++ BitVec.ofBool o.pn ++ BitVec.ofBool o.ht ++ o.link ++ o.rsv

def CR.toBits (o : CR) : BitVec 50 := o.a ++ o.low

def CN.toBits (o : CN) : BitVec 50 := o.low

def SR.toBits (o : SR) : BitVec 50 := o.reg ++ BitVec.ofBool o.uk ++ o.num ++ o.sel ++ o.rsv

def Compact.toBits (h : Compact) : BitVec 31 :=
  h.cop ++ h.d ++ h.a ++ h.b ++ BitVec.ofBool h.bu ++ BitVec.ofBool h.rsv

def Header.toBits (h : Header) : DWord :=
  h.tag ++ h.cls ++ h.count ++ h.ldw ++ h.stw ++ h.engw ++ h.hzw ++ h.rsv

/-- A word that is not a pair word (R249). -/
def wordBits (g : Ctl) (op : BitVec 8) (x : BitVec 50) : DWord :=
  BitVec.ofBool g.sw ++ (0#1) ++ op ++ g.gp ++ BitVec.ofBool g.gn ++ x

/-- A pair word (R249). -/
def pairBits (sw : Bool) (l r : Compact) : DWord :=
  BitVec.ofBool sw ++ (1#1) ++ l.toBits ++ r.toBits

/-- The word of an instruction, from the encoding tables of the spec; none for a step that no
word makes. -/
def encode : Instr → Option DWord
  | .umov g o => some (wordBits g 0x00 o.toBits)
  | .umovi g o => some (wordBits g 0x01 o.toBits)
  | .uadd g o => some (wordBits g 0x02 o.toBits)
  | .usub g o => some (wordBits g 0x03 o.toBits)
  | .umul g o => some (wordBits g 0x04 o.toBits)
  | .umulh g o => some (wordBits g 0x05 o.toBits)
  | .uand g o => some (wordBits g 0x06 o.toBits)
  | .uor g o => some (wordBits g 0x07 o.toBits)
  | .uxor g o => some (wordBits g 0x08 o.toBits)
  | .ushl g o => some (wordBits g 0x09 o.toBits)
  | .ushr g o => some (wordBits g 0x0A o.toBits)
  | .usra g o => some (wordBits g 0x0B o.toBits)
  | .umin g o => some (wordBits g 0x0C o.toBits)
  | .umax g o => some (wordBits g 0x0D o.toBits)
  | .ucmp g o => some (wordBits g 0x0E o.toBits)
  | .usel g o => some (wordBits g 0x0F o.toBits)
  | .addpc g o => some (wordBits g 0x10 o.toBits)
  | .aadd g o => some (wordBits g 0x11 o.toBits)
  | .aset g o => some (wordBits g 0x12 o.toBits)
  | .acpy g o => some (wordBits g 0x13 o.toBits)
  | .aget g o => some (wordBits g 0x14 o.toBits)
  | .rdhz g o => some (wordBits g 0x15 o.toBits)
  | .mov g o => some (wordBits g 0x20 o.toBits)
  | .movi g o => some (wordBits g 0x21 o.toBits)
  | .iadd g o => some (wordBits g 0x22 o.toBits)
  | .isub g o => some (wordBits g 0x23 o.toBits)
  | .imul g o => some (wordBits g 0x24 o.toBits)
  | .imulh g o => some (wordBits g 0x25 o.toBits)
  | .imulhu g o => some (wordBits g 0x26 o.toBits)
  | .imad g o => some (wordBits g 0x27 o.toBits)
  | .imin g o => some (wordBits g 0x28 o.toBits)
  | .imax g o => some (wordBits g 0x29 o.toBits)
  | .iminu g o => some (wordBits g 0x2A o.toBits)
  | .imaxu g o => some (wordBits g 0x2B o.toBits)
  | .iabs g o => some (wordBits g 0x2C o.toBits)
  | .ineg g o => some (wordBits g 0x2D o.toBits)
  | .and g o => some (wordBits g 0x2E o.toBits)
  | .or g o => some (wordBits g 0x2F o.toBits)
  | .xor g o => some (wordBits g 0x30 o.toBits)
  | .not g o => some (wordBits g 0x31 o.toBits)
  | .ishl g o => some (wordBits g 0x32 o.toBits)
  | .ishr g o => some (wordBits g 0x33 o.toBits)
  | .isra g o => some (wordBits g 0x34 o.toBits)
  | .irol g o => some (wordBits g 0x35 o.toBits)
  | .popc g o => some (wordBits g 0x36 o.toBits)
  | .clz g o => some (wordBits g 0x37 o.toBits)
  | .brev g o => some (wordBits g 0x38 o.toBits)
  | .bfe g o => some (wordBits g 0x39 o.toBits)
  | .bfi g o => some (wordBits g 0x3A o.toBits)
  | .sel g o => some (wordBits g 0x3B o.toBits)
  | .icmp g o => some (wordBits g 0x3C o.toBits)
  | .idot4 g o => some (wordBits g 0x3D o.toBits)
  | .idot2 g o => some (wordBits g 0x3E o.toBits)
  | .plop g o => some (wordBits g 0x3F o.toBits)
  | .fadd g o => some (wordBits g 0x40 o.toBits)
  | .fsub g o => some (wordBits g 0x41 o.toBits)
  | .fmul g o => some (wordBits g 0x42 o.toBits)
  | .ffma g o => some (wordBits g 0x43 o.toBits)
  | .fmin g o => some (wordBits g 0x44 o.toBits)
  | .fmax g o => some (wordBits g 0x45 o.toBits)
  | .fabs g o => some (wordBits g 0x46 o.toBits)
  | .fneg g o => some (wordBits g 0x47 o.toBits)
  | .fcmp g o => some (wordBits g 0x48 o.toBits)
  | .fclass g o => some (wordBits g 0x49 o.toBits)
  | .frnd g o => some (wordBits g 0x4A o.toBits)
  | .faddF64 g o => some (wordBits g 0x50 o.toBits)
  | .fsubF64 g o => some (wordBits g 0x51 o.toBits)
  | .fmulF64 g o => some (wordBits g 0x52 o.toBits)
  | .ffmaF64 g o => some (wordBits g 0x53 o.toBits)
  | .fminF64 g o => some (wordBits g 0x54 o.toBits)
  | .fmaxF64 g o => some (wordBits g 0x55 o.toBits)
  | .fabsF64 g o => some (wordBits g 0x56 o.toBits)
  | .fnegF64 g o => some (wordBits g 0x57 o.toBits)
  | .fcmpF64 g o => some (wordBits g 0x58 o.toBits)
  | .fclassF64 g o => some (wordBits g 0x59 o.toBits)
  | .frndF64 g o => some (wordBits g 0x5A o.toBits)
  | .faddF16 g o => some (wordBits g 0x60 o.toBits)
  | .fsubF16 g o => some (wordBits g 0x61 o.toBits)
  | .fmulF16 g o => some (wordBits g 0x62 o.toBits)
  | .ffmaF16 g o => some (wordBits g 0x63 o.toBits)
  | .fminF16 g o => some (wordBits g 0x64 o.toBits)
  | .fmaxF16 g o => some (wordBits g 0x65 o.toBits)
  | .fabsF16 g o => some (wordBits g 0x66 o.toBits)
  | .fnegF16 g o => some (wordBits g 0x67 o.toBits)
  | .fcmpF16 g o => some (wordBits g 0x68 o.toBits)
  | .fclassF16 g o => some (wordBits g 0x69 o.toBits)
  | .frndF16 g o => some (wordBits g 0x6A o.toBits)
  | .faddBf16 g o => some (wordBits g 0x70 o.toBits)
  | .fsubBf16 g o => some (wordBits g 0x71 o.toBits)
  | .fmulBf16 g o => some (wordBits g 0x72 o.toBits)
  | .ffmaBf16 g o => some (wordBits g 0x73 o.toBits)
  | .fminBf16 g o => some (wordBits g 0x74 o.toBits)
  | .fmaxBf16 g o => some (wordBits g 0x75 o.toBits)
  | .fabsBf16 g o => some (wordBits g 0x76 o.toBits)
  | .fnegBf16 g o => some (wordBits g 0x77 o.toBits)
  | .fcmpBf16 g o => some (wordBits g 0x78 o.toBits)
  | .fclassBf16 g o => some (wordBits g 0x79 o.toBits)
  | .frndBf16 g o => some (wordBits g 0x7A o.toBits)
  | .cvt g o => some (wordBits g 0x80 o.toBits)
  | .pack g o => some (wordBits g 0x81 o.toBits)
  | .rcp g o => some (wordBits g 0x82 o.toBits)
  | .rsq g o => some (wordBits g 0x83 o.toBits)
  | .sqrt g o => some (wordBits g 0x84 o.toBits)
  | .exp2 g o => some (wordBits g 0x85 o.toBits)
  | .log2 g o => some (wordBits g 0x86 o.toBits)
  | .sin g o => some (wordBits g 0x87 o.toBits)
  | .cos g o => some (wordBits g 0x88 o.toBits)
  | .tanh g o => some (wordBits g 0x89 o.toBits)
  | .rcpF64 g o => some (wordBits g 0x8A o.toBits)
  | .sqrtF64 g o => some (wordBits g 0x8B o.toBits)
  | .shflIdx g o => some (wordBits g 0x90 o.toBits)
  | .shflUp g o => some (wordBits g 0x90 o.toBits)
  | .shflDown g o => some (wordBits g 0x90 o.toBits)
  | .shflXor g o => some (wordBits g 0x90 o.toBits)
  | .voteAny g o => some (wordBits g 0x91 o.toBits)
  | .voteAll g o => some (wordBits g 0x91 o.toBits)
  | .voteBallot g o => some (wordBits g 0x91 o.toBits)
  | .voteEq g o => some (wordBits g 0x91 o.toBits)
  | .redl g o => some (wordBits g 0x92 o.toBits)
  | .scanl g o => some (wordBits g 0x93 o.toBits)
  | .ld g o => some (wordBits g 0xA0 o.toBits)
  | .st g o => some (wordBits g 0xA1 o.toBits)
  | .lds g o => some (wordBits g 0xA2 o.toBits)
  | .sts g o => some (wordBits g 0xA3 o.toBits)
  | .gather g o => some (wordBits g 0xA4 o.toBits)
  | .scatter g o => some (wordBits g 0xA5 o.toBits)
  | .uld g o => some (wordBits g 0xA6 o.toBits)
  | .atom g o => some (wordBits g 0xA7 o.toBits)
  | .atomn g o => some (wordBits g 0xA8 o.toBits)
  | .cas g o => some (wordBits g 0xA9 o.toBits)
  | .atoms g o => some (wordBits g 0xAA o.toBits)
  | .cass g o => some (wordBits g 0xAB o.toBits)
  | .fence g o => some (wordBits g 0xAC o.toBits)
  | .bind g o => some (wordBits g 0xAD o.toBits)
  | .unbind g o => some (wordBits g 0xAE o.toBits)
  | .acq g o => some (wordBits g 0xAF o.toBits)
  | .rel g o => some (wordBits g 0xB0 o.toBits)
  | .binit g o => some (wordBits g 0xB1 o.toBits)
  | .arrive g o => some (wordBits g 0xB2 o.toBits)
  | .waitph g o => some (wordBits g 0xB3 o.toBits)
  | .tryph g o => some (wordBits g 0xB4 o.toBits)
  | .qwait g o => some (wordBits g 0xB5 o.toBits)
  | .wake g o => some (wordBits g 0xB6 o.toBits)
  | .waithz g o => some (wordBits g 0xB7 o.toBits)
  | .cpy g o => some (wordBits g 0xC8 o.toBits)
  | .cpy2 g o => some (wordBits g 0xC9 o.toBits)
  | .cpyt g o => some (wordBits g 0xCA o.toBits)
  | .cpyg g o => some (wordBits g 0xCB o.toBits)
  | .tierp g o => some (wordBits g 0xCC o.toBits)
  | .tiere g o => some (wordBits g 0xCD o.toBits)
  | .wload g o => some (wordBits g 0xCE o.toBits)
  | .mtask g o => some (wordBits g 0xCF o.toBits)
  | .qcfg g o => some (wordBits g 0xD0 o.toBits)
  | .commOpen g o => some (wordBits g 0xD1 o.toBits)
  | .commClose g o => some (wordBits g 0xD2 o.toBits)
  | .collRs g o => some (wordBits g 0xD3 o.toBits)
  | .collAg g o => some (wordBits g 0xD4 o.toBits)
  | .collAr g o => some (wordBits g 0xD5 o.toBits)
  | .collBc g o => some (wordBits g 0xD6 o.toBits)
  | .collBar g o => some (wordBits g 0xD7 o.toBits)
  | .collSend g o => some (wordBits g 0xD8 o.toBits)
  | .collRecv g o => some (wordBits g 0xD9 o.toBits)
  | .rmoCas4 g o => some (wordBits g 0xDA o.toBits)
  | .rmoEnq g o => some (wordBits g 0xDB o.toBits)
  | .rmoChase g o => some (wordBits g 0xDC o.toBits)
  | .rst g o => some (wordBits g 0xDD o.toBits)
  | .rflush g o => some (wordBits g 0xDE o.toBits)
  | .matchArm g o => some (wordBits g 0xDF o.toBits)
  | .bra g o => some (wordBits g 0xE4 o.toBits)
  | .brc g o => some (wordBits g 0xE5 o.toBits)
  | .brx g o => some (wordBits g 0xE6 o.toBits)
  | .call g o => some (wordBits g 0xE7 o.toBits)
  | .ret g o => some (wordBits g 0xE8 o.toBits)
  | .bhz g o => some (wordBits g 0xE9 o.toBits)
  | .rcv g o => some (wordBits g 0xEA o.toBits)
  | .exit g o => some (wordBits g 0xEB o.toBits)
  | .yield g o => some (wordBits g 0xEC o.toBits)
  | .nop g o => some (wordBits g 0xED o.toBits)
  | .prefi g o => some (wordBits g 0xEE o.toBits)
  | .pin g o => some (wordBits g 0xEF o.toBits)
  | .unpin g o => some (wordBits g 0xF0 o.toBits)
  | .launch g o => some (wordBits g 0xF1 o.toBits)
  | .fetchw g o => some (wordBits g 0xF2 o.toBits)
  | .alloc g o => some (wordBits g 0xF3 o.toBits)
  | .freea g o => some (wordBits g 0xF4 o.toBits)
  | .shape g o => some (wordBits g 0xF5 o.toBits)
  | .trap g o => some (wordBits g 0xF6 o.toBits)
  | .rte g o => some (wordBits g 0xF7 o.toBits)
  | .rdsr g o => some (wordBits g 0xF8 o.toBits)
  | .wrsr g o => some (wordBits g 0xF9 o.toBits)
  | .pairWord sw l r => some (pairBits sw l r)
  | .clauseHeader h => some h.toBits
  | _ => none

end Sys2Proof
end

