-- ==== Sys2Proof/Machine/State.lean ====
section
/-! DEFINITION. The state of one module, as plain data: every piece of state that the spec gives the
machine, the fields that the model adds (agenda, cur, tick; DESIGN CHOICE, log 1 and 2), and the state after reset.
A map is a list of keys and values with strictly rising keys; an absent key stands for the default. -/

namespace Sys2Proof.Machine

/-- A finite map by rising keys. -/
abbrev Map (α : Type) := List (Nat × α)

/-- Bytes by address; an unlisted address reads as 0 (R98, R426; DESIGN CHOICE, log 3). -/
abbrev Memory := List Host.Cell

/-- Where a fragment fetches next: a header, or word `idx` of the clause whose header stands at
`hdr` and holds `count` as its C field (R246). -/
inductive Loc where
  | header (addr : DWord)
  | word (hdr : DWord) (cls : Cls) (count idx : Nat)
  deriving DecidableEq, Repr

/-- A divergence-stack entry (R43). -/
inductive DivEntry where
  | token (t : BitVec 8)
  | defer (t : BitVec 8) (m : LaneMask) (pc : Loc)
  | done (t : BitVec 8) (m : LaneMask) (pc : Loc)
  deriving DecidableEq, Repr

/-- A synchronisation object: scratchpad offset, global virtual address, or the allotment barrier
of the block (R258, R317). -/
inductive Obj where
  | spad (off : Nat)
  | glob (va : DWord)
  | allot
  deriving DecidableEq, Repr

/-- A location of an engine operand (R334). -/
inductive ELoc where
  | spad (off : Nat)
  | glob (va : DWord)
  | bad
  deriving DecidableEq, Repr

/-- The wait terms of a clause header (R18, R247). -/
structure Waits where
  ld : Nat
  st : Nat
  eng : Nat
  hz : Nat
  deriving DecidableEq, Repr

/-- Why a fragment is parked (R20, R45, R137, R169, R171). -/
inductive Park where
  | none
  | switch
  | rcv (t : BitVec 8)
  | waitph (obj : Obj) (ph : BitVec 16) (num : Option HNum)
  | waithz (seq : HNum)
  deriving DecidableEq, Repr

/-- The damper state of a fragment (R179). -/
structure Damper where
  dpc : DWord
  dacc : Word
  dsig : Word
  drun : Nat
  dem : Bool
  deriving DecidableEq, Repr

/-- A fragment (R43, R174, R179, R225). `marked` is the switch marker of the word that it is parked
at, and `holds` says that it holds the slots of its clause (R226). Its counters LDC, STC and ENGC are the numbers of its
outstanding operations of each kind, held with the operations (R174). -/
structure Frag where
  id : Nat
  wave : Nat
  mask : LaneMask
  loc : Loc
  waits : Option Waits
  stack : List DivEntry
  park : Park
  marked : Bool
  damper : Damper
  skip : Nat
  yielded : Bool
  holds : Bool
  handler : Bool
  deriving DecidableEq, Repr

/-- One lane's part of an operation, captured at issue (R237). -/
structure LaneAcc where
  lane : Nat
  ea : DWord
  data : BitVec 128
  cmp : DWord
  deriving DecidableEq, Repr

/-- What a leaf says of the accesses through it (R124, R149). -/
structure Attr where
  cache : BitVec 2
  scope : BitVec 3
  ev : Bool
  aok : Bool
  deriving DecidableEq, Repr

/-- A translated access: its place and what its page says. -/
structure Xlated where
  place : Nat
  attr : Attr
  deriving DecidableEq, Repr

/-- The part of an access that lies in one 64 KiB page (R300). -/
structure Piece where
  x : Xlated
  va : DWord
  n : Nat
  deriving DecidableEq, Repr

/-- What an operation does when it is performed, with its operands as captured at issue. -/
inductive Work where
  | load (d szLog : Nat) (sx : Bool)
  | uload (code : BitVec 8) (szLog : Nat)
  | store (szLog : Nat)
  | atomic (spad : Bool) (ret : Option Nat) (cas : Bool) (aop : BitVec 4) (w64 : Bool) (ord : BitVec 2)
  | binit (obj : Obj) (atgt : BitVec 16) (btgt : BitVec 32)
  | arrive (obj : Obj) (n : Nat) (expect : Option (BitVec 16)) (all : Bool)
  | waitph (obj : Obj) (ph : BitVec 16)
  | tryph (obj : Obj) (ph : BitVec 16) (pd : Nat) (lanes : LaneMask)
  | acq (obj : Obj) (pair : Option Nat) (all : Bool) (lanes : LaneMask)
  | rel (obj : Obj) (value : Option DWord) (all : Bool)
  | fence
  | qwait (head record : DWord)
  | wake (head : DWord) (n : Nat)
  | shape (addr t : DWord)
  | launch (addr : DWord) (queue : Nat)
  | engine
  | matchArm (desc : ELoc) (bar : DWord) (aux : Option DWord)
  | comm (comm op : Nat) (pri : Bool) (desc bar : ELoc) (aux : Option DWord)
  | rst (stream : Nat) (w64 flush : Bool)
  | rmo (op : Nat) (d : Nat) (desc : Nat)
  deriving DecidableEq, Repr

/-- How far an operation has come (R228, R229, R233). -/
inductive Status where
  | waiting
  | sent
  | failing (code : BitVec 16) (addr : DWord)
  | inFault
  | failed (code : BitVec 16) (addr : DWord)
  | done
  deriving DecidableEq, Repr

/-- Which clause wait counter an operation counts in (R174). -/
inductive Count where
  | none | ld | st | eng
  deriving DecidableEq, Repr

/-- An outstanding operation of a wave: its horizon number, its captured operands, its outcome.
An operation of a handler takes no number and carries SEQ (R235). `counted` holds while it
still counts in the counters of its fragments. `regions` are the base and length, in 64-byte units,
of the regions that the binding entries of its object named at its issue (R157). `stall` holds while
a store needs a held line and finds none: its wave is stalled (R107). `reach` holds the pieces of its lanes as they were
translated when a request went to the host, and `answer` what the host has answered to an atomic, or the descriptor as it
was read (R302, R334, R401). `mark` is the number of its wave's writes to the host that a zero-length read was sent behind,
and `behind` says that this read has completed (R400). -/
structure Op where
  num : HNum
  handler : Bool
  frags : List Nat
  count : Count
  counted : Bool
  kind : Nat
  pc : DWord
  fmask : LaneMask
  lanes : List LaneAcc
  work : Work
  regions : List (DWord × Nat)
  retried : Bool
  status : Status
  escaped : Bool
  stall : Bool
  results : List (Nat × DWord)
  reach : List (List Piece)
  answer : Option (List Byte)
  mark : Option Nat
  behind : Bool
  deriving DecidableEq, Repr

/-- A result that is not interlocked and not yet written (R20, R93, R309). -/
inductive PendKind where
  | sfu | cross | spad | sr
  deriving DecidableEq, Repr

/-- An RDSR that waits (R391): what it reads, where the value goes, and %fpflags as it stood at the issue
with the flags of the words before it that have been raised since (R63). -/
structure SrRead where
  num : Nat
  sel : Nat
  uk : Bool
  dest : Nat
  lanes : LaneMask
  flags : BitVec 6
  deriving DecidableEq, Repr

structure Pend where
  kind : PendKind
  wave : Nat
  frags : List Nat
  handler : Bool
  regs : List (Nat × Nat × Word)
  preds : List (Nat × LaneMask × LaneMask)
  flags : BitVec 6
  sr : Option SrRead
  deriving DecidableEq, Repr

/-- The trap window of a wave whose handler runs, and the window of operations as RTE finds it
(R92, R231, R233). -/
structure Window where
  v : Map Word
  s : Map Word
  a : Map DWord
  p : Map LaneMask
  precise : Bool
  frag : Nat
  vPoison : Map (BitVec 2)
  sPoison : List Nat
  aPoison : List Nat
  pPoison : List Nat
  deriving DecidableEq, Repr

/-- A precise trap that waits for its entry (R230, R231). -/
structure PreciseTrap where
  code : BitVec 16
  sub : Byte
  addr : DWord
  pc : DWord
  word : DWord
  fmask : LaneMask
  frag : Nat
  deriving DecidableEq, Repr

/-- A block drawn by FETCHW (R51, R202). -/
structure Drawn where
  launch : Nat
  lin : Nat
  tent : Bool
  mailbox : Nat
  deriving DecidableEq, Repr

/-- A wave with its register files (R72, R76, R80 to R83, R89 to R91). `hostWrites` counts the writes that it has sent
to CLASS 6 places, `hostSeen` those of them that have completed at the host, and `hostAsk` is the count that a
zero-length read for an arrival without a number was sent behind (R181, R400). `written` holds the pages that it has stored
to in a cache, by the first address of the page and the number of the place page (R190, R318). `hzPhase` is the phase of the
horizon barrier of its slot, whose ATGT is 1 and BTGT 0 (R171); `trapEarly` says that its failure was
delivered before the drain began, and `drainTrap` that it was delivered in a drain (R242); `frameRetry`
that a write of its trap frame has failed once, and `handlerRetry` its read of HANDLER; `frameAsked` that this read has gone
to the host, and `frameHandler` what the host has answered (R228, R232, R400). -/
structure Wave where
  slot : Nat
  block : Nat
  wid : DWord
  budget : Nat
  stage : Nat
  v : Map Word
  s : Map Word
  a : Map DWord
  p : Map LaneMask
  vPoison : Map (BitVec 2)
  sPoison : List Nat
  aPoison : List Nat
  pPoison : List Nat
  lpart : Nat
  fpflags : BitVec 6
  seq : HNum
  hzn : HNum
  shp : Bool
  clkLatch : Word
  trapcause : Word
  tfp : DWord
  ops : List Op
  trap : Option PreciseTrap
  drainTrap : Bool
  trapEarly : Bool
  win : Option Window
  winHeld : Bool
  frameFail : Bool
  frameRetry : Bool
  handlerRetry : Bool
  frameAsked : Bool
  frameHandler : Option (List Byte)
  hzPhase : BitVec 16
  fetchw : Bool
  heldFetchw : Option (DWord × Nat)
  drawn : List Drawn
  hostWrites : Nat
  hostSeen : Nat
  hostAsk : Option Nat
  written : List (DWord × Nat)
  ended : Bool
  deriving DecidableEq, Repr

/-- A code range that a block pinned (R111, R382). -/
structure PinRec where
  cluster : Bool
  lines : List Nat
  deriving DecidableEq, Repr

/-- Whom an engine operation acts for: the wave of a block, its number, and whether its global writes are gated
(R193, R235). -/
structure Eng where
  c : Nat
  block : Nat
  wave : Nat
  num : HNum
  gated : Bool
  deriving DecidableEq, Repr

/-- A landing of an engine operation on a global barrier, with the lines that its joins discard, that waits: for the
confirmation of its tentative block, or in the fault buffer for a barrier whose translation fails replayably (R128, R172,
R200 item 2, R337). `cmd` names the operation, `fault` the entry that the landing has taken, and `loads` a WLOAD (R345). -/
structure Landing where
  bar : ELoc
  a : Nat
  n : Nat
  code : BitVec 16
  lines : List Nat
  die : Option Nat
  wave : Nat
  num : HNum
  cmd : Nat
  loads : Bool
  fault : Option Nat
  deriving DecidableEq, Repr

/-- Which counter an update that cannot reach its barrier adds to (R142, R162, R172). -/
inductive Dropped where
  | none
  | landing (core : Nat)
  | wake (die : Nat)
  | release (die : Nat)
  deriving DecidableEq, Repr

/-- What another party does to the window of a tentative block, held until the block is confirmed: an update
of a barrier at an offset, or a write of bytes (R200 item 4). -/
inductive WinOp where
  | update (a n : Nat) (code : BitVec 16) (drop : Dropped)
  | write (bytes : List Byte)
  deriving DecidableEq, Repr

/-- A block placed on a core (R33 to R38, R84, R97 to R100, R349). `stamp` is the time of its placement
(R208; DESIGN CHOICE, log 2); `accPoison` names the poisoned words of its accumulator region (R99); `lands` has the
landings of its engine operations that wait, and `inbox` what others do to its window before its confirmation, in order
(R172, R200). -/
structure Block where
  slot : Nat
  launch : Nat
  lin : Nat
  grid : List Nat
  ctx : Nat
  record : List Byte
  tent : Bool
  backed : Nat
  req : Bool
  full : Bool
  freed : Bool
  commit : Nat
  allotPhase : BitVec 16
  spad : Memory
  spadPoison : List Nat
  acc : Memory
  accPoison : List Nat
  lands : List Landing
  inbox : List (Nat × WinOp)
  quench : List (List Byte)
  pins : List PinRec
  stamp : Nat
  deriving DecidableEq, Repr

/-- One cached byte (R105, R106, R181, R192). -/
structure CByte where
  val : Byte
  dirty : Bool
  scope : BitVec 3
  deriving DecidableEq, Repr

/-- The bytes that one store holds in held lines, with the policy and scope of their pages: `ea` is the
address of the lane, `va` that of the first byte (R107, R200, R302). -/
structure HeldStore where
  wave : Nat
  num : HNum
  tent : Bool
  ea : DWord
  va : DWord
  bytes : List (Nat × Byte)
  cache : BitVec 2
  scope : BitVec 3
  deriving DecidableEq, Repr

/-- A line of an instruction cache, with its pin count (R110, R111). -/
structure ILine where
  data : List Byte
  pins : Nat
  deriving DecidableEq, Repr

/-- A cached translation: the leaf, the level it stands at, and AOK as cached (R127, R153). -/
structure TlbEnt where
  root : Nat
  page : Nat
  leaf : DWord
  level : Nat
  aok : Bool
  deriving DecidableEq, Repr

/-- An entry of the fault buffer (R128, R129). -/
structure FaultEnt where
  va : DWord
  entry : Nat
  hnum : HNum
  kind : Nat
  wave : Nat
  level : Nat
  perm : Bool
  ctx : Nat
  cmd : Option Nat
  frame : Bool
  deriving DecidableEq, Repr

/-- An entry of the binding table (R156). -/
structure BindEnt where
  base : DWord
  len : Nat
  sync : Bool
  slot : Nat
  obj : DWord
  deriving DecidableEq, Repr

/-- The Barrow commands (R333). -/
inductive EngKind where
  | cpy | cpy2 | cpyt | cpyg | tierp | tiere | wload
  deriving DecidableEq, Repr

/-- A Barrow command in flight (R334 to R345). `gated` is false for a command of a handler, which is
never provisional (R235). `fields` is the descriptor as read, `unit` the next unit, `buf` a unit that
is read and not yet written, `landed` the bytes landed so far, `err` the code that it ends with. -/
structure EngCmd where
  id : Nat
  kind : EngKind
  wave : Nat
  block : Nat
  num : HNum
  gated : Bool
  dst : ELoc
  src : ELoc
  desc : ELoc
  bar : ELoc
  aux : Option DWord
  len : Nat
  fields : Option (List Byte)
  unit : Nat
  buf : Option (List Byte)
  landed : Nat
  retried : Bool
  err : BitVec 16
  inFault : Bool
  abandon : Bool
  deriving DecidableEq, Repr

/-- A remote store that is sent and not acknowledged, and the operation that sent it (R146, R362). -/
structure RStore where
  place : Nat
  va : DWord
  bytes : List Byte
  flush : Bool
  wave : Nat
  num : HNum
  performed : Bool
  deriving DecidableEq, Repr

/-- A remote store stream: its counters, its unacknowledged stores, and at the target of its own node
the stores performed since the last acknowledgement, whether one is due, and those on their way;
`issued` names the RSTs in the order of their issue, until each has been sent (R146, R175, R407). -/
structure RStream where
  snt : Word
  ack : Word
  issued : List (Nat × HNum)
  queue : List RStore
  sinceAck : Nat
  flushDue : Bool
  acks : List Word
  miss : DWord
  deriving DecidableEq, Repr

/-- One weight plane: digits, column exponents, NaN marks, scales (R68, R344). -/
structure Plane where
  q : List (List Int)
  exp : List Int
  bad : List Bool
  scale : List (BitVec 16)
  deriving DecidableEq, Repr

/-- A record in a Hearth ring, or of a running task (R139, R140, R346). `id` names it among the
engine operations of its core, `gated` is false for a task of a handler, `fail` is the code that its
fault buffer entry was failed with, and `retried` that a first failure has been met. -/
structure HRec where
  id : Nat
  bytes : List Byte
  quench : List Byte
  core : Nat
  block : Nat
  wave : Nat
  num : HNum
  gated : Bool
  eligible : Bool
  registered : Bool
  inFault : Bool
  retried : Bool
  fail : BitVec 16
  deriving DecidableEq, Repr

/-- A tile-task on a Kiln (R220, R221, R348). `leader` is the record of the member whose activations it uses, where that
is another one (R219); `lines` are those that it has written for its joins (R192); `away` holds while the context of the
task is saved (R244); `fmt`, `scaled` and `planes` are the weight store as it stood at the dispatch (R345). -/
structure KTask where
  task : HRec
  kblock : Nat
  unit : Nat
  status : BitVec 3
  lines : List Nat
  paused : Bool
  stop : Bool
  abandon : Bool
  away : Bool
  group : Option Nat
  leader : Option HRec
  fmt : Option (BitVec 4)
  scaled : Bool
  planes : List Plane
  deriving DecidableEq, Repr

/-- A Kiln (R65, R344, R345). -/
structure Kiln where
  fmt : Option (BitVec 4)
  scaled : Bool
  planes : List Plane
  task : Option KTask
  reserved : Option Nat
  deriving DecidableEq, Repr

/-- A context slot of a core (R33, R154). -/
structure CtxSlot where
  used : Bool
  root : DWord
  tfp : DWord
  ctxid : BitVec 16
  deriving DecidableEq, Repr

/-- An armed entry of the matching table (R159). -/
structure MatchEnt where
  tag : Word
  src : BitVec 16
  len : Nat
  ctxid : BitVec 16
  root : DWord
  dest : DWord
  bar : DWord
  core : Nat
  block : Nat
  wave : Nat
  deriving DecidableEq, Repr

/-- A message that an armed entry has taken and that has not landed: after a failed first attempt, or while
its access waits; `err` is the code that its fault buffer entry was failed with (R128, R160, R228). `owed` is the update
that its barrier is owed once its data stands or is given up, with the lines written: so too waits the arrival of a
communicator command whose barrier cannot be reached now (R128, R172, R192). -/
structure MatchLand where
  ent : MatchEnt
  data : List Byte
  owed : Option (Nat × Nat × BitVec 16)
  lines : List Nat
  id : Nat
  retried : Bool
  inFault : Bool
  err : BitVec 16
  deriving DecidableEq, Repr

/-- A request for the pre-emption of the context in a slot of a core (R208, R241). `stream` says that
the context streams out after its drain; `launch` is the launch whose first unplaced block waits;
`staram` and `software` say who else asked. -/
structure PreReq where
  slot : Nat
  stream : Bool
  launch : Option Nat
  staram : Bool
  software : Bool
  deriving DecidableEq, Repr

/-- What the engine operations that landed on one barrier have written: 128-byte lines by number, at
the L2 of a die or at the homes (R192). -/
structure JoinRec where
  spad : Bool
  core : Nat
  block : Nat
  off : Nat
  lines : List Nat
  die : Option Nat
  deriving DecidableEq, Repr

/-- A registered cooperative record (R219). -/
structure GroupReg where
  gate : DWord
  phase : BitVec 16
  gr : Nat
  gc : Nat
  member : Nat
  cluster : Nat
  task : HRec
  deriving DecidableEq, Repr

/-- A FETCHW request at the Stoker, with the context of its wave (R51, R136, R385). -/
structure DrawReq where
  core : Nat
  ctxid : BitVec 16
  wave : Nat
  barrier : DWord
  mailbox : Nat
  deriving DecidableEq, Repr

/-- The state of one context of a core while it is not issued (R243, R244). `queue` lists the waves that wait for a trap
window, `away` the cores whose Kilns hold a paused task of the context, `joins` what its barriers remember, `regs` the
registrations of its members of cooperative groups (R219); `issued` its RSTs that have still to be sent, by stream, in
the order of their issue (R146); `allocs` and `draws` its requests to the Stoker while it is streamed out (R136, R207);
`resume` says that the Staram restores it once its change is made (R88, R415). -/
structure SavedCtx where
  core : Nat
  ctxid : BitVec 16
  slotIdx : Nat
  root : DWord
  tfp : DWord
  blocks : List Block
  waves : List Wave
  frags : List Frag
  held : List HeldStore
  binds : List BindEnt
  faults : List FaultEnt
  cmds : List EngCmd
  arms : List MatchEnt
  kiln : Kiln
  recs : List HRec
  queue : List Nat
  away : List Nat
  joins : List JoinRec
  regs : List GroupReg
  issued : List (Nat × Nat × HNum)
  allocs : List Nat
  draws : List DrawReq
  stream : Bool
  resume : Bool
  deriving DecidableEq, Repr

/-- The CNT_ counters of a core (R177). -/
structure CoreCnt where
  transient : Word
  rfCorrected : Word
  rfPoison : Word
  spadCorrected : Word
  spadPoison : Word
  cacheRefetch : Word
  cachePoison : Word
  barrierErrLost : Word
  landingDrop : Word
  damperDemote : Word
  deriving DecidableEq, Repr

/-- A core (R1). `trapQueue` lists the waves that wait for a trap window in the order in which they trapped (R92);
`faultWait` the accesses that wait outside a full fault buffer, in the order in which they faulted (R128, R144); %clk is
the core's count of cycles plus `clkOffset` (R89; DESIGN CHOICE, log 2); `reqs` lists the requests for pre-emption and
`draining` the context slots whose drain has begun (R241, R242); `allocs` lists the block slots whose ALLOC request is
outstanding, the oldest first (R207). -/
structure Core where
  clkOffset : DWord
  good : List Nat
  enabled : Bool
  ctxs : List CtxSlot
  active : Option Nat
  reqs : List PreReq
  draining : List Nat
  shadows : List SavedCtx
  xinv : List DWord
  blocks : List Block
  waves : List Wave
  frags : List Frag
  vptr : Nat
  uptr : Nat
  nextFrag : Nat
  pend : List Pend
  l1 : Map CByte
  held : List HeldStore
  l0 : Map ILine
  tlb : List TlbEnt
  faults : Map FaultEnt
  faultWait : List FaultEnt
  binds : Map BindEnt
  trapQueue : List Nat
  cmds : List EngCmd
  nextCmd : Nat
  allocs : List Nat
  streams : Map RStream
  kiln : Kiln
  cnt : CoreCnt
  deriving DecidableEq, Repr

/-- The counters of a die: L2, Bellows, Collier and its two memory controllers (R177). -/
structure DieCnt where
  cacheRefetch : Word
  cachePoison : Word
  memCorrected : List Word
  memPoison : List Word
  barrierErrLost : Word
  wakeDrop : Word
  matchRefused : Word
  releaseDrop : Word
  mcastPartial : Word
  deriving DecidableEq, Repr

/-- A command in a communicator's queue (R145, R354 to R360). Op 0 to 6 is COLL.RS, AG, AR, BC,
BAR, SEND, RECV; 7 is COMM.OPEN and 8 COMM.CLOSE. `sent` says that its header is sent and `agreed` that
all headers agree; `chunks` and `steps` count those that have ended; `flits` counts those of the chunk in progress that
have gone, and `aside` says that it has run out of credit (R438). `retried` and `stepRetried` are the retries of its
chunk and of its step (R228), `lines` the lines that it has written for its joins (R192); `message` is what a matched
COLL.SEND has sent, and `refused` that this was refused once (R160). -/
structure CollCmd where
  op : Nat
  core : Nat
  block : Nat
  wave : Nat
  ctxid : BitVec 16
  root : DWord
  id : Nat
  pri : Bool
  desc : ELoc
  bar : ELoc
  aux : Option DWord
  fields : Option (List Byte)
  sent : Bool
  agreed : Bool
  chunks : Nat
  steps : Nat
  flits : Nat
  aside : Bool
  retried : Bool
  stepRetried : Bool
  lines : List Nat
  message : List Byte
  refused : Bool
  inFault : Bool
  err : BitVec 16
  deriving DecidableEq, Repr

/-- A header that a communicator has received: the number of its command, the sender's rank (R359). -/
structure CollHead where
  num : BitVec 16
  rank : Nat
  head : CollHeader
  deriving DecidableEq, Repr

/-- Bytes that a communicator has received: the number of their command and the sender's rank. What one rank has sent for
a command stands in order (R358, R438). -/
structure CollData where
  num : BitVec 16
  rank : Nat
  bytes : List Byte
  deriving DecidableEq, Repr

/-- A communicator of a Bellows (R145, R161, R354 to R356). -/
structure Comm where
  isOpen : Bool
  ctxid : BitVec 16
  root : DWord
  hipri : Bool
  members : List (Nat × Nat)
  rank : Nat
  rel : List (List Byte)
  chunk : Nat
  queue : List CollCmd
  closing : List CollCmd
  heads : List CollHead
  data : List CollData
  doneCount : BitVec 16
  firstErr : BitVec 16
  deriving DecidableEq, Repr

/-- A compute die (R1, R89, R116, R127, R159, R422). `gated` is the mark that translations see,
`off` says that the die's power is off; `since` is the time of its last power-up (DESIGN CHOICE, log 2); `rrHigh` and
`rrLow` name the communicators whose chunks ran last in each class (R145), and `credit` the flits that the virtual
channels of some communicators still take; the others take any (R361, R438). -/
structure Die where
  gated : Bool
  off : Bool
  since : Nat
  l2 : Map CByte
  tlb : List TlbEnt
  arms : List MatchEnt
  landing : List MatchLand
  comms : Map Comm
  rrHigh : Nat
  rrLow : Nat
  credit : Map Nat
  cnt : DieCnt
  deriving DecidableEq, Repr

/-- A cluster: Hearth ring, instruction cache, counters, and the times in ms of the trips of its shared
paths (R110, R111, R139, R177, R418). -/
structure Cluster where
  ring : List HRec
  icache : Map ILine
  prefetchDrop : Word
  pinRefused : Word
  shadowReplay : Word
  trips : List Nat
  deriving DecidableEq, Repr

/-- A record in a stoke queue; a LAUNCH carries the context that the Stoker writes into it (R33). -/
structure QRec where
  bytes : List Byte
  ctxid : Option (BitVec 16)
  deriving DecidableEq, Repr

/-- An active launch (R32, R134, R135, R210 to R214). `extent` is L, `published` the extent T that
was applied, `cursor` the next linear index of the launched grid, `tail` the next index of the tail
launch; `live` counts the blocks that were placed and have not ended. -/
structure Launch where
  id : Nat
  queue : Nat
  record : List Byte
  root : DWord
  tfpb : DWord
  extent : Nat
  watching : Bool
  published : Option Nat
  cursor : Nat
  tail : Nat
  live : Nat
  err : BitVec 16
  timedOut : Bool
  deriving DecidableEq, Repr

/-- An entry of the shape predictor table, the oldest first in its list (R158). -/
structure PredEnt where
  tag : DWord
  last : DWord
  max : DWord
  deriving DecidableEq, Repr

/-- A record for the event ring (R397). -/
structure Event where
  kind : Nat
  ctxid : BitVec 16
  ccid : Nat
  entry : Nat
  deriving DecidableEq, Repr

/-- A report of the Staram (R421). Bring-up refuses firmware slot 0 or 1, or the microcode 2 to 5 of the
Stoker, the Hearths, the Bellows or the memory controllers (R424). -/
inductive Report where
  | laneRetired (core lane : Nat)
  | ceiling (cluster mhz : Nat)
  | disabled (core : Nat)
  | clusterDisabled (cluster : Nat)
  | powerStep (die mhz : Nat)
  | bringUpRefused (image : Nat)
  deriving DecidableEq, Repr

/-- A change of the Staram that waits until no context is active on some cores: a die's point, the clock of
a cluster under a new ceiling, or the lane maps of the cores (R88, R415, R417, R419); or the power-off of a die,
which waits for the accesses to its region (R422). -/
inductive Change where
  | point (die mhz : Nat)
  | ceiling (cluster : Nat)
  | lanes
  | gate (die : Nat)
  deriving DecidableEq, Repr

/-- A change under way. `half` says that the first of the two steps of R415 item 2 is made; `asked` that the
request being served completes with the change (R411). -/
structure Job where
  cores : List Nat
  change : Change
  half : Bool
  asked : Bool
  deriving DecidableEq, Repr

/-- A request to the Staram that waits for those before it (R411, R412). -/
inductive Request where
  | opSet (mask : BitVec 8) (mhz : Nat)
  | capSet (watts : Nat)
  | dieGate (die : Nat)
  | dieWake (die : Nat)
  | countersRead (unit : CounterUnit) (clear : Bool)
  | telemetryRead
  | laneRetire (core lane : Nat)
  | fwUpdate (chunk : List Byte)
  | reportRead
  | invalid
  deriving DecidableEq, Repr

/-- What the Staram answers; all but `status` carry status 0 (R412, R421, R425). -/
inductive Response where
  | none
  | status (n : Nat)
  | counters (values : List Word)
  | telemetry (powers : List Nat) (junctions : List Int) (points ceilings : List Nat)
  | report (r : Option (Nat × Report))
  | digests (ds : List (BitVec 512))
  | certificate (chain : List Byte)
  | signed (nonce : List Byte) (blocks : List (BitVec 512 × Nat)) (signature : List Byte)
  deriving DecidableEq, Repr

/-- The Staram (R411 to R426). Ceilings by cluster and points by die, in MHz, supplies by die in mV; lane sets by
core. `fused`, `retired`, `ceiling`, `deadClusters`, `activeSlot` and `slots` outlive a reset; `inForce` are
the ceilings that clocks obey, each since its change was made (R415). `stage` is the last step of R426 that is done.
`busy` says that the request being served has changes under way, and `queue` holds those behind it. `ms` counts the
measurements, `powers` and `history` the last ones per die and of the module, the latest first, `calm` those since
the average was last high; `laneTrips` holds the times of trips of a lane under 128 × core + lane; a report carries
the count of those dropped before it; `lowered` names the dies lowered by a step and not yet raised again, the
latest first; `fresh` says that the inactive slot has been written since the reset. -/
structure Staram where
  cap : Nat
  setPoint : Map Nat
  point : Map Nat
  supply : Map Nat
  ceiling : Map Nat
  inForce : Map Nat
  fused : Map (List Nat)
  retired : Map (List Nat)
  deadClusters : List Nat
  stage : Nat
  busy : Bool
  queue : List Request
  jobs : List Job
  ms : Nat
  calm : Nat
  laneTrips : Map (List Nat)
  reports : List (Nat × Report)
  response : Response
  powers : List Nat
  junctions : List Int
  history : List Nat
  lowered : List Nat
  activeSlot : Nat
  slots : List (List Byte)
  fresh : Bool
  recovery : Bool
  deriving DecidableEq, Repr

/-- A key slot of one direction of a Flue port (R163, R164, R178). -/
structure KeySlot where
  key : BitVec 256
  salt : Word
  invctr : DWord
  rxctr : DWord
  keyid : Byte
  state : BitVec 2
  deriving DecidableEq, Repr

/-- One direction of a Flue port (R404, R409, R410, R177). `removed` says that the port has been taken out of
its plane with its die (R422). -/
structure FlueDir where
  removed : Bool
  slots : List KeySlot
  keyAsked : Bool
  keyStall : Word
  authRetry : Word
  flitDrop : Word
  deriving DecidableEq, Repr

/-- The registers of BAR0 (R396), the AtomicOp Requester Enable bit (R401), and the unsupported request
bit of the AER registers (R396). `evFull` says that the event ring holds 2^EVLOG records: EVHEAD has come round to
EVTAIL (R131, R397). -/
structure HostRegs where
  savetab : DWord
  ctxtab : DWord
  evbase : DWord
  evlog : Word
  evhead : Word
  evtail : Word
  evFull : Bool
  nodeid : BitVec 12
  nodeSet : Bool
  hto : Word
  fto : Word
  ctext : List DWord
  ctto : List Word
  aper : List DWord
  atomicReq : Bool
  aerUr : Bool
  deriving DecidableEq, Repr

/-- The counters of the Stoker (R177). -/
structure StokerCnt where
  launchReject : Word
  stokeOverflow : Word
  launchErr : Word
  deriving DecidableEq, Repr

/-- The stores of one stream of another module at this one: the number of the next, among those that this module
performs, and those that have come before their turn or whose window is held (R146, R362, R405). -/
structure RemoteIn where
  node : Nat
  core : Nat
  stream : Nat
  next : Nat
  early : List (Nat × Nat × List Byte)
  deriving DecidableEq, Repr

/-- An RMO of another module: its sequence number there, its lanes with their records as sent, the responses, one for
each lane done, which stay stored for a retried request, and the code with which a lane has failed (R364, R406). -/
structure RemoteRmo where
  node : Nat
  seq : Nat
  op : Nat
  lanes : List LaneAcc
  records : List (List Byte)
  answers : List (List Byte × Word)
  code : BitVec 16
  deriving DecidableEq, Repr

/-- The two issue slots of a core (R222). -/
inductive Slot where
  | vector | uniform
  deriving DecidableEq, Repr

/-- Happenings for which the opcode table has no row: errors that an array corrects or finds, flits sent, a
change of the Staram, the next step of bring-up, a request with an unknown code or a field out of its range, a read of
BAR0, an RMO of another module and its service, the next attempt to land a matched message, the credit of the
virtual channels of a Bellows, the words of an accumulator region (R75, R99, R115, R160, R164, R364, R396, R402, R412,
R415, R426, R438). -/
inductive Incident where
  | rfCorrected (core : Nat)
  | spadCorrected (core : Nat)
  | memCorrected (place : Nat)
  | memUncorrectable (place : Nat)
  | expanderPoisoned (place : Nat)
  | flitSent (port : Nat)
  | keyDrained (port : Nat) (receiving : Bool)
  | staramJob
  | bringUp
  | staramInvalid
  | rmoRequest (node seq op : Nat) (lanes : List (Nat × Nat × List Byte))
  | rmoServe (node seq : Nat)
  | messageLand (die : Nat)
  | flueCredit (die comm : Nat) (flits : Option Nat)
  | accUncorrectable (core slot word : Nat)
  | bar0Read (off width : Nat)
  deriving DecidableEq, Repr

/-- An activity that moves next: a step of the hardware or of the outside, one without a row in the
table, the fetch of a clause header by one fragment, or one issue choice of one core and slot (DESIGN CHOICE, log 1). -/
inductive Act where
  | event (i : Instr)
  | incident (i : Incident)
  | header (core frag : Nat)
  | issue (core : Nat) (slot : Slot)
  deriving DecidableEq, Repr

/-- The module. -/
structure State where
  agenda : List Act
  tick : Nat
  cur : Option (Nat × Nat × DWord)
  turn : Nat
  up : Bool
  mem : Memory
  secPoison : List Nat
  capPoison : List Nat
  cores : Map Core
  dies : Map Die
  clusters : Map Cluster
  stokeQ : List (List QRec)
  launches : List Launch
  nextLaunch : Nat
  lastOffered : List Nat
  predictor : List PredEnt
  drawReqs : List DrawReq
  notices : List (DWord × DWord)
  groupRegs : List GroupReg
  groups : List (List GroupReg)
  nextGroup : Nat
  restoreReqs : List (BitVec 16 × Nat)
  saved : List SavedCtx
  host : HostRegs
  eventQ : List Event
  joins : List JoinRec
  hostOut : List (Nat × Byte)
  hostReply : List Byte
  msix : List Nat
  rstIn : List RemoteIn
  rmoIn : List RemoteRmo
  linkUp : Bool
  cxlUp : List Bool
  stoker : StokerCnt
  staram : Staram
  flue : Map FlueDir
  deriving DecidableEq, Repr

/-- Why the machine stops. No rule of the spec stops it: these stops are the model's own, for an
agenda or an instruction that the hardware cannot meet. -/
inductive Fault where
  /-- Raised by the meaning of a word when no fragment is issuing: `cur` names none. Safe: the
  hardware issues every word from a fragment. -/
  | noFragment
  /-- Raised by a step that names a core, die, cluster, port or queue that the module does not
  have (R1). Safe: such a unit does not exist. -/
  | noSuchUnit
  deriving DecidableEq, Repr

/-- Why an instruction has no meaning. -/
inductive Refusal where
  /-- Raised by `exec` for a row that has no meaning yet. Safe: it stops. -/
  | notModelled (mnemonic : String)
  deriving DecidableEq, Repr

/-! ## Reset -/

def CoreCnt.zero : CoreCnt := ⟨0, 0, 0, 0, 0, 0, 0, 0, 0, 0⟩
def DieCnt.zero : DieCnt := ⟨0, 0, [0, 0], [0, 0], 0, 0, 0, 0, 0⟩

/-- No latched weights (R344; DESIGN CHOICE, log 4). -/
def Kiln.reset : Kiln := { fmt := none, scaled := false, planes := [], task := none, reserved := none }

def CtxSlot.empty : CtxSlot := { used := false, root := 0, tfp := 0, ctxid := 0 }

/-- A core with all 66 lanes good and nothing placed (R86, R420; DESIGN CHOICE, log 4). -/
def Core.reset : Core :=
  { clkOffset := 0, good := List.range 66, enabled := true,
    ctxs := [CtxSlot.empty, CtxSlot.empty, CtxSlot.empty], active := none, reqs := [], draining := [],
    shadows := [], xinv := [], blocks := [], waves := [], frags := [], vptr := 0, uptr := 0,
    nextFrag := 0, pend := [], l1 := [], held := [], l0 := [], tlb := [], faults := [], faultWait := [],
    binds := [], trapQueue := [], cmds := [], nextCmd := 0, allocs := [], streams := [], kiln := Kiln.reset,
    cnt := CoreCnt.zero }

def Die.reset : Die :=
  { gated := false, off := false, since := 0, l2 := [], tlb := [], arms := [], landing := [], comms := [],
    rrHigh := 0, rrLow := 0, credit := [], cnt := DieCnt.zero }

def Cluster.reset : Cluster :=
  { ring := [], icache := [], prefetchDrop := 0, pinRefused := 0, shadowReplay := 0, trips := [] }

def Comm.closed : Comm :=
  { isOpen := false, ctxid := 0, root := 0, hipri := false, members := [], rank := 0, rel := [],
    chunk := 0, queue := [], closing := [], heads := [], data := [], doneCount := 0, firstErr := 0 }

def RStream.reset : RStream :=
  { snt := 0, ack := 0, issued := [], queue := [], sinceAck := 0, flushDue := false, acks := [], miss := 0 }

def KeySlot.reset : KeySlot := { key := 0, salt := 0, invctr := 0, rxctr := 0, keyid := 0, state := 0 }

def FlueDir.reset : FlueDir :=
  { removed := false, slots := [KeySlot.reset, KeySlot.reset], keyAsked := false, keyStall := 0, authRetry := 0,
    flitDrop := 0 }

/-- HTO 50, FTO 10 and CTTO 50 are given by R396; the other values are named in log 4 (DESIGN CHOICE). -/
def HostRegs.reset : HostRegs :=
  { savetab := 0, ctxtab := 0, evbase := 0, evlog := 0, evhead := 0, evtail := 0, evFull := false, nodeid := 0,
    nodeSet := false, hto := 50, fto := 10, ctext := [0, 0, 0, 0], ctto := [50, 50, 50, 50],
    aper := List.replicate 16 0, atomicReq := false, aerUr := false }

def Staram.reset : Staram :=
  { cap := 0, setPoint := [], point := [], supply := [], ceiling := [], inForce := [], fused := [],
    retired := [], deadClusters := [], stage := 0, busy := false, queue := [], jobs := [], ms := 0, calm := 0, laneTrips := [],
    reports := [], response := .none, powers := [],
    junctions := [], history := [], lowered := [], activeSlot := 0, slots := [[], []], fresh := false,
    recovery := false }

/-- The module right after reset, before the bring-up of R426 has run (DESIGN CHOICE, log 7). -/
def State.reset : State :=
  { agenda := [], tick := 0, cur := none, turn := 0, up := false, mem := [], secPoison := [],
    capPoison := [], cores := [], dies := [], clusters := [], stokeQ := List.replicate 16 [],
    launches := [], nextLaunch := 0, lastOffered := List.replicate 16 0, predictor := [],
    drawReqs := [], notices := [], groupRegs := [], groups := [], nextGroup := 0,
    restoreReqs := [], saved := [], host := HostRegs.reset, eventQ := [], joins := [],
    hostOut := [], hostReply := [], msix := [], rstIn := [], rmoIn := [], linkUp := false,
    cxlUp := [false, false, false, false], stoker := ⟨0, 0, 0⟩, staram := Staram.reset,
    flue := [] }

end Sys2Proof.Machine
end

