-- ==== Sys2Proof/Machine/Map.lean ====
section
/-! DEFINITION. Finite maps by rising keys, and byte memories in their canonical form: keys strictly
rising, and no entry equal to what an unlisted key stands for. -/

namespace Sys2Proof.Machine

/-- The value at a key, if it is listed. -/
def Map.find (m : List (Nat × α)) (k : Nat) : Option α :=
  match m with
  | [] => none
  | (i, x) :: r => if i = k then some x else Map.find r k

/-- The value at a key, or the default. -/
def Map.get (m : List (Nat × α)) (k : Nat) (d : α) : α := (Map.find m k).getD d

/-- Set a key. -/
def Map.put (m : List (Nat × α)) (k : Nat) (x : α) : List (Nat × α) :=
  match m with
  | [] => [(k, x)]
  | (i, y) :: r =>
    if k < i then (k, x) :: (i, y) :: r
    else if k = i then (k, x) :: r
    else (i, y) :: Map.put r k x

/-- Remove a key. -/
def Map.del (m : List (Nat × α)) (k : Nat) : List (Nat × α) := m.filter fun e => e.1 != k

/-- Set a key, keeping no entry equal to the default. -/
def Map.putD [DecidableEq α] (m : List (Nat × α)) (k : Nat) (x d : α) : List (Nat × α) :=
  if x = d then Map.del m k else Map.put m k x

/-- The keys rise strictly, all above a bound. -/
def Map.risesFrom (m : List (Nat × α)) (lo : Nat) : Bool :=
  match m with
  | [] => true
  | (i, _) :: r => decide (lo ≤ i) && Map.risesFrom r (i + 1)

/-- The byte at an address; an unlisted address reads as 0 (R98, R426; DESIGN CHOICE, log 3). -/
def Memory.get (m : Memory) (a : Nat) : Byte := Map.get m a 0

/-- Write one byte, keeping the canonical form. -/
def Memory.put (m : Memory) (a : Nat) (b : Byte) : Memory := Map.putD m a b 0

/-- The canonical form: rising addresses, no listed zero. -/
def Memory.wf (m : Memory) : Bool := Map.risesFrom m 0 && m.all fun c => c.2 != 0

/-- `n` bytes from an address up. -/
def Memory.read (m : Memory) (a n : Nat) : List Byte := (List.range n).map fun k => Memory.get m (a + k)

/-- Write bytes from an address up. -/
def Memory.write (m : Memory) (a : Nat) (bs : List Byte) : Memory :=
  match bs with
  | [] => m
  | b :: r => Memory.write (Memory.put m a b) (a + 1) r

/-- Little-endian value of some bytes (R6). -/
def leNat (bs : List Byte) : Nat :=
  match bs with
  | [] => 0
  | b :: r => b.toNat + 256 * leNat r

/-- The `n` low bytes of a value, lowest first (R6). -/
def toBytes (n v : Nat) : List Byte :=
  match n with
  | 0 => []
  | n + 1 => BitVec.ofNat 8 v :: toBytes n (v / 256)

/-- Bits [lo + n − 1 : lo] of a number. -/
def bitsOf (v lo n : Nat) : Nat := v / 2 ^ lo % 2 ^ n

/-- A value of `n` bytes at an offset of a record (R5, R6). -/
def recNat (bs : List Byte) (off n : Nat) : Nat := leNat ((bs.drop off).take n)

/-- A list of bytes with some of them replaced from an offset on. -/
def splice (bs : List Byte) (off : Nat) (new : List Byte) : List Byte :=
  bs.take off ++ new ++ bs.drop (off + new.length)

/-- The first entry of a list that satisfies a test is replaced by what `f` makes of it. -/
def updFirst (p : α → Bool) (f : α → α) (l : List α) : List α :=
  match l with
  | [] => []
  | x :: r => if p x then f x :: r else x :: updFirst p f r

/-- The entry at a position is replaced. -/
def updAt (l : List α) (n : Nat) (f : α → α) : List α :=
  match l, n with
  | [], _ => []
  | x :: r, 0 => f x :: r
  | x :: r, n + 1 => x :: updAt r n f

/-- A 32-bit counter that saturates (R176). -/
def satInc (c : Word) : Word := if c = BitVec.allOnes 32 then c else c + 1

/-- A 32-bit counter that saturates, raised by n (R176). -/
def satAdd (c : Word) (n : Nat) : Word := BitVec.ofNat 32 (min (c.toNat + n) 0xFFFFFFFF)

end Sys2Proof.Machine
end

