-- ==== Sys2Proof/Machine/Float.lean ====
section
/-! DEFINITION. Number formats and exact arithmetic with one rounding (R54 to R64). -/

namespace Sys2Proof.Machine

/-! ## Flags of %fpflags (R83) -/

def flNX : BitVec 6 := 1
def flUF : BitVec 6 := 2
def flOF : BitVec 6 := 4
def flDZ : BitVec 6 := 8
def flNV : BitVec 6 := 16
def flSAT : BitVec 6 := 32

/-! ## Formats -/

/-- A floating-point format: exponent bits, trailing significand bits, bias, and whether it has no
infinity (E4M3) (R55). -/
structure FFmt where
  eb : Nat
  mb : Nat
  bias : Nat
  noInf : Bool
  deriving DecidableEq, Repr

def fp64 : FFmt := ⟨11, 52, 1023, false⟩
def fp32 : FFmt := ⟨8, 23, 127, false⟩
def fp16 : FFmt := ⟨5, 10, 15, false⟩
def bf16 : FFmt := ⟨8, 7, 127, false⟩
def e5m2 : FFmt := ⟨5, 2, 15, false⟩
def e4m3 : FFmt := ⟨4, 3, 7, true⟩

/-- An integer format: width and signedness (R58). -/
structure IFmt where
  bits : Nat
  signed : Bool
  deriving DecidableEq, Repr

def IFmt.min (f : IFmt) : Int := if f.signed then -(2 ^ (f.bits - 1) : Int) else 0
def IFmt.max (f : IFmt) : Int := if f.signed then (2 ^ (f.bits - 1) : Int) - 1 else (2 ^ f.bits : Int) - 1

/-- What a format code of R54 names; BIN1 and Q4X are formats of the Kiln alone. -/
inductive NumFmt where
  | float (f : FFmt)
  | int (f : IFmt)
  | bin1
  | q4x
  deriving DecidableEq, Repr

/-- R54. -/
def numFmt (code : BitVec 4) : NumFmt :=
  match code.toNat with
  | 0 => .float fp64
  | 1 => .float fp32
  | 2 => .float fp16
  | 3 => .float bf16
  | 4 => .float e4m3
  | 5 => .float e5m2
  | 6 => .int ⟨16, true⟩
  | 7 => .int ⟨8, true⟩
  | 8 => .int ⟨8, false⟩
  | 9 => .int ⟨4, true⟩
  | 10 => .int ⟨4, false⟩
  | 11 => .int ⟨2, true⟩
  | 12 => .bin1
  | 13 => .q4x
  | 14 => .int ⟨32, true⟩
  | _ => .int ⟨32, false⟩

/-- The bits of an element of a format code (R54). -/
def fmtBits (code : BitVec 4) : Nat :=
  match code.toNat with
  | 0 => 64
  | 1 => 32
  | 2 => 16
  | 3 => 16
  | 4 => 8
  | 5 => 8
  | 6 => 16
  | 7 => 8
  | 8 => 8
  | 9 => 4
  | 10 => 4
  | 11 => 2
  | 12 => 1
  | 13 => 4
  | _ => 32

def FFmt.bits (f : FFmt) : Nat := 1 + f.eb + f.mb

/-- Magnitude code of the largest finite value (R55). -/
def FFmt.maxCode (f : FFmt) : Nat :=
  if f.noInf then 2 ^ (f.eb + f.mb) - 2 else (2 ^ f.eb - 1) * 2 ^ f.mb - 1

/-- Magnitude code of the canonical NaN (R56). -/
def FFmt.nanCode (f : FFmt) : Nat :=
  if f.noInf then 2 ^ (f.eb + f.mb) - 1 else (2 ^ f.eb - 1) * 2 ^ f.mb + 2 ^ (f.mb - 1)

/-- Magnitude code of infinity; in E4M3 that of the canonical NaN (R62). -/
def FFmt.infCode (f : FFmt) : Nat :=
  if f.noInf then f.nanCode else (2 ^ f.eb - 1) * 2 ^ f.mb

/-! ## Values -/

/-- An exact value: a NaN, an infinity, or (−1)^neg × m × 2^e. -/
inductive FVal where
  | nan (signalling : Bool)
  | inf (neg : Bool)
  | fin (neg : Bool) (m : Nat) (e : Int)
  deriving DecidableEq, Repr

/-- The value of a code (R55, R56). -/
def FFmt.value (f : FFmt) (x : Nat) : FVal :=
  let neg := decide (x / 2 ^ (f.eb + f.mb) % 2 = 1)
  let be := x / 2 ^ f.mb % 2 ^ f.eb
  let fr := x % 2 ^ f.mb
  if f.noInf && be == 2 ^ f.eb - 1 && fr == 2 ^ f.mb - 1 then .nan false
  else if !f.noInf && be == 2 ^ f.eb - 1 then
    if fr = 0 then .inf neg else .nan (decide (fr < 2 ^ (f.mb - 1)))
  else if be = 0 then .fin neg fr (1 - (f.bias : Int) - f.mb)
  else .fin neg (2 ^ f.mb + fr) ((be : Int) - f.bias - f.mb)

/-- The code of a sign and a magnitude. -/
def FFmt.signed (f : FFmt) (neg : Bool) (code : Nat) : Nat :=
  if neg then 2 ^ (f.eb + f.mb) + code else code

/-- The overflow value of R62 under a rounding mode. -/
def FFmt.overflow (f : FFmt) (rm : BitVec 2) (neg : Bool) : Nat :=
  let finite := rm == 1 || (rm == 2 && neg) || (rm == 3 && !neg)
  if finite then f.signed neg f.maxCode
  else if f.noInf then f.nanCode else f.signed neg f.infCode

/-- Whether a value between two neighbours goes to the upper magnitude: `rem` of `2^shift` above
the lower one, with `sticky` for anything below, `odd` the lower one's last bit (R61, R62). -/
def roundsUp (rm : BitVec 2) (neg odd : Bool) (rem shift : Nat) (sticky : Bool) : Bool :=
  let inexact := rem != 0 || sticky
  match rm.toNat with
  | 0 => decide (2 * rem > 2 ^ shift) || (decide (2 * rem = 2 ^ shift) && (sticky || odd))
  | 1 => false
  | 2 => inexact && !neg
  | _ => inexact && neg

/-- A rounded result: the code, its flags, and whether it is the overflow value of R62. -/
structure Rounded where
  code : Nat
  flags : BitVec 6
  overflowed : Bool
  deriving DecidableEq, Repr

/-- `Round` of R62 for (m + δ) × 2^e with 0 < δ < 1 exactly where `sticky` holds. Where it holds,
m has enough bits that the result's last place lies above 2^e. -/
def FFmt.round (f : FFmt) (rm : BitVec 2) (neg : Bool) (m : Nat) (e : Int) (sticky : Bool) : Rounded :=
  if m = 0 && !sticky then ⟨f.signed neg 0, 0, false⟩
  else
    let emin : Int := 1 - (f.bias : Int)
    let top : Int := e + (Nat.log2 m : Int)
    let q : Int := (if top < emin then emin else top) - (f.mb : Int)
    let shift : Nat := (q - e).toNat
    let up : Nat := (e - q).toNat
    let low := m * 2 ^ up / 2 ^ shift
    let rem := m * 2 ^ up % 2 ^ shift
    let n := if roundsUp rm neg (low % 2 = 1) rem shift sticky then low + 1 else low
    let code := (q - (emin - (f.mb : Int))).toNat * 2 ^ f.mb + n
    let inexact := rem != 0 || sticky
    if code > f.maxCode then ⟨f.overflow rm neg, flOF ||| flNX, true⟩
    else
      ⟨f.signed neg code,
        (if inexact then flNX else 0)
          ||| (if inexact && code != 0 && decide (code < 2 ^ f.mb) then flUF else 0), false⟩

/-- `Round(x, fmt, rm)` of R62. -/
def FFmt.roundVal (f : FFmt) (rm : BitVec 2) (x : FVal) : Nat × BitVec 6 :=
  match x with
  | .nan _ => (f.nanCode, 0)
  | .inf neg => if f.noInf then (f.nanCode, flOF) else (f.signed neg f.infCode, 0)
  | .fin neg m e => ((f.round rm neg m e false).code, (f.round rm neg m e false).flags)

def FVal.isNan : FVal → Bool
  | .nan _ => true
  | _ => false

def FVal.isSignalling : FVal → Bool
  | .nan s => s
  | _ => false

def FVal.isZero : FVal → Bool
  | .fin _ 0 _ => true
  | _ => false

def FVal.isInf : FVal → Bool
  | .inf _ => true
  | _ => false

def FVal.neg : FVal → FVal
  | .nan s => .nan s
  | .inf n => .inf (!n)
  | .fin n m e => .fin (!n) m e

/-- NV where an operand is a signalling NaN (R56). -/
def nvOf (xs : List FVal) : BitVec 6 := if xs.any FVal.isSignalling then flNV else 0

/-- (−1)^neg × m as an integer. -/
def signedNat (neg : Bool) (m : Nat) : Int := if neg then -(m : Int) else m

/-- The exact sum of two values that are no NaN; none for ∞ − ∞. A zero sum of opposite signs is +0,
or −0 under RD (R62). -/
def addVal (rm : BitVec 2) (x y : FVal) : Option FVal :=
  match x, y with
  | .inf a, .inf b => if a = b then some (.inf a) else none
  | .inf a, _ => some (.inf a)
  | _, .inf b => some (.inf b)
  | .fin a m e, .fin b n d =>
    let lo := if e ≤ d then e else d
    let v := signedNat a (m * 2 ^ (e - lo).toNat) + signedNat b (n * 2 ^ (d - lo).toNat)
    if v = 0 then
      some (.fin (if a = b then a else rm == 3) 0 0)
    else some (.fin (decide (v < 0)) v.natAbs lo)
  | _, _ => none

/-- The exact product of two values that are no NaN; none for 0 × ∞. -/
def mulVal (x y : FVal) : Option FVal :=
  match x, y with
  | .inf a, .inf b => some (.inf (a != b))
  | .inf a, .fin b n _ => if n = 0 then none else some (.inf (a != b))
  | .fin a m _, .inf b => if m = 0 then none else some (.inf (a != b))
  | .fin a m e, .fin b n d => some (.fin (a != b) (m * n) (e + d))
  | _, _ => none

/-- FADD of two values (R279). -/
def fAdd (f : FFmt) (rm : BitVec 2) (x y : FVal) : Nat × BitVec 6 :=
  if x.isNan || y.isNan then (f.nanCode, nvOf [x, y])
  else
    match addVal rm x y with
    | none => (f.nanCode, flNV)
    | some z => f.roundVal rm z

/-- FMUL of two values (R279). -/
def fMul (f : FFmt) (rm : BitVec 2) (x y : FVal) : Nat × BitVec 6 :=
  if x.isNan || y.isNan then (f.nanCode, nvOf [x, y])
  else
    match mulVal x y with
    | none => (f.nanCode, flNV)
    | some z => f.roundVal rm z

/-- FFMA of three values: one rounding; 0 × ∞ in the product raises NV whatever c holds (R279). -/
def fFma (f : FFmt) (rm : BitVec 2) (x y z : FVal) : Nat × BitVec 6 :=
  if x.isNan || y.isNan then (f.nanCode, nvOf [x, y, z])
  else
    match mulVal x y with
    | none => (f.nanCode, flNV)
    | some p => fAdd f rm p z

/-- Whether x < y for two values that are no NaN; −0 is not below +0. -/
def ltVal (x y : FVal) : Bool :=
  match x, y with
  | .inf a, .inf b => a && !b
  | .inf a, _ => a
  | _, .inf b => !b
  | .fin a m e, .fin b n d =>
    let lo := if e ≤ d then e else d
    decide (signedNat a (m * 2 ^ (e - lo).toNat) < signedNat b (n * 2 ^ (d - lo).toNat))
  | _, _ => false

def FVal.isNeg : FVal → Bool
  | .nan _ => false
  | .inf n => n
  | .fin n _ _ => n

/-- Whether x counts as less than y where −0 counts as less than +0 (R280). -/
def ltNum (x y : FVal) : Bool :=
  ltVal x y || (!ltVal y x && x.isNeg && !y.isNeg)

/-- FMIN and FMAX on codes (R280). -/
def fMinMax (f : FFmt) (isMax : Bool) (a b : Nat) : Nat × BitVec 6 :=
  let x := f.value a
  let y := f.value b
  let nv := nvOf [x, y]
  if x.isNan && y.isNan then (f.nanCode, nv)
  else if x.isNan then (b, nv)
  else if y.isNan then (a, nv)
  else if ltNum x y then (if isMax then b else a, nv)
  else (if isMax then a else b, nv)

/-- The integer nearest to m × 2^e under a rounding mode, as a magnitude, and whether it differs. -/
def roundInt (rm : BitVec 2) (neg : Bool) (m : Nat) (e : Int) : Nat × Bool :=
  if 0 ≤ e then (m * 2 ^ e.toNat, false)
  else
    let k := (-e).toNat
    let low := m / 2 ^ k
    let rem := m % 2 ^ k
    (if roundsUp rm neg (low % 2 = 1) rem k false then low + 1 else low, rem != 0)

/-- FABS and FNEG on codes: a NaN becomes the canonical NaN (R281). -/
def fSign (f : FFmt) (flip : Bool) (a : Nat) : Nat × BitVec 6 :=
  let mag := a % 2 ^ (f.eb + f.mb)
  let neg := decide (a / 2 ^ (f.eb + f.mb) % 2 = 1)
  match f.value a with
  | .nan s => (f.nanCode, if s then flNV else 0)
  | _ => (f.signed (flip && !neg) mag, 0)

/-- FRND on codes: an integral value of the same format; NX is never raised (R281). -/
def fRnd (f : FFmt) (rm : BitVec 2) (a : Nat) : Nat × BitVec 6 :=
  match f.value a with
  | .nan s => (f.nanCode, if s then flNV else 0)
  | .inf neg => (f.signed neg f.infCode, 0)
  | .fin neg m e => ((f.round rm neg (roundInt rm neg m e).1 0 false).code, 0)

/-- FCLASS on a code: a mask with one bit set (R281). -/
def fClass (f : FFmt) (a : Nat) : Nat :=
  match f.value a with
  | .nan s => if s then 2 ^ 8 else 2 ^ 9
  | .inf neg => if neg then 1 else 2 ^ 7
  | .fin neg m _ =>
    if m = 0 then (if neg then 2 ^ 3 else 2 ^ 4)
    else if m < 2 ^ f.mb then (if neg then 2 ^ 2 else 2 ^ 5)
    else (if neg then 2 ^ 1 else 2 ^ 6)

/-- FCMP under a condition code: the predicate and the flags (R270, R282). -/
def fCmp (f : FFmt) (cc : Nat) (a b : Nat) : Bool × BitVec 6 :=
  let x := f.value a
  let y := f.value b
  let un := x.isNan || y.isNan
  let lt := !un && ltVal x y
  let gt := !un && ltVal y x
  let eq := !un && !lt && !gt
  let quiet := nvOf [x, y]
  let loud := if un then flNV else 0
  match cc with
  | 0 => (eq, quiet)
  | 1 => (!eq, quiet)
  | 2 => (lt, loud)
  | 3 => (lt || eq, loud)
  | 4 => (gt, loud)
  | 5 => (gt || eq, loud)
  | 6 => (un, quiet)
  | _ => (!un, quiet)

/-! ## Conversions (R64) -/

/-- `Sat(x, fmt)` for an integer format (R62). -/
def satInt (f : IFmt) (v : Int) : Int := if v < f.min then f.min else if f.max < v then f.max else v

/-- An integer as the code of its format: the low bits (R58, R64). -/
def IFmt.code (f : IFmt) (v : Int) : Nat := (v % (2 ^ f.bits : Int)).toNat

/-- The value of a code of an integer format (R58). -/
def IFmt.value (f : IFmt) (x : Nat) : Int :=
  let y := x % 2 ^ f.bits
  if f.signed && decide (2 ^ (f.bits - 1) ≤ y) then (y : Int) - (2 ^ f.bits : Int) else y

/-- Whether every finite value of the first format is a value of the second (R64). -/
def FFmt.widerThan (b a : FFmt) : Bool :=
  decide (a.mb ≤ b.mb) && decide (a.bias ≤ b.bias) && decide (a.eb ≤ b.eb)

/-- Conversion of an exact value to a floating-point format (R64). -/
def convToFloat (f : FFmt) (rm : BitVec 2) (sat : Bool) (x : FVal) : Nat × BitVec 6 :=
  match x with
  | .nan s => (f.nanCode, if s then flNV else 0)
  | .inf neg =>
    if sat then (f.signed neg f.maxCode, flSAT)
    else if f.noInf then (f.nanCode, flOF) else (f.signed neg f.infCode, 0)
  | .fin neg m e =>
    let r := f.round rm neg m e false
    if r.overflowed && sat then (f.signed neg f.maxCode, flSAT) else (r.code, r.flags)

/-- Conversion from a float to a float: into a format that holds every finite value of the source it is exact, and
±∞ stays ±∞ whatever SAT says (R64). -/
def convFloatFloat (a b : FFmt) (rm : BitVec 2) (sat : Bool) (x : Nat) : Nat × BitVec 6 :=
  convToFloat b rm (sat && !b.widerThan a) (a.value x)

/-- Conversion of an integer to an integer format (R64). -/
def convIntInt (b : IFmt) (sat : Bool) (v : Int) : Nat × BitVec 6 :=
  if sat then (b.code (satInt b v), if satInt b v = v then 0 else flSAT) else (b.code v, 0)

/-- Conversion of a floating-point value to an integer format (R64). -/
def convFloatInt (b : IFmt) (rm : BitVec 2) (sat : Bool) (x : FVal) : Nat × BitVec 6 :=
  match x with
  | .nan _ => if sat then (b.code 0, flNV) else (b.code b.min, flNV)
  | .inf neg =>
    if sat then (b.code (if neg then b.min else b.max), flSAT) else (b.code b.min, flNV)
  | .fin neg m e =>
    let r := roundInt rm neg m e
    let v := signedNat neg r.1
    if v < b.min || b.max < v then
      if sat then (b.code (satInt b v), flSAT) else (b.code b.min, flNV)
    else (b.code v, if r.2 then flNX else 0)

/-- The exact value of a code of a floating-point or integer format. -/
def NumFmt.value (f : NumFmt) (x : Nat) : FVal :=
  match f with
  | .float f => f.value x
  | .int f => .fin (decide (f.value x < 0)) (f.value x).natAbs 0
  | .bin1 => .fin (decide (x % 2 = 1)) 1 0
  | .q4x => .fin false 0 0

/-- The result of R64 for the code x, from format A to format B: its code and its flags. -/
def convert (a b : NumFmt) (rm : BitVec 2) (sat : Bool) (x : Nat) : Nat × BitVec 6 :=
  match a, b with
  | .float a, .float b => convFloatFloat a b rm sat x
  | .float a, .int b => convFloatInt b rm sat (a.value x)
  | .int a, .int b => convIntInt b sat (a.value x)
  | a, .float b => convToFloat b rm sat (a.value x)
  | _, _ => (0, 0)

/-! ## Division and square root, correctly rounded (R285) -/

/-- The largest r with r² ≤ n, found bit by bit from bit `k − 1` down. -/
def isqrtFrom (n : Nat) (k r : Nat) : Nat :=
  match k with
  | 0 => r
  | k + 1 => if (r + 2 ^ k) * (r + 2 ^ k) ≤ n then isqrtFrom n k (r + 2 ^ k) else isqrtFrom n k r

/-- The integer square root. -/
def isqrt (n : Nat) : Nat := isqrtFrom n (Nat.log2 n / 2 + 1) 0

/-- RCP: 1 ÷ b, correctly rounded under RN (R285). -/
def fRcp (f : FFmt) (a : Nat) : Nat × BitVec 6 :=
  match f.value a with
  | .nan s => (f.nanCode, if s then flNV else 0)
  | .inf neg => (f.signed neg 0, 0)
  | .fin neg m e =>
    if m = 0 then (f.signed neg f.infCode, flDZ)
    else
      let k := Nat.log2 m + f.mb + 4
      let r := f.round 0 neg (2 ^ k / m) (-(k : Int) - e) (2 ^ k % m != 0)
      (r.code, r.flags)

/-- The root of m × 2^e as (r + δ) × 2^d with r of at least mb + 3 bits. -/
def rootParts (f : FFmt) (m : Nat) (e : Int) : Nat × Int × Bool :=
  let odd : Nat := (e % 2).toNat
  let k := f.mb + 4
  let n := m * 2 ^ (odd + 2 * k)
  let r := isqrt n
  (r, (e - odd) / 2 - k, r * r != n)

/-- SQRT, correctly rounded under RN (R285). -/
def fSqrt (f : FFmt) (a : Nat) : Nat × BitVec 6 :=
  match f.value a with
  | .nan s => (f.nanCode, if s then flNV else 0)
  | .inf neg => if neg then (f.nanCode, flNV) else (f.infCode, 0)
  | .fin neg m e =>
    if m = 0 then (f.signed neg 0, 0)
    else if neg then (f.nanCode, flNV)
    else
      let p := rootParts f m e
      let r := f.round 0 false p.1 p.2.1 p.2.2
      (r.code, r.flags)

end Sys2Proof.Machine
end

