-- ==== Sys2Proof/Machine/Regs.lean ====
section
/-! DEFINITION. Fault codes, the views of a core, and the registers of a wave: what a name reads and
writes, in a program and in a trap handler (R48, R72 to R76, R82, R83, R92, R94, R227). -/

namespace Sys2Proof.Machine

/-! ## Fault codes (R239) -/

def eIllegal : BitVec 16 := 0x0101
def ePair : BitVec 16 := 0x0102
def eSpadBounds : BitVec 16 := 0x0103
def eSpadPoison : BitVec 16 := 0x0104
def ePoisonConsumed : BitVec 16 := 0x0105
def eDivergeDepth : BitVec 16 := 0x0106
def eLpartDiverged : BitVec 16 := 0x0107
def eBarrierAlign : BitVec 16 := 0x0108
def eBindFull : BitVec 16 := 0x0109
def eFetchwBusy : BitVec 16 := 0x010A
def eFetch : BitVec 16 := 0x010B
def eTrap : BitVec 16 := 0x010C
def eXlateInvalid : BitVec 16 := 0x0201
def eXlateMalformed : BitVec 16 := 0x0202
def eXlatePerm : BitVec 16 := 0x0203
def ePagePoison : BitVec 16 := 0x0204
def eVaNoncanonical : BitVec 16 := 0x0205
def eMemPoison : BitVec 16 := 0x0206
def ePlaceUnmapped : BitVec 16 := 0x0207
def ePlaceRemote : BitVec 16 := 0x0208
def ePlaceOffline : BitVec 16 := 0x0209
def eTierLink : BitVec 16 := 0x020A
def eSysAtomicUnsupported : BitVec 16 := 0x020B
def eStokeFull : BitVec 16 := 0x020C
def eMatchFull : BitVec 16 := 0x020D
def eMatchNone : BitVec 16 := 0x020E
def eFlueLink : BitVec 16 := 0x020F
def eBarrierTarget : BitVec 16 := 0x0301
def eBarrierOverrun : BitVec 16 := 0x0302
def eOperandBounds : BitVec 16 := 0x0303
def eKilnFormat : BitVec 16 := 0x0304
def eGroupMismatch : BitVec 16 := 0x0305
def eGroupBroken : BitVec 16 := 0x0306
def eMatchLength : BitVec 16 := 0x0307
def eCmdAbandoned : BitVec 16 := 0x0308
def eLaunchRecord : BitVec 16 := 0x0401
def eShapeTimeout : BitVec 16 := 0x0402
def eShapeRange : BitVec 16 := 0x0403
def eTrapNoframe : BitVec 16 := 0x0404
def eTrapNested : BitVec 16 := 0x0405

/-- The cause of a precise trap: code, sub-code, first offending address (R230, R233). -/
structure Cause where
  code : BitVec 16
  sub : Byte
  addr : DWord
  deriving DecidableEq, Repr

def illegal (sub : Byte) : Cause := ⟨eIllegal, sub, 0⟩

/-! ## Views -/

/-- Cores are numbered 160 × die + 4 × cluster + core (R33). -/
def coreCount : Nat := 1280
def dieOf (c : Nat) : Nat := c / 160
def clusterOf (c : Nat) : Nat := c / 4

def State.core (s : State) (c : Nat) : Core := Map.get s.cores c Core.reset
def State.setCore (s : State) (c : Nat) (x : Core) : State := { s with cores := Map.put s.cores c x }
def State.updCore (s : State) (c : Nat) (f : Core → Core) : State := s.setCore c (f (s.core c))

def State.die (s : State) (d : Nat) : Die := Map.get s.dies d Die.reset
def State.setDie (s : State) (d : Nat) (x : Die) : State := { s with dies := Map.put s.dies d x }
def State.updDie (s : State) (d : Nat) (f : Die → Die) : State := s.setDie d (f (s.die d))

def State.cluster (s : State) (k : Nat) : Cluster := Map.get s.clusters k Cluster.reset
def State.setCluster (s : State) (k : Nat) (x : Cluster) : State :=
  { s with clusters := Map.put s.clusters k x }
def State.updCluster (s : State) (k : Nat) (f : Cluster → Cluster) : State :=
  s.setCluster k (f (s.cluster k))

def Core.wave? (x : Core) (w : Nat) : Option Wave := x.waves.find? fun y => y.slot == w
def Core.setWave (x : Core) (w : Wave) : Core :=
  { x with waves := updFirst (fun y => y.slot == w.slot) (fun _ => w) x.waves }
def Core.updWave (x : Core) (w : Nat) (f : Wave → Wave) : Core :=
  { x with waves := updFirst (fun y => y.slot == w) f x.waves }

def Core.frag? (x : Core) (f : Nat) : Option Frag := x.frags.find? fun y => y.id == f
def Core.setFrag (x : Core) (f : Frag) : Core :=
  { x with frags := updFirst (fun y => y.id == f.id) (fun _ => f) x.frags }
def Core.updFrag (x : Core) (f : Nat) (g : Frag → Frag) : Core :=
  { x with frags := updFirst (fun y => y.id == f) g x.frags }

def Core.block? (x : Core) (b : Nat) : Option Block := x.blocks.find? fun y => y.slot == b
def Core.setBlock (x : Core) (b : Block) : Core :=
  { x with blocks := updFirst (fun y => y.slot == b.slot) (fun _ => b) x.blocks }
def Core.updBlock (x : Core) (b : Nat) (f : Block → Block) : Core :=
  { x with blocks := updFirst (fun y => y.slot == b) f x.blocks }

/-- The block placed in a slot: of the active context, or of a shadow context, which keeps its slots (R96,
R244). -/
def Core.anyBlock? (x : Core) (k : Nat) : Option Block :=
  match x.block? k with
  | some b => some b
  | none => (x.shadows.flatMap fun c => c.blocks).find? fun b => b.slot == k

/-- The waves that stand on a core, shadow contexts' among them. -/
def Core.allWaves (x : Core) : List Wave := x.waves ++ x.shadows.flatMap fun v => v.waves

/-- A wave of a core, of a shadow context too. -/
def Core.anyWave? (x : Core) (w : Nat) : Option Wave := x.allWaves.find? fun y => y.slot == w

/-- Every wave of a core, of its shadow contexts too, is changed. -/
def Core.mapWaves (x : Core) (f : Wave → Wave) : Core :=
  { x with waves := x.waves.map f, shadows := x.shadows.map fun v => { v with waves := v.waves.map f } }

def Core.updAnyBlock (x : Core) (k : Nat) (f : Block → Block) : Core :=
  match x.block? k with
  | some _ => x.updBlock k f
  | none =>
    { x with shadows := x.shadows.map fun c =>
      { c with blocks := updFirst (fun b => b.slot == k) f c.blocks } }

/-- A change of every block of a core, of its shadow contexts too. -/
def Core.mapBlocks (x : Core) (f : Block → Block) : Core :=
  { x with blocks := x.blocks.map f,
           shadows := x.shadows.map fun c => { c with blocks := c.blocks.map f } }

/-- The fragments of a wave that run its program: a handler's fragment is not one of them. -/
def Core.fragsOf (x : Core) (w : Nat) : List Frag :=
  x.frags.filter fun f => f.wave == w && !f.handler

def Core.ctxSlot (x : Core) (k : Nat) : CtxSlot := x.ctxs.getD k CtxSlot.empty

/-- Everything the word being issued can see: its core, wave, block, fragment and its own bits. -/
structure Ctx where
  c : Nat
  core : Core
  wave : Wave
  block : Block
  frag : Frag
  word : DWord
  deriving DecidableEq, Repr

/-- The context of the word being issued. -/
def State.ctx? (s : State) : Option Ctx :=
  match s.cur with
  | none => none
  | some (c, f, w) =>
    let x := s.core c
    match x.frag? f with
    | none => none
    | some fr =>
      match x.wave? fr.wave with
      | none => none
      | some wv =>
        match x.block? wv.block with
        | none => none
        | some b => some { c := c, core := x, wave := wv, block := b, frag := fr, word := w }

/-- The core with the wave, block and fragment as the word leaves them. -/
def Ctx.saved (x : Ctx) : Core := ((x.core.setWave x.wave).setBlock x.block).setFrag x.frag

def State.save (s : State) (x : Ctx) : State := s.setCore x.c x.saved

/-! ## Lanes -/

def lanesOf (m : LaneMask) : List Nat := (List.range 64).filter fun l => m.getLsbD l

def laneBit (l : Nat) : LaneMask := 1#64 <<< l

/-- The lowest lane of a mask (R48, R78). -/
def lowLane (m : LaneMask) : Option Nat := (lanesOf m).head?

/-- A mask from the lanes that satisfy a test. -/
def maskOf (p : Nat → Bool) : LaneMask :=
  (List.range 64).foldl (fun m l => if p l then m ||| laneBit l else m) 0

/-! ## Registers of a wave (R72, R92) -/

/-- The window whose registers a name below `bound` means, where a handler runs. -/
def Wave.winFor (w : Wave) (h : Bool) (r bound : Nat) : Option Window :=
  if h && decide (r < bound) then w.win else none

def Wave.getV (w : Wave) (h : Bool) (r l : Nat) : Word :=
  match w.winFor h r 32 with
  | some n => Map.get n.v (64 * r + l) 0
  | none => Map.get w.v (64 * r + l) 0

def Wave.getS (w : Wave) (h : Bool) (r : Nat) : Word :=
  match w.winFor h r 32 with
  | some n => Map.get n.s r 0
  | none => Map.get w.s r 0

def Wave.getA (w : Wave) (h : Bool) (r : Nat) : DWord :=
  match w.winFor h r 4 with
  | some n => Map.get n.a r 0
  | none => Map.get w.a r 0

/-- A predicate over all lanes; `p0` reads as true (R14). -/
def Wave.getP (w : Wave) (h : Bool) (k : Nat) : LaneMask :=
  if k = 0 then BitVec.allOnes 64
  else
    match w.winFor h k 8 with
    | some n => Map.get n.p k 0
    | none => Map.get w.p k 0

/-- Poison bits of one lane of a vector register: bit 0 the lower half, bit 1 the upper (R76). -/
def Wave.poisonV (w : Wave) (h : Bool) (r l : Nat) : BitVec 2 :=
  match w.winFor h r 32 with
  | some n => Map.get n.vPoison (64 * r + l) 0
  | none => Map.get w.vPoison (64 * r + l) 0

def Wave.poisonS (w : Wave) (h : Bool) (r : Nat) : Bool :=
  match w.winFor h r 32 with
  | some n => n.sPoison.contains r
  | none => w.sPoison.contains r

/-- Poison of one 32-bit half of an address register. -/
def Wave.poisonA (w : Wave) (h : Bool) (r : Nat) (upper : Bool) : Bool :=
  match w.winFor h r 4 with
  | some n => n.aPoison.contains (2 * r + upper.toNat)
  | none => w.aPoison.contains (2 * r + upper.toNat)

/-- Poison of one 8-lane group of a predicate; `p0` has none. -/
def Wave.poisonP (w : Wave) (h : Bool) (k group : Nat) : Bool :=
  k != 0 && match w.winFor h k 8 with
    | some n => n.pPoison.contains (8 * k + group)
    | none => w.pPoison.contains (8 * k + group)

/-- Write one lane of a vector register and set the poison of its halves. -/
def Wave.putV (w : Wave) (h : Bool) (r l : Nat) (x : Word) (poison : BitVec 2) : Wave :=
  match w.winFor h r 32 with
  | some n =>
    { w with win := some { n with v := Map.putD n.v (64 * r + l) x 0,
                                  vPoison := Map.putD n.vPoison (64 * r + l) poison 0 } }
  | none =>
    { w with v := Map.putD w.v (64 * r + l) x 0,
             vPoison := Map.putD w.vPoison (64 * r + l) poison 0 }

def listSet (l : List Nat) (k : Nat) (on : Bool) : List Nat :=
  if on then (if l.contains k then l else k :: l) else l.filter fun j => j != k

def Wave.putS (w : Wave) (h : Bool) (r : Nat) (x : Word) (poison : Bool) : Wave :=
  match w.winFor h r 32 with
  | some n =>
    { w with win := some { n with s := Map.putD n.s r x 0, sPoison := listSet n.sPoison r poison } }
  | none => { w with s := Map.putD w.s r x 0, sPoison := listSet w.sPoison r poison }

/-- The poison of the address registers after register r has been written whole. -/
def clearA (l : List Nat) (r : Nat) : List Nat := l.filter fun j => j != 2 * r && j != 2 * r + 1

def Wave.putA (w : Wave) (h : Bool) (r : Nat) (x : DWord) : Wave :=
  match w.winFor h r 4 with
  | some n =>
    { w with win := some { n with a := Map.putD n.a r x 0, aPoison := clearA n.aPoison r } }
  | none => { w with a := Map.putD w.a r x 0, aPoison := clearA w.aPoison r }

/-- The poison of the predicates after the lanes of a mask of predicate k have been written: it goes from
each 8-lane group whose every lane is written (R76). -/
def clearP (l : List Nat) (k : Nat) (m : LaneMask) : List Nat :=
  l.filter fun j =>
    !(decide (j / 8 = k) && m.extractLsb' (8 * (j % 8)) 8 == BitVec.allOnes 8)

/-- Write a predicate in the lanes of a mask; a write to `p0` is discarded (R74). -/
def Wave.putP (w : Wave) (h : Bool) (k : Nat) (m x : LaneMask) : Wave :=
  if k = 0 then w
  else
    let new := (w.getP h k &&& ~~~m) ||| (x &&& m)
    match w.winFor h k 8 with
    | some n =>
      { w with win := some { n with p := Map.putD n.p k new 0, pPoison := clearP n.pPoison k m } }
    | none => { w with p := Map.putD w.p k new 0, pPoison := clearP w.pPoison k m }

/-! ## The fold of register writes into DACC (R227) -/

/-- One fold of a destination code and a value. -/
def foldOne (acc : Word) (d : Nat) (x : Word) : Word :=
  (acc.rotateLeft 5) ^^^ x ^^^ (BitVec.ofNat 32 d * 0x01000193#32)

def Ctx.fold (x : Ctx) (d : Nat) (v : Word) : Ctx :=
  if x.frag.handler then x
  else { x with frag := { x.frag with damper := { x.frag.damper with
    dacc := foldOne x.frag.damper.dacc d v } } }

/-! ## Reads and writes of the issuing word -/

def Ctx.v (x : Ctx) (r l : Nat) : Word := x.wave.getV x.frag.handler r l
def Ctx.s (x : Ctx) (r : Nat) : Word := x.wave.getS x.frag.handler r
def Ctx.a (x : Ctx) (r : Nat) : DWord := x.wave.getA x.frag.handler r
def Ctx.p (x : Ctx) (k : Nat) : LaneMask := x.wave.getP x.frag.handler k

/-- Even-odd pair: bits [31:0] in the even register (R57). -/
def Ctx.vPair (x : Ctx) (r l : Nat) : DWord := x.v (r + 1) l ++ x.v r l

def Ctx.writeV (x : Ctx) (d : Nat) (vals : List (Nat × Word)) : Ctx :=
  { x with wave := vals.foldl (fun w e => w.putV x.frag.handler d e.1 e.2 0) x.wave }

/-- The folded value of a vector write (R227). -/
def foldLanes (vals : List (Nat × Word)) : Word :=
  vals.foldl (fun a e => a ^^^ e.2.rotateLeft (e.1 % 32)) 0

/-- Write a vector register in the listed lanes, and fold it; no lane, no fold (R74, R227). -/
def Ctx.setV (x : Ctx) (d : Nat) (vals : List (Nat × Word)) : Ctx :=
  if vals.isEmpty then x else (x.writeV d vals).fold d (foldLanes vals)

/-- Write an FP64 pair, the even register first. -/
def Ctx.setVPair (x : Ctx) (d : Nat) (vals : List (Nat × DWord)) : Ctx :=
  (x.setV d (vals.map fun e => (e.1, e.2.extractLsb' 0 32))).setV (d + 1)
    (vals.map fun e => (e.1, e.2.extractLsb' 32 32))

def Ctx.setS (x : Ctx) (d : Nat) (v : Word) : Ctx :=
  ({ x with wave := x.wave.putS x.frag.handler d v false }).fold (256 + d) v

def Ctx.setA (x : Ctx) (d : Nat) (v : DWord) : Ctx :=
  (({ x with wave := x.wave.putA x.frag.handler d v }).fold (384 + 2 * d)
    (v.extractLsb' 0 32)).fold (385 + 2 * d) (v.extractLsb' 32 32)

/-- Write a predicate in the lanes of a mask, and fold the new mask of the predicate. -/
def Ctx.setP (x : Ctx) (d : Nat) (m val : LaneMask) : Ctx :=
  if d = 0 || m == 0 then x
  else
    let y := { x with wave := x.wave.putP x.frag.handler d m val }
    y.fold (416 + d) ((y.p d).extractLsb' 0 32 ^^^ (y.p d).extractLsb' 32 32)

/-- Raise flags in %fpflags; a handler's floating-point instructions raise none (R63, R83). -/
def Ctx.raiseFlags (x : Ctx) (f : BitVec 6) : Ctx :=
  if x.frag.handler then x else { x with wave := { x.wave with fpflags := x.wave.fpflags ||| f } }

/-- Raise SAT for saturating integer arithmetic, in a handler too: its %fpflags is that of the
interrupted wave, and only its floating-point instructions raise no flags (R63, R83). -/
def Ctx.raiseSat (x : Ctx) (f : BitVec 6) : Ctx :=
  { x with wave := { x.wave with fpflags := x.wave.fpflags ||| f } }

/-! ## Active lanes and guards (R22, R26, R48) -/

def Ctx.guardMask (x : Ctx) (g : Ctl) : LaneMask :=
  if g.gn then ~~~ (x.p g.gp.toNat) else x.p g.gp.toNat

/-- ACTIVE of R26. -/
def Ctx.active (x : Ctx) (g : Ctl) : LaneMask := x.frag.mask &&& x.guardMask g

/-- The one lane that decides a uniform instruction, where its guard holds there (R48). -/
def Ctx.uniformActive (x : Ctx) (g : Ctl) : LaneMask :=
  match lowLane x.frag.mask with
  | some l => if (x.guardMask g).getLsbD l then laneBit l else 0
  | none => 0

/-! ## Consumed poison (R76) -/

/-- A source part that an instruction reads. -/
inductive Src where
  | v (r : Nat)
  | half (r : Nat) (upper : Bool)
  | s (r : Nat)
  | a (r : Nat)
  | aHalf (r : Nat) (upper : Bool)
  | p (k : Nat)
  deriving DecidableEq, Repr

/-- Whether a source holds poison where it is read: in the lanes of a mask. Nothing is read where
no lane is active (R295, R297). -/
def Ctx.srcPoison (x : Ctx) (m : LaneMask) (r : Src) : Bool :=
  let h := x.frag.handler
  match r with
  | .v r => (lanesOf m).any fun l => x.wave.poisonV h r l != 0
  | .half r up => (lanesOf m).any fun l => (x.wave.poisonV h r l).getLsbD up.toNat
  | .s r => m != 0 && x.wave.poisonS h r
  | .a r => m != 0 && (x.wave.poisonA h r false || x.wave.poisonA h r true)
  | .aHalf r up => m != 0 && x.wave.poisonA h r up
  | .p k => (lanesOf m).any fun l => x.wave.poisonP h k (l / 8)

def Ctx.anyPoison (x : Ctx) (m : LaneMask) (rs : List Src) : Bool := rs.any (x.srcPoison m)

/-- Whether the guard reads a poisoned group, in the lanes of a mask. -/
def Ctx.guardPoison (x : Ctx) (g : Ctl) (m : LaneMask) : Bool := x.srcPoison m (.p g.gp.toNat)

/-- A vector register that the word may name: below the role budget, or the window's own
(R40, R92). -/
def Ctx.regOk (x : Ctx) (r : Nat) : Bool :=
  (x.frag.handler && decide (r < 32)) || decide (r < x.wave.budget)

/-! ## Moving past a word (R19, R246) -/

/-- The header word of the clause a fragment stands in, for ADDPC and branches. -/
def Loc.base (l : Loc) : DWord :=
  match l with
  | .header a => a
  | .word h _ _ _ => h

/-- The address of the word that stands next. -/
def Loc.addr (l : Loc) : DWord :=
  match l with
  | .header a => a
  | .word h _ _ i => h + BitVec.ofNat 64 (8 * (i + 1))

/-- The next word, or the header that follows the clause. -/
def Loc.next (l : Loc) : Loc :=
  match l with
  | .header a => .header a
  | .word h c n i =>
    if n ≤ i then .header (h + BitVec.ofNat 64 (8 * (n + 2))) else .word h c n (i + 1)

/-- Whether the word that stands next is its clause's last. -/
def Loc.isLast (l : Loc) : Bool :=
  match l with
  | .header _ => true
  | .word _ _ n i => decide (n ≤ i)

/-- The fragment after a word has issued: it stands at the next word, parks where the word carries
the switch marker (R20), and holds its slots while the clause goes on (R226). -/
def Frag.past (f : Frag) (sw : Bool) : Frag :=
  { f with loc := f.loc.next, waits := none, skip := 0, yielded := false,
           park := if sw then .switch else .none, marked := false,
           holds := !sw && !f.loc.isLast }

/-- The word has issued with its effect in `x`: the fragment moves past it. -/
def Ctx.done (x : Ctx) (sw : Bool) : Ctx := { x with frag := x.frag.past sw }

end Sys2Proof.Machine
end

