-- ==== Sys2Proof/Machine/Xlate.lean ====
section
/-! DEFINITION. Places, homes, data caches and translation (R105 to R108, R115 to R127, R149 to
R153, R181). A place is kept as its low 48 bits, CLASS and OFFSET: no access of the module reaches
another node's memory (R121). -/

namespace Sys2Proof.Machine

/-! ## Places (R120, R121) -/

def placeNode (p : Nat) : Nat := bitsOf p 48 12
def placeClass (p : Nat) : Nat := bitsOf p 44 4
def placeOff (p : Nat) : Nat := bitsOf p 0 44
/-- The key of a place of the own node. -/
def placeKey (p : Nat) : Nat := p % 2 ^ 48

/-- Data bytes of one die region: 90 GiB (R116). -/
def dieRegion : Nat := 0x1680000000

/-- Size of a block's scratchpad window: 96 granules (R120). -/
def windowSize : Nat := 0xC0000

/-- The core that a class-2 or class-3 offset names, if it exists (R120). -/
def placeCore (off : Nat) : Option Nat :=
  if 40 ≤ bitsOf off 22 6 || bitsOf off 34 10 != 0 then none
  else some (160 * bitsOf off 28 3 + 4 * bitsOf off 22 6 + bitsOf off 20 2)

/-- The bytes of scratchpad that are backed: R100's bound, 8,192 × min(SPAD, BACKED − VREG). -/
def Block.pcw (b : Block) : Nat := recNat b.record 56 4
def Block.vreg (b : Block) : Nat := bitsOf b.pcw 0 7
def Block.spadGran (b : Block) : Nat := bitsOf b.pcw 8 7
def Block.accGran (b : Block) : Nat := bitsOf b.pcw 16 7
def Block.spadBound (b : Block) : Nat := 8192 * min b.spadGran (b.backed - b.vreg)
/-- Backed accumulator bytes: backing reaches the accumulator last, and not before the full allotment is
granted (R37). -/
def Block.accBound (b : Block) : Nat :=
  if b.full then 8192 * min b.accGran (b.backed - b.vreg - b.spadGran) else 0

/-- Whether an access of n bytes at a scratchpad offset is in bounds (R100). -/
def Block.spadOk (b : Block) (o n : Nat) : Bool := decide (o + n ≤ b.spadBound)

def State.dieGated (s : State) (d : Nat) : Bool := (s.die d).gated

/-- Why a place of an own-node access does not exist, or is shut: its die region is one that `shut` names (R116, R117,
R120, R121). -/
def State.placeFaultBy (s : State) (shut : Nat → Bool) (p : Nat) : Option (BitVec 16) :=
  let off := placeOff p
  if placeNode p ≠ s.host.nodeid.toNat then some ePlaceRemote
  else
    match placeClass p with
    | 0 =>
      if bitsOf off 40 4 != 0 || decide (dieRegion ≤ bitsOf off 0 37) then some ePlaceUnmapped
      else if shut (bitsOf off 37 3) then some ePlaceOffline else none
    | 1 =>
      if decide (((s.host.ctext.getD (bitsOf off 42 2) 0).toNat) ≤ bitsOf off 0 42) then
        some ePlaceUnmapped
      else none
    | 2 =>
      match placeCore off with
      | none => some ePlaceUnmapped
      | some _ => if decide (windowSize ≤ bitsOf off 0 20) then some ePlaceUnmapped else none
    | 3 => if bitsOf off 31 13 != 0 || (placeCore off).isNone then some ePlaceUnmapped else none
    | 4 => if bitsOf off 31 13 != 0 then some ePlaceUnmapped else none
    | 5 => none
    | 6 => none
    | _ => some ePlaceUnmapped

/-- The checks of a place that are made when an access to it is translated: a region that is gated is shut (R422). -/
def State.placeFault (s : State) (p : Nat) : Option (BitVec 16) := s.placeFaultBy s.dieGated p

/-- The checks of a place that a Collier makes when it performs what has been translated, or what a pointer names: only
a die without power is shut (R422 item 3). -/
def State.farFaultAt (s : State) (p : Nat) : Option (BitVec 16) := s.placeFaultBy (fun d => (s.die d).off) p

/-! ## The home of a place (R113 to R117) -/

/-- Whether reading a place of class 0 or 1 at its home fails, and with which code (R115, R402). -/
def State.homeReadFault (s : State) (p : Nat) : Option (BitVec 16) :=
  if placeClass p = 1 then
    if !(s.cxlUp.getD (bitsOf (placeOff p) 42 2) false) then some eTierLink
    else if s.capPoison.contains (placeKey p / 64) then some eMemPoison else none
  else if s.secPoison.contains (placeKey p / 32) then some eMemPoison else none

/-- Whether writing a place of class 0 or 1 at its home fails: its port is down, or its die off (R116, R403). -/
def State.homeWriteFault (s : State) (p : Nat) : Option (BitVec 16) :=
  if placeClass p = 1 then
    if s.cxlUp.getD (bitsOf (placeOff p) 42 2) false then none else some eTierLink
  else if placeClass p = 0 && (s.die (bitsOf (placeOff p) 37 3)).off then some ePlaceOffline
  else none

def State.homeByte (s : State) (p : Nat) : Byte := Memory.get s.mem (placeKey p)

/-- A unit of `size` places from `n × size` up, every byte of which is among the cells. -/
def covers (cells : List (Nat × Byte)) (n size : Nat) : Bool :=
  (List.range size).all fun k => cells.any fun c => placeKey c.1 = n * size + k

/-- Whether a home place may be written: its die is on, or its port is up. -/
def State.homeWritable (s : State) (p : Nat) : Bool :=
  decide (placeClass p < 2) && (s.homeWriteFault p).isNone

/-- Write bytes at their homes: the one operation that changes the fast and the capacity tier. A
write of a whole sector, or a whole line of an expander, clears its poison (R115, R402). Bytes of a
gated region or of a port that is down are not written (R116, R403). -/
def State.writeHome (s : State) (cells : List (Nat × Byte)) : State :=
  let keep := cells.filter fun c => s.homeWritable c.1
  { s with
    mem := keep.foldl (fun m c => Memory.put m (placeKey c.1) c.2) s.mem,
    secPoison := s.secPoison.filter fun n => !covers keep n 32,
    capPoison := s.capPoison.filter fun n => !covers keep n 64 }

/-! ## Page attributes -/

/-- Whether the L1 or the L2 holds lines of the page (R105). -/
def Attr.inL1 (a : Attr) : Bool := a.cache == 0 || a.cache == 2
def Attr.inL2 (a : Attr) : Bool := a.cache != 3

/-! ## Data caches -/

/-- Whether a cached byte serves an access through a mapping of a scope. A clean copy that came through a narrower mapping
has escaped the wider one's acquires and FENCEs, so that it is fetched again: each mapping acts at its own scope (R182; DEDUCED,
log 82). -/
def CByte.serves (b : CByte) (scope : BitVec 3) : Bool := b.dirty || decide (scope.toNat ≤ b.scope.toNat)

/-- The byte of a cache that an access through a mapping of a scope hits. -/
def hitAt (m : Map CByte) (scope : BitVec 3) (p : Nat) : Option CByte :=
  match Map.find m (placeKey p) with
  | some b => if b.serves scope then some b else none
  | none => none

/-- The byte an access of a die, through a mapping of a scope, finds in its L2, or at home (R106). -/
def State.l2Byte (s : State) (d : Nat) (scope : BitVec 3) (p : Nat) : Byte :=
  match hitAt (s.die d).l2 scope p with
  | some b => b.val
  | none => s.homeByte p

/-- The fault of a read through the L2 of a die; a hit needs no home. -/
def State.l2Fault (s : State) (d : Nat) (scope : BitVec 3) (p : Nat) : Option (BitVec 16) :=
  match hitAt (s.die d).l2 scope p with
  | some _ => none
  | none => s.homeReadFault p

/-- The byte a core's access through a page finds. -/
def State.cachedByte (s : State) (c : Nat) (a : Attr) (p : Nat) : Byte :=
  match if a.inL1 then hitAt (s.core c).l1 a.scope p else none with
  | some b => b.val
  | none => if a.inL2 then s.l2Byte (dieOf c) a.scope p else s.homeByte p

def State.cachedFault (s : State) (c : Nat) (a : Attr) (p : Nat) : Option (BitVec 16) :=
  match if a.inL1 then hitAt (s.core c).l1 a.scope p else none with
  | some _ => none
  | none => if a.inL2 then s.l2Fault (dieOf c) a.scope p else s.homeReadFault p

/-- The places of the 32-byte sectors that some places lie in. -/
def sectorsOf (ps : List Nat) : List Nat := (ps.map fun p => p / 32).eraseDups

/-- The wider of two scopes. -/
def widerScope (a b : BitVec 3) : BitVec 3 := if a.toNat < b.toNat then b else a

/-- Fill a map of cached bytes with bytes it does not hold for an access through a mapping of a scope. A byte that
mappings of several scopes have reached has the widest of them, so that the acquires of each mapping discard it (R182,
R183). -/
def fillMap (m : Map CByte) (cells : List (Nat × Byte)) (scope : BitVec 3) : Map CByte :=
  cells.foldl (fun m c =>
    match hitAt m scope c.1 with
    | some b => Map.put m (placeKey c.1) { b with scope := widerScope b.scope scope }
    | none => Map.put m (placeKey c.1) { val := c.2, dirty := false, scope := scope }) m

def sectorPlaces (n : Nat) : List Nat := (List.range 32).map fun k => 32 * n + k

/-- Fill the L2 of a die with the sectors of some places. No line of a gated region is filled. -/
def State.fillL2 (s : State) (d : Nat) (scope : BitVec 3) (ps : List Nat) : State :=
  let cells := ((sectorsOf ps).flatMap sectorPlaces).filterMap fun p =>
    if (s.homeReadFault p).isNone && s.homeWritable p then some (placeKey p, s.homeByte p) else none
  s.updDie d fun x => { x with l2 := fillMap x.l2 cells scope }

/-- Fill the caches that a page allocates in with the sectors of some places (R95, R105). -/
def State.fill (s : State) (c : Nat) (a : Attr) (ps : List Nat) : State :=
  let s := if a.inL2 then s.fillL2 (dieOf c) a.scope ps else s
  if a.inL1 then
    let cells := ((sectorsOf ps).flatMap sectorPlaces).filterMap fun p =>
      if (s.l2Fault (dieOf c) a.scope p).isNone && s.homeWritable p then
        some (placeKey p, s.l2Byte (dieOf c) a.scope p) else none
    s.updCore c fun x => { x with l1 := fillMap x.l1 cells a.scope }
  else s

/-- The scope of a byte after an access through a page of a scope (R182). -/
def scopeAt (m : Map CByte) (k : Nat) (scope : BitVec 3) : BitVec 3 :=
  match Map.find m k with
  | some b => widerScope b.scope scope
  | none => scope

def putDirty (m : Map CByte) (cells : List (Nat × Byte)) (scope : BitVec 3) : Map CByte :=
  cells.foldl (fun m c => Map.put m (placeKey c.1)
    { val := c.2, dirty := true, scope := scopeAt m (placeKey c.1) scope }) m

/-- Write bytes where a page's policy puts a performed store: the L1, the L2, or the home. -/
def State.writeCached (s : State) (c : Nat) (a : Attr) (cells : List (Nat × Byte)) : State :=
  if a.inL1 then s.updCore c fun x => { x with l1 := putDirty x.l1 cells a.scope }
  else if a.inL2 then s.updDie (dieOf c) fun x => { x with l2 := putDirty x.l2 cells a.scope }
  else s.writeHome cells

/-- Remove cached bytes that satisfy a test. -/
def dropBytes (m : Map CByte) (q : Nat → CByte → Bool) : Map CByte :=
  m.filter fun e => !q e.1 e.2

def cleanBytes (m : Map CByte) (q : Nat → CByte → Bool) : Map CByte :=
  m.map fun e => (e.1, if q e.1 e.2 then { e.2 with dirty := false } else e.2)

/-- Write dirty L1 bytes back to the L2 of the die; those of an L2 hit become dirty there. -/
def State.l1WriteBack (s : State) (c : Nat) (q : Nat → CByte → Bool) : State :=
  let out := (s.core c).l1.filter fun e => e.2.dirty && q e.1 e.2
  let s := s.updDie (dieOf c) fun x =>
    { x with l2 := out.foldl (fun m e =>
        Map.put m e.1 { e.2 with scope := scopeAt m e.1 e.2.scope }) x.l2 }
  s.updCore c fun x => { x with l1 := cleanBytes x.l1 q }

/-- The place of the own node that a key stands for. -/
def State.placeOf (s : State) (key : Nat) : Nat := s.host.nodeid.toNat * 2 ^ 48 + key

/-- Write dirty L2 bytes back to their homes. Bytes whose home is behind a port that is down stay
dirty (R403). -/
def State.l2WriteBack (s : State) (d : Nat) (q : Nat → CByte → Bool) : State :=
  let q (k : Nat) (b : CByte) : Bool := q k b && s.homeWritable k
  let out := (s.die d).l2.filter fun e => e.2.dirty && q e.1 e.2
  let s := s.writeHome (out.map fun e => (s.placeOf e.1, e.2.val))
  s.updDie d fun x => { x with l2 := cleanBytes x.l2 q }

/-- The release column of R181 for the bytes that satisfy a test, at the wider of a page's scope and
the scope that a byte's own write carries (R192): dirty bytes go to the L2 from scope CLUSTER up, and
to the home from scope MODULE up. -/
def State.writeBack (s : State) (c : Nat) (scope : BitVec 3) (q : Nat → CByte → Bool) : State :=
  let s := s.l1WriteBack c fun p b => q p b && (scope != 0 || b.scope != 0)
  s.l2WriteBack (dieOf c) fun p b => q p b && decide (3 ≤ max scope.toNat b.scope.toNat)

/-- Whether such a write-back meets a dirty byte whose home cannot be written (R403). -/
def State.writeBackFault (s : State) (c : Nat) (scope : BitVec 3) (q : Nat → CByte → Bool) :
    Option (BitVec 16) :=
  let out (m : Map CByte) : Map CByte :=
    m.filter fun e => e.2.dirty && q e.1 e.2 && decide (3 ≤ max scope.toNat e.2.scope.toNat)
  (out (s.core c).l1 ++ out (s.die (dieOf c)).l2).findSome? fun e => s.homeWriteFault e.1

/-- The acquire column of R181: dirty bytes are written back as the release column says, then the
bytes are discarded from the L1 from scope CLUSTER up and from the L2 from scope MODULE up. The scope
is that of the page, or none to take each byte's own. No discard loses a write. -/
def State.discard (s : State) (c : Nat) (scope : Option (BitVec 3)) (q : Nat → CByte → Bool) : State :=
  let s := s.writeBack c (scope.getD 0) q
  let at_ (b : CByte) : Nat := (scope.getD b.scope).toNat
  let s := s.updCore c fun x =>
    { x with l1 := dropBytes x.l1 fun p b => q p b && !b.dirty && at_ b != 0 }
  s.updDie (dieOf c) fun x =>
    { x with l2 := dropBytes x.l2 fun p b => q p b && !b.dirty && decide (3 ≤ at_ b) }

/-- Bytes are written back to their homes and dropped from the core's L1 and its die's L2, whatever
their scope. -/
def State.flushHome (s : State) (c : Nat) (q : Nat → CByte → Bool) : State :=
  let s := s.l1WriteBack c q
  let s := s.l2WriteBack (dieOf c) q
  let s := s.updCore c fun x => { x with l1 := dropBytes x.l1 fun p b => q p b && !b.dirty }
  s.updDie (dieOf c) fun x => { x with l2 := dropBytes x.l2 fun p b => q p b && !b.dirty }

/-! ## The walk (R122 to R127, R149, R150) -/

/-- What an access does at a page (R124). -/
inductive Access where
  | read | write | atomic | fetch
  deriving DecidableEq, Repr

/-- Why a translation fails: the code, whether it is replayable, the entry and its level. -/
structure XFail where
  code : BitVec 16
  replay : Bool
  entry : Nat
  level : Nat
  deriving DecidableEq, Repr

def canonical (va : DWord) : Bool := va.sshiftRight 56 == 0 || va.sshiftRight 56 == BitVec.allOnes 64

/-- The index of a virtual address at a level (R122). -/
def vaIndex (va level : Nat) : Nat :=
  match level with
  | 0 => bitsOf va 55 2
  | 1 => bitsOf va 42 13
  | 2 => bitsOf va 29 13
  | _ => bitsOf va 16 13

/-- log2 of the page that a leaf of a level maps (R123). -/
def pageBits (level : Nat) : Nat :=
  match level with
  | 1 => 42
  | 2 => 29
  | _ => 16

def pteFrame (e : Nat) : Nat := bitsOf e 16 44 * 2 ^ 16

/-- Whether a frame names a place of class 0 or 1 of the walking node (R150). -/
def State.tableOk (s : State) (p : Nat) : Bool :=
  placeNode p == s.host.nodeid.toNat && decide (placeClass p < 2)

/-- Whether a valid entry of a level is malformed (R123, R150). -/
def State.pteBad (s : State) (level e : Nat) : Bool :=
  let frame := bitsOf e 16 44
  bitsOf e 60 4 != 0 || bitsOf e 14 2 != 0
    || (if bitsOf e 1 1 = 1 then
          level == 0 || decide (6 ≤ bitsOf e 5 3)
            || (level == 1 && bitsOf frame 0 26 != 0) || (level == 2 && bitsOf frame 0 13 != 0)
        else level == 3 || !s.tableOk (pteFrame e))

/-- Eight bytes through the L2 of a die, one indivisible read, for which any copy serves (R152). -/
def State.l2Word (s : State) (d p : Nat) : Nat :=
  leNat ((List.range 8).map fun k => s.l2Byte d 0 (p + k))

/-- The walk from a table of a level, with `left` levels below it. Its answer is the leaf and its
level. An entry that cannot be read fails the walk with the code of that read (DEDUCED, log 12). -/
def State.walkFrom (s : State) (d va : Nat) (left table : Nat) : Except XFail (Nat × Nat) :=
  let level := 3 - left
  let at_ := table + 8 * vaIndex va level
  let fault := match s.placeFault at_ with
    | some e => some e
    | none => s.l2Fault d 0 at_
  match fault with
  | some e => .error ⟨e, false, at_, level⟩
  | none =>
    let e := s.l2Word d at_
    if bitsOf e 0 1 = 0 then .error ⟨eXlateInvalid, bitsOf e 9 1 = 1, at_, level⟩
    else if s.pteBad level e then .error ⟨eXlateMalformed, false, at_, level⟩
    else if bitsOf e 1 1 = 1 then .ok (e, level)
    else
      match left with
      | 0 => .error ⟨eXlateMalformed, false, at_, level⟩
      | left + 1 => State.walkFrom s d va left (pteFrame e)

/-- A walk from a context root (R122, R150). -/
def State.walk (s : State) (d root va : Nat) : Except XFail (Nat × Nat) :=
  if !s.tableOk root then .error ⟨eXlateMalformed, false, root, 0⟩
  else s.walkFrom d va 3 root

/-- Whether a cached translation covers a 64 KiB page: its leaf maps all pages of its own size (R123, R155). -/
def TlbEnt.coversPage (e : TlbEnt) (page : Nat) : Bool :=
  e.page / 2 ^ (pageBits e.level - 16) == page / 2 ^ (pageBits e.level - 16)

/-- The translation of a page that a translation cache holds. -/
def tlbFind (l : List TlbEnt) (root page : Nat) : Option TlbEnt :=
  l.find? fun e => e.root == root && e.coversPage page

def vaPage (va : DWord) : Nat := bitsOf va.toNat 16 41

/-- The leaf for an address, from the core's translation cache, the die's, or a walk. -/
def State.leafFor (s : State) (c : Option Nat) (d root : Nat) (va : DWord) :
    Except XFail (DWord × Nat × Bool) :=
  let hit := match c with
    | some c => tlbFind (s.core c).tlb root (vaPage va)
    | none => none
  match hit <|> tlbFind (s.die d).tlb root (vaPage va) with
  | some e => .ok (e.leaf, e.level, e.aok)
  | none =>
    match s.walk d root va.toNat with
    | .error f => .error f
    | .ok (e, level) => .ok (BitVec.ofNat 64 e, level, bitsOf e 12 1 = 1)

/-- The permission a leaf must give (R124). -/
def leafAllows (acc : Access) (leaf : Nat) : Bool :=
  let r := bitsOf leaf 2 1 = 1
  let w := bitsOf leaf 3 1 = 1
  match acc with
  | .read => r
  | .write => w
  | .atomic => r && w
  | .fetch => bitsOf leaf 4 1 = 1

def leafAttr (leaf : Nat) (aok : Bool) : Attr :=
  { cache := BitVec.ofNat 2 (bitsOf leaf 10 2), scope := BitVec.ofNat 3 (bitsOf leaf 5 3),
    ev := bitsOf leaf 8 1 = 1, aok := aok }

/-- The place of the entry of a level, found along the pointers above it. -/
def State.entryPlace (s : State) (d root va level : Nat) : Option Nat :=
  (List.range (level + 1)).foldl (fun t k =>
    match t with
    | none => none
    | some t =>
      let p := t + 8 * vaIndex va k
      if k = level then some p else some (pteFrame (s.l2Word d p))) (some root)

/-- The leaf's checks of an address, with the leaf's level (R122 to R126). The entry of a permission
failure is the leaf's own place when it was walked; a cached leaf keeps its level. -/
def State.translateLeaf (s : State) (c : Option Nat) (d root : Nat) (acc : Access) (va : DWord) :
    Except XFail (Xlated × Nat) :=
  if !canonical va then .error ⟨eVaNoncanonical, false, 0, 0⟩
  else
    match s.leafFor c d root va with
    | .error f => .error f
    | .ok (leaf, level, aok) =>
      let e := leaf.toNat
      if bitsOf e 13 1 = 1 then .error ⟨ePagePoison, false, 0, level⟩
      else if !leafAllows acc e then
        .error ⟨eXlatePerm, bitsOf e 9 1 = 1,
          (s.entryPlace d root va.toNat level).getD 0, level⟩
      else
        let p := pteFrame e + bitsOf va.toNat 0 (pageBits level)
        .ok ({ place := p, attr := leafAttr e aok }, level)

/-- Translation of one address to a place that a check admits. -/
def State.translateTo (s : State) (check : Nat → Option (BitVec 16)) (c : Option Nat) (d root : Nat)
    (acc : Access) (va : DWord) : Except XFail Xlated :=
  match s.translateLeaf c d root acc va with
  | .error f => .error f
  | .ok (x, level) =>
    match check x.place with
    | some code => .error ⟨code, false, 0, level⟩
    | none => .ok x

/-- Translation of one address for an access of the own node (R121 to R126). -/
def State.translate (s : State) (c : Option Nat) (d root : Nat) (acc : Access) (va : DWord) :
    Except XFail Xlated :=
  s.translateTo s.placeFault c d root acc va

/-- Keep a translation in the translation caches of the core and the die (R127). -/
def State.cacheLeaf (s : State) (c : Option Nat) (d root : Nat) (va : DWord) : State :=
  if !canonical va then s
  else
    match s.leafFor c d root va with
    | .error _ => s
    | .ok (leaf, level, aok) =>
      let e : TlbEnt := { root := root, page := vaPage va, leaf := leaf, level := level, aok := aok }
      let add (l : List TlbEnt) := if (tlbFind l root (vaPage va)).isSome then l else e :: l
      match c with
      | none => s.updDie d fun x => { x with tlb := add x.tlb }
      | some c =>
        if (tlbFind (s.core c).tlb root (vaPage va)).isSome then s
        else
          (s.updDie d fun x => { x with tlb := add x.tlb }).updCore c fun x => { x with tlb := add x.tlb }

/-- The root of a context slot's tables. -/
def Core.rootOf (x : Core) (k : Nat) : Nat := (x.ctxSlot k).root.toNat

end Sys2Proof.Machine
end

