-- ==== Sys2Proof/Machine/Barrier.lean ====
section
/-! DEFINITION. Scratchpad bytes of a block (R97 to R100), and barrier objects at their homes
(R38, R165 to R172). -/

namespace Sys2Proof.Machine

/-! ## Scratchpad of a block -/

def Block.spadRead (b : Block) (o n : Nat) : List Byte := Memory.read b.spad o n

/-- Whether some word that the n bytes at an offset touch is poisoned (R99). -/
def Block.spadBad (b : Block) (o n : Nat) : Bool :=
  b.spadPoison.any fun w => decide (o < 4 * w + 4) && decide (4 * w < o + n)

/-- Write bytes; a write of all 4 bytes of a word clears its poison (R99). -/
def Block.spadWrite (b : Block) (o : Nat) (bs : List Byte) : Block :=
  { b with
    spad := Memory.write b.spad o bs,
    spadPoison := b.spadPoison.filter fun w =>
      !(decide (o ≤ 4 * w) && decide (4 * w + 4 ≤ o + bs.length)) }

/-! ## Barrier objects (R165, R166) -/

/-- The fields of a barrier object. -/
structure Bar where
  atgt : Nat
  apend : Nat
  bpend : Nat
  btgt : Nat
  phase : Nat
  err : Nat
  deriving DecidableEq, Repr

def Bar.ofBytes (bs : List Byte) : Bar :=
  { atgt := recNat bs 0 2, apend := recNat bs 2 2, bpend := recNat bs 4 4, btgt := recNat bs 8 4,
    phase := recNat bs 12 2, err := recNat bs 14 2 }

def Bar.toBytes (b : Bar) : List Byte :=
  Machine.toBytes 2 b.atgt ++ Machine.toBytes 2 b.apend ++ Machine.toBytes 4 b.bpend
    ++ Machine.toBytes 4 b.btgt ++ Machine.toBytes 2 b.phase ++ Machine.toBytes 2 b.err

/-- What BINIT writes (R165). -/
def Bar.init (atgt btgt : Nat) : Bar :=
  { atgt := atgt, apend := atgt, bpend := btgt, btgt := btgt, phase := 0, err := 0 }

/-- RecordErr of R166, with the number of codes lost so far. -/
def Bar.recordErr (b : Bar × Nat) (code : BitVec 16) : Bar × Nat :=
  if b.1.err = 0 then ({ b.1 with err := code.toNat }, b.2) else (b.1, b.2 + 1)

/-- The update U(a, n, code) of R166, with the number of codes it loses. -/
def Bar.update (b : Bar) (a n : Nat) (code : BitVec 16) : Bar × Nat :=
  let x := if code ≠ 0 then Bar.recordErr (b, 0) code else (b, 0)
  let x := if a > b.apend ∨ n > b.bpend then Bar.recordErr x eBarrierOverrun else x
  let apend := b.apend - min a b.apend
  let bpend := b.bpend - min n b.bpend
  if apend = 0 ∧ bpend = 0 then
    ({ x.1 with phase := (b.phase + 1) % 65536, apend := b.atgt, bpend := b.btgt }, x.2)
  else ({ x.1 with apend := apend, bpend := bpend }, x.2)

/-! ## Homes of objects (R168, R258) -/

/-- Where an object lives: a scratchpad, a memory place, or a block's allotment barrier. -/
inductive Home where
  | spad (core block off : Nat)
  | mem (place : Nat)
  | allot (core block : Nat)
  deriving DecidableEq, Repr

/-- The home of a translated place. Objects live in scratchpads and in memory only (DEDUCED, log 13). -/
def State.homeOfPlace (s : State) (p n : Nat) : Except (BitVec 16) Home :=
  match placeClass p with
  | 0 => .ok (.mem p)
  | 1 => .ok (.mem p)
  | 2 =>
    match placeCore (placeOff p) with
    | none => .error ePlaceUnmapped
    | some c =>
      match (s.core c).anyBlock? (bitsOf (placeOff p) 31 3) with
      | none => .error ePlaceUnmapped
      | some b =>
        if b.spadOk (bitsOf (placeOff p) 0 20) n then .ok (.spad c b.slot (bitsOf (placeOff p) 0 20))
        else .error ePlaceUnmapped
  | _ => .error ePlaceUnmapped

/-- The block a home lies in. -/
def State.blockAt (s : State) (c b : Nat) : Option Block := (s.core c).anyBlock? b

/-- Read n bytes at a home; the allotment barrier has ATGT 1 and BTGT 0 (R38). -/
def State.homeRead (s : State) (h : Home) (n : Nat) : List Byte :=
  match h with
  | .spad c b o =>
    match s.blockAt c b with
    | some b => b.spadRead o n
    | none => List.replicate n 0
  | .mem p => (List.range n).map fun k => s.homeByte (p + k)
  | .allot c b =>
    match s.blockAt c b with
    | some b => ({ atgt := 1, apend := 1, bpend := 0, btgt := 0, phase := b.allotPhase.toNat, err := 0 } : Bar).toBytes
    | none => List.replicate n 0

def cellsFrom (p : Nat) (bs : List Byte) : List (Nat × Byte) :=
  bs.mapIdx fun k b => (p + k, b)

/-- Write bytes at a home. -/
def State.homeWrite (s : State) (h : Home) (bs : List Byte) : State :=
  match h with
  | .spad c b o => s.updCore c fun x => x.updAnyBlock b fun y => y.spadWrite o bs
  | .mem p => s.writeHome (cellsFrom p bs)
  | .allot c b => s.updCore c fun x => x.updAnyBlock b fun y =>
      { y with allotPhase := BitVec.ofNat 16 (recNat bs 12 2) }

/-- The die whose Collier serves a memory place: the die of its region, or the port's number for
the capacity tier (DEDUCED, log 13). -/
def colliers (p : Nat) : Nat :=
  if placeClass p = 0 then bitsOf (placeOff p) 37 3 else bitsOf (placeOff p) 42 2

/-- Count lost error codes where the object's home keeps them (R166, R177). -/
def State.countErrLost (s : State) (h : Home) (n : Nat) : State :=
  if n = 0 then s
  else
    match h with
    | .spad c _ _ => s.updCore c fun x =>
        { x with cnt := { x.cnt with barrierErrLost := satAdd x.cnt.barrierErrLost n } }
    | .allot c _ => s.updCore c fun x =>
        { x with cnt := { x.cnt with barrierErrLost := satAdd x.cnt.barrierErrLost n } }
    | .mem p => s.updDie (colliers p) fun x =>
        { x with cnt := { x.cnt with barrierErrLost := satAdd x.cnt.barrierErrLost n } }

def State.barAt (s : State) (h : Home) : Bar := Bar.ofBytes (s.homeRead h 16)

/-- Apply U(a, n, code) at an object's home (R166, R168). -/
def State.barUpdate (s : State) (h : Home) (a n : Nat) (code : BitVec 16) : State :=
  let r := (s.barAt h).update a n code
  (s.homeWrite h r.1.toBytes).countErrLost h r.2

/-- Whether reading n bytes at a home fails (R99, R115, R402). -/
def State.homeFault (s : State) (h : Home) (n : Nat) : Option (BitVec 16) :=
  match h with
  | .spad c b o =>
    match s.blockAt c b with
    | some b => if b.spadBad o n then some eSpadPoison else none
    | none => some ePlaceUnmapped
  | .mem p =>
    if n = 0 then none
    else (s.homeReadFault p).or (s.homeReadFault (p + n - 1))
  | .allot _ _ => none

/-- Whether writing at a home fails (R116, R403). -/
def State.homeStoreFault (s : State) (h : Home) : Option (BitVec 16) :=
  match h with
  | .mem p => s.homeWriteFault p
  | _ => none

/-! ## Fault buffer entries (R128, R144, R154) -/

/-- CCID of a core: die [14:12], cluster [11:6], core [1:0] (R154). -/
def ccid (c : Nat) : Nat := dieOf c * 4096 + (c % 160 / 4) * 64 + c % 4

/-- Take a fault buffer entry, the lowest free index of 64, and report it to system software (R397). While
every entry is in use the access waits outside, behind those that faulted before it. -/
def State.takeFault (s : State) (c : Nat) (e : FaultEnt) : State :=
  match (List.range 64).find? fun k => (Map.find (s.core c).faults k).isNone with
  | none => s.updCore c fun x => { x with faultWait := x.faultWait ++ [e] }
  | some k =>
    let s := s.updCore c fun x => { x with faults := Map.put x.faults k e }
    { s with eventQ := s.eventQ ++ [⟨1, BitVec.ofNat 16 e.ctx, ccid c, k⟩] }

/-- Accesses that wait outside the buffer take the entries that are free now, in their order. -/
def State.refillFaults (s : State) (c : Nat) : State :=
  (s.core c).faultWait.foldl (fun s e => s.takeFault c e) (s.updCore c fun x => { x with faultWait := [] })

/-- Whether some entry, or some access that waits for one, satisfies a test. -/
def Core.anyFault (x : Core) (q : FaultEnt → Bool) : Bool :=
  x.faults.any (fun e => q e.2) || x.faultWait.any q

/-- Entries are freed, and no code is delivered (R129). -/
def Core.dropFaults (x : Core) (q : FaultEnt → Bool) : Core :=
  { x with faults := x.faults.filter fun e => !q e.2, faultWait := x.faultWait.filter fun e => !q e }

/-! ## What engine operations have written for the joins of a barrier (R192) -/

/-- Whether a record is of the object at a home. -/
def JoinRec.isAt (r : JoinRec) (h : Home) : Bool :=
  match h with
  | .spad c b o => r.spad && r.core == c && r.block == b && r.off == o
  | .mem p => !r.spad && r.off == placeKey p
  | .allot .. => false

/-- Remember lines that an engine operation has written when it lands on an object: at the L2 of a
die, or at their homes. -/
def State.noteWrites (s : State) (h : Home) (lines : List Nat) (die : Option Nat) : State :=
  if lines.isEmpty then s
  else
    match s.joins.find? fun r => r.isAt h && r.die == die with
    | some r =>
      let add (k : JoinRec) : JoinRec := { k with lines := (k.lines ++ lines).eraseDups }
      { s with joins := updFirst (fun k => k == r) add s.joins }
    | none =>
      let r : JoinRec := match h with
        | .spad c b o => ⟨true, c, b, o, lines.eraseDups, die⟩
        | .mem p => ⟨false, 0, 0, placeKey p, lines.eraseDups, die⟩
        | .allot .. => ⟨true, 0, 0, 0, [], none⟩
      match h with
      | .allot .. => s
      | _ => { s with joins := s.joins ++ [r] }

/-! ## Landings of engines and of the Stoker (R170, R172) -/

/-- The home of an object named by an engine command of a block: a scratchpad offset of the block,
or a global address of its context. -/
def State.elocHome (s : State) (c b : Nat) (l : ELoc) (n : Nat) : Except XFail Home :=
  match s.blockAt c b with
  | none => .error ⟨ePlaceUnmapped, false, 0, 0⟩
  | some blk =>
    match l with
    | .bad => .error ⟨ePlaceUnmapped, false, 0, 0⟩
    | .spad o => if blk.spadOk o n then .ok (.spad c b o) else .error ⟨ePlaceUnmapped, false, 0, 0⟩
    | .glob va =>
      match s.translate (some c) (dieOf c) ((s.core c).rootOf blk.ctx) .atomic va with
      | .error f => .error f
      | .ok x =>
        match s.homeOfPlace x.place n, s.homeWriteFault x.place with
        | .ok h, none => .ok h
        | .ok _, some e => .error ⟨e, false, 0, 0⟩
        | .error e, _ => .error ⟨e, false, 0, 0⟩

def State.countLandingDrop (s : State) (c : Nat) : State :=
  s.updCore c fun x => { x with cnt := { x.cnt with landingDrop := satInc x.cnt.landingDrop } }

/-- An update that cannot reach its barrier is counted (R142, R162, R172). -/
def State.countDropped (s : State) (d : Dropped) : State :=
  match d with
  | .none => s
  | .landing c => s.countLandingDrop c
  | .wake d => s.updDie d fun x => { x with cnt := { x.cnt with wakeDrop := satInc x.cnt.wakeDrop } }
  | .release d => s.updDie d fun x => { x with cnt := { x.cnt with releaseDrop := satInc x.cnt.releaseDrop } }

/-- The tentative block that a home lies in, where the party that reaches it is another one (R200 item 4). -/
def State.heldWindow (s : State) (own : Option (Nat × Nat)) (h : Home) : Bool :=
  match h with
  | .spad c b _ => own != some (c, b) && (match s.blockAt c b with
    | some y => y.tent
    | none => false)
  | _ => false

/-- What another party does to the window of a tentative block waits for its confirmation. -/
def State.intoWindow (s : State) (h : Home) (o : WinOp) : State :=
  match h with
  | .spad c b off => s.updCore c fun x => x.updAnyBlock b fun y => { y with inbox := y.inbox ++ [(off, o)] }
  | _ => s

/-- U(a, n, code) by a party that acts for a block, or for none: held where it reaches the window of another
block that is tentative. -/
def State.updateFor (s : State) (own : Option (Nat × Nat)) (h : Home) (a n : Nat) (code : BitVec 16)
    (drop : Dropped) : State :=
  if s.heldWindow own h then s.intoWindow h (.update a n code drop) else s.barUpdate h a n code

/-- The address that a trap on a location reports. -/
def ELoc.addr (l : ELoc) : DWord :=
  match l with
  | .spad o => BitVec.ofNat 64 o
  | .glob va => va
  | .bad => 0

/-- A barrier that an engine operation lands on cannot be reached: a replayable failure takes an entry of the fault
buffer, and what is done about the operation is `wait`; else the landing is dropped and counted (R128, R172). -/
def State.unreached (s : State) (c : Nat) (f : XFail) (e : FaultEnt) (wait : State → State) : State :=
  if f.replay then
    wait (s.takeFault c { e with entry := f.entry, kind := 4, level := f.level, perm := f.code == eXlatePerm })
  else s.countLandingDrop c

/-- An update of an engine operation at its barrier, with the lines that its joins discard (R170, R192). -/
def State.landAt (s : State) (c b : Nat) (h : Home) (l : Landing) : State :=
  (s.noteWrites h l.lines l.die).updateFor (some (c, b)) h l.a l.n l.code (.landing c)

/-- A landing waits with its block. -/
def State.keepLanding (s : State) (c b : Nat) (l : Landing) : State :=
  s.updCore c fun x => x.updAnyBlock b fun y => { y with lands := y.lands ++ [l] }

/-- A landing of an engine operation that no confirmation holds: it is made, or it stalls in the fault buffer, or it is
dropped and counted. One that would stall while its context is away waits for that (R128, R172; DEDUCED, log 87). -/
def State.landNow (s : State) (c b : Nat) (l : Landing) : State :=
  match s.elocHome c b l.bar 16 with
  | .ok h => s.landAt c b h l
  | .error f =>
    if f.replay && ((s.core c).block? b).isNone then s.keepLanding c b l
    else
    let x := s.core c
    let id := l.fault.getD x.nextCmd
    let ctxid := match s.blockAt c b with
      | some y => (x.ctxSlot y.ctx).ctxid
      | none => 0
    let e : FaultEnt := ⟨l.bar.addr, 0, l.num, 4, l.wave, 0, false, ctxid.toNat, some id, false⟩
    s.unreached c f e fun s =>
      (s.updCore c fun x => { x with nextCmd := max x.nextCmd (id + 1) }).keepLanding c b { l with fault := some id }

/-- A landing of an engine operation of a block: that of a tentative block on a global barrier waits for its
confirmation, and one behind a landing of its operation that waits does too (R200 item 2, R337). -/
def State.land (s : State) (c b : Nat) (l : Landing) : State :=
  match s.blockAt c b, l.bar with
  | some y, .glob _ =>
    if y.tent || y.lands.any (fun k => k.cmd == l.cmd) then s.keepLanding c b l else s.landNow c b l
  | _, _ => s.landNow c b l

/-- A landing of n bytes with a code on a global barrier, for an operation of a wave that is no accepted command. -/
def State.landCode (s : State) (c b w : Nat) (num : HNum) (bar : DWord) (n : Nat) (code : BitVec 16) : State :=
  let id := (s.core c).nextCmd
  (s.updCore c fun x => { x with nextCmd := id + 1 }).land c b ⟨.glob bar, 0, n, code, [], none, w, num, id, false, none⟩

/-- The next attempt at the landings of a block that wait: one whose entry stands in the fault buffer stays, with those
of its operation behind it (R128, R129). -/
def State.landAgain (s : State) (c : Nat) (b : Block) : State :=
  b.lands.foldl (fun s l =>
    let behind := match s.blockAt c b.slot with
      | some y => y.lands.any fun k => k.cmd == l.cmd
      | none => false
    if behind || l.fault.any (fun id => (s.core c).anyFault fun f => f.cmd == some id) then s.keepLanding c b.slot l
    else s.landNow c b.slot l) (s.updCore c fun x => x.updAnyBlock b.slot fun y => { y with lands := [] })

/-- The landings of the resident blocks of a core that wait for no confirmation are attempted again. -/
def State.pumpCore (s : State) (c : Nat) : State :=
  ((s.core c).blocks.filter fun b => !b.tent && !b.lands.isEmpty).foldl (fun s b => s.landAgain c b) s

/-- The same at every core. -/
def State.pumpLands (s : State) : State := s.cores.foldl (fun s e => s.pumpCore e.1) s

/-- The entry of a landing has been failed by system software: the barrier cannot be reached (R129, R172). -/
def Landing.failed (l : Landing) (id : Nat) : Landing := if l.fault = some id then { l with bar := .bad } else l

/-- One thing that waited at the window of a block is done. -/
def State.windowOp (s : State) (c b : Nat) (e : Nat × WinOp) : State :=
  match e.2 with
  | .update a n code _ => s.barUpdate (.spad c b e.1) a n code
  | .write bs => s.homeWrite (.spad c b e.1) bs

/-- A tentative block is gone: the updates that waited at its window have no barrier to reach. -/
def State.dropWindow (s : State) (y : Block) : State :=
  y.inbox.foldl (fun s e => match e.2 with
    | .update _ _ _ d => s.countDropped d
    | .write _ => s) s

end Sys2Proof.Machine
end

