-- ==== Sys2Proof/Machine/Ops.lean ====
section
/-! DEFINITION. The shared operations of issue, of outstanding operations and of traps: the ready
queue, issuing a word, taking a horizon number, the horizon, ending and killing waves, taking a trap
and returning from one (R39, R40, R47, R81, R92, R137, R173, R174, R195 to R201, R228 to R238). -/

namespace Sys2Proof.Machine

/-! ## The ready queue (R137, R224) -/

/-- A fragment enters at the tail: just before the vector slot's scan pointer. -/
def Core.enqueue (x : Core) (f : Frag) : Core :=
  if x.vptr = 0 then { x with frags := x.frags ++ [f] }
  else
    { x with frags := x.frags.take x.vptr ++ f :: x.frags.drop x.vptr,
             uptr := if x.vptr ≤ x.uptr then x.uptr + 1 else x.uptr,
             vptr := x.vptr + 1 }

/-- A scan pointer after the fragment at position i has left a queue of n fragments. -/
def ptrAfter (ptr i n : Nat) : Nat :=
  let p := if i < ptr then ptr - 1 else ptr
  if n ≤ p + 1 then 0 else p

/-- A fragment leaves the queue. -/
def Core.dequeue (x : Core) (f : Nat) : Core :=
  match x.frags.findIdx? fun y => y.id == f with
  | none => x
  | some i =>
    { x with frags := x.frags.eraseIdx i,
             vptr := ptrAfter x.vptr i x.frags.length, uptr := ptrAfter x.uptr i x.frags.length }

def Damper.reset : Damper := { dpc := 0, dacc := 0, dsig := 0, drun := 0, dem := false }

/-- A new fragment at the tail. -/
def Core.newFrag (x : Core) (wave : Nat) (m : LaneMask) (l : Loc) (st : List DivEntry)
    (handler : Bool) : Core :=
  { x.enqueue { id := x.nextFrag, wave := wave, mask := m, loc := l, waits := none, stack := st,
                park := .none, marked := false,
                damper := Damper.reset, skip := 0, yielded := false, holds := false,
                handler := handler } with nextFrag := x.nextFrag + 1 }

/-! ## Outstanding operations (R81, R173, R174) -/

/-- Whether a number lies in the wave's window (R81). -/
def Wave.inWindow (w : Wave) (n : HNum) : Bool :=
  decide ((n - w.hzn).toNat < (w.seq - w.hzn).toNat)

def Wave.openCount (w : Wave) : Nat := (w.seq - w.hzn).toNat

/-- No operation older than this one is open; a handler's operation is never provisional (R235). -/
def Wave.oldest (w : Wave) (o : Op) : Bool := o.handler || (o.num == w.hzn && !w.shp)

/-- The LDC, STC or ENGC of a fragment: its outstanding operations of a kind (R174). -/
def Core.countOf (x : Core) (f : Frag) (k : Count) : Nat :=
  (match x.wave? f.wave with
   | none => 0
   | some w => (w.ops.filter fun o => o.counted && o.count == k && o.frags.contains f.id).length)
  + (if k = .ld then
      (x.pend.filter fun p => (p.kind == .spad || p.kind == .sr) && p.frags.contains f.id).length
    else 0)

def Count.limit (k : Count) : Nat :=
  match k with
  | .eng => 15
  | _ => 63

/-- Whether a fragment may take one more operation of a count: the counter has room, the window
has room, and a handler's previous operation has resolved (R174, R195, R235). -/
def Ctx.opRoom (x : Ctx) (k : Count) : Bool :=
  (k == .none || decide (x.core.countOf x.frag k < k.limit))
    && (if x.frag.handler then !(x.wave.ops.any fun o => o.handler && o.status != .done)
        else decide (x.wave.openCount < 64))

/-- Whether an operation still owes a register: the value of an ACQ, the predicate of a TRYPH (R322, R326). -/
def Op.owes (o : Op) : Bool :=
  o.status != .done && match o.work with
    | .acq _ (some _) _ _ => true
    | .tryph _ _ k _ => k != 0
    | _ => false

/-- A result that goes to the registers and parks the fragment of a switch marker (R20). -/
def Core.resultsOut (x : Core) (f : Frag) : Bool :=
  x.countOf f .ld != 0 || (x.pend.any fun p => p.frags.contains f.id)
    || match x.wave? f.wave with
      | none => false
      | some w => w.ops.any fun o => o.owes && o.frags.contains f.id

/-- Whether some of these results keeps an access to a special register waiting: flags of the wave's earlier
words for %fpflags, a special-function result for %xv; no special function owes an s-register (R63, R93). -/
def srOwed (l : List Pend) (w num sel : Nat) : Bool :=
  l.any fun q => q.wave == w && !q.handler
    && ((num == 2 && (q.kind == .sfu || (q.kind == .cross && q.flags != 0)))
      || (num == 0x0B && q.kind == .sfu && q.regs.any fun r => r.1 == sel))

/-- Take a horizon number with the operands captured; a handler's operation takes none (R237). -/
def Ctx.addOp (x : Ctx) (count : Count) (kind : Nat) (lanes : List LaneAcc) (work : Work)
    (regions : List (DWord × Nat)) : Ctx :=
  let o : Op :=
    { num := x.wave.seq, handler := x.frag.handler, frags := [x.frag.id], count := count,
      counted := count != .none, kind := kind, pc := x.frag.loc.addr, fmask := x.frag.mask,
      lanes := lanes, work := work, regions := regions, retried := false, status := .waiting,
      escaped := false, stall := false, results := [], reach := [], answer := none, mark := none, behind := false }
  { x with wave := { x.wave with
      seq := if x.frag.handler then x.wave.seq else x.wave.seq + 1,
      ops := x.wave.ops ++ [o] } }

def Wave.op? (w : Wave) (n : HNum) : Option Op := w.ops.find? fun o => o.num == n
def Wave.updOp (w : Wave) (n : HNum) (f : Op → Op) : Wave :=
  { w with ops := updFirst (fun o => o.num == n) f w.ops }

def State.updWave (s : State) (c w : Nat) (f : Wave → Wave) : State :=
  s.updCore c fun x => x.updWave w f

def State.updOp (s : State) (c w : Nat) (n : HNum) (f : Op → Op) : State :=
  s.updWave c w fun y => y.updOp n f

/-- The operation has resolved as successful and counts no more. -/
def Op.succeed (o : Op) : Op := { o with status := .done, counted := false }

/-! ## Launch errors (R32, R39) -/

def State.countLaunchErr (s : State) : State :=
  { s with stoker := { s.stoker with launchErr := satInc s.stoker.launchErr } }

/-- Record a code against a launch: the first is kept, later ones are counted. -/
def State.launchFault (s : State) (id : Nat) (code : BitVec 16) : State :=
  match s.launches.find? fun l => l.id == id with
  | none => s
  | some l =>
    if l.err = 0 then
      { s with launches := updFirst (fun k => k.id == id) (fun k => { k with err := code }) s.launches }
    else s.countLaunchErr

/-- The launch of a wave's block. -/
def State.launchOf (s : State) (c w : Nat) : Nat :=
  match (s.core c).wave? w with
  | none => 0
  | some wv =>
    match (s.core c).block? wv.block with
    | none => 0
    | some b => b.launch

/-! ## Abandoned engine commands (R199, R221) -/

/-- An 8-byte address field of a descriptor or a record (R317, R334). -/
def elocOf (v : DWord) : ELoc :=
  if canonical v then .glob v
  else if decide (2 ^ 63 ≤ v.toNat) && decide (v.toNat - 2 ^ 63 < 786432) then .spad (v.toNat - 2 ^ 63)
  else .bad

/-- The fields of a tile-task record that every end of the task needs (R346). -/
def HRec.done (r : HRec) : DWord := BitVec.ofNat 64 (recNat r.bytes 48 8)
def HRec.count (r : HRec) : Nat := recNat r.bytes 44 4

/-- Land a task's byte count on its completion barrier, with the lines that it has written. With DONE = 0 there is no
landing, and the drop of one with a code is counted: R347 says so of a record that is refused, and the model does the same
for a task that fails while it runs or is abandoned (R346; DESIGN CHOICE, log 89). -/
def State.landTask (s : State) (r : HRec) (n : Nat) (code : BitVec 16) (lines : List Nat := [])
    (die : Option Nat := none) : State :=
  if r.done = 0 then (if code = 0 then s else s.countLandingDrop r.core)
  else s.land r.core r.block ⟨elocOf r.done, 0, n, code, lines, die, r.wave, r.num, r.id, false, none⟩

def HRec.isOf (r : HRec) (c w : Nat) (n : HNum) : Bool :=
  r.gated && r.core == c && r.wave == w && r.num == n

def EngCmd.isOf (k : EngCmd) (w : Nat) (n : HNum) : Bool := k.gated && k.wave == w && k.num == n

/-- Whether two records are the same operation of one core. -/
def HRec.same (r q : HRec) : Bool := r.core == q.core && r.id == q.id

def State.dropRec (s : State) (r : HRec) : State :=
  s.updCluster (clusterOf r.core) fun k => { k with ring := k.ring.filter fun q => !r.same q }

/-- Whether two registrations stand under one key: the gating barrier at its home, and the phase (R219). -/
def GroupReg.sameKey (a b : GroupReg) : Bool := a.gate == b.gate && a.phase == b.phase

/-- Kilns that the group being served holds are free again. -/
def State.unreserve (s : State) : State :=
  let open_ (k : Kiln) : Kiln := if k.reserved = some s.nextGroup then { k with reserved := none } else k
  { s with cores := s.cores.map fun e => (e.1, { e.2 with kiln := open_ e.2.kiln }) }

/-- A registered record is abandoned: its registration is gone, and a group that was complete waits
again for that member (DESIGN CHOICE, log 20). -/
def State.unregister (s : State) (gone : HRec → Bool) : State :=
  let hit (gs : List GroupReg) : Bool := gs.any fun g => gone g.task
  let s := match s.groups with
    | gs :: _ => if hit gs then s.unreserve else s
    | [] => s
  { s with groupRegs := (s.groupRegs ++ (s.groups.filter hit).flatten).filter fun g => !gone g.task,
           groups := s.groups.filter fun gs => !hit gs }

/-- A saved context whose members of some groups are refused: it is so when its records are in a ring again (R219 item 6;
DEDUCED, log 90). -/
def SavedCtx.refuse (v : SavedCtx) (broken : GroupReg → Bool) : SavedCtx :=
  let hit (r : HRec) : Bool := v.regs.any fun g => broken g && g.task.same r
  { v with
    recs := v.recs.map fun r => if hit r then { r with fail := eGroupBroken } else r,
    regs := v.regs.filter fun g => !broken g }

/-- Members that are registered are gone before dispatch: every other registered member of their groups is
refused, one that a saved context holds too (R219 item 6). -/
def State.refuseGroups (s : State) (keys : List GroupReg) (gone : HRec → Bool) : State :=
  let all := s.groupRegs ++ s.groups.flatten
  let broken (g : GroupReg) : Bool := keys.any fun q => q.sameKey g
  let served := match s.groups with
    | gs :: _ => gs.any broken
    | [] => false
  let s := if served then s.unreserve else s
  let s := { s with groupRegs := s.groupRegs.filter fun g => !broken g,
                    groups := s.groups.filter fun gs => !gs.any broken,
                    saved := s.saved.map fun v => v.refuse broken,
                    cores := s.cores.map fun e => (e.1, { e.2 with shadows := e.2.shadows.map fun v => v.refuse broken }) }
  ((all.filter fun g => broken g && !gone g.task).map fun g => g.task).foldl
    (fun s r => (s.dropRec r).landTask r r.count eGroupBroken) s

def State.breakGroups (s : State) (gone : HRec → Bool) : State :=
  s.refuseGroups ((s.groupRegs ++ s.groups.flatten).filter fun g => gone g.task) gone

/-- Abandon engine operations of a core: a Barrow command is stopped at its next landing, a record of the
ring lands its count with E_CMD_ABANDONED, a running task stops at its next boundary (R199, R221). -/
def State.abandonWhere (s : State) (c : Nat) (p : EngCmd → Bool) (q : HRec → Bool) : State :=
  let s := s.updCore c fun x => { x with cmds := x.cmds.map fun k =>
    if (p k) then { k with abandon := true } else k }
  let gone := (s.cluster (clusterOf c)).ring.filter q
  let s := s.updCluster (clusterOf c) fun k => { k with ring := k.ring.filter fun r => !q r }
  let s := (s.updCore c fun x => x.dropFaults fun e => gone.any fun r => e.cmd == some r.id).refillFaults c
  let s := s.unregister q
  let s := gone.foldl (fun s r => s.landTask r r.count eCmdAbandoned) s
  let mark (t : KTask) : KTask := if q t.task then { t with abandon := true } else t
  (List.range 4).foldl (fun s j => s.updCore (4 * clusterOf c + j) fun x =>
    { x with kiln := { x.kiln with task := x.kiln.task.map mark } }) s

/-- Abandon the on-core engine command of one horizon number. -/
def State.abandonEngine (s : State) (c w : Nat) (n : HNum) : State :=
  s.abandonWhere c (fun k => k.isOf w n) fun r => r.isOf c w n

/-- What a trim or a kill makes of a running task: one of the block stops at its next boundary, and one that
still needs activations of the block cannot go on (R221; DEDUCED, log 23). -/
def KTask.trimmed (t : KTask) (gone : HRec → Bool) : KTask :=
  if gone t.task then { t with stop := true, away := false }
  else if t.leader.any gone && decide (t.kblock < recNat t.task.bytes 11 1) && t.task.fail == 0 then
    { t with task := { t.task with fail := eGroupBroken } }
  else t

def State.trimTasks (s : State) (gone : HRec → Bool) : State :=
  let f (x : Core) : Core := { x with kiln := { x.kiln with task := x.kiln.task.map fun t => t.trimmed gone } }
  { s with cores := s.cores.map fun e => (e.1, f e.2) }

/-- Whether what waits at a die is the arrival of a communicator command, and no message (R172). -/
def MatchLand.arrives (m : MatchLand) : Bool := m.owed.any fun e => e.1 == 1

/-- The engine operations of a block that is trimmed or killed: its commands go, its records are squashed with
the groups that they belong to, its tasks stop, its landings that wait are gone, its entries of the matching table are
freed, and its ALLOC request is withdrawn; none of them arrives (R140, R160, R207, R219, R221). -/
def State.stopEngines (s : State) (c b : Nat) : State :=
  let gone (r : HRec) : Bool := r.core == c && r.block == b
  let away (r : HRec) : Bool := s.cores.any fun e => match e.2.kiln.task with
    | some t => t.away && t.task.same r
    | none => false
  let s := s.breakGroups gone
  let s := s.updCluster (clusterOf c) fun k => { k with ring := k.ring.filter fun r => !gone r }
  let s := s.trimTasks fun r => gone r && !away r
  let s := s.updDie (dieOf c) fun d =>
    { d with arms := d.arms.filter fun e => !(e.core == c && e.block == b),
             landing := d.landing.filter fun e => e.arrives || !(e.ent.core == c && e.ent.block == b) }
  s.updCore c fun x =>
    { (x.updBlock b fun y => { y with req := false, lands := [] }) with
      cmds := x.cmds.filter fun k => k.block != b, allocs := x.allocs.filter fun k => k != b }

/-! ## Waves that end or are killed (R39, R47, R51, R235) -/

/-- Blocks drawn by a wave end with it (R51). -/
def State.endDrawn (s : State) (ds : List Drawn) : State :=
  let less (l : Launch) : Launch := { l with live := l.live - 1 }
  ds.foldl (fun s d =>
    { s with launches := updFirst (fun l => l.id == d.launch) less s.launches }) s

/-- The wave has no fragment left. -/
def State.endWave (s : State) (c w : Nat) : State :=
  match (s.core c).wave? w with
  | none => s
  | some wv =>
    (s.endDrawn wv.drawn).updWave c w fun y => { y with ended := true, drawn := [] }

/-- Squash the held stores of a wave that satisfy a test (R107). -/
def Core.squash (x : Core) (w : Nat) (q : HNum → Bool) : Core :=
  { x with held := x.held.filter fun h => !(h.wave == w && q h.num) }

/-- Every operation of a wave is abandoned, as RTE with a mask of 0 would (R235, R236). -/
def State.abandonAll (s : State) (c w : Nat) : State :=
  match (s.core c).wave? w with
  | none => s
  | some wv =>
    let s := wv.ops.foldl (fun s o =>
      if o.kind = 6 && wv.inWindow o.num then s.abandonEngine c w o.num else s) s
    let s := s.updCore c fun x => x.squash w fun n => wv.inWindow n
    s.updWave c w fun y => { y with ops := [], hzn := y.seq }

/-- Every fragment of a wave leaves the queue, its handler's too. -/
def Core.dropFrags (x : Core) (w : Nat) : Core :=
  (x.frags.filter fun f => f.wave == w).foldl (fun x f => x.dequeue f.id) x

/-- Whether another wave of a block runs. -/
def Core.otherRuns (x : Core) (b w : Nat) : Bool := x.waves.any fun y => y.block == b && y.slot != w && !y.ended

/-- The engine operations of a killed wave: where another wave of its block runs they are abandoned;
else the block is killed with its last wave (R129, R199, R221; DEDUCED, log 64). -/
def State.killEngines (s : State) (c w : Nat) : State :=
  match (s.core c).wave? w with
  | none => s
  | some y =>
    if (s.core c).otherRuns y.block w then
      s.abandonWhere c (fun k => k.wave == w) fun r => r.core == c && r.wave == w
    else s.stopEngines c y.block

/-- The engine operations of a wave whose fault buffer entries are free stall no more: commands, records of the ring and
running tasks, commands at the Bellows, and matched messages (R129). -/
def State.unstall (s : State) (c w : Nat) : State :=
  let rec_ (r : HRec) : HRec := if r.core = c ∧ r.wave = w then { r with inFault := false } else r
  let coll (q : CollCmd) : CollCmd := if q.core = c ∧ q.wave = w then { q with inFault := false } else q
  let s := s.updCore c fun x => { x with cmds := x.cmds.map fun k =>
    if k.wave = w then { k with inFault := false } else k }
  let s := s.updCluster (clusterOf c) fun x => { x with ring := x.ring.map rec_ }
  let land (m : MatchLand) : MatchLand := if m.ent.core = c ∧ m.ent.wave = w then { m with inFault := false } else m
  let die (d : Die) : Die :=
    { d with comms := d.comms.map (fun e => (e.1, { e.2 with queue := e.2.queue.map coll })),
             landing := d.landing.map land }
  let s := { s with dies := s.dies.map fun e => (e.1, die e.2) }
  (List.range 4).foldl (fun s j => s.updCore (4 * clusterOf c + j) fun x =>
    { x with kiln := { x.kiln with task := x.kiln.task.map fun t => { t with task := rec_ t.task } } }) s

/-- A wave is killed: its fragments end, its operations are abandoned, its trap and its fault
buffer entries are gone (R47, R129). -/
def State.killWave (s : State) (c w : Nat) : State :=
  let s := (s.killEngines c w).abandonAll c w
  let s := s.updCore c fun x =>
    { (x.dropFrags w).dropFaults (fun e => e.wave == w) with
      trapQueue := x.trapQueue.filter fun j => j != w }
  let s := (s.unstall c w).refillFaults c
  let s := s.updWave c w fun y =>
    { y with trap := none, win := none, winHeld := false, frameAsked := false, heldFetchw := none, trapcause := 0 }
  s.endWave c w

/-- A failure in a trap handler: the interrupted wave is killed, the launch records E_TRAP_NESTED,
and the original cause is counted (R235). -/
def State.nestedTrap (s : State) (c w : Nat) : State :=
  let id := s.launchOf c w
  ((s.killWave c w).launchFault id eTrapNested).countLaunchErr

/-! ## Precise traps (R230) -/

/-- The issuing word traps precisely: it does nothing, and the wave issues no further word. -/
def State.raise (s : State) (x : Ctx) (t : Cause) : State :=
  if x.frag.handler then s.nestedTrap x.c x.wave.slot
  else
    let p : PreciseTrap :=
      { code := t.code, sub := t.sub, addr := t.addr, pc := x.frag.loc.addr, word := x.word,
        fmask := x.frag.mask, frag := x.frag.id }
    let s := s.updWave x.c x.wave.slot fun w => { w with trap := some p }
    s.updCore x.c fun k => { (k.updFrag x.frag.id fun f => { f with holds := false }) with
      trapQueue := k.trapQueue ++ [x.wave.slot] }

/-! ## How an operation resolves (R228, R235) -/

/-- The operation has succeeded. A success of the retry is counted; a handler's operation is gone
with its success (R228 item 3). -/
def State.finishOp (s : State) (c w : Nat) (n : HNum) : State :=
  match ((s.core c).wave? w).bind fun y => y.op? n with
  | none => s
  | some o =>
    let s := if o.retried then
        s.updCore c fun x => { x with cnt := { x.cnt with transient := satInc x.cnt.transient } }
      else s
    if o.handler then
      s.updWave c w fun y => { y with ops := y.ops.filter fun p => !(p.handler && p.num == n) }
    else s.updOp c w n Op.succeed

/-- The operation has failed lastingly; a handler's failure kills the interrupted wave. -/
def State.failLasting (s : State) (c w : Nat) (n : HNum) (code : BitVec 16) (a : DWord) : State :=
  match ((s.core c).wave? w).bind fun y => y.op? n with
  | none => s
  | some o =>
    if o.handler then s.nestedTrap c w
    else s.updOp c w n fun o => { o with status := .failed code a }

/-- An attempt has failed: the first is retried, the second is lasting (R228). -/
def State.failOp (s : State) (c w : Nat) (n : HNum) (code : BitVec 16) (a : DWord) : State :=
  match ((s.core c).wave? w).bind fun y => y.op? n with
  | none => s
  | some o =>
    if o.retried then s.failLasting c w n code a
    else s.updOp c w n fun o => { o with status := .failing code a }

/-! ## Issuing a word -/

/-- The shared prologue of a vector word: SUB 4 for a register at or above the budget, whatever
the guard; then consumed poison; then the effect, on the active lanes (R40, R76, R271, R295). -/
def issueVector (s : State) (g : Ctl) (regs : List Nat) (srcs : List Src)
    (k : Ctx → LaneMask → State) : Host.Outcome State Fault Refusal :=
  match s.ctx? with
  | none => .fault .noFragment
  | some x =>
    if !regs.all x.regOk then .next (s.raise x (illegal 4))
    else if x.guardPoison g x.frag.mask || x.anyPoison (x.active g) srcs then
      .next (s.raise x ⟨ePoisonConsumed, 0, 0⟩)
    else .next (k x (x.active g))

/-- The shared prologue of a uniform word (R48, R277): the guard counts in the lowest lane. -/
def issueUniform (s : State) (g : Ctl) (srcs : List Src) (k : Ctx → Ctx) :
    Host.Outcome State Fault Refusal :=
  match s.ctx? with
  | none => .fault .noFragment
  | some x =>
    let low := match lowLane x.frag.mask with
      | some l => laneBit l
      | none => 0
    if x.guardPoison g low || x.anyPoison (x.uniformActive g) srcs then
      .next (s.raise x ⟨ePoisonConsumed, 0, 0⟩)
    else if x.uniformActive g == 0 then .next (s.save (x.done g.sw))
    else .next (s.save ((k x).done g.sw))

/-- A demoted fragment's record with its demotion ended (R179). -/
def Frag.promoted (f : Frag) : Frag :=
  if f.damper.dem then { f with damper := { f.damper with dem := false, drun := 0 } } else f

/-- The demotion of every fragment of a wave ends. -/
def Core.clearDemotion (x : Core) (w : Nat) : Core :=
  { x with frags := x.frags.map fun f => if f.wave == w then f.promoted else f }

/-- Whether a demoted fragment of the wave has the issuing one for a sibling. -/
def Ctx.demotesSibling (x : Ctx) : Bool :=
  x.core.frags.any fun f => f.wave == x.wave.slot && f.id != x.frag.id && f.damper.dem

/-- The issuing fragment commits a store, an atomic or an arrival: where it is the sibling of a demoted
fragment, the demotion of every fragment of the wave ends, its own too (R53, R179, R227). -/
def Ctx.commitStore (x : Ctx) : Ctx :=
  if x.demotesSibling then
    { x with core := x.core.clearDemotion x.wave.slot, frag := x.frag.promoted }
  else x

/-! ## The horizon (R81, R229) -/

/-- HZN moves past every operation that has resolved as successful, or that is gone. It does not
pass a store whose held line has not drained (R107, R188). -/
def Wave.advance (held : HNum → Bool) (fuel : Nat) (w : Wave) : Wave :=
  match fuel with
  | 0 => w
  | fuel + 1 =>
    if w.shp || w.hzn = w.seq || held w.hzn then w
    else
      match w.ops.find? fun o => o.num == w.hzn && !o.handler with
      | none => Wave.advance held fuel { w with hzn := w.hzn + 1 }
      | some o =>
        if o.status = .done then
          Wave.advance held fuel { w with hzn := w.hzn + 1,
                                          ops := w.ops.filter fun p => p.handler || p.num != w.hzn }
        else w

/-- Whether a wave holds bytes of the store of a number in held lines (R107). -/
def Core.holdsStore (x : Core) (w : Nat) (n : HNum) : Bool :=
  x.held.any fun h => h.wave == w && h.num == n

/-- Whether HZN of a wave has reached a number that a WAITHZ captured. -/
def Wave.reached (w : Wave) (n : HNum) : Bool :=
  n == w.hzn || decide ((w.seq - w.hzn).toNat < (n - w.hzn).toNat)

/-- The hardware's arrival U(1, 0, 0) on the horizon barrier of a wave's slot (R170, R171). -/
def Wave.arriveHz (w : Wave) : Wave :=
  let b : Bar := { apend := 1, atgt := 1, bpend := 0, btgt := 0, phase := w.hzPhase.toNat, err := 0 }
  { w with hzPhase := BitVec.ofNat 16 (b.update 1 0 0).1.phase }

/-- Whether a fragment is parked on its wave's horizon barrier for a number that HZN has reached. -/
def Frag.hzDue (f : Frag) (w : Wave) : Bool :=
  f.wave == w.slot && match f.park with
    | .waithz n => w.reached n
    | _ => false

/-- The park on the horizon barrier ends; a switch marker's own park goes on. -/
def Frag.hzFree (f : Frag) : Frag :=
  { f with park := if f.marked then .switch else .none, marked := false }

/-- One arrival on the horizon barrier for each fragment whose captured number HZN has reached (R171). -/
def Core.arriveHz (x : Core) (w : Nat) : Core :=
  match x.wave? w with
  | none => x
  | some y =>
    let due := x.frags.filter fun f => f.hzDue y
    { x.updWave w (fun y => due.foldl (fun y _ => y.arriveHz) y) with
      frags := x.frags.map fun f => if f.hzDue y then f.hzFree else f }

/-- HZN of a wave moves as far as it may, and WAITHZ parks that it has reached end (R81 item 3, R171). -/
def Core.moveHzn (x : Core) (w : Nat) : Core :=
  (x.updWave w fun y => y.advance (x.holdsStore w) 65).arriveHz w

/-- The failure that stands at HZN, if it is to be delivered (R229). -/
def Wave.delivered (w : Wave) : Option (Op × BitVec 16 × DWord) :=
  if w.shp || w.hzn = w.seq then none
  else
    match w.ops.find? fun o => o.num == w.hzn && !o.handler with
    | none => none
    | some o =>
      match o.status with
      | .failed code a => some (o, code, a)
      | _ => none

/-- Whether the wave is stopped: a trap waits for its entry (R230, R231). -/
def Wave.stopped (w : Wave) : Bool := w.trap.isSome || w.delivered.isSome

/-! ## Operations held while provisional (R197, R200) -/

/-- Whether a release on an object is scratchpad-only (R188). -/
def spadOnly (obj : Obj) (regions : List (DWord × Nat)) (all : Bool) : Bool :=
  match obj with
  | .spad _ => regions.isEmpty && !all
  | _ => false

/-- Whether an operation waits until nothing older is open. -/
def Op.holds (o : Op) : Bool :=
  match o.work with
  | .rel obj _ all => !spadOnly obj o.regions all
  | .load .. => false
  | .uload .. => false
  | .store .. => false
  | .waitph .. => false
  | .tryph .. => false
  | .acq .. => false
  | .engine => false
  | .atomic true _ _ _ _ ord => ord.getLsbD 1
  | _ => true

/-- The bytes that an operation on an object names, as first address and size. An offset of the block's
scratchpad stands for the address 2^64 above it, and the allotment barrier for one of its own. -/
def Obj.range (b : Obj) (n : Nat) : Nat × Nat :=
  match b with
  | .spad off => (2 ^ 64 + off, n)
  | .glob va => (va.toNat, n)
  | .allot => (2 ^ 65, n)

/-- The bytes of an operation's accesses, as first address and size: of its lanes, or of its object (R191). -/
def Op.ranges (o : Op) : List (Nat × Nat) :=
  match o.work with
  | .load _ z _ => o.lanes.map fun l => (l.ea.toNat, 2 ^ z)
  | .uload _ z => o.lanes.map fun l => (l.ea.toNat, 2 ^ z)
  | .store z => o.lanes.map fun l => (l.ea.toNat, 2 ^ z)
  | .atomic spad _ _ _ w64 _ => o.lanes.map fun l =>
      (l.ea.toNat + (if spad then 2 ^ 64 else 0), if w64 then 8 else 4)
  | .rst _ w64 _ => o.lanes.map fun l => (l.ea.toNat, if w64 then 8 else 4)
  | .rmo op _ _ => o.lanes.map fun l => (l.ea.toNat, if op = 0 then 32 else if op = 1 then 16 else 8)
  | .binit b _ _ => [b.range 16]
  | .arrive b _ _ _ => [b.range 16]
  | .waitph b _ => [b.range 16]
  | .tryph b _ _ _ => [b.range 16]
  | .acq b _ _ _ => [b.range 8]
  | .rel b _ _ => [b.range 8]
  | .shape a _ => [(a.toNat, 8)]
  | .qwait h r => [(h.toNat, 16), (r.toNat, 32)]
  | .wake h _ => [(h.toNat, 16)]
  | .launch a _ => [(a.toNat, 128)]
  | _ => []

/-- Whether an operation is a load or gather (R197). -/
def Op.loads (o : Op) : Bool :=
  match o.work with
  | .load .. => true
  | .uload .. => true
  | _ => false

/-- The shape word of a block's launch (R30). -/
def Block.shapeWord (b : Block) : DWord := BitVec.ofNat 64 (recNat b.record 96 8)

/-- Whether an operation waits until nothing older is open: the held kinds, a load of a place of
class 3, 5 or 6, and a tentative block's acquire of its own shape word (R197, R200). -/
def State.opHolds (s : State) (c : Nat) (b : Block) (o : Op) : Bool :=
  o.holds
    || (o.loads && o.ranges.any fun r => [r.1, r.1 + r.2 - 1].any fun a =>
      match s.translate (some c) (dieOf c) ((s.core c).rootOf b.ctx) .read (BitVec.ofNat 64 a) with
      | .ok x => placeClass x.place == 3 || placeClass x.place == 5 || placeClass x.place == 6
      | .error _ => false)
    || (match o.work with
      | .acq (.glob va) _ _ _ => b.tent && va == b.shapeWord
      | .waitph (.glob va) _ => b.tent && va == b.shapeWord
      | .tryph (.glob va) _ _ _ => b.tent && va == b.shapeWord
      | _ => false)

/-! ## Orders within a wave (R189, R191) -/

/-- Whether an operation has neither resolved nor failed. -/
def Op.unresolved (o : Op) : Bool :=
  match o.status with
  | .done => false
  | .failed .. => false
  | _ => true

/-- Whether two operations touch one byte. -/
def Op.overlaps (o p : Op) : Bool :=
  o.ranges.any fun a => p.ranges.any fun b => decide (a.1 < b.1 + b.2) && decide (b.1 < a.1 + a.2)

/-- Whether every later access of the wave follows the operation's read and discards (R189, R190). -/
def Op.acquires (o : Op) : Bool :=
  match o.work with
  | .acq .. => true
  | .tryph .. => true
  | .fence => true
  | .atomic _ _ _ _ _ ord => ord.getLsbD 0
  | _ => false

/-- Whether an operation orders later accesses to its bytes: a WAITPH that waits does not keep the wave's
own arrival from ending it. -/
def Op.settles (o : Op) : Bool :=
  match o.work with
  | .waitph .. => false
  | _ => true

/-- Whether an access reads or writes its bytes at the core, where it finds the wave's own held lines. -/
def Op.plain (o : Op) : Bool :=
  match o.work with
  | .load .. => true
  | .uload .. => true
  | .store .. => true
  | _ => false

/-- Whether an older operation p of the wave holds o back: an acquire, or an access to the same bytes. A
store whose bytes stand in held lines holds back no plain load or store, which finds them there; every other access
reaches the home, and waits for the drain (R189 to R191, R322). -/
def Core.orders (x : Core) (w : Nat) (p o : Op) : Bool :=
  p.handler == o.handler
    && ((p.unresolved && p.acquires)
      || (p.settles && p.overlaps o && (if x.holdsStore w p.num then !o.plain else p.unresolved)))

/-- Whether a word that is performed at its issue waits for an older operation of its wave: an acquire or a
FENCE, or an access to the same bytes of the scratchpad (R189 to R191, R168, R309). -/
def Ctx.spadWaits (x : Ctx) (rs : List (Nat × Nat)) : Bool :=
  x.wave.ops.any fun p => p.unresolved && p.handler == x.frag.handler
    && (p.acquires || (p.settles && p.ranges.any fun a => rs.any fun b =>
      decide (a.1 < b.1 + b.2) && decide (b.1 < a.1 + a.2)))

/-- The operations of the wave that were issued before o. -/
def Wave.before (w : Wave) (o : Op) : List Op :=
  w.ops.takeWhile fun p => !(p.num == o.num && p.handler == o.handler)

/-- Whether an operation waits for an older one (R189, R191). -/
def Core.behind (x : Core) (w : Wave) (o : Op) : Bool :=
  (w.before o).any fun p => x.orders w.slot p o

/-- Whether a load is to be performed at the home of an UNCACHED page behind a store of its wave to such a page that is
held: the store has resolved, and is performed when it drains (R427 item 5). -/
def State.behindStore (s : State) (c : Nat) (b : Block) (w : Wave) (o : Op) : Bool :=
  o.loads && !o.handler
    && ((s.core c).held.any fun h => h.wave == w.slot && h.cache == 3
      && decide ((h.num - w.hzn).toNat < (o.num - w.hzn).toNat))
    && o.ranges.any fun r => [r.1, r.1 + r.2 - 1].any fun a =>
      match s.translate (some c) (dieOf c) ((s.core c).rootOf b.ctx) .read (BitVec.ofNat 64 a) with
      | .ok x => x.attr.cache == 3
      | .error _ => false

/-- Whether every operation of a wave has come to rest for trap entry: resolved, or held and not
performed, or waiting behind one that is held, or a store for which no held line is free. -/
def State.allAtRest (s : State) (c : Nat) (b : Block) (w : Wave) : Bool :=
  (w.ops.foldl (fun (r : Bool × List Op) o =>
    if o.handler || o.stall then r
    else if !o.unresolved then (r.1, if (s.core c).holdsStore w.slot o.num then o :: r.2 else r.2)
    else if o.status = .waiting && (!w.oldest o && (s.opHolds c b o || (s.core c).holdsStore w.slot o.num)
        || s.behindStore c b w o || r.2.any fun p => (s.core c).orders w.slot p o) then (r.1, o :: r.2)
    else (false, r.2)) (true, [])).1

/-! ## Trap entry (R231 to R233) -/

/-- The failure and the trap that an entry is for: the failure at HZN, or the precise trap once
every older operation has resolved. -/
structure Entry where
  code : BitVec 16
  sub : Byte
  addr : DWord
  pc : DWord
  word : DWord
  fmask : LaneMask
  frag : Nat
  precise : Bool
  deriving DecidableEq, Repr

def Wave.entry (w : Wave) : Option Entry :=
  match w.delivered with
  | some (o, code, a) =>
    some { code := code, sub := 0, addr := a, pc := o.pc, word := 0, fmask := o.fmask,
           frag := o.frags.headD 0, precise := false }
  | none =>
    match w.trap with
    | none => none
    | some t =>
      if w.hzn = w.seq && !w.shp then
        some { code := t.code, sub := t.sub, addr := t.addr, pc := t.pc, word := t.word,
               fmask := t.fmask, frag := t.frag, precise := true }
      else none

/-- Whether an operation is the one of the window that bit i of a map stands for: that of the number HZN + i (R233). -/
def Wave.isBit (w : Wave) (i : Nat) (o : Op) : Bool :=
  !o.handler && w.inWindow o.num && (o.num - w.hzn).toNat == i

/-- A 64-bit map over the window, of the operations that satisfy a test (R233). -/
def Wave.windowMap (w : Wave) (q : Op → Bool) : DWord := maskOf fun i => w.ops.any fun o => w.isBit i o && q o

/-- The kind of the operation that bit i stands for, and 0 where there is none (R233, R234). -/
def Wave.kindAt (w : Wave) (i : Nat) : Nat := ((w.ops.find? (w.isBit i)).map fun o => o.kind % 16).getD 0

/-- KINDS: four bits for each operation of the window (R233). -/
def Wave.kinds (w : Wave) : List Byte :=
  (List.range 32).map fun k => BitVec.ofNat 8 (w.kindAt (2 * k) + 16 * w.kindAt (2 * k + 1))

/-- The hardware's bytes of the trap frame, from byte 8 on (R233). -/
def frameBytes (w : Wave) (ctxid : BitVec 16) (e : Entry) (waithz : Bool) : List Byte :=
  let failed (o : Op) : Bool := match o.status with
    | .failed .. => true
    | _ => false
  let m (q : Op → Bool) : Nat := if e.precise then 0 else (w.windowMap q).toNat
  toBytes 2 e.code.toNat ++ [e.sub]
    ++ toBytes 1 (e.precise.toNat + 2 * w.drainTrap.toNat + 4 * waithz.toNat)
    ++ toBytes 2 w.hzn.toNat ++ toBytes 2 w.seq.toNat ++ toBytes 8 e.pc.toNat
    ++ toBytes 8 e.addr.toNat ++ toBytes 1 w.slot ++ [0] ++ toBytes 2 ctxid.toNat ++ toBytes 4 0
    ++ toBytes 8 (m fun _ => true) ++ toBytes 8 (m fun o => o.status == .done)
    ++ toBytes 8 (m failed) ++ toBytes 8 (m fun o => o.escaped)
    ++ (if e.precise then toBytes 32 0 else w.kinds) ++ toBytes 8 e.fmask.toNat ++ toBytes 8 0
    ++ toBytes 8 e.word.toNat

/-- Whether the faulting fragment is parked in WAITHZ (R233). -/
def Core.inWaithz (x : Core) (f : Nat) : Bool :=
  match x.frag? f with
  | none => false
  | some f =>
    match f.park with
    | .waithz _ => true
    | _ => false

/-- The trap windows in use or held (R92, R232). -/
def Core.windowsUsed (x : Core) : Nat :=
  (x.waves.filter fun w => w.win.isSome || w.winHeld).length

/-- Whether a wave is ready to enter its trap but for the window (R231 items 1 and 2). -/
def State.entryReady (s : State) (c : Nat) (w : Wave) : Bool :=
  match (s.core c).block? w.block with
  | none => false
  | some b => w.win.isNone && w.entry.isSome && s.allAtRest c b w

/-- The waves ahead of one in the order in which they trapped, that are ready and hold no window. -/
def State.aheadOf (s : State) (c w : Nat) : Nat :=
  (((s.core c).trapQueue.takeWhile fun j => j != w).filter fun j =>
    match (s.core c).wave? j with
    | some y => s.entryReady c y && !y.winHeld
    | none => false).length

/-! ## Return from a trap (R236 to R238) -/

/-- An operation as it was issued, with nothing of an earlier attempt (R236, R237). -/
def Op.anew (o : Op) : Op :=
  { o with status := .waiting, retried := false, stall := false, results := [], reach := [], answer := none,
           mark := none, behind := false }

/-- What RTE makes of one operation of the window under its mask bit. One that is abandoned counts as resolved
successfully, and is open until HZN has passed it (R81, R236). -/
def Op.afterRte (o : Op) (replay : Bool) : Op :=
  match o.status, replay with
  | .failed .., true => o.anew
  | .failed .., false => o.succeed
  | .waiting, true => { o with stall := false }
  | .waiting, false => o.succeed
  | _, _ => o

/-- The fragment that a precise trap stopped moves past its word; a header is fetched again. -/
def Frag.skipWord (f : Frag) : Frag :=
  match f.loc with
  | .header _ => f
  | .word .. => { f with loc := f.loc.next, waits := none }

/-- The return from a trap with a replay mask: each operation of the window is replayed or
abandoned, the window is discarded, HZN moves on, and every fragment resumes where it stood. -/
def State.returnFromTrap (s : State) (c w : Nat) (mask : DWord) : State :=
  match (s.core c).wave? w with
  | none => s
  | some wv =>
    match wv.win with
    | none => s
    | some win =>
      let bit (o : Op) : Bool := mask.getLsbD (o.num - wv.hzn).toNat
      let old := wv.ops.filter fun o => !o.handler
      let gone := old.filter fun o => o.status == .done && !bit o
      let s := gone.foldl (fun s o => if o.kind = 6 then s.abandonEngine c w o.num else s) s
      let s := s.updCore c fun x => x.squash w fun n =>
        wv.inWindow n && !mask.getLsbD (n - wv.hzn).toNat
      let s := s.updCore c fun x =>
        ((x.frags.filter fun f => f.wave == w && f.handler).foldl (fun x f => x.dequeue f.id) x)
      let s := s.updWave c w fun y =>
        { y with ops := old.map fun o => o.afterRte (bit o), win := none, trapcause := 0 }
      let s := s.updCore c fun x => x.moveHzn w
      if win.precise && !mask.getLsbD 0 then
        s.updCore c fun x => x.updFrag win.frag Frag.skipWord
      else s

end Sys2Proof.Machine
end

