-- ==== Sys2Proof/Machine/Operands.lean ====
section
/-! DEFINITION. Operand forms of compute words: source B of formats VX and UN, register pairs, and
the registers and parts that a word reads (R251 to R255, R266, R273). -/

namespace Sys2Proof.Machine

/-! ## Format VX (R253, R273) -/

/-- Vector registers that source B names. -/
def bRegs (o : VX) : List Nat := if o.bk = 0 then [o.b.toNat] else []

/-- Vector registers that an FP64 source B names. -/
def bPairRegs (o : VX) : List Nat := if o.bk = 0 then [o.b.toNat, o.b.toNat + 1] else []

/-- The s-register of B[6:0]. -/
def bUni (o : VX) : Nat := (o.b.extractLsb' 0 7).toNat

/-- What source B reads. -/
def bSrcs (o : VX) : List Src :=
  if o.bk = 0 then [.v o.b.toNat] else if o.bk = 1 then [.s (bUni o)] else []

/-- What an FP64 source B reads. -/
def bPairSrcs (o : VX) : List Src :=
  if o.bk = 0 then [.v o.b.toNat, .v (o.b.toNat + 1)]
  else if o.bk = 1 then [.s (bUni o), .s (bUni o + 1)] else []

/-- Source B of an integer word in a lane: register, uniform, or sign-extended IMM16. -/
def bInt (x : Ctx) (o : VX) (l : Nat) : Word :=
  if o.bk = 0 then x.v o.b.toNat l
  else if o.bk = 1 then x.s (bUni o)
  else o.imm16.signExtend 32

/-- Source B of an FP32 word: IMM16 supplies bits [31:16]. -/
def bF32 (x : Ctx) (o : VX) (l : Nat) : Word :=
  if o.bk = 0 then x.v o.b.toNat l
  else if o.bk = 1 then x.s (bUni o)
  else o.imm16 ++ (0#16)

/-- Source B of a packed word: IMM16 supplies both elements. -/
def bPacked (x : Ctx) (o : VX) (l : Nat) : Word :=
  if o.bk = 0 then x.v o.b.toNat l
  else if o.bk = 1 then x.s (bUni o)
  else o.imm16 ++ o.imm16

/-- Source B of an FP64 word: a pair, or IMM16 in bits [63:48]. -/
def bF64 (x : Ctx) (o : VX) (l : Nat) : DWord :=
  if o.bk = 0 then x.vPair o.b.toNat l
  else if o.bk = 1 then x.s (bUni o + 1) ++ x.s (bUni o)
  else o.imm16 ++ (0#48)

/-- The 32-bit source of CVT; an immediate is extended as T2 says. -/
def bCvt (x : Ctx) (o : VX) (l : Nat) : Word :=
  if o.bk = 0 then x.v o.b.toNat l
  else if o.bk = 1 then x.s (bUni o)
  else if o.t2 = 14 || o.t2 = 6 || o.t2 = 7 then o.imm16.signExtend 32
  else if o.t2 = 1 then o.imm16 ++ (0#16)
  else o.imm16.zeroExtend 32

/-! ## Format UN (R255, R277) -/

/-- Whether a UN word takes IMM32 in place of B. -/
def unImm (o : UN) : Bool := o.bk == 2

/-- Source B of a uniform word. -/
def uB (x : Ctx) (o : UN) : Word := if unImm o then o.imm32 else x.s o.b.toNat

/-- The address register of a uniform code 0x80 to 0x8F. -/
def aCode (c : BitVec 8) : Nat := (c.extractLsb' 0 4).toNat

/-- What source B of a uniform word reads. -/
def uBSrcs (o : UN) : List Src := if unImm o then [] else [.s o.b.toNat]

/-! ## Compact halves (R266) -/

/-- A half as the full word of its operation. -/
def compactVX (h : Compact) : VX :=
  { d := h.d, a := h.a, b := h.b, c := 0, bk := if h.bu then 1 else 0, rm := 0, sat := false,
    t := 0, t2 := 0, mode := 0 }

/-- The vector registers a half names; fields it does not use are not counted (R267). -/
def compactRegs (h : Compact) : List Nat :=
  [h.d.toNat] ++ (if copOneSource h.cop then [] else [h.a.toNat])
    ++ (if h.bu then [] else [h.b.toNat])

/-- What a half reads. -/
def compactSrcs (h : Compact) : List Src :=
  (if copOneSource h.cop then [] else [.v h.a.toNat]) ++ bSrcs (compactVX h)

end Sys2Proof.Machine
end

