-- ==== Sys2Proof/Machine/Flags.lean ====
section
/-! DEFINITION. The flags that vector words raise and the comparisons they make: integer condition
codes, saturation, and lane operations on the formats of R278 (R63, R83, R270, R275, R278 to R284). -/

namespace Sys2Proof.Machine

/-- A lane's result and its flags. -/
abbrev LaneRes := Word × BitVec 6

/-- The OR of the flags of the active lanes (R63). -/
def orFlags (fs : List (BitVec 6)) : BitVec 6 := fs.foldl (fun a f => a ||| f) 0

/-- ICMP and UCMP under a condition code (R270, R276). -/
def intCmp (cc : BitVec 5) (a b : Word) : Bool :=
  match cc.toNat with
  | 0 => a == b
  | 1 => a != b
  | 2 => a.slt b
  | 3 => a.sle b
  | 4 => b.slt a
  | 5 => b.sle a
  | 6 => a.ult b
  | 7 => a.ule b
  | 8 => b.ult a
  | _ => b.ule a

/-- An exact integer result, wrapped, or clamped to INT32 with SAT raised where the clamp changes
it (R275). -/
def satResult (sat : Bool) (v : Int) : LaneRes :=
  let clamped := satInt ⟨32, true⟩ v
  if sat then (BitVec.ofInt 32 clamped, if clamped = v then 0 else flSAT)
  else (BitVec.ofInt 32 v, 0)

/-- A lane operation on one element of a word: FP32. -/
def onF32 (r : Nat × BitVec 6) : LaneRes := (BitVec.ofNat 32 r.1, r.2)

/-- A lane operation on both 16-bit elements of a word (R278). -/
def onPacked (f : Nat → Nat × BitVec 6) : LaneRes :=
  (BitVec.ofNat 16 (f 1).1 ++ BitVec.ofNat 16 (f 0).1, (f 0).2 ||| (f 1).2)

/-- Element e of a packed word (R57). -/
def elem16 (w : Word) (e : Nat) : Nat := (w.extractLsb' (16 * e) 16).toNat

/-- Element j of a word of 8-bit elements (R57). -/
def elem8 (w : Word) (j : Nat) : Nat := (w.extractLsb' (8 * j) 8).toNat

/-! ## Writing the results of the active lanes (R63, R74) -/

/-- Write a vector register in the lanes of a mask and raise the OR of the flags. -/
def Ctx.setLanes (x : Ctx) (d : Nat) (m : LaneMask) (f : Nat → LaneRes) : Ctx :=
  let rs := (lanesOf m).map fun l => (l, f l)
  (x.setV d (rs.map fun r => (r.1, r.2.1))).raiseFlags (orFlags (rs.map fun r => r.2.2))

/-- The same for integer arithmetic, which raises SAT in a handler too (R83). -/
def Ctx.setIntLanes (x : Ctx) (d : Nat) (m : LaneMask) (f : Nat → LaneRes) : Ctx :=
  (x.setLanes d m f).raiseSat (orFlags ((lanesOf m).map fun l => (f l).2))

/-- The same for an FP64 pair. -/
def Ctx.setPairLanes (x : Ctx) (d : Nat) (m : LaneMask) (f : Nat → DWord × BitVec 6) : Ctx :=
  let rs := (lanesOf m).map fun l => (l, f l)
  (x.setVPair d (rs.map fun r => (r.1, r.2.1))).raiseFlags (orFlags (rs.map fun r => r.2.2))

/-- Write a predicate in the lanes of a mask and raise the OR of the flags. -/
def Ctx.setPredLanes (x : Ctx) (d : Nat) (m : LaneMask) (f : Nat → Bool × BitVec 6) : Ctx :=
  (x.setP d m (maskOf fun l => m.getLsbD l && (f l).1)).raiseFlags
    (orFlags ((lanesOf m).map fun l => (f l).2))

end Sys2Proof.Machine
end

