-- ==== Sys2Proof/Machine/Uniform.lean ====
section
/-! DEFINITION. Uniform and address instructions (R48, R275 shifts, R277, R331). -/

namespace Sys2Proof.Machine

/-! ## Results on 32-bit values, shared with the vector words -/

/-- ISHL: 0 for a count of 32 or more (R275). -/
def shlWord (a b : Word) : Word :=
  let n := (b.extractLsb' 0 6).toNat
  if 32 ≤ n then 0 else a <<< n

/-- ISHR (R275). -/
def shrWord (a b : Word) : Word :=
  let n := (b.extractLsb' 0 6).toNat
  if 32 ≤ n then 0 else a >>> n

/-- ISRA: the count is at most 31 (R275). -/
def sraWord (a b : Word) : Word := a.sshiftRight (min (b.extractLsb' 0 6).toNat 31)

/-- Bits [63:32] of the signed product. -/
def mulHigh (a b : Word) : Word := BitVec.ofInt 32 (a.toInt * b.toInt / 2 ^ 32)

/-- Bits [63:32] of the unsigned product. -/
def mulHighU (a b : Word) : Word := BitVec.ofNat 32 (a.toNat * b.toNat / 2 ^ 32)

def minS (a b : Word) : Word := if a.slt b then a else b
def maxS (a b : Word) : Word := if a.slt b then b else a
def minU (a b : Word) : Word := if a.ult b then a else b
def maxU (a b : Word) : Word := if a.ult b then b else a

def boolWord (b : Bool) : Word := if b then 1 else 0

/-! ## Meanings -/

/-- A uniform word that reads s-registers A and B and writes s-register D. -/
def execUni2 (g : Ctl) (o : UN) (f : Word → Word → Word) (s : State) :
    Host.Outcome State Fault Refusal :=
  issueUniform s g (.s o.a.toNat :: uBSrcs o) fun x => x.setS o.d.toNat (f (x.s o.a.toNat) (uB x o))

def execUmov (g : Ctl) (o : UN) (s : State) : Host.Outcome State Fault Refusal :=
  issueUniform s g (uBSrcs o) fun x => x.setS o.d.toNat (uB x o)

def execUmovi (g : Ctl) (o : UN) (s : State) : Host.Outcome State Fault Refusal :=
  issueUniform s g [] fun x => x.setS o.d.toNat o.imm32

def execUadd (g : Ctl) (o : UN) (s : State) : Host.Outcome State Fault Refusal :=
  execUni2 g o (fun a b => a + b) s

def execUsub (g : Ctl) (o : UN) (s : State) : Host.Outcome State Fault Refusal :=
  execUni2 g o (fun a b => a - b) s

def execUmul (g : Ctl) (o : UN) (s : State) : Host.Outcome State Fault Refusal :=
  execUni2 g o (fun a b => a * b) s

/-- The `.U` modifier is MOD[0] of a word that takes no immediate (R277). -/
def unU (o : UN) : Bool := !unImm o && o.mode.getLsbD 0

def execUmulh (g : Ctl) (o : UN) (s : State) : Host.Outcome State Fault Refusal :=
  execUni2 g o (fun a b => if unU o then mulHighU a b else mulHigh a b) s

def execUand (g : Ctl) (o : UN) (s : State) : Host.Outcome State Fault Refusal :=
  execUni2 g o (fun a b => a &&& b) s

def execUor (g : Ctl) (o : UN) (s : State) : Host.Outcome State Fault Refusal :=
  execUni2 g o (fun a b => a ||| b) s

def execUxor (g : Ctl) (o : UN) (s : State) : Host.Outcome State Fault Refusal :=
  execUni2 g o (fun a b => a ^^^ b) s

def execUshl (g : Ctl) (o : UN) (s : State) : Host.Outcome State Fault Refusal :=
  execUni2 g o shlWord s

def execUshr (g : Ctl) (o : UN) (s : State) : Host.Outcome State Fault Refusal :=
  execUni2 g o shrWord s

def execUsra (g : Ctl) (o : UN) (s : State) : Host.Outcome State Fault Refusal :=
  execUni2 g o sraWord s

def execUmin (g : Ctl) (o : UN) (s : State) : Host.Outcome State Fault Refusal :=
  execUni2 g o (fun a b => if unU o then minU a b else minS a b) s

def execUmax (g : Ctl) (o : UN) (s : State) : Host.Outcome State Fault Refusal :=
  execUni2 g o (fun a b => if unU o then maxU a b else maxS a b) s

def execUcmp (g : Ctl) (o : UN) (s : State) : Host.Outcome State Fault Refusal :=
  execUni2 g o (fun a b => boolWord (intCmp o.mode a b)) s

def execUsel (g : Ctl) (o : UN) (s : State) : Host.Outcome State Fault Refusal :=
  issueUniform s g [.s o.a.toNat, .s o.b.toNat, .s o.c.toNat] fun x =>
    x.setS o.d.toNat (if x.s o.c.toNat != 0 then x.s o.a.toNat else x.s o.b.toNat)

def execAddpc (g : Ctl) (o : UN) (s : State) : Host.Outcome State Fault Refusal :=
  issueUniform s g [] fun x => x.setA (aCode o.d) (x.frag.loc.base + o.imm32.signExtend 64)

def execAadd (g : Ctl) (o : UN) (s : State) : Host.Outcome State Fault Refusal :=
  issueUniform s g (.a (aCode o.a) :: uBSrcs o) fun x =>
    x.setA (aCode o.d) (x.a (aCode o.a) + (uB x o).signExtend 64)

def execAset (g : Ctl) (o : UN) (s : State) : Host.Outcome State Fault Refusal :=
  issueUniform s g [.s o.a.toNat, .s o.b.toNat] fun x =>
    x.setA (aCode o.d) (x.s o.b.toNat ++ x.s o.a.toNat)

def execAcpy (g : Ctl) (o : UN) (s : State) : Host.Outcome State Fault Refusal :=
  issueUniform s g [.a (aCode o.a)] fun x => x.setA (aCode o.d) (x.a (aCode o.a))

/-- AGET consumes only the half it reads (R76, R277). -/
def execAget (g : Ctl) (o : UN) (s : State) : Host.Outcome State Fault Refusal :=
  let hi := o.mode.getLsbD 0
  issueUniform s g [.aHalf (aCode o.a) hi] fun x =>
    x.setS o.d.toNat ((x.a (aCode o.a)).extractLsb' (if hi then 32 else 0) 32)

/-- RDHZ: SEQ and HZN taken at one instant, as %hseq reads (R80, R331). -/
def execRdhz (g : Ctl) (o : UN) (s : State) : Host.Outcome State Fault Refusal :=
  issueUniform s g [] fun x => x.setS o.d.toNat (x.wave.hzn ++ x.wave.seq)

end Sys2Proof.Machine
end

