-- ==== Sys2Proof/Machine/Integer.lean ====
section
/-! DEFINITION. Integer and logical vector instructions (R275, R276). -/

namespace Sys2Proof.Machine

/-! ## Lane results -/

/-- A plain result that raises no flag. -/
def plain (w : Word) : LaneRes := (w, 0)

/-- Sum over four or two signed elements of the products (R275). -/
def dotSum (a b : Word) (bits n : Nat) : Int :=
  (List.range n).foldl (fun t j =>
    t + (a.extractLsb' (bits * j) bits).toInt * (b.extractLsb' (bits * j) bits).toInt) 0

def popcWord (b : Word) : Word :=
  BitVec.ofNat 32 ((List.range 32).filter fun i => b.getLsbD i).length

def clzWord (b : Word) : Word := BitVec.ofNat 32 (if b = 0 then 32 else 31 - Nat.log2 b.toNat)

def brevWord (b : Word) : Word := b.reverse

/-- BFE: bits above bit 31 read as 0 (R275). -/
def bfeWord (a b c : Word) : Word :=
  let w := min (c.extractLsb' 0 6).toNat 32
  BitVec.ofNat 32 (a.toNat / 2 ^ (b.extractLsb' 0 5).toNat % 2 ^ w)

/-- BFI: bits above bit 31 are dropped (R275). -/
def bfiWord (a b c : Word) : Word :=
  let o := (b.extractLsb' 0 5).toNat
  let w := min (b.extractLsb' 8 6).toNat 32
  let m : Word := BitVec.ofNat 32 ((2 ^ w - 1) * 2 ^ o)
  (c &&& ~~~m) ||| ((a <<< o) &&& m)

/-! ## Shapes of words -/

/-- A word with source B alone. -/
def execInt1 (g : Ctl) (o : VX) (f : Word → LaneRes) (s : State) :
    Host.Outcome State Fault Refusal :=
  issueVector s g (o.d.toNat :: bRegs o) (bSrcs o) fun x m =>
    s.save ((x.setIntLanes o.d.toNat m fun l => f (bInt x o l)).done g.sw)

/-- A word with sources A and B. -/
def execInt2 (g : Ctl) (o : VX) (f : Word → Word → LaneRes) (s : State) :
    Host.Outcome State Fault Refusal :=
  issueVector s g (o.d.toNat :: o.a.toNat :: bRegs o) (.v o.a.toNat :: bSrcs o) fun x m =>
    s.save ((x.setIntLanes o.d.toNat m fun l => f (x.v o.a.toNat l) (bInt x o l)).done g.sw)

/-- A word with sources A, B and C. -/
def execInt3 (g : Ctl) (o : VX) (f : Word → Word → Word → LaneRes) (s : State) :
    Host.Outcome State Fault Refusal :=
  issueVector s g (o.d.toNat :: o.a.toNat :: o.c.toNat :: bRegs o)
    (.v o.a.toNat :: .v o.c.toNat :: bSrcs o) fun x m =>
    s.save ((x.setIntLanes o.d.toNat m fun l =>
      f (x.v o.a.toNat l) (bInt x o l) (x.v o.c.toNat l)).done g.sw)

/-! ## Meanings -/

def execMov (g : Ctl) (o : VX) (s : State) : Host.Outcome State Fault Refusal :=
  execInt1 g o plain s

def execMovi (g : Ctl) (o : VI) (s : State) : Host.Outcome State Fault Refusal :=
  issueVector s g [o.d.toNat] [] fun x m =>
    s.save ((x.setLanes o.d.toNat m fun _ => plain o.imm).done g.sw)

def execIadd (g : Ctl) (o : VX) (s : State) : Host.Outcome State Fault Refusal :=
  execInt2 g o (fun a b => satResult o.sat (a.toInt + b.toInt)) s

def execIsub (g : Ctl) (o : VX) (s : State) : Host.Outcome State Fault Refusal :=
  execInt2 g o (fun a b => satResult o.sat (a.toInt - b.toInt)) s

def execImul (g : Ctl) (o : VX) (s : State) : Host.Outcome State Fault Refusal :=
  execInt2 g o (fun a b => satResult o.sat (a.toInt * b.toInt)) s

def execImulh (g : Ctl) (o : VX) (s : State) : Host.Outcome State Fault Refusal :=
  execInt2 g o (fun a b => plain (mulHigh a b)) s

def execImulhu (g : Ctl) (o : VX) (s : State) : Host.Outcome State Fault Refusal :=
  execInt2 g o (fun a b => plain (mulHighU a b)) s

def execImad (g : Ctl) (o : VX) (s : State) : Host.Outcome State Fault Refusal :=
  execInt3 g o (fun a b c => plain (a * b + c)) s

def execImin (g : Ctl) (o : VX) (s : State) : Host.Outcome State Fault Refusal :=
  execInt2 g o (fun a b => plain (minS a b)) s

def execImax (g : Ctl) (o : VX) (s : State) : Host.Outcome State Fault Refusal :=
  execInt2 g o (fun a b => plain (maxS a b)) s

def execIminu (g : Ctl) (o : VX) (s : State) : Host.Outcome State Fault Refusal :=
  execInt2 g o (fun a b => plain (minU a b)) s

def execImaxu (g : Ctl) (o : VX) (s : State) : Host.Outcome State Fault Refusal :=
  execInt2 g o (fun a b => plain (maxU a b)) s

def execIabs (g : Ctl) (o : VX) (s : State) : Host.Outcome State Fault Refusal :=
  execInt1 g o (fun b => satResult o.sat (if b.toInt < 0 then -b.toInt else b.toInt)) s

def execIneg (g : Ctl) (o : VX) (s : State) : Host.Outcome State Fault Refusal :=
  execInt1 g o (fun b => satResult o.sat (-b.toInt)) s

def execAnd (g : Ctl) (o : VX) (s : State) : Host.Outcome State Fault Refusal :=
  execInt2 g o (fun a b => plain (a &&& b)) s

def execOr (g : Ctl) (o : VX) (s : State) : Host.Outcome State Fault Refusal :=
  execInt2 g o (fun a b => plain (a ||| b)) s

def execXor (g : Ctl) (o : VX) (s : State) : Host.Outcome State Fault Refusal :=
  execInt2 g o (fun a b => plain (a ^^^ b)) s

def execNot (g : Ctl) (o : VX) (s : State) : Host.Outcome State Fault Refusal :=
  execInt1 g o (fun b => plain (~~~b)) s

def execIshl (g : Ctl) (o : VX) (s : State) : Host.Outcome State Fault Refusal :=
  execInt2 g o (fun a b => plain (shlWord a b)) s

def execIshr (g : Ctl) (o : VX) (s : State) : Host.Outcome State Fault Refusal :=
  execInt2 g o (fun a b => plain (shrWord a b)) s

def execIsra (g : Ctl) (o : VX) (s : State) : Host.Outcome State Fault Refusal :=
  execInt2 g o (fun a b => plain (sraWord a b)) s

def execIrol (g : Ctl) (o : VX) (s : State) : Host.Outcome State Fault Refusal :=
  execInt2 g o (fun a b => plain (a.rotateLeft (b.extractLsb' 0 5).toNat)) s

def execPopc (g : Ctl) (o : VX) (s : State) : Host.Outcome State Fault Refusal :=
  execInt1 g o (fun b => plain (popcWord b)) s

def execClz (g : Ctl) (o : VX) (s : State) : Host.Outcome State Fault Refusal :=
  execInt1 g o (fun b => plain (clzWord b)) s

def execBrev (g : Ctl) (o : VX) (s : State) : Host.Outcome State Fault Refusal :=
  execInt1 g o (fun b => plain (brevWord b)) s

def execBfe (g : Ctl) (o : VX) (s : State) : Host.Outcome State Fault Refusal :=
  execInt3 g o (fun a b c => plain (bfeWord a b c)) s

def execBfi (g : Ctl) (o : VX) (s : State) : Host.Outcome State Fault Refusal :=
  execInt3 g o (fun a b c => plain (bfiWord a b c)) s

/-- SEL reads predicate C[2:0], inverted where C[3] is set (R275, R276). -/
def execSel (g : Ctl) (o : VX) (s : State) : Host.Outcome State Fault Refusal :=
  let k := (o.c.extractLsb' 0 3).toNat
  issueVector s g (o.d.toNat :: o.a.toNat :: bRegs o) (.v o.a.toNat :: .p k :: bSrcs o) fun x m =>
    s.save ((x.setLanes o.d.toNat m fun l =>
      plain (if (x.p k).getLsbD l != o.c.getLsbD 3 then x.v o.a.toNat l else bInt x o l)).done g.sw)

def execIcmp (g : Ctl) (o : VX) (s : State) : Host.Outcome State Fault Refusal :=
  issueVector s g (o.a.toNat :: bRegs o) (.v o.a.toNat :: bSrcs o) fun x m =>
    s.save ((x.setPredLanes o.d.toNat m fun l =>
      (intCmp o.mode (x.v o.a.toNat l) (bInt x o l), 0)).done g.sw)

def execIdot4 (g : Ctl) (o : VX) (s : State) : Host.Outcome State Fault Refusal :=
  execInt3 g o (fun a b c => satResult o.sat (c.toInt + dotSum a b 8 4)) s

def execIdot2 (g : Ctl) (o : VX) (s : State) : Host.Outcome State Fault Refusal :=
  execInt3 g o (fun a b c => satResult o.sat (c.toInt + dotSum a b 16 2)) s

/-- PLOP: bit 2 × a + b of the truth table in MOD[3:0] (R270, R275). -/
def execPlop (g : Ctl) (o : VX) (s : State) : Host.Outcome State Fault Refusal :=
  issueVector s g [] [.p o.a.toNat, .p o.b.toNat] fun x m =>
    s.save ((x.setPredLanes o.d.toNat m fun l =>
      (o.mode.getLsbD (2 * ((x.p o.a.toNat).getLsbD l).toNat + ((x.p o.b.toNat).getLsbD l).toNat),
        0)).done g.sw)

end Sys2Proof.Machine
end

