-- ==== Sys2Proof/Machine/FloatOps.lean ====
section
/-! DEFINITION. Floating-point vector instructions in four widths (R278 to R282). -/

namespace Sys2Proof.Machine

/-! ## Shapes of words: FP32, FP64 pairs, packed elements -/

/-- An FP32 word with sources A and B, as codes. -/
def execF32x2 (g : Ctl) (o : VX) (f : Nat → Nat → Nat × BitVec 6) (s : State) :
    Host.Outcome State Fault Refusal :=
  issueVector s g (o.d.toNat :: o.a.toNat :: bRegs o) (.v o.a.toNat :: bSrcs o) fun x m =>
    s.save ((x.setLanes o.d.toNat m fun l =>
      onF32 (f (x.v o.a.toNat l).toNat (bF32 x o l).toNat)).done g.sw)

/-- An FP32 word with source B alone. -/
def execF32x1 (g : Ctl) (o : VX) (f : Nat → Nat × BitVec 6) (s : State) :
    Host.Outcome State Fault Refusal :=
  issueVector s g (o.d.toNat :: bRegs o) (bSrcs o) fun x m =>
    s.save ((x.setLanes o.d.toNat m fun l => onF32 (f (bF32 x o l).toNat)).done g.sw)

/-- An FP32 word with sources A, B and C. -/
def execF32x3 (g : Ctl) (o : VX) (f : Nat → Nat → Nat → Nat × BitVec 6) (s : State) :
    Host.Outcome State Fault Refusal :=
  issueVector s g (o.d.toNat :: o.a.toNat :: o.c.toNat :: bRegs o)
    (.v o.a.toNat :: .v o.c.toNat :: bSrcs o) fun x m =>
    s.save ((x.setLanes o.d.toNat m fun l =>
      onF32 (f (x.v o.a.toNat l).toNat (bF32 x o l).toNat (x.v o.c.toNat l).toNat)).done g.sw)

/-- The registers of a pair. -/
def pairRegs (r : BitVec 8) : List Nat := [r.toNat, r.toNat + 1]

def pairSrcs (r : BitVec 8) : List Src := [.v r.toNat, .v (r.toNat + 1)]

def onF64 (r : Nat × BitVec 6) : DWord × BitVec 6 := (BitVec.ofNat 64 r.1, r.2)

/-- An FP64 word with sources A and B. -/
def execF64x2 (g : Ctl) (o : VX) (f : Nat → Nat → Nat × BitVec 6) (s : State) :
    Host.Outcome State Fault Refusal :=
  issueVector s g (pairRegs o.d ++ pairRegs o.a ++ bPairRegs o) (pairSrcs o.a ++ bPairSrcs o)
    fun x m => s.save ((x.setPairLanes o.d.toNat m fun l =>
      onF64 (f (x.vPair o.a.toNat l).toNat (bF64 x o l).toNat)).done g.sw)

/-- An FP64 word with source B alone. -/
def execF64x1 (g : Ctl) (o : VX) (f : Nat → Nat × BitVec 6) (s : State) :
    Host.Outcome State Fault Refusal :=
  issueVector s g (pairRegs o.d ++ bPairRegs o) (bPairSrcs o)
    fun x m => s.save ((x.setPairLanes o.d.toNat m fun l =>
      onF64 (f (bF64 x o l).toNat)).done g.sw)

/-- An FP64 word with sources A, B and C. -/
def execF64x3 (g : Ctl) (o : VX) (f : Nat → Nat → Nat → Nat × BitVec 6) (s : State) :
    Host.Outcome State Fault Refusal :=
  issueVector s g (pairRegs o.d ++ pairRegs o.a ++ pairRegs o.c ++ bPairRegs o)
    (pairSrcs o.a ++ pairSrcs o.c ++ bPairSrcs o)
    fun x m => s.save ((x.setPairLanes o.d.toNat m fun l =>
      onF64 (f (x.vPair o.a.toNat l).toNat (bF64 x o l).toNat (x.vPair o.c.toNat l).toNat)).done g.sw)

/-- A packed word with sources A and B: both elements, independently (R278). -/
def execPkx2 (g : Ctl) (o : VX) (f : Nat → Nat → Nat × BitVec 6) (s : State) :
    Host.Outcome State Fault Refusal :=
  issueVector s g (o.d.toNat :: o.a.toNat :: bRegs o) (.v o.a.toNat :: bSrcs o) fun x m =>
    s.save ((x.setLanes o.d.toNat m fun l =>
      onPacked fun e => f (elem16 (x.v o.a.toNat l) e) (elem16 (bPacked x o l) e)).done g.sw)

/-- A packed word with source B alone. -/
def execPkx1 (g : Ctl) (o : VX) (f : Nat → Nat × BitVec 6) (s : State) :
    Host.Outcome State Fault Refusal :=
  issueVector s g (o.d.toNat :: bRegs o) (bSrcs o) fun x m =>
    s.save ((x.setLanes o.d.toNat m fun l =>
      onPacked fun e => f (elem16 (bPacked x o l) e)).done g.sw)

/-- A packed word with sources A, B and C. -/
def execPkx3 (g : Ctl) (o : VX) (f : Nat → Nat → Nat → Nat × BitVec 6) (s : State) :
    Host.Outcome State Fault Refusal :=
  issueVector s g (o.d.toNat :: o.a.toNat :: o.c.toNat :: bRegs o)
    (.v o.a.toNat :: .v o.c.toNat :: bSrcs o) fun x m =>
    s.save ((x.setLanes o.d.toNat m fun l =>
      onPacked fun e => f (elem16 (x.v o.a.toNat l) e) (elem16 (bPacked x o l) e)
        (elem16 (x.v o.c.toNat l) e)).done g.sw)

/-- The element half that a packed FCMP reads: MOD[4] (R76, R282). -/
def pkCmpSrcs (o : VX) : List Src :=
  let e := o.mode.getLsbD 4
  .half o.a.toNat e
    :: (if o.bk = 0 then [.half o.b.toNat e] else if o.bk = 1 then [.s (bUni o)] else [])

/-- FCMP of a packed format: one element, by MOD[4]. -/
def execPkCmp (g : Ctl) (o : VX) (f : FFmt) (s : State) : Host.Outcome State Fault Refusal :=
  let e := (o.mode.getLsbD 4).toNat
  issueVector s g (o.a.toNat :: bRegs o) (pkCmpSrcs o) fun x m =>
    s.save ((x.setPredLanes o.d.toNat m fun l =>
      fCmp f (o.mode.extractLsb' 0 4).toNat (elem16 (x.v o.a.toNat l) e)
        (elem16 (bPacked x o l) e)).done g.sw)

/-! ## Operations on codes (R279 to R281) -/

def addCode (f : FFmt) (rm : BitVec 2) (a b : Nat) : Nat × BitVec 6 := fAdd f rm (f.value a) (f.value b)

def subCode (f : FFmt) (rm : BitVec 2) (a b : Nat) : Nat × BitVec 6 :=
  fAdd f rm (f.value a) (f.value b).neg

def mulCode (f : FFmt) (rm : BitVec 2) (a b : Nat) : Nat × BitVec 6 := fMul f rm (f.value a) (f.value b)

def fmaCode (f : FFmt) (rm : BitVec 2) (a b c : Nat) : Nat × BitVec 6 :=
  fFma f rm (f.value a) (f.value b) (f.value c)

def classCode (f : FFmt) (a : Nat) : Nat × BitVec 6 := (fClass f a, 0)

/-! ## Meanings -/

def execFadd (g : Ctl) (o : VX) (s : State) : Host.Outcome State Fault Refusal :=
  execF32x2 g o (addCode fp32 o.rm) s

def execFsub (g : Ctl) (o : VX) (s : State) : Host.Outcome State Fault Refusal :=
  execF32x2 g o (subCode fp32 o.rm) s

def execFmul (g : Ctl) (o : VX) (s : State) : Host.Outcome State Fault Refusal :=
  execF32x2 g o (mulCode fp32 o.rm) s

def execFfma (g : Ctl) (o : VX) (s : State) : Host.Outcome State Fault Refusal :=
  execF32x3 g o (fmaCode fp32 o.rm) s

def execFmin (g : Ctl) (o : VX) (s : State) : Host.Outcome State Fault Refusal :=
  execF32x2 g o (fMinMax fp32 false) s

def execFmax (g : Ctl) (o : VX) (s : State) : Host.Outcome State Fault Refusal :=
  execF32x2 g o (fMinMax fp32 true) s

def execFabs (g : Ctl) (o : VX) (s : State) : Host.Outcome State Fault Refusal :=
  execF32x1 g o (fSign fp32 false) s

def execFneg (g : Ctl) (o : VX) (s : State) : Host.Outcome State Fault Refusal :=
  execF32x1 g o (fSign fp32 true) s

def execFcmp (g : Ctl) (o : VX) (s : State) : Host.Outcome State Fault Refusal :=
  issueVector s g (o.a.toNat :: bRegs o) (.v o.a.toNat :: bSrcs o) fun x m =>
    s.save ((x.setPredLanes o.d.toNat m fun l =>
      fCmp fp32 o.mode.toNat (x.v o.a.toNat l).toNat (bF32 x o l).toNat).done g.sw)

def execFclass (g : Ctl) (o : VX) (s : State) : Host.Outcome State Fault Refusal :=
  execF32x1 g o (classCode fp32) s

def execFrnd (g : Ctl) (o : VX) (s : State) : Host.Outcome State Fault Refusal :=
  execF32x1 g o (fRnd fp32 o.rm) s

def execFaddF64 (g : Ctl) (o : VX) (s : State) : Host.Outcome State Fault Refusal :=
  execF64x2 g o (addCode fp64 o.rm) s

def execFsubF64 (g : Ctl) (o : VX) (s : State) : Host.Outcome State Fault Refusal :=
  execF64x2 g o (subCode fp64 o.rm) s

def execFmulF64 (g : Ctl) (o : VX) (s : State) : Host.Outcome State Fault Refusal :=
  execF64x2 g o (mulCode fp64 o.rm) s

def execFfmaF64 (g : Ctl) (o : VX) (s : State) : Host.Outcome State Fault Refusal :=
  execF64x3 g o (fmaCode fp64 o.rm) s

def execFminF64 (g : Ctl) (o : VX) (s : State) : Host.Outcome State Fault Refusal :=
  execF64x2 g o (fMinMax fp64 false) s

def execFmaxF64 (g : Ctl) (o : VX) (s : State) : Host.Outcome State Fault Refusal :=
  execF64x2 g o (fMinMax fp64 true) s

def execFabsF64 (g : Ctl) (o : VX) (s : State) : Host.Outcome State Fault Refusal :=
  execF64x1 g o (fSign fp64 false) s

def execFnegF64 (g : Ctl) (o : VX) (s : State) : Host.Outcome State Fault Refusal :=
  execF64x1 g o (fSign fp64 true) s

def execFcmpF64 (g : Ctl) (o : VX) (s : State) : Host.Outcome State Fault Refusal :=
  issueVector s g (pairRegs o.a ++ bPairRegs o) (pairSrcs o.a ++ bPairSrcs o) fun x m =>
    s.save ((x.setPredLanes o.d.toNat m fun l =>
      fCmp fp64 o.mode.toNat (x.vPair o.a.toNat l).toNat (bF64 x o l).toNat).done g.sw)

/-- D names one register, even or odd (R281). -/
def execFclassF64 (g : Ctl) (o : VX) (s : State) : Host.Outcome State Fault Refusal :=
  issueVector s g (o.d.toNat :: bPairRegs o) (bPairSrcs o) fun x m =>
    s.save ((x.setLanes o.d.toNat m fun l =>
      plain (BitVec.ofNat 32 (fClass fp64 (bF64 x o l).toNat))).done g.sw)

def execFrndF64 (g : Ctl) (o : VX) (s : State) : Host.Outcome State Fault Refusal :=
  execF64x1 g o (fRnd fp64 o.rm) s

def execFaddF16 (g : Ctl) (o : VX) (s : State) : Host.Outcome State Fault Refusal :=
  execPkx2 g o (addCode fp16 o.rm) s

def execFsubF16 (g : Ctl) (o : VX) (s : State) : Host.Outcome State Fault Refusal :=
  execPkx2 g o (subCode fp16 o.rm) s

def execFmulF16 (g : Ctl) (o : VX) (s : State) : Host.Outcome State Fault Refusal :=
  execPkx2 g o (mulCode fp16 o.rm) s

def execFfmaF16 (g : Ctl) (o : VX) (s : State) : Host.Outcome State Fault Refusal :=
  execPkx3 g o (fmaCode fp16 o.rm) s

def execFminF16 (g : Ctl) (o : VX) (s : State) : Host.Outcome State Fault Refusal :=
  execPkx2 g o (fMinMax fp16 false) s

def execFmaxF16 (g : Ctl) (o : VX) (s : State) : Host.Outcome State Fault Refusal :=
  execPkx2 g o (fMinMax fp16 true) s

def execFabsF16 (g : Ctl) (o : VX) (s : State) : Host.Outcome State Fault Refusal :=
  execPkx1 g o (fSign fp16 false) s

def execFnegF16 (g : Ctl) (o : VX) (s : State) : Host.Outcome State Fault Refusal :=
  execPkx1 g o (fSign fp16 true) s

def execFcmpF16 (g : Ctl) (o : VX) (s : State) : Host.Outcome State Fault Refusal :=
  execPkCmp g o fp16 s

def execFclassF16 (g : Ctl) (o : VX) (s : State) : Host.Outcome State Fault Refusal :=
  execPkx1 g o (classCode fp16) s

def execFrndF16 (g : Ctl) (o : VX) (s : State) : Host.Outcome State Fault Refusal :=
  execPkx1 g o (fRnd fp16 o.rm) s

def execFaddBf16 (g : Ctl) (o : VX) (s : State) : Host.Outcome State Fault Refusal :=
  execPkx2 g o (addCode bf16 o.rm) s

def execFsubBf16 (g : Ctl) (o : VX) (s : State) : Host.Outcome State Fault Refusal :=
  execPkx2 g o (subCode bf16 o.rm) s

def execFmulBf16 (g : Ctl) (o : VX) (s : State) : Host.Outcome State Fault Refusal :=
  execPkx2 g o (mulCode bf16 o.rm) s

def execFfmaBf16 (g : Ctl) (o : VX) (s : State) : Host.Outcome State Fault Refusal :=
  execPkx3 g o (fmaCode bf16 o.rm) s

def execFminBf16 (g : Ctl) (o : VX) (s : State) : Host.Outcome State Fault Refusal :=
  execPkx2 g o (fMinMax bf16 false) s

def execFmaxBf16 (g : Ctl) (o : VX) (s : State) : Host.Outcome State Fault Refusal :=
  execPkx2 g o (fMinMax bf16 true) s

def execFabsBf16 (g : Ctl) (o : VX) (s : State) : Host.Outcome State Fault Refusal :=
  execPkx1 g o (fSign bf16 false) s

def execFnegBf16 (g : Ctl) (o : VX) (s : State) : Host.Outcome State Fault Refusal :=
  execPkx1 g o (fSign bf16 true) s

def execFcmpBf16 (g : Ctl) (o : VX) (s : State) : Host.Outcome State Fault Refusal :=
  execPkCmp g o bf16 s

def execFclassBf16 (g : Ctl) (o : VX) (s : State) : Host.Outcome State Fault Refusal :=
  execPkx1 g o (classCode bf16) s

def execFrndBf16 (g : Ctl) (o : VX) (s : State) : Host.Outcome State Fault Refusal :=
  execPkx1 g o (fRnd bf16 o.rm) s

end Sys2Proof.Machine
end

