-- ==== Sys2Proof/Config.lean ====
section
/-! DEFINITION. The values that the spec leaves open: constants without a body. -/

namespace Sys2Proof

/-- The special functions whose bits R285 leaves open within a bound. -/
inductive SfuFn where
  | rsq | exp2 | log2 | sin | cos | tanh
  deriving DecidableEq, Repr

/-- The bits a special function returns for one input, where R285 states no correctly rounded
result, no special input and no exact case. One fixed value for each input (DESIGN CHOICE, log 6). -/
opaque Config.sfuBits : SfuFn → Word → Word

/-- What stands for the canonical NaN of an INT32 accumulator, a format that has none, where a row record is
marked as holding a NaN (R56, R69, R102; DESIGN CHOICE, log 62). -/
opaque Config.kilnIntNan : BitVec 32

/-- Which core of its die meets an error in a clean line of the L2 (R108; DESIGN CHOICE, log 79). -/
opaque Config.errorCore : Nat → Nat

/-- Which of the L1 lines with one number meets an error: a line and the held lines of some waves may have it (R107, R108;
DESIGN CHOICE, log 79). -/
opaque Config.errorLine : Nat → Nat

/-- Which of the lines that may go leaves a full cache (R95; DESIGN CHOICE, log 73). -/
opaque Config.victim : Nat → Nat

/-- How many cycles of its arithmetic clock a core has counted by the n-th activity: timing, which no
rule fixes (R89, R430; DESIGN CHOICE, log 2). -/
opaque Config.coreCycles : Nat → Nat → BitVec 64

/-- What an image of firmware or microcode holds: whether its signature over its digest is that of the fused key, its
body, its digest, and its security version, with the fused minimum (R424; DEDUCED, log 25). -/
opaque Config.signatureOk : List Byte → Bool
opaque Config.imageBody : List Byte → List Byte
opaque Config.imageDigest : List Byte → BitVec 512
opaque Config.imageVersion : List Byte → Nat
opaque Config.minimumVersion : Nat

/-- The boot ROM, the microcode images of the units 2 to 5, the signature under the identity key, and the certificate
chain (R424, R425; DEDUCED, log 25). -/
opaque Config.bootRom : List Byte
opaque Config.microcode : Nat → List Byte
opaque Config.signature : List Byte → List Byte → List Byte
opaque Config.certificates : List Byte

/-- The fused lane maps, and the retired sets with the ceilings, as the bytes that are measured (R425; DEDUCED, log 25). -/
opaque Config.fuseBytes : List (Nat × List Nat) → List Byte
opaque Config.fieldBytes : List (Nat × List Nat) → List (Nat × Nat) → List Byte

/-- The power in watts that the module draws at 150 MHz with two to seven dies powered, and how many steps above
150 MHz keep it within a cap (R2, R416, R426; DEDUCED, log 25). -/
opaque Config.floorWatts : Nat → Nat
opaque Config.capSteps : Nat → Nat

/-- The fused voltage curve of a die, in mV, and the fused birth count of a cluster's ring oscillator (R413, R417;
DEDUCED, log 25). -/
opaque Config.curve : Nat → Nat → Nat
opaque Config.birthCount : Nat → Nat

/-- How many requests wait at the Staram before it answers that it is busy (R411, R412; DESIGN CHOICE, log 74). -/
opaque Config.requestRoom : Nat

/-- The keys that the two ends of a Flue link agree for a direction, with the salt and the identifier (R409; DEDUCED,
log 25). -/
opaque Config.agreedKey : Nat → Nat → BitVec 256
opaque Config.agreedSalt : Nat → Nat → BitVec 32
opaque Config.agreedId : Nat → Nat → BitVec 8

end Sys2Proof
end

