-- ==== Sys2Proof/Machine/Sfu.lean ====
section
/-! DEFINITION. The special functions (R285). Where R285 gives a bound, the result is an open value
of Config, kept within that bound: it is taken where it lies within the bound of the function's value,
which is computed here to some 60 bits (DESIGN CHOICE, log 6). -/

namespace Sys2Proof.Machine

/-! ## Approximations in units of 2^−96 -/

def fxOne : Nat := 2 ^ 96

/-- ln 2, log2 e in units of 2^−96, and π ÷ 2 in units of 2^−240. -/
def fxLn2 : Nat := 54916777467707473351141471128
def fxLog2e : Nat := 114302077158074026402637675936
def fxHalfPi : Nat := 2775356879362230867616538564893568898417613047244204940481354912704001575

/-- The sum of u^k ÷ k! from a term on. -/
def expTail (u n : Nat) (fuel term : Nat) : Nat :=
  match fuel with
  | 0 => term
  | fuel + 1 => term + expTail u (n + 1) fuel (term * u / fxOne / n)

/-- 2^(t ÷ 2^96) for t below 2^96. -/
def exp2Frac (t : Nat) : Nat := expTail (t * fxLn2 / fxOne) 1 32 fxOne

/-- The fraction bits of log2 of x ÷ 2^96, for x from 2^96 up to below 2^97. -/
def log2Bits (fuel x acc : Nat) : Nat :=
  match fuel with
  | 0 => acc
  | fuel + 1 =>
    let y := x * x / fxOne
    if 2 * fxOne ≤ y then log2Bits fuel (y / 2) (2 * acc + 1) else log2Bits fuel y (2 * acc)

/-- The alternating sum of r^k ÷ k! over every second k, from a term on. -/
def altTail (r2 n : Nat) (fuel : Nat) (term : Int) : Int :=
  match fuel with
  | 0 => term
  | fuel + 1 => term + altTail r2 (n + 2) fuel (-(term * r2 / fxOne / ((n + 1) * (n + 2) : Nat)))

def fxSin (r : Nat) : Int := altTail (r * r / fxOne) 1 20 r
def fxCos (r : Nat) : Int := altTail (r * r / fxOne) 0 20 fxOne

/-- A value m × 2^e in units of 2^−k, rounded down. -/
def fxFloor (neg : Bool) (m : Nat) (e : Int) (k : Nat) : Int :=
  let p := e + k
  if 0 ≤ p then signedNat neg (m * 2 ^ p.toNat) else signedNat neg m / (2 ^ (-p).toNat : Nat)

/-- 2^b for b in units of 2^−96, as mantissa and exponent. -/
def exp2Approx (b : Int) : Int × Int :=
  let i := b / fxOne
  (exp2Frac (b - i * fxOne).toNat, i - 96)

/-- log2 of m × 2^e for m above 0, in units of 2^−64. -/
def log2Approx (m : Nat) (e : Int) : Int :=
  let l := Nat.log2 m
  let x := if l ≤ 96 then m * 2 ^ (96 - l) else m / 2 ^ (l - 96)
  (e + l) * (2 ^ 64 : Nat) + log2Bits 64 x 0

/-- sin or cos of m × 2^e, after exact reduction, in units of 2^−96. -/
def trigApprox (isCos neg : Bool) (m : Nat) (e : Int) : Int :=
  let n := (fxFloor false m e 240).toNat
  let r := n % fxHalfPi / 2 ^ 144
  let q := (n / fxHalfPi + isCos.toNat) % 4
  let v := if q % 2 = 0 then fxSin r else fxCos r
  let v := if q < 2 then v else -v
  if neg && !isCos then -v else v

/-- tanh of m × 2^e for a positive value, in units of 2^−96, rounded down: it is below 1. -/
def tanhApprox (m : Nat) (e : Int) : Nat :=
  let x := (fxFloor false m e 96).toNat
  if 32 * fxOne ≤ x then fxOne - 1
  else
    let w := 2 * x * fxLog2e / fxOne
    let t := exp2Frac (w % fxOne) * 2 ^ (w / fxOne)
    (t - fxOne) * fxOne / (t + fxOne)

/-! ## Values within a bound -/

/-- A signed integer times 2^e as an exact value. -/
def exactInt (v e : Int) : FVal := .fin (decide (v < 0)) v.natAbs e

/-- The exponent of one unit in the last place of an FP32 at the magnitude of v × 2^e. -/
def ulpExp (v e : Int) : Int :=
  let t := e + Nat.log2 v.natAbs - 23
  if t < -149 then -149 else t

/-- Whether two finite values differ by at most b. -/
def within (x y b : FVal) : Bool :=
  match addVal 0 x y.neg with
  | some (.fin _ m e) => !ltVal b (.fin false m e)
  | _ => false

/-- The open value of a function, where it lies within n × 2^k of v × 2^e or, where that is wider,
within 2^j; else the nearest FP32. -/
def openWithin (fn : SfuFn) (a : Nat) (v e : Int) (n : Nat) (k j : Int) : Nat :=
  let y := (Config.sfuBits fn (BitVec.ofNat 32 a)).toNat
  let z := fp32.value y
  let near := exactInt v e
  if within z near (.fin false n k) || within z near (.fin false 1 j) then y
  else (fp32.roundVal 0 near).1

/-- NX, and UF where the result is subnormal and nonzero (R62, R285). -/
def inexactFlags (y : Nat) : BitVec 6 :=
  let mag := y % 2 ^ 31
  flNX ||| (if mag != 0 && decide (mag < 2 ^ 23) then flUF else 0)

def openResult (y : Nat) (exact : FVal) : Nat × BitVec 6 :=
  let z := fp32.value y
  if !z.isNan && !ltVal z exact && !ltVal exact z then (y, 0) else (y, inexactFlags y)

/-! ## The functions (R285) -/

/-- The result for a NaN. -/
def nanResult (sig : Bool) : Nat × BitVec 6 := (fp32.nanCode, if sig then flNV else 0)

/-- Whether an FP32 code differs from 1 ÷ √(m × 2^e) by at most 2^k. -/
def rsqWithin (m : Nat) (e : Int) (y : Nat) (k : Int) : Bool :=
  match fp32.value y with
  | .fin false my ey =>
    let s := min ey k
    let u := 2 ^ (k - s).toNat
    let n := my * 2 ^ (ey - s).toNat
    let sq (t : Nat) : FVal := .fin false (t * t * m) (2 * s + e)
    !ltVal (.fin false 1 0) (sq (n - u)) && !ltVal (sq (n + u)) (.fin false 1 0)
  | _ => false

/-- RSQ: the open value where it lies within 1 ulp, else the FP32 at or next below the exact value. -/
def sfuRsq (a : Nat) : Nat × BitVec 6 :=
  match fp32.value a with
  | .nan s => nanResult s
  | .inf neg => if neg then (fp32.nanCode, flNV) else (0, 0)
  | .fin neg m e =>
    if m = 0 then (fp32.signed neg fp32.infCode, flDZ)
    else if neg then (fp32.nanCode, flNV)
    else
      let odd : Nat := (e % 2).toNat
      let n := m * 2 ^ odd
      let q := isqrt (2 ^ 128 / n)
      let sticky := q * q * n != 2 ^ 128
      let r := (fp32.round 1 false q (-((e - odd) / 2) - 64) sticky).code
      let pick := (Config.sfuBits .rsq (BitVec.ofNat 32 a)).toNat
      let ulp : Int := match fp32.value r with
        | .fin _ _ k => k
        | _ => 0
      let y := if rsqWithin m e pick ulp then pick else r
      (y, if sticky || y != r then flNX else 0)

def sfuExp2 (a : Nat) : Nat × BitVec 6 :=
  match fp32.value a with
  | .nan s => nanResult s
  | .inf neg => if neg then (0, 0) else (fp32.infCode, 0)
  | .fin neg m e =>
    let i := roundInt 1 neg m e
    let v := signedNat neg i.1
    if !neg && 128 ≤ i.1 then (fp32.infCode, flOF ||| flNX)
    else if !i.2 && decide (-126 ≤ v) then ((v + 127).toNat * 2 ^ 23, 0)
    else
      let b := if v < -200 then -200 * (fxOne : Int) else fxFloor neg m e 96
      let p := exp2Approx b
      let y := openWithin .exp2 a p.1 p.2 2 (ulpExp p.1 p.2) (-200)
      if i.2 || decide (v < -149) then (y, inexactFlags y) else openResult y (.fin false 1 v)

def sfuLog2 (a : Nat) : Nat × BitVec 6 :=
  match fp32.value a with
  | .nan s => nanResult s
  | .inf neg => if neg then (fp32.nanCode, flNV) else (fp32.infCode, 0)
  | .fin neg m e =>
    if m = 0 then (fp32.signed true fp32.infCode, flDZ)
    else if neg then (fp32.nanCode, flNV)
    else if m = 2 ^ Nat.log2 m then fp32.roundVal 0 (exactInt (e + Nat.log2 m) 0)
    else
      let v := log2Approx m e
      let i := e + Nat.log2 m
      let near := decide (i = 0) || decide (i = -1)
      let y := openWithin .log2 a v (-64) 2 (ulpExp v (-64)) (if near then -22 else -200)
      (y, inexactFlags y)

def sfuTrig (isCos : Bool) (a : Nat) : Nat × BitVec 6 :=
  match fp32.value a with
  | .nan s => nanResult s
  | .inf _ => (fp32.nanCode, flNV)
  | .fin neg m e =>
    if m = 0 && !isCos then (a, 0)
    else
      let v := trigApprox isCos neg m e
      let y := openWithin (if isCos then .cos else .sin) a v (-96) 1 (-21) (-21)
      if m = 0 then openResult y (.fin false 1 0) else (y, inexactFlags y)

def sfuTanh (a : Nat) : Nat × BitVec 6 :=
  match fp32.value a with
  | .nan s => nanResult s
  | .inf neg => (fp32.signed neg (127 * 2 ^ 23), 0)
  | .fin neg m e =>
    if m = 0 then (a, 0)
    else
      let v := signedNat neg (tanhApprox m e)
      let small := ltVal (.fin false m e) (.fin false 1 (-1))
      let y := if small then openWithin .tanh a v (-96) 1 (-23) (-23)
        else openWithin .tanh a v (-96) 2 (ulpExp v (-96)) (-200)
      (y, inexactFlags y)

end Sys2Proof.Machine
end

