-- ==== Sys2Proof/Machine/Convert.lean ====
section
/-! DEFINITION. Conversions, PACK and special functions (R283 to R286). -/

namespace Sys2Proof.Machine

/-! ## CVT (R283) -/

/-- The registers that source B of CVT names: a pair where T2 is FP64. -/
def cvtRegs (o : VX) : List Nat := if o.t2 = 0 then bPairRegs o else bRegs o

/-- The parts that CVT reads: of a narrow source only the half that holds the element (R76). -/
def cvtSrcs (o : VX) : List Src :=
  if o.t2 = 0 then bPairSrcs o
  else if fmtBits o.t2 = 32 then bSrcs o
  else if o.bk = 0 then
    [.half o.b.toNat (if fmtBits o.t2 = 16 then o.mode.getLsbD 0 else o.mode.getLsbD 1)]
  else bSrcs o

/-- The source element (R57, R283). -/
def cvtElem (x : Ctx) (o : VX) (l : Nat) : Nat :=
  if o.t2 = 0 then (bF64 x o l).toNat
  else if fmtBits o.t2 = 32 then (bCvt x o l).toNat
  else if fmtBits o.t2 = 16 then elem16 (bCvt x o l) (o.mode.extractLsb' 0 1).toNat
  else elem8 (bCvt x o l) (o.mode.extractLsb' 0 2).toNat

/-- A narrow code placed in 32 bits: sign-extended for a signed integer target (R283). -/
def placeNarrow (t : BitVec 4) (code : Nat) : Word :=
  match numFmt t with
  | .int f => BitVec.ofInt 32 (f.value code)
  | _ => BitVec.ofNat 32 code

/-- Whether a conversion has an integer format on both sides: it is no floating-point instruction, and a handler's raises
SAT (R63, R83). -/
def intOnly (o : VX) : Bool :=
  match numFmt o.t2, numFmt o.t with
  | .int _, .int _ => true
  | _, _ => false

/-- Write the lanes of a conversion with their flags. -/
def Ctx.setConvLanes (x : Ctx) (o : VX) (m : LaneMask) (f : Nat → LaneRes) : Ctx :=
  if intOnly o then x.setIntLanes o.d.toNat m f else x.setLanes o.d.toNat m f

def execCvt (g : Ctl) (o : VX) (s : State) : Host.Outcome State Fault Refusal :=
  let conv (x : Ctx) (l : Nat) := convert (numFmt o.t2) (numFmt o.t) o.rm o.sat (cvtElem x o l)
  issueVector s g ((if o.t = 0 then pairRegs o.d else [o.d.toNat]) ++ cvtRegs o) (cvtSrcs o)
    fun x m =>
      if o.t = 0 then s.save ((x.setPairLanes o.d.toNat m fun l => onF64 (conv x l)).done g.sw)
      else
        s.save ((x.setConvLanes o m fun l =>
          (placeNarrow o.t (conv x l).1, (conv x l).2)).done g.sw)

/-! ## PACK (R284) -/

/-- Write one half of a vector register in the listed lanes; the other half keeps its value and its
poison (R76, R284). The fold takes the whole new value. -/
def Ctx.setHalf (x : Ctx) (d : Nat) (upper : Bool) (vals : List (Nat × BitVec 16)) : Ctx :=
  if vals.isEmpty then x
  else
    let h := x.frag.handler
    let new (l : Nat) (v : BitVec 16) : Word :=
      if upper then v ++ (x.v d l).extractLsb' 0 16 else (x.v d l).extractLsb' 16 16 ++ v
    let keep (l : Nat) : BitVec 2 := x.wave.poisonV h d l &&& (if upper then 1 else 2)
    let w := vals.foldl (fun (w : Wave) e => w.putV h d e.1 (new e.1 e.2) (keep e.1)) x.wave
    ({ x with wave := w }).fold d
      (foldLanes (vals.map fun (e : Nat × BitVec 16) => (e.1, new e.1 e.2)))

def execPack (g : Ctl) (o : VX) (s : State) : Host.Outcome State Fault Refusal :=
  let conv (w : Word) := convert (numFmt o.t2) (numFmt o.t) o.rm o.sat w.toNat
  issueVector s g (o.d.toNat :: o.a.toNat :: bRegs o) (.v o.a.toNat :: bSrcs o) fun x m =>
    let ra (l : Nat) := conv (x.v o.a.toNat l)
    let rb (l : Nat) := conv (bCvt x o l)
    if fmtBits o.t = 16 then
      s.save ((x.setConvLanes o m fun l =>
        (BitVec.ofNat 16 (rb l).1 ++ BitVec.ofNat 16 (ra l).1, (ra l).2 ||| (rb l).2)).done g.sw)
    else
      let ls := lanesOf m
      let y := x.setHalf o.d.toNat (o.mode.getLsbD 0)
        (ls.map fun l => (l, BitVec.ofNat 8 (rb l).1 ++ BitVec.ofNat 8 (ra l).1))
      let f := orFlags (ls.map fun l => (ra l).2 ||| (rb l).2)
      s.save ((if intOnly o then y.raiseSat f else y.raiseFlags f).done g.sw)

/-! ## Results that are not interlocked (R20, R286, R287) -/

/-- Keep a result that its own step writes later; an empty ACTIVE set has no result. -/
def Ctx.pendResult (x : Ctx) (kind : PendKind) (m : LaneMask) (regs : List (Nat × Nat × Word))
    (preds : List (Nat × LaneMask × LaneMask)) (flags : BitVec 6) : Ctx :=
  if m == 0 then x
  else
    let p : Pend :=
      { kind := kind, wave := x.wave.slot, frags := [x.frag.id], handler := x.frag.handler,
        regs := regs, preds := preds, flags := flags, sr := none }
    { x with core := { x.core with pend := x.core.pend ++ [p] } }

/-- A register result per lane, kept for later. -/
def Ctx.pendLanes (x : Ctx) (kind : PendKind) (d : Nat) (m : LaneMask) (f : Nat → LaneRes) : Ctx :=
  let rs := (lanesOf m).map fun l => (l, f l)
  x.pendResult kind m (rs.map fun r => (d, r.1, r.2.1)) [] (orFlags (rs.map fun r => r.2.2))

/-- A pair result per lane, kept for later. -/
def Ctx.pendPairLanes (x : Ctx) (kind : PendKind) (d : Nat) (m : LaneMask)
    (f : Nat → DWord × BitVec 6) : Ctx :=
  let rs := (lanesOf m).map fun l => (l, f l)
  x.pendResult kind m
    ((rs.map fun r => (d, r.1, r.2.1.extractLsb' 0 32))
      ++ rs.map fun r => (d + 1, r.1, r.2.1.extractLsb' 32 32)) []
    (orFlags (rs.map fun r => r.2.2))

/-! ## Special functions (R285) -/

/-- A special function of FP32: the result is captured at issue and written by its own step. -/
def execSfu (g : Ctl) (o : VX) (f : Nat → Nat × BitVec 6) (s : State) :
    Host.Outcome State Fault Refusal :=
  issueVector s g (o.d.toNat :: bRegs o) (bSrcs o) fun x m =>
    s.save ((x.pendLanes .sfu o.d.toNat m fun l => onF32 (f (bF32 x o l).toNat)).done g.sw)

/-- The same for FP64. -/
def execSfu64 (g : Ctl) (o : VX) (f : Nat → Nat × BitVec 6) (s : State) :
    Host.Outcome State Fault Refusal :=
  issueVector s g (pairRegs o.d ++ bPairRegs o) (bPairSrcs o) fun x m =>
    s.save ((x.pendPairLanes .sfu o.d.toNat m fun l => onF64 (f (bF64 x o l).toNat)).done g.sw)

def execRcp (g : Ctl) (o : VX) (s : State) : Host.Outcome State Fault Refusal :=
  execSfu g o (fRcp fp32) s

def execRsq (g : Ctl) (o : VX) (s : State) : Host.Outcome State Fault Refusal :=
  execSfu g o sfuRsq s

def execSqrt (g : Ctl) (o : VX) (s : State) : Host.Outcome State Fault Refusal :=
  execSfu g o (fSqrt fp32) s

def execExp2 (g : Ctl) (o : VX) (s : State) : Host.Outcome State Fault Refusal :=
  execSfu g o sfuExp2 s

def execLog2 (g : Ctl) (o : VX) (s : State) : Host.Outcome State Fault Refusal :=
  execSfu g o sfuLog2 s

def execSin (g : Ctl) (o : VX) (s : State) : Host.Outcome State Fault Refusal :=
  execSfu g o (sfuTrig false) s

def execCos (g : Ctl) (o : VX) (s : State) : Host.Outcome State Fault Refusal :=
  execSfu g o (sfuTrig true) s

def execTanh (g : Ctl) (o : VX) (s : State) : Host.Outcome State Fault Refusal :=
  execSfu g o sfuTanh s

def execRcpF64 (g : Ctl) (o : VX) (s : State) : Host.Outcome State Fault Refusal :=
  execSfu64 g o (fRcp fp64) s

def execSqrtF64 (g : Ctl) (o : VX) (s : State) : Host.Outcome State Fault Refusal :=
  execSfu64 g o (fSqrt fp64) s

end Sys2Proof.Machine
end

