-- ==== Sys2Proof/Machine/Places.lean ====
section
/-! DEFINITION. Accesses to places: their pieces by page, core control space, scratchpad windows, the
Bellows and Collier words, and what a load reads and a store writes at each class (R105, R120, R121,
R129, R154 to R156, R184, R300, R356, R407). -/

namespace Sys2Proof.Machine

/-! ## Pieces of an access (R300) -/

/-- Two translations of one access: a lasting failure of either decides, the first one's before the second's (R302). -/
def bothXlated (a b : Except XFail Piece) : Except XFail (List Piece) :=
  match a, b with
  | .ok p, .ok q => .ok [p, q]
  | .error f, .error g => .error (if f.replay then g else f)
  | .error f, .ok _ => .error f
  | .ok _, .error g => .error g

/-- The translated pieces of an access of n bytes: an access that crosses a page is translated for
each page. -/
def State.pieces (s : State) (c root : Nat) (acc : Access) (va : DWord) (n : Nat) :
    Except XFail (List Piece) :=
  let k := min n (65536 - va.toNat % 65536)
  let rest := va + BitVec.ofNat 64 k
  let one (a : DWord) (m : Nat) : Except XFail Piece := (s.translate (some c) (dieOf c) root acc a).map fun x => ⟨x, a, m⟩
  if k = n then (one va n).map fun p => [p] else bothXlated (one va k) (one rest (n - k))

/-- Keep the translations of an access in the translation caches. -/
def State.keepPieces (s : State) (c root : Nat) (ps : List Piece) : State :=
  ps.foldl (fun s p => s.cacheLeaf (some c) (dieOf c) root p.va) s

/-! ## Core control space (R154) -/

/-- The 32 bytes of a fault buffer entry (R128); a free entry reads as zero. -/
def faultBytes (e : FaultEnt) : List Byte :=
  toBytes 8 e.va.toNat ++ toBytes 8 e.entry ++ toBytes 2 e.hnum.toNat ++ toBytes 1 e.kind
    ++ toBytes 1 e.wave ++ toBytes 1 e.level ++ toBytes 1 e.perm.toNat ++ [0, 0] ++ toBytes 2 e.ctx
    ++ List.replicate 6 0

/-- The 32 bytes of a binding table entry (R156). -/
def bindBytes (e : BindEnt) : List Byte :=
  toBytes 8 e.base.toNat ++ toBytes 4 e.len ++ toBytes 1 (0x80 + e.sync.toNat) ++ toBytes 1 e.slot
    ++ [0, 0] ++ toBytes 8 e.obj.toNat ++ List.replicate 8 0

/-- The 20 bytes of ROOT, TFP and CTXID of a context slot. -/
def slotBytes (k : CtxSlot) : List Byte :=
  toBytes 8 k.root.toNat ++ toBytes 8 k.tfp.toNat ++ toBytes 4 k.ctxid.toNat

/-- The byte of core control space at an offset; reserved and write-only offsets read as zero. ALLOTB of a
slot without a block and the other bytes of a free BIND entry read as zero (DESIGN CHOICE, log 69). -/
def State.ctlByte (s : State) (c off : Nat) : Byte :=
  let x := s.core c
  let pick (bs : List Byte) (o : Nat) : Byte := bs.getD o 0
  if off < 4 then pick (toBytes 4 (ccid c)) off
  else if 0x10 ≤ off ∧ off < 0x14 then pick (toBytes 4 (if x.xinv.isEmpty then 0 else 1)) (off - 0x10)
  else if 0x1000 ≤ off ∧ off < 0x10C0 then
    pick (slotBytes (x.ctxSlot ((off - 0x1000) / 0x40))) ((off - 0x1000) % 0x40)
  else if 0x2000 ≤ off ∧ off < 0x2800 then
    match Map.find x.faults ((off - 0x2000) / 32) with
    | some e => pick (faultBytes e) (off % 32)
    | none => 0
  else if 0x3000 ≤ off ∧ off < 0x3080 then
    match x.anyBlock? ((off - 0x3000) / 16) with
    | some b => pick (s.homeRead (.allot c b.slot) 16) (off % 16)
    | none => 0
  else if 0x4000 ≤ off ∧ off < 0x4400 then
    match Map.find x.binds ((off - 0x4000) / 32) with
    | some e => pick (bindBytes e) (off % 32)
    | none => 0
  else 0

/-- An XINV write waits behind the invalidations in progress (R155). -/
def State.xinvPush (s : State) (c : Nat) (v : DWord) : State :=
  s.updCore c fun x => { x with xinv := x.xinv ++ [v] }

/-- The translations that an invalidation leaves (R155). -/
def xinvLeaves (v : DWord) (l : List TlbEnt) : List TlbEnt :=
  if v.getLsbD 1 then [] else l.filter fun e => !e.coversPage (vaPage v)

/-- Lines without a pin go; with `all`, pinned lines go too (R154). -/
def iinvLeaves (all : Bool) (m : Map ILine) : Map ILine :=
  if all then [] else m.filter fun e => e.2.pins != 0

/-- A write to IINV (R110, R154). Bit [1] drops what was pinned, and the pin records of the core's
blocks with it; those of the cluster's other cores lose their lines of the cluster cache. Where bit [0] is clear it drops the
lines without a pin too: R154 does not say whether they go (DESIGN CHOICE, log 96). -/
def State.iinv (s : State) (c : Nat) (v : Nat) : State :=
  let all := bitsOf v 1 1 = 1
  if bitsOf v 0 2 = 0 then s
  else
    let s := s.updCluster (clusterOf c) fun k => { k with icache := iinvLeaves all k.icache }
    let s := s.updCore c fun x => { x with l0 := iinvLeaves all x.l0 }
    if all then
      (List.range 4).foldl (fun s j => s.updCore (4 * clusterOf c + j) fun x =>
        x.mapBlocks fun b =>
          { b with pins := b.pins.filter fun p => !p.cluster && 4 * clusterOf c + j != c }) s
    else s

/-- The lowest lane of an operation whose access touches a page. -/
def Op.laneOfPage (o : Op) (va : DWord) : DWord :=
  match (o.lanes.zip o.ranges).find? fun e =>
      decide (e.2.1 / 65536 ≤ va.toNat / 65536) && decide (va.toNat / 65536 ≤ (e.2.1 + e.2.2 - 1) / 65536) with
  | some e => e.1.ea
  | none => va

/-- Whether a fault buffer entry belongs to an operation of a wave. -/
def FaultEnt.isOf (e : FaultEnt) (w : Nat) (n : HNum) : Bool :=
  e.wave == w && e.hnum == n && e.cmd.isNone && !e.frame

/-- Every fault buffer entry of an operation is freed, and no code is delivered (R302 item 2). -/
def Core.freeFaults (x : Core) (w : Nat) (n : HNum) : Core :=
  x.dropFaults fun e => e.isOf w n

/-- The access of an engine operation goes on, or has failed with a code: a Barrow command, a record
of the ring, a running task of the core's blocks, a command at the Bellows, a matched message, or a landing (R129, R160,
R172, R215, R336). -/
def State.engAnswered (s : State) (c k : Nat) (code : BitVec 16) : State :=
  let s := s.updCore c fun x =>
    { (x.mapBlocks fun b => { b with
        lands := if code = 0 then b.lands else b.lands.map fun l => l.failed k }) with
      cmds := x.cmds.map fun m =>
        if m.id = k then { m with inFault := false, err := if m.err = 0 then code else m.err } else m }
  let rec_ (r : HRec) : HRec :=
    if r.core = c ∧ r.id = k then { r with inFault := false, fail := if r.fail = 0 then code else r.fail }
    else r
  let s := s.updCluster (clusterOf c) fun x => { x with ring := x.ring.map rec_ }
  let coll (q : CollCmd) : CollCmd :=
    if q.core = c ∧ q.id = k then { q with inFault := false, err := if q.err = 0 then code else q.err }
    else q
  let land (m : MatchLand) : MatchLand :=
    if m.ent.core = c ∧ m.id = k then { m with inFault := false, err := if m.err = 0 then code else m.err } else m
  let die (x : Die) : Die :=
    { x with comms := x.comms.map (fun e => (e.1, { e.2 with queue := e.2.queue.map coll })),
             landing := x.landing.map land }
  let s := { s with dies := s.dies.map fun e => (e.1, die e.2) }
  (List.range 4).foldl (fun s j => s.updCore (4 * clusterOf c + j) fun x =>
    { x with kiln := { x.kiln with task := x.kiln.task.map fun t => { t with task := rec_ t.task } } }) s

/-- The access of an operation of a wave fails with the code of its entry. The fault of a MATCH.ARM's descriptor goes
into its barrier, with the bytes that it gives, none (R129, R336). -/
def State.failAnswered (s : State) (c : Nat) (e : FaultEnt) (code : BitVec 16) : State :=
  match (s.core c).wave? e.wave, ((s.core c).wave? e.wave).bind fun w => w.op? e.hnum with
  | some w, some o =>
    match o.work with
    | .matchArm _ bar _ =>
      (s.landCode c w.block e.wave e.hnum bar 0 code).finishOp c e.wave e.hnum
    | _ => s.failLasting c e.wave e.hnum code (o.laneOfPage e.va)
  | _, _ => s.failLasting c e.wave e.hnum code e.va

/-- What a STATUS write of 1 or 2 makes of the access of an entry that has been freed (R129, R228,
R302). A retry waits until no other entry of the operation is left. -/
def State.faultAnswered (s : State) (c : Nat) (e : FaultEnt) (failIt : Bool) : State :=
  let code := if e.perm then eXlatePerm else eXlateInvalid
  match e.cmd with
  | some k => s.engAnswered c k (if failIt then code else 0)
  | none =>
    if e.frame then s.updWave c e.wave fun w => { w with frameFail := w.frameFail || failIt }
    else if failIt then
      (s.updCore c fun x => x.freeFaults e.wave e.hnum).failAnswered c e code
    else if (s.core c).anyFault fun k => k.isOf e.wave e.hnum then s
    else s.updOp c e.wave e.hnum fun o =>
      if o.status = .inFault then { o with status := .waiting } else o

/-- A write of STATUS to a fault buffer entry; only 1 and 2 on a pending entry act (R129, R154). -/
def State.faultStatus (s : State) (c e : Nat) (status : Byte) : State :=
  match Map.find (s.core c).faults e with
  | none => s
  | some f =>
    if status = 1 ∨ status = 2 then
      ((s.updCore c fun x => { x with faults := Map.del x.faults e }).faultAnswered c f
        (status == 2)).refillFaults c
    else s

/-- A context slot after a write of some of its bytes: TFP keeps bits [11:0] zero, CTXID has 16
bits (R154). -/
def CtxSlot.written (k : CtxSlot) (o : Nat) (bs : List Byte) : CtxSlot :=
  let v := splice (slotBytes k) o bs
  { k with root := BitVec.ofNat 64 (recNat v 0 8),
           tfp := BitVec.ofNat 64 (recNat v 8 8) &&& ~~~ 0xFFF#64,
           ctxid := BitVec.ofNat 16 (recNat v 16 2) }

/-- A write of 4 or 8 bytes to core control space; what is read-only or reserved ignores it (R154). -/
def State.ctlWrite (s : State) (c off : Nat) (bs : List Byte) : State :=
  if 8 ≤ off ∧ off < 16 then s.xinvPush c (BitVec.ofNat 64 (leNat bs * 256 ^ (off - 8)))
  else if off = 0x18 then s.iinv c (leNat (bs.take 4))
  else if 0x1000 ≤ off ∧ off < 0x10C0 ∧ (off - 0x1000) % 0x40 < 0x14 then
    s.updCore c fun x => { x with
      ctxs := updAt x.ctxs ((off - 0x1000) / 0x40) fun k => k.written ((off - 0x1000) % 0x40) bs }
  else if 0x2000 ≤ off ∧ off < 0x2800 ∧ off % 32 ≤ 22 ∧ 22 < off % 32 + bs.length then
    s.faultStatus c ((off - 0x2000) / 32) (bs.getD (22 - off % 32) 0)
  else s

/-! ## Bellows and Collier words (R356, R407) -/

/-- A word of the Bellows window. -/
def State.bellowsWord (s : State) (off : Nat) : Nat :=
  match Map.find (s.die (bitsOf off 28 3)).comms (bitsOf off 24 4) with
  | none => 0
  | some k =>
    if !k.isOpen then 0
    else if bitsOf off 3 1 = 1 then k.firstErr.toNat
    else
      k.members.length * 2 ^ 48 + k.doneCount.toNat * 2 ^ 32 + k.queue.length * 2 ^ 8
        + k.hipri.toNat * 2 + 1

/-- The core and stream of a MISS word, if the offset names one. -/
def missOf (off : Nat) : Option (Nat × Nat) :=
  if bitsOf off 31 13 != 0 || 40 ≤ bitsOf off 22 6 || bitsOf off 0 16 != 0 then none
  else some (160 * bitsOf off 28 3 + 4 * bitsOf off 22 6 + bitsOf off 20 2, bitsOf off 16 4)

def Core.stream (x : Core) (k : Nat) : RStream := Map.get x.streams k RStream.reset
def Core.setStream (x : Core) (k : Nat) (t : RStream) : Core :=
  { x with streams := Map.put x.streams k t }

/-! ## Which accesses a place admits -/

/-- Whether an access of n bytes at an address is one aligned access of 4 or 8 bytes. -/
def wordSized (va : DWord) (n : Nat) : Bool := (n == 4 || n == 8) && va.toNat % n == 0

/-- The offsets of the allotment barriers, which no load, store or other access of an instruction reaches: it fails as
one to a place that does not exist (R38; DEDUCED, log 83). -/
def isAllotb (off : Nat) : Bool := decide (0x3000 ≤ off) && decide (off < 0x3080)

/-- Why a place of class 2 to 5 does not admit an access of n bytes (R38, R100, R121, R154, R356, R407). -/
def State.unitFault (s : State) (acc : Access) (p : Piece) : Option (BitVec 16) :=
  let off := placeOff p.x.place
  match placeClass p.x.place with
  | 2 =>
    match s.homeOfPlace p.x.place p.n with
    | .ok _ => none
    | .error e => some e
  | 3 =>
    if acc != .atomic && wordSized p.va p.n && !isAllotb (bitsOf off 0 20) then none else some ePlaceUnmapped
  | 4 =>
    if acc == .read && p.n == 8 && p.va.toNat % 8 == 0 && bitsOf off 4 20 == 0 then none
    else some ePlaceUnmapped
  | 5 =>
    if (missOf off).isSome && (acc == .write || (acc == .read && p.n == 8 && p.va.toNat % 8 == 0)) then
      none
    else some ePlaceUnmapped
  | _ => none

/-- Whether a scratchpad window belongs to another party's tentative block: the access is held until
the block is confirmed or trimmed (R200 item 4). -/
def State.windowHeld (s : State) (c block : Nat) (p : Piece) : Bool :=
  placeClass p.x.place == 2 &&
    match placeCore (placeOff p.x.place) with
    | none => false
    | some d =>
      let k := bitsOf (placeOff p.x.place) 31 3
      !(d == c && k == block) &&
        match (s.core d).anyBlock? k with
        | some b => b.tent
        | none => false

/-! ## Reading and writing a piece -/

/-- Whether the bytes of a piece cannot be read where a load finds them (R99, R115, R402, R403). -/
def State.pieceFault (s : State) (c : Nat) (p : Piece) : Option (BitVec 16) :=
  match placeClass p.x.place with
  | 2 =>
    match s.homeOfPlace p.x.place p.n with
    | .error e => some e
    | .ok h => (s.homeFault h p.n).map fun _ => eMemPoison
  | 0 => (List.range p.n).foldl (fun f k => f.or (s.cachedFault c p.x.attr (p.x.place + k))) none
  | 1 => (List.range p.n).foldl (fun f k => f.or (s.cachedFault c p.x.attr (p.x.place + k))) none
  | _ => none

/-- The bytes that a load reads. -/
def State.pieceRead (s : State) (c : Nat) (p : Piece) : List Byte :=
  let off := placeOff p.x.place
  match placeClass p.x.place with
  | 2 =>
    match s.homeOfPlace p.x.place p.n with
    | .error _ => List.replicate p.n 0
    | .ok h => s.homeRead h p.n
  | 3 => (List.range p.n).map fun k => s.ctlByte ((placeCore off).getD 0) (bitsOf off 0 20 + k)
  | 4 => toBytes p.n (s.bellowsWord off)
  | 5 =>
    match missOf off with
    | some (d, t) => toBytes p.n ((s.core d).stream t).miss.toNat
    | none => List.replicate p.n 0
  | _ => (List.range p.n).map fun k => s.cachedByte c p.x.attr (p.x.place + k)

/-- What a load changes where it reads: caches are filled, and a MISS word is cleared. -/
def State.pieceTouch (s : State) (c : Nat) (p : Piece) : State :=
  match placeClass p.x.place with
  | 5 =>
    match missOf (placeOff p.x.place) with
    | some (d, t) => s.updCore d fun x => x.setStream t { x.stream t with miss := 0 }
    | none => s
  | k => if k < 2 then s.fill c p.x.attr ((List.range p.n).map fun j => p.x.place + j) else s

/-- Whether the page and class of a piece let a store stop at a cache: it is performed there, and not
at the place's home (R105, R173, R184). -/
def Piece.cached (p : Piece) : Bool := decide (placeClass p.x.place < 2) && p.x.attr.inL2

/-- Why a store that is performed at its home fails there. -/
def State.pieceStoreFault (s : State) (p : Piece) : Option (BitVec 16) :=
  match placeClass p.x.place with
  | 6 => if s.linkUp then none else some ePlaceOffline
  | k => if k < 2 ∧ !p.cached then s.homeWriteFault p.x.place else s.unitFault .write p

/-- Perform a store of bytes at a piece. Class 6 places take it as a posted write to the host. -/
def State.pieceWrite (s : State) (c : Nat) (p : Piece) (bs : List Byte) : State :=
  let off := placeOff p.x.place
  match placeClass p.x.place with
  | 2 =>
    match s.homeOfPlace p.x.place p.n with
    | .error _ => s
    | .ok h => s.homeWrite h bs
  | 3 => s.ctlWrite ((placeCore off).getD 0) (bitsOf off 0 20) bs
  | 4 => s
  | 5 => s
  | 6 => { s with hostOut := s.hostOut ++ bs.mapIdx fun k b => (off + k, b) }
  | _ => s.writeCached c p.x.attr (cellsFrom p.x.place bs)

end Sys2Proof.Machine
end

