-- ==== Sys2Proof/Machine/Results.lean ====
section
/-! DEFINITION. Results that return later, and attempts at the lane accesses of an operation: every
lane is translated before any is performed (R20, R119, R173, R196, R227, R302). -/

namespace Sys2Proof.Machine

/-! ## Writing results (R227) -/

/-- Fold a written value into the damper state of fragments that run a program. A result of before a divide that
returns after it folds into both parts (R227; DESIGN CHOICE, log 71). -/
def Core.foldInto (x : Core) (frags : List Nat) (d : Nat) (v : Word) : Core :=
  frags.foldl (fun x f => x.updFrag f fun g =>
    if g.handler then g
    else { g with damper := { g.damper with dacc := foldOne g.damper.dacc d v } }) x

/-- Write results to vector registers, and fold each register once. -/
def Core.putVectors (x : Core) (w : Nat) (handler : Bool) (frags : List Nat)
    (regs : List (Nat × Nat × Word)) : Core :=
  let x := x.updWave w fun y => regs.foldl (fun y r => y.putV handler r.1 r.2.1 r.2.2 0) y
  if handler then x
  else ((regs.map fun r => r.1).eraseDups).foldl (fun x d =>
    x.foldInto frags d (foldLanes ((regs.filter fun r => r.1 == d).map fun r => r.2))) x

/-- Write results to predicates, in the lanes of their masks. -/
def Core.putPreds (x : Core) (w : Nat) (handler : Bool) (frags : List Nat)
    (preds : List (Nat × LaneMask × LaneMask)) : Core :=
  preds.foldl (fun x r =>
    if r.1 = 0 ∨ r.2.1 = 0 then x
    else
      let x := x.updWave w fun y => y.putP handler r.1 r.2.1 r.2.2
      let new := match x.wave? w with
        | some y => y.getP handler r.1
        | none => 0
      if handler then x
      else x.foldInto frags (416 + r.1) (new.extractLsb' 0 32 ^^^ new.extractLsb' 32 32)) x

/-- Write the result of a load to a uniform code (R74, R251, R308). -/
def Core.putUniform (x : Core) (w : Nat) (handler : Bool) (frags : List Nat) (code : BitVec 8)
    (v : DWord) : Core :=
  if code.getLsbD 7 then
    let k := (code.extractLsb' 0 4).toNat
    let x := x.updWave w fun y => y.putA handler k v
    if handler then x
    else (x.foldInto frags (384 + 2 * k) (v.extractLsb' 0 32)).foldInto frags (385 + 2 * k)
      (v.extractLsb' 32 32)
  else
    let x := x.updWave w fun y => y.putS handler code.toNat (v.extractLsb' 0 32) false
    if handler then x else x.foldInto frags (256 + code.toNat) (v.extractLsb' 0 32)

/-- A result that is not interlocked is written, and its flags are raised (R63, R93). -/
def Core.completePend (x : Core) (p : Pend) : Core :=
  let x := x.putVectors p.wave p.handler p.frags p.regs
  let x := x.putPreds p.wave p.handler p.frags p.preds
  if p.handler then x else x.updWave p.wave fun w => { w with fpflags := w.fpflags ||| p.flags }

/-- An RDSR that waits takes the flags that an older word of its wave raises (R63). -/
def Pend.hear (p q : Pend) : Pend :=
  if p.wave == q.wave && !q.handler then
    { p with sr := p.sr.map fun r => { r with flags := r.flags ||| q.flags } }
  else p

/-- Of the results pending after `older`, the RDSRs that wait for none of those before them, and the rest. -/
def splitSr (older : List Pend) (l : List Pend) : List Pend × List Pend :=
  match l with
  | [] => ([], [])
  | p :: r =>
    let t := splitSr (older ++ [p]) r
    match p.sr with
    | some k => if srOwed older p.wave k.num k.sel then (t.1, p :: t.2) else (p :: t.1, t.2)
    | none => (t.1, p :: t.2)

/-- The value of an RDSR that waited, in a lane, with the poison that it copies (R83, R92). -/
def SrRead.value (r : SrRead) (w : Wave) (l : Nat) : Word × BitVec 2 :=
  if r.num = 2 then (r.flags.zeroExtend 32, 0) else (w.getV false r.sel l, w.poisonV false r.sel l)

/-- An RDSR that waited writes its register, and folds it (R227, R391). -/
def Core.writeSr (x : Core) (p : Pend) : Core :=
  match p.sr, x.wave? p.wave with
  | some r, some w =>
    if r.uk then
      let v := r.value w ((lowLane r.lanes).getD 0)
      let x := x.updWave p.wave fun w => w.putS p.handler r.dest v.1 (v.2 != 0)
      if p.handler then x else x.foldInto p.frags (256 + r.dest) v.1
    else
      let vals := (lanesOf r.lanes).map fun l => (l, r.value w l)
      let x := x.updWave p.wave fun w =>
        vals.foldl (fun (w : Wave) e => w.putV p.handler r.dest e.1 e.2.1 e.2.2) w
      if p.handler then x else x.foldInto p.frags r.dest (foldLanes (vals.map fun e => (e.1, e.2.1)))
  | _, _ => x

/-- Every RDSR that waits for nothing more completes. -/
def Core.settleSr (x : Core) : Core :=
  let t := splitSr [] x.pend
  t.1.foldl Core.writeSr { x with pend := t.2 }

/-- The result at a position of the list is written by its own step, unless an older one of its kind
is still pending (R93, R294). -/
def State.completeAt (s : State) (c pos : Nat) (kind : PendKind) : State :=
  let x := s.core c
  match x.pend[pos]? with
  | none => s
  | some p =>
    if p.kind != kind || (x.pend.take pos).any fun q => q.kind == kind then s
    else
      let left := x.pend.take pos ++ (x.pend.drop (pos + 1)).map fun q => q.hear p
      s.setCore c (({ x with pend := left }.completePend p).settleSr)

/-! ## Attempts (R228, R302) -/

/-- What an attempt at an operation finds: it waits, it fails with a code at an address, or all its
accesses translate. -/
inductive Verdict (α : Type) where
  | wait
  | fail (code : BitVec 16) (addr : DWord)
  | go (x : α)
  deriving Repr

/-- One access that an operation makes. -/
structure Reach where
  va : DWord
  n : Nat
  acc : Access
  deriving DecidableEq, Repr

/-- Two parts of one operation: a lasting failure of either decides, the first part's before the second's; what is
replayable or held waits (R302). -/
def Verdict.both (a : Verdict α) (b : Verdict β) : Verdict (α × β) :=
  match a, b with
  | .fail e va, _ => .fail e va
  | _, .fail e va => .fail e va
  | .go x, .go y => .go (x, y)
  | _, _ => .wait

/-- The parts of one operation: the first that fails lastingly decides; what is replayable or held waits (R302). -/
def Verdict.all (l : List (Verdict α)) : Verdict (List α) :=
  match l with
  | [] => .go []
  | v :: r =>
    match v.both (Verdict.all r) with
    | .go (x, xs) => .go (x :: xs)
    | .fail e va => .fail e va
    | .wait => .wait

/-- A verdict with a further check of what has been reached. -/
def Verdict.check (v : Verdict α) (bad : α → Option (BitVec 16)) (va : DWord) : Verdict α :=
  match v with
  | .go x => match bad x with
    | some e => .fail e va
    | none => .go x
  | v => v

/-- A translation as a verdict: a replayable failure waits (R127, R128). -/
def Verdict.ofXlate (r : Except XFail α) (va : DWord) : Verdict α :=
  match r with
  | .ok x => .go x
  | .error f => if f.replay then .wait else .fail f.code va

/-- Why the pieces of one access are not admitted: a unit refuses it, or it is no one access of a core's control space, a
Bellows word or a MISS word (R154, R356, R407). -/
def State.reachFault (s : State) (acc : Access) (ps : List Piece) : Option (BitVec 16) :=
  if decide (1 < ps.length) && ps.any fun p => decide (3 ≤ placeClass p.x.place) && decide (placeClass p.x.place ≤ 5) then
    some ePlaceUnmapped
  else ps.findSome? (s.unitFault acc)

/-- Why the bytes of an access cannot be read. -/
def State.readFault (s : State) (c : Nat) (ps : List Piece) : Option (BitVec 16) := ps.findSome? (s.pieceFault c)

/-- One access tried: its pieces, or why it fails. A unit that refuses it, or a read that fails,
is a failure of its own. -/
def State.tryReach (s : State) (c root block : Nat) (r : Reach) : Verdict (List Piece) :=
  let v := (Verdict.ofXlate (s.pieces c root r.acc r.va r.n) r.va).check (s.reachFault r.acc) r.va
  match v with
  | .go ps =>
    if ps.any (s.windowHeld c block) then .wait
    else if r.acc = .write then .go ps
    else (Verdict.go ps).check (s.readFault c) r.va
  | v => v

/-- Several accesses as one, in lane order (R302). -/
def State.tryAll (s : State) (c root block : Nat) (rs : List Reach) : Verdict (List (List Piece)) :=
  Verdict.all (rs.map (s.tryReach c root block))

/-- The operation, wave, block and table root that a step of an operation concerns. -/
structure OpCtx where
  o : Op
  w : Wave
  b : Block
  root : Nat

def State.opCtx? (s : State) (c w : Nat) (n : HNum) : Option OpCtx :=
  let x := s.core c
  match x.wave? w with
  | none => none
  | some y =>
    match y.op? n, x.block? y.block with
    | some o, some b => some ⟨o, y, b, x.rootOf b.ctx⟩
    | _, _ => none

/-- The accesses of an operation's lanes. -/
def Op.reaches (o : Op) (acc : Access) : List Reach :=
  (o.lanes.zip o.ranges).map fun e => ⟨BitVec.ofNat 64 e.2.1, e.2.2, acc⟩

/-! ## Held lines (R107) -/

/-- The byte that a held store has for a place; where a virtual address is given, only if it stored through
that one. -/
def HeldStore.byteAt (h : HeldStore) (key : Nat) (va : Option DWord) : Option Byte :=
  match h.bytes.findIdx? fun e => e.1 == key with
  | none => none
  | some i =>
    if va.all fun a => a == h.va + BitVec.ofNat 64 i then (h.bytes[i]?).map fun e => e.2 else none

/-- The byte that the wave's own older stores hold in held lines, the youngest first (R305). -/
def Core.heldByte (x : Core) (w : Wave) (older : HNum → Bool) (key : Nat) (va : Option DWord) : Option Byte :=
  (x.held.filter fun h => h.wave == w.slot && older h.num).foldl (fun r h => (h.byteAt key va).or r) none

/-- Whether a number of the wave's window is older than another. -/
def Wave.older (w : Wave) (m n : HNum) : Bool := decide ((m - w.hzn).toNat < (n - w.hzn).toNat)

/-- The bytes of a piece as an access of the wave reads them, its own held lines included. Through an UNCACHED
page it finds only what it has stored to the same virtual address: another alias is read at the home (R427). -/
def State.waveRead (s : State) (c : Nat) (w : Wave) (older : HNum → Bool) (p : Piece) : List Byte :=
  (s.pieceRead c p).mapIdx fun k b =>
    ((s.core c).heldByte w older (placeKey (p.x.place + k))
      (if p.x.attr.cache = 3 then some (p.va + BitVec.ofNat 64 k) else none)).getD b

/-- The held lines in use: one for each wave and 128-byte line. -/
def heldLines (l : List HeldStore) : List (Nat × Nat) :=
  (l.flatMap fun h => h.bytes.map fun e => (h.wave, e.1 / 128)).eraseDups

/-- Whether the held lines have room for more stores of one kind (R107 items 1 and 2). -/
def Core.heldRoom (x : Core) (new : List HeldStore) (tent : Bool) : Bool :=
  decide ((heldLines (x.held ++ new)).length ≤ 384)
    && (!tent || decide ((heldLines ((x.held ++ new).filter fun h => h.tent)).length ≤ 256))

/-- Held stores enter in the program order of their wave. -/
def insertHeld (w : Wave) (l : List HeldStore) (h : HeldStore) : List HeldStore :=
  l.takeWhile (fun k => !(k.wave == h.wave && w.older h.num k.num)) ++ h ::
    l.dropWhile fun k => !(k.wave == h.wave && w.older h.num k.num)

/-- The piece that a held store covers. -/
def State.heldPiece (s : State) (h : HeldStore) : Piece :=
  { x := { place := s.host.nodeid.toNat * 2 ^ 48 + (h.bytes.map fun e => e.1).headD 0,
           attr := { cache := h.cache, scope := h.scope, ev := false, aok := false } },
    va := h.va, n := h.bytes.length }

/-- The held store of a piece of a lane's store. -/
def Piece.held (p : Piece) (w : Nat) (n : HNum) (tent : Bool) (ea : DWord) (bs : List Byte) : HeldStore :=
  { wave := w, num := n, tent := tent, ea := ea, va := p.va, bytes := bs.mapIdx fun k b => (placeKey (p.x.place + k), b),
    cache := p.x.attr.cache, scope := p.x.attr.scope }

end Sys2Proof.Machine
end

