-- ==== Sys2Proof/Machine/Sync.lean ====
section
/-! DEFINITION. What releases and acquires do to the caches: bound regions, write-backs, discards and
the joins of engine operations; and how an operation reaches the object that it names (R157, R165 to
R168, R181, R186 to R193, R317, R321 to R326). -/

namespace Sys2Proof.Machine

/-! ## Regions (R157, R317) -/

/-- The identity of an object in the binding table; the allotment barrier is in no entry. -/
def Obj.ident (o : Obj) : Option DWord :=
  match o with
  | .spad n => some (BitVec.ofNat 64 (2 ^ 63 + n))
  | .glob va => some va
  | .allot => none

/-- The regions that the entries of a block name for an object: base, and length in 64-byte units. -/
def Core.regionsOf (x : Core) (block : Nat) (o : Obj) : List (DWord × Nat) :=
  match o.ident with
  | none => []
  | some id => x.binds.filterMap fun e =>
      if e.2.slot == block && e.2.obj == id then some (e.2.base, e.2.len) else none

/-- The parts of n bytes by 64 KiB page, each with its first address and its number of bytes. -/
def pageSpans (va : DWord) (n : Nat) : List (DWord × Nat) :=
  let lo := va.toNat
  let hi := lo + n
  if n = 0 then []
  else
    (List.range ((hi - 1) / 65536 - lo / 65536 + 1)).map fun k =>
      let a := max lo ((lo / 65536 + k) * 65536)
      (BitVec.ofNat 64 a, min hi ((lo / 65536 + k + 1) * 65536) - a)

/-- The pages of a region. -/
def regionPages (r : DWord × Nat) : List (DWord × Nat) := pageSpans r.1 (64 * r.2)

/-- The pages of several regions, translated to places that a check admits (R157). Each is translated as a read, for a
write-back and for a discard: no rule names the permission that they need (DESIGN CHOICE, log 60). -/
def State.tryPages (s : State) (check : Nat → Option (BitVec 16)) (c root : Nat) (ps : List (DWord × Nat)) :
    Verdict (List Piece) :=
  Verdict.all (ps.map fun p =>
    Verdict.ofXlate ((s.translateTo check (some c) (dieOf c) root .read p.1).map fun x => ⟨x, p.1, p.2⟩) p.1)

def State.tryRegions (s : State) (c root : Nat) (rs : List (DWord × Nat)) : Verdict (List Piece) :=
  s.tryPages s.placeFault c root (rs.flatMap regionPages)

/-- Whether the object of an operation lies in scratchpad (R303). -/
def Op.onSpad (o : Op) : Bool :=
  let spad (b : Obj) : Bool := match b with
    | .glob _ => false
    | _ => true
  match o.work with
  | .atomic spad .. => spad
  | .arrive b .. => spad b
  | .waitph b _ => spad b
  | .tryph b .. => spad b
  | .acq b .. => spad b
  | .rel b .. => spad b
  | _ => false

/-- Whether an operation writes back as FENCE does (R188, R190, R383). -/
def Op.writesAll (o : Op) : Bool :=
  match o.work with
  | .fence => true
  | .launch .. => true
  | .arrive _ _ _ all => all
  | .rel _ _ all => all
  | _ => false

/-- Whether a cache of the core or of its die holds a dirty byte of a page of places. -/
def State.dirtyPage (s : State) (c page : Nat) : Bool :=
  let dirty (m : Map CByte) : Bool := m.any fun e => e.2.dirty && e.1 / 65536 == page
  dirty (s.core c).l1 || dirty (s.die (dieOf c)).l2

/-- The pages that a write-back of all of the wave's earlier writes translates: those that it has stored to and that are
dirty still (R190, R318; DEDUCED, log 84). -/
def State.writtenPages (s : State) (c : Nat) (k : OpCtx) : List (DWord × Nat) :=
  if k.o.writesAll && !k.o.onSpad then (k.w.written.filter fun e => s.dirtyPage c e.2).map fun e => (e.1, 1) else []

/-- A wave remembers the pages of its earlier stores while they are dirty. -/
def State.settleWritten (s : State) (c w : Nat) : State :=
  s.updWave c w fun y => { y with written := y.written.filter fun e => s.dirtyPage c e.2 }

/-- The bound pages of a release or an acquire, once they and the pages that it writes back as FENCE does have translated. Of
one on a scratchpad object only the walk can fail (R157, R298, R303, R318). -/
def State.opPages (s : State) (c : Nat) (k : OpCtx) : Verdict (List Piece) :=
  let regions := if k.o.onSpad then s.tryPages (fun _ => none) c k.root (k.o.regions.flatMap regionPages)
    else s.tryRegions c k.root k.o.regions
  match regions.both (s.tryPages s.placeFault c k.root (s.writtenPages c k)) with
  | .go (ps, _) => .go ps
  | .fail e a => .fail e a
  | .wait => .wait

/-- Whether a cached byte lies in a 128-byte line that a piece touches (R95). -/
def Piece.hasLine (p : Piece) (key : Nat) : Bool :=
  let k := placeKey p.x.place
  decide (placeClass p.x.place < 2) && decide (k / 128 ≤ key / 128)
    && decide (key / 128 ≤ (k + p.n - 1) / 128)

/-! ## Releases and acquires (R181, R188 to R190) -/

/-- The write-back of a release: its bound pages, and with `all` what FENCE writes back. -/
def State.release (s : State) (c : Nat) (ps : List Piece) (all : Bool) : State :=
  let s := ps.foldl (fun s p => s.writeBack c p.x.attr.scope fun k _ => p.hasLine k) s
  if all then s.writeBack c 0 fun _ _ => true else s

/-- Why that write-back fails: dirty bytes whose home is behind a port that is down (R403). -/
def State.releaseFault (s : State) (c : Nat) (ps : List Piece) (all : Bool) :
    Option (BitVec 16 × DWord) :=
  let f := ps.foldl (fun (e : Option (BitVec 16 × DWord)) p =>
    e.or ((s.writeBackFault c p.x.attr.scope fun k _ => p.hasLine k).map fun k => (k, p.va))) none
  f.or (if all then (s.writeBackFault c 0 fun _ _ => true).map fun k => (k, 0) else none)

/-- Whether the page of an object has SYSTEM scope: the object has the scope of its page, one in scratchpad
that of the core (R183). -/
def State.systemObj (s : State) (c root : Nat) (o : Obj) : Bool :=
  match o with
  | .glob va =>
    match s.leafFor (some c) (dieOf c) root va with
    | .ok (leaf, _, aok) => (leafAttr leaf.toNat aok).scope == 5
    | .error _ => false
  | _ => false

/-- The discards of an acquire: its bound pages, and with `all` what FENCE discards. -/
def State.acquire (s : State) (c : Nat) (ps : List Piece) (all : Bool) : State :=
  let s := ps.foldl (fun s p => s.discard c (some p.x.attr.scope) fun k _ => p.hasLine k) s
  if all then s.discard c none fun _ _ => true else s

/-- Whether some write of the wave to the host has not completed there, for all that it knows (R400). -/
def Wave.hostOwed (w : Wave) : Bool := decide (w.hostSeen < w.hostWrites)

/-- Whether a release of the wave has to wait until its writes to the host have completed there: with `all`,
on an object of SYSTEM scope (`sys`), or for a bound page of SYSTEM scope (R181, R183, R400). -/
def Wave.owesHost (w : Wave) (ps : List Piece) (all sys : Bool) : Bool :=
  w.hostOwed && (all || sys || ps.any fun p => p.x.attr.scope == 5)

/-- The wave's writes to the host up to a count have completed there. -/
def Wave.seen (w : Wave) (n : Nat) : Wave := { w with hostSeen := max w.hostSeen n }

/-! ## Joins (R192) -/

/-- The discards of a join by a core: every line that the joined operations wrote goes from its L1,
and from its die's L2 where they wrote elsewhere. Dirty bytes are written back first; those that stand in the
L2 of another die go to their homes, where the joiner and its later releases have them. -/
def State.join (s : State) (c : Nat) (h : Home) : State :=
  (s.joins.filter fun r => r.isAt h).foldl (fun s r =>
    let inR (k : Nat) (_ : CByte) : Bool := r.lines.contains (k / 128)
    let s := s.l1WriteBack c inR
    let s := s.updCore c fun x => { x with l1 := dropBytes x.l1 inR }
    if r.die = some (dieOf c) then s
    else
      let s := match r.die with
        | some d => s.l2WriteBack d inR
        | none => s
      let s := s.l2WriteBack (dieOf c) inR
      s.updDie (dieOf c) fun x => { x with l2 := dropBytes x.l2 fun k b => inR k b && !b.dirty }) s

/-- Dirty bytes of the core's L1 and its die's L2 go to their homes, and the copies stay (R193, R339). -/
def State.pushHome (s : State) (c : Nat) (q : Nat → CByte → Bool) : State :=
  (s.l1WriteBack c q).l2WriteBack (dieOf c) q

/-! ## Reaching an object (R168, R317) -/

/-- The core's copies of an object's line go home before the object is read or updated there: a plain store of the wave is
applied in its turn (R168, R191, R311). -/
def State.flushObj (s : State) (c : Nat) (h : Home) : State :=
  match h with
  | .mem p => s.flushHome c fun key _ => key / 128 == placeKey p / 128
  | _ => s

/-- An object of n bytes tried at its home: a scratchpad offset of the block, the block's allotment
barrier, or a global address. -/
def State.tryObj (s : State) (c : Nat) (k : OpCtx) (o : Obj) (acc : Access) (n : Nat) : Verdict Home :=
  match o with
  | .spad off => .go (.spad c k.b.slot off)
  | .allot => .go (.allot c k.b.slot)
  | .glob va =>
    match Verdict.ofXlate (s.pieces c k.root acc va n) va with
    | .wait => .wait
    | .fail e a => .fail e a
    | .go ps =>
      match ps.head? with
      | none => .wait
      | some p =>
        match s.homeOfPlace p.x.place n with
        | .error e => .fail e va
        | .ok h =>
          if s.windowHeld c k.b.slot p then .wait
          else
            let t := s.flushObj c h
            match if acc = .write then t.homeStoreFault h else t.homeFault h n with
            | some e => .fail (if e = eSpadPoison then eMemPoison else e) va
            | none => .go h

/-- The operation goes on with what it has reached; it waits, or fails, where it does not reach it. -/
def State.withVerdict (s : State) (c : Nat) (k : OpCtx) (v : Verdict α) (go : α → State) : State :=
  match v with
  | .wait => s
  | .fail e a => s.failOp c k.w.slot k.o.num e a
  | .go x => go x

/-- The operation goes on with the home of its object, where the core's copies have gone. -/
def State.withObj (s : State) (c : Nat) (k : OpCtx) (o : Obj) (acc : Access) (n : Nat)
    (go : State → Home → State) : State :=
  s.withVerdict c k (s.tryObj c k o acc n) fun h => go (s.flushObj c h) h

/-- The operation goes on with its bound pages and the home of its object (R157 item 4, R302). -/
def State.withBoth (s : State) (c : Nat) (k : OpCtx) (o : Obj) (acc : Access) (n : Nat)
    (go : State → List Piece → Home → State) : State :=
  s.withVerdict c k ((s.opPages c k).both (s.tryObj c k o acc n)) fun e => go (s.flushObj c e.2) e.1 e.2

/-- The operation sends a request for its pieces to the host and waits for the answer, or fails where the link is down
(R400). -/
def State.askHost (s : State) (c : Nat) (k : OpCtx) (a : DWord) (pss : List (List Piece)) : State :=
  if s.linkUp then s.updOp c k.w.slot k.o.num fun o => { o with status := .sent, reach := pss }
  else s.failOp c k.w.slot k.o.num ePlaceOffline a

/-- The operation waits for a zero-length read behind its wave's writes to the host (R400). -/
def State.askBehind (s : State) (c : Nat) (k : OpCtx) : State :=
  (s.askHost c k 0 []).updOp c k.w.slot k.o.num fun o =>
    if o.status = .sent then { o with mark := some k.w.hostWrites } else o

/-- The operation carries out steps 1 to 3 of a release and goes on. One on a scratchpad object waits for a port that is
down: it fails with no code of a place (R188, R303, R400; DEDUCED, log 85). -/
def State.withRelease (s : State) (c : Nat) (k : OpCtx) (ps : List Piece) (all sys : Bool)
    (go : State → State) : State :=
  match s.releaseFault c ps all with
  | some (e, a) => if k.o.onSpad then s else s.failOp c k.w.slot k.o.num e a
  | none =>
    let t := s.release c ps all
    if k.w.owesHost ps all sys && !k.o.behind then t.askBehind c k else go t

/-- Eight bytes of an object at its home. -/
def State.homeWord (s : State) (h : Home) : DWord := BitVec.ofNat 64 (leNat (s.homeRead h 8))

/-- Whether the operation may be attempted: it waits for nothing older (R189, R191, R197, R200, R427). -/
def State.mayAttempt (s : State) (c : Nat) (k : OpCtx) : Bool :=
  k.o.status == .waiting && (k.w.oldest k.o || !s.opHolds c k.b k.o)
    && !(s.core c).behind k.w k.o && !s.behindStore c k.b k.w k.o

end Sys2Proof.Machine
end

