-- ==== Sys2Proof/Machine/Memory.lean ====
section
/-! DEFINITION. Loads and stores, and the steps that perform them: the return of a load, the
acceptance of a store, the drain of a held line, a scratchpad result (R296 to R309). -/

namespace Sys2Proof.Machine

/-! ## Operands of format MG (R256, R299) -/

/-- Registers that hold n = 2^SZ bytes from D on. -/
def dataRegs (d : Nat) (sz : Nat) : List Nat :=
  (List.range (max 1 (2 ^ sz / 4))).map fun j => d + j

/-- The vector registers of an MG word besides its data. -/
def mgIdxRegs (o : MG) : List Nat := if o.ik = 1 then [o.idx.toNat] else []

/-- What the address of an MG word reads. -/
def mgSrcs (o : MG) : List Src :=
  (if o.bs then [] else [.a o.base.toNat])
    ++ (if o.ik = 1 then [.v o.idx.toNat] else if o.ik = 2 then [.s (o.idx.extractLsb' 0 7).toNat] else [])

/-- Base, scaled index and displacement (R299). -/
def eaOf (base index : DWord) (sc : BitVec 2) (disp : DWord) : DWord := base + (index <<< sc.toNat) + disp

def mgEA (x : Ctx) (o : MG) (l : Nat) : DWord :=
  let base := if o.bs then 0 else x.a o.base.toNat
  let index : DWord :=
    if o.ik = 1 then (x.v o.idx.toNat l).signExtend 64
    else if o.ik = 2 then (x.s (o.idx.extractLsb' 0 7).toNat).signExtend 64
    else 0
  eaOf base index o.sc (o.disp.signExtend 64)

/-- The address of a lane of GATHER and SCATTER: the pair at IDX and the displacement (R307). -/
def pairEA (x : Ctx) (o : MG) (l : Nat) : DWord := x.vPair o.idx.toNat l + o.disp.signExtend 64

/-- The data of a lane: the registers from D up (R306). -/
def storeData (x : Ctx) (d sz l : Nat) : BitVec 128 :=
  match sz with
  | 4 => x.v (d + 3) l ++ x.v (d + 2) l ++ x.v (d + 1) l ++ x.v d l
  | 3 => (x.vPair d l).zeroExtend 128
  | _ => (x.v d l).zeroExtend 128

/-- The lanes of an operation as captured at issue (R237). -/
def laneAccs (m : LaneMask) (ea : Nat → DWord) (data : Nat → BitVec 128) (cmp : Nat → DWord) :
    List LaneAcc :=
  (lanesOf m).map fun l => { lane := l, ea := ea l, data := data l, cmp := cmp l }

/-- An operation takes its number and its word moves on; without room it holds its fragment. -/
def issueOp (s : State) (x : Ctx) (sw : Bool) (m : LaneMask) (count : Count) (kind : Nat)
    (lanes : List LaneAcc) (work : Work) (commits : Bool) : State :=
  if m == 0 then s.save (x.done sw)
  else if !x.opRoom count then s
  else
    let y := x.addOp count kind lanes work []
    s.save ((if commits then y.commitStore else y).done sw)

/-! ## Global loads and stores -/

def execLd (g : Ctl) (o : MG) (s : State) : Host.Outcome State Fault Refusal :=
  issueVector s g (dataRegs o.d.toNat o.sz.toNat ++ mgIdxRegs o) (mgSrcs o) fun x m =>
    issueOp s x g.sw m .ld 0 (laneAccs m (mgEA x o) (fun _ => 0) fun _ => 0)
      (.load o.d.toNat o.sz.toNat o.sx) false

def execGather (g : Ctl) (o : MG) (s : State) : Host.Outcome State Fault Refusal :=
  let i := o.idx.toNat
  issueVector s g (dataRegs o.d.toNat o.sz.toNat ++ [i, i + 1]) [.v i, .v (i + 1)] fun x m =>
    issueOp s x g.sw m .ld 0 (laneAccs m (pairEA x o) (fun _ => 0) fun _ => 0)
      (.load o.d.toNat o.sz.toNat o.sx) false

/-- What a store reads besides its address: both halves of each data register, or only the lower
half for 16 bits and less (R76). -/
def storeSrcs (d sz : Nat) : List Src :=
  if sz < 2 then [.half d false] else (dataRegs d sz).map Src.v

def execSt (g : Ctl) (o : MG) (s : State) : Host.Outcome State Fault Refusal :=
  issueVector s g (dataRegs o.d.toNat o.sz.toNat ++ mgIdxRegs o)
      (mgSrcs o ++ storeSrcs o.d.toNat o.sz.toNat) fun x m =>
    issueOp s x g.sw m .st 2
      (laneAccs m (mgEA x o) (storeData x o.d.toNat o.sz.toNat) fun _ => 0) (.store o.sz.toNat) true

def execScatter (g : Ctl) (o : MG) (s : State) : Host.Outcome State Fault Refusal :=
  let i := o.idx.toNat
  issueVector s g (dataRegs o.d.toNat o.sz.toNat ++ [i, i + 1])
      ([.v i, .v (i + 1)] ++ storeSrcs o.d.toNat o.sz.toNat) fun x m =>
    issueOp s x g.sw m .st 2
      (laneAccs m (pairEA x o) (storeData x o.d.toNat o.sz.toNat) fun _ => 0) (.store o.sz.toNat) true

/-- ULD loads once for its fragment (R308). -/
def execUld (g : Ctl) (o : MG) (s : State) : Host.Outcome State Fault Refusal :=
  issueVector s g [] (mgSrcs o) fun x m =>
    issueOp s x g.sw m .ld 0 [{ lane := 0, ea := mgEA x o 0, data := 0, cmp := 0 }]
      (.uload o.d o.sz.toNat) false

/-! ## Scratchpad loads and stores (R99, R100, R309) -/

/-- The first active lane whose n bytes are out of bounds. -/
def Ctx.firstBad (x : Ctx) (m : LaneMask) (ea : Nat → DWord) (n : Nat) : Option Nat :=
  (lanesOf m).find? fun l => !x.block.spadOk (ea l).toNat n

/-- The first active lane that reads a poisoned word. -/
def Ctx.firstPoisoned (x : Ctx) (m : LaneMask) (ea : Nat → DWord) (n : Nat) : Option Nat :=
  (lanesOf m).find? fun l => x.block.spadBad (ea l).toNat n

/-- The scratchpad bytes of the active lanes, as the ranges of R191 know them. -/
def spadSpans (m : LaneMask) (ea : Nat → DWord) (n : Nat) : List (Nat × Nat) :=
  (lanesOf m).map fun l => (Obj.spad (ea l).toNat).range n

/-- A loaded value of n = 2^SZ bytes as the words of its destination registers (R305). -/
def loadWords (sz : Nat) (sx : Bool) (bs : List Byte) : List Word :=
  match sz with
  | 0 =>
    let b := BitVec.ofNat 8 (leNat bs)
    [if sx then b.signExtend 32 else b.zeroExtend 32]
  | 1 =>
    let b := BitVec.ofNat 16 (leNat bs)
    [if sx then b.signExtend 32 else b.zeroExtend 32]
  | _ => (List.range (2 ^ sz / 4)).map fun j => BitVec.ofNat 32 (recNat bs (4 * j) 4)

/-- The register writes of a lane's loaded words. -/
def laneWords (d l : Nat) (ws : List Word) : List (Nat × Nat × Word) :=
  ws.mapIdx fun j v => (d + j, l, v)

def execLds (g : Ctl) (o : MG) (s : State) : Host.Outcome State Fault Refusal :=
  let n := 2 ^ o.sz.toNat
  issueVector s g (dataRegs o.d.toNat o.sz.toNat ++ mgIdxRegs o) (mgSrcs o) fun x m =>
    match x.firstBad m (mgEA x o) n, x.firstPoisoned m (mgEA x o) n with
    | some l, _ => s.raise x ⟨eSpadBounds, 0, mgEA x o l⟩
    | none, some l => s.raise x ⟨eSpadPoison, 0, mgEA x o l⟩
    | none, none =>
      if m != 0 && (decide (63 ≤ x.core.countOf x.frag .ld) || x.spadWaits (spadSpans m (mgEA x o) n)) then s
      else
        let regs := (lanesOf m).flatMap fun l =>
          laneWords o.d.toNat l (loadWords o.sz.toNat o.sx (x.block.spadRead (mgEA x o l).toNat n))
        s.save ((x.pendResult .spad m regs [] 0).done g.sw)

/-- Stores of the lanes in increasing order, so that the highest lane's byte stays (R301). -/
def Block.spadStores (b : Block) (l : List (Nat × List Byte)) : Block :=
  l.foldl (fun b e => b.spadWrite e.1 e.2) b

/-- STS is performed at its bank at issue (R185, R309). -/
def execSts (g : Ctl) (o : MG) (s : State) : Host.Outcome State Fault Refusal :=
  let n := 2 ^ o.sz.toNat
  issueVector s g (dataRegs o.d.toNat o.sz.toNat ++ mgIdxRegs o)
      (mgSrcs o ++ storeSrcs o.d.toNat o.sz.toNat) fun x m =>
    match x.firstBad m (mgEA x o) n with
    | some l => s.raise x ⟨eSpadBounds, 0, mgEA x o l⟩
    | none =>
      if m != 0 && (decide (63 ≤ x.core.countOf x.frag .st) || x.spadWaits (spadSpans m (mgEA x o) n)) then s
      else
        let ws := (lanesOf m).map fun l =>
          ((mgEA x o l).toNat, toBytes n (storeData x o.d.toNat o.sz.toNat l).toNat)
        let y := { x with block := x.block.spadStores ws }
        s.save ((if m == 0 then y else y.commitStore).done g.sw)

/-! ## The steps of loads -/

/-- Which numbers are older than an operation's own; a handler's follows them all. -/
def OpCtx.olderNum (k : OpCtx) (n : HNum) : Bool := k.o.handler || k.w.older n k.o.num

/-- Write a load's data to the registers of its wave. -/
def Core.loadResult (x : Core) (o : Op) (w : Nat) (data : List (List Byte)) : Core :=
  match o.work with
  | .load d sz sx =>
    x.putVectors w o.handler o.frags
      ((o.lanes.zip data).flatMap fun e => laneWords d e.1.lane (loadWords sz sx e.2))
  | .uload code _ =>
    x.putUniform w o.handler o.frags code (BitVec.ofNat 64 (leNat (data.headD [])))
  | _ => x

/-- Whether some piece is a CLASS 6 place: the host answers for it (R400). -/
def anyHost (pss : List (List Piece)) : Bool :=
  pss.any fun ps => ps.any fun p => placeClass p.x.place == 6

/-- The bytes that a load reads, lane by lane; a CLASS 6 piece takes the next bytes of the host's
answer. -/
def State.loadBytes (s : State) (c : Nat) (k : OpCtx) (pss : List (List Piece)) (answer : List Byte) :
    List (List Byte) :=
  (pss.foldl (fun (r : List (List Byte) × List Byte) ps =>
    let lane := ps.foldl (fun (q : List Byte × List Byte) p =>
      if placeClass p.x.place = 6 then (q.1 ++ (q.2.take p.n ++ List.replicate (p.n - q.2.length) 0), q.2.drop p.n)
      else (q.1 ++ s.waveRead c k.w k.olderNum p, q.2)) ([], r.2)
    (r.1 ++ [lane.1], lane.2)) ([], answer)).1

/-- A load is performed: its data is written, its caches are filled, and it resolves. -/
def State.performLoad (s : State) (c w : Nat) (k : OpCtx) (pss : List (List Piece))
    (answer : List Byte) : State :=
  let data := s.loadBytes c k pss answer
  let s := pss.foldl (fun s ps => (s.keepPieces c k.root ps)) s
  let s := pss.foldl (fun s ps => ps.foldl (fun s p => s.pieceTouch c p) s) s
  (s.updCore c fun x => x.loadResult k.o w data).finishOp c w k.o.num

/-- LOAD_RETURN: every sector of a load has returned (R119, R302, R305). -/
def State.returnLoad (s : State) (c w : Nat) (n : HNum) : State :=
  match s.opCtx? c w n with
  | none => s
  | some k =>
    match k.o.work with
    | .load .. | .uload .. =>
      if !s.mayAttempt c k then s
      else
        match s.tryAll c k.root k.b.slot (k.o.reaches .read) with
        | .wait => s
        | .fail e a => s.failOp c w n e a
        | .go pss => if anyHost pss then s else s.performLoad c w k pss []
    | _ => s

def execLoadReturn (core wave : Nat) (num : HNum) (s : State) : Host.Outcome State Fault Refusal :=
  if coreCount ≤ core then .fault .noSuchUnit else .next (s.returnLoad core wave num)

def execScratchpadLoadResult (core pos : Nat) (s : State) : Host.Outcome State Fault Refusal :=
  if coreCount ≤ core then .fault .noSuchUnit else .next (s.completeAt core pos .spad)

def execSfuComplete (core pos : Nat) (s : State) : Host.Outcome State Fault Refusal :=
  if coreCount ≤ core then .fault .noSuchUnit else .next (s.completeAt core pos .sfu)

def execCrossLaneComplete (core pos : Nat) (s : State) : Host.Outcome State Fault Refusal :=
  if coreCount ≤ core then .fault .noSuchUnit else .next (s.completeAt core pos .cross)

/-! ## The steps of stores (R107, R306) -/

/-- One piece of a lane's store: the lane's address, the piece, and its bytes. -/
structure StorePart where
  ea : DWord
  p : Piece
  bytes : List Byte

/-- The pieces of a store in increasing lane order (R301). -/
def storeParts (o : Op) (pss : List (List Piece)) (n : Nat) : List StorePart :=
  (o.lanes.zip pss).flatMap fun e =>
    (e.2.foldl (fun (r : List StorePart × List Byte) p =>
      (r.1 ++ [⟨e.1.ea, p, r.2.take p.n⟩], r.2.drop p.n)) ([], toBytes n e.1.data.toNat)).1

/-- The page of a piece, and the page of places that it stands for. -/
def Piece.page (p : Piece) : DWord × Nat := (p.va &&& ~~~ 0xFFFF#64, placeKey p.x.place / 65536)

/-- What a wave remembers of its stores: the pages that it has stored to in a cache, and how many writes it has sent to the
host (R190, R400). -/
def Wave.stored (w : Wave) (l : List StorePart) : Wave :=
  { w with written := (w.written ++ (l.filter fun e => e.p.cached).map fun e => e.p.page).eraseDups,
           hostWrites := w.hostWrites + (l.filter fun e => placeClass e.p.x.place == 6).length }

/-- Perform stores. The bytes that go to their homes reach each sector as one coalesced write (R115, R119). -/
def State.writeParts (s : State) (c w : Nat) (l : List StorePart) : State :=
  let home (e : StorePart) : Bool := placeClass e.p.x.place < 2 && !e.p.cached
  let s := (l.filter fun e => !home e).foldl (fun s e => s.pieceWrite c e.p e.bytes) s
  let s := s.writeHome ((l.filter home).flatMap fun e => cellsFrom e.p.x.place e.bytes)
  s.updWave c w fun y => y.stored l

/-- The first failure of stores that are performed now, with the address of its lane (R302 item 3). -/
def State.partsFault (s : State) (l : List StorePart) : Option (BitVec 16 × DWord) :=
  l.foldl (fun e p => e.or ((s.pieceStoreFault p.p).map fun k => (k, p.ea))) none

/-- Whether each page that a store touches is translated and has EV (R197, R234). -/
def State.evPages (s : State) (c root : Nat) (o : Op) : List Bool :=
  (o.ranges.flatMap fun r => pageSpans (BitVec.ofNat 64 r.1) r.2).map fun p =>
    match s.translateLeaf (some c) (dieOf c) root .write p.1 with
    | .ok (x, _) => x.attr.ev
    | .error _ => false

/-- KIND of a store: 3 where every page that it touches is translated and has EV, 2 where one has not, or
is not translated yet (R234). Of a store to pages of both sorts it is 2 (DESIGN CHOICE, log 59). -/
def State.storeKind (s : State) (c root : Nat) (o : Op) : Nat := if (s.evPages c root o).all id then 3 else 2

/-- A store whose lanes have all translated. One that is not provisional is performed; a provisional
one is performed on EV pages of a confirmed block, and held on others. While no held line is free for it, its
wave is stalled. It resolves when it is accepted; a place of CLASS 4 to 6 that is held takes it at its home
(R107, R173, R197, R306, R427). -/
def State.acceptParts (s : State) (c w : Nat) (k : OpCtx) (l : List StorePart) : State :=
  let n := k.o.num
  let prov := !k.w.oldest k.o
  let now := l.filter fun e => !prov || (!k.b.tent && e.p.x.attr.ev)
  let later := l.filter fun e => prov && (k.b.tent || !e.p.x.attr.ev)
  let held := later.map fun e => e.p.held w n k.b.tent e.ea e.bytes
  match s.partsFault now with
  | some (e, a) => s.failOp c w n e a
  | none =>
    if !(s.core c).heldRoom held k.b.tent then s.updOp c w n fun o => { o with stall := true }
    else
      let s := s.writeParts c w now
      let s := s.updCore c fun x => { x with held := held.foldl (insertHeld k.w) x.held }
      let s := s.updOp c w n fun o => { o with stall := false, escaped := prov && !now.isEmpty }
      if later.all fun e => decide (placeClass e.p.x.place < 4) then s.finishOp c w n else s

/-- STORE_ACCEPT (R173, R302). -/
def State.acceptStore (s : State) (c w : Nat) (n : HNum) : State :=
  match s.opCtx? c w n with
  | none => s
  | some k =>
    match k.o.work with
    | .store sz =>
      if !s.mayAttempt c k || (s.core c).holdsStore w n then s
      else
        let kind := s.storeKind c k.root k.o
        let t := s.updOp c w n fun o => { o with kind := kind }
        match s.tryAll c k.root k.b.slot (k.o.reaches .write) with
        | .wait => t
        | .fail e a => t.failOp c w n e a
        | .go pss =>
          (pss.foldl (fun s ps => s.keepPieces c k.root ps) t).acceptParts c w k
            (storeParts k.o pss (2 ^ sz))
    | _ => s

/-- Whether a store is performed at its issue: it is provisional, its block is confirmed, and it goes to a page with EV
(R197, R306, R427 item 2). -/
def State.storesNow (s : State) (c w : Nat) (o : Op) : Bool :=
  match o.work, s.opCtx? c w o.num with
  | .store _, some k => o.status == .waiting && !o.retried && !k.w.oldest o && !k.b.tent && (s.evPages c k.root o).any id
  | _, _ => false

/-- The stores that are performed at their issue are performed. -/
def State.issuedStores (s : State) : State :=
  (s.cores.flatMap fun e => e.2.waves.flatMap fun w =>
    (w.ops.filter (s.storesNow e.1 w.slot)).map fun o => (e.1, w.slot, o.num)).foldl
    (fun s p => s.acceptStore p.1 p.2.1 p.2.2) s

def execStoreAccept (core wave : Nat) (num : HNum) (s : State) : Host.Outcome State Fault Refusal :=
  if coreCount ≤ core then .fault .noSuchUnit else .next (s.acceptStore core wave num)

/-- HELD_LINE_DRAIN: the store that HZN names is no longer provisional, and its held bytes go where
its pages put them. One that has not resolved resolves now; one that cannot be performed at its home fails
there (R107 item 4, R306, R427). -/
def State.drainHeld (s : State) (c w : Nat) : State :=
  match (s.core c).wave? w with
  | none => s
  | some y =>
    let mine := (s.core c).held.filter fun h => h.wave == w && h.num == y.hzn
    if y.shp || mine.isEmpty then s
    else
      let l : List StorePart := mine.map fun h => ⟨h.ea, s.heldPiece h, h.bytes.map fun e => e.2⟩
      let t := s.updCore c fun x => { x with held := x.held.filter fun h => !(h.wave == w && h.num == y.hzn) }
      match y.op? y.hzn, s.partsFault l with
      | some o, some (e, a) =>
        (t.updOp c w o.num fun o => { o with retried := o.retried && o.status != .done }).failOp c w o.num e a
      | some o, none =>
        if o.status = .waiting then (t.writeParts c w l).finishOp c w o.num else t.writeParts c w l
      | none, _ => t.writeParts c w l

def execHeldLineDrain (core wave : Nat) (s : State) : Host.Outcome State Fault Refusal :=
  if coreCount ≤ core then .fault .noSuchUnit else .next (s.drainHeld core wave)

end Sys2Proof.Machine
end

