-- ==== Sys2Proof/Machine/Atomics.lean ====
section
/-! DEFINITION. Atomics on global and scratchpad places, and the step that performs a global one
(R310 to R315). -/

namespace Sys2Proof.Machine

/-! ## Operands of format MA (R257, R299, R310) -/

/-- The vector registers of a datum of 4 or 8 bytes at R. -/
def datumRegs (w64 : Bool) (r : BitVec 8) : List Nat :=
  if w64 then [r.toNat, r.toNat + 1] else [r.toNat]

/-- The registers that an atomic names; D and K where the form uses them. -/
def maRegs (o : MA) (useD useK : Bool) : List Nat :=
  (if useD then datumRegs o.w64 o.d else []) ++ datumRegs o.w64 o.s
    ++ (if useK then datumRegs o.w64 o.k else []) ++ (if o.ik = 1 then [o.idx.toNat] else [])

/-- What an atomic reads from the registers. -/
def maSrcs (o : MA) (useK : Bool) : List Src :=
  (if o.bs then [] else [.a o.base.toNat]) ++ (if o.ik = 1 then [.v o.idx.toNat] else [])
    ++ (datumRegs o.w64 o.s).map Src.v ++ (if useK then (datumRegs o.w64 o.k).map Src.v else [])

/-- The address of a lane, with its low 2 or 3 bits cleared (R300). -/
def maEA (x : Ctx) (o : MA) (l : Nat) : DWord :=
  let base := if o.bs then 0 else x.a o.base.toNat
  let index : DWord := if o.ik = 1 then (x.v o.idx.toNat l).signExtend 64 else 0
  eaOf base index o.sc 0 &&& ~~~ (if o.w64 then 7#64 else 3#64)

/-- A datum of a lane, zero-extended. -/
def datum (x : Ctx) (w64 : Bool) (r : BitVec 8) (l : Nat) : DWord :=
  if w64 then x.vPair r.toNat l else (x.v r.toNat l).zeroExtend 64

/-- The lanes of an atomic as captured at issue. -/
def maLanes (x : Ctx) (o : MA) (m : LaneMask) : List LaneAcc :=
  laneAccs m (maEA x o) (fun l => (datum x o.w64 o.s l).zeroExtend 128) fun l => datum x o.w64 o.k l

/-! ## One step (R310) -/

/-- The value that a step of an atomic writes; none where a comparison fails. -/
def atomNew (cas : Bool) (aop : BitVec 4) (w64 : Bool) (old x k : DWord) : Option DWord :=
  let cut (v : DWord) : DWord := if w64 then v else (v.extractLsb' 0 32).zeroExtend 64
  let sgn (v : DWord) : DWord := if w64 then v else (v.extractLsb' 0 32).signExtend 64
  if cas then (if old = k then some x else none)
  else
    some <| match aop.toNat with
      | 0 => cut (old + x)
      | 1 => if (sgn x).slt (sgn old) then x else old
      | 2 => if (sgn old).slt (sgn x) then x else old
      | 3 => if x.ult old then x else old
      | 4 => if old.ult x then x else old
      | 5 => old &&& x
      | 6 => old ||| x
      | 7 => old ^^^ x
      | 8 => x
      | _ => BitVec.ofNat 64 (addCode (if w64 then fp64 else fp32) 0 old.toNat x.toNat).1

/-- One lane's step at a home: the new state and the value found there. -/
def State.atomStep (s : State) (h : Home) (cas : Bool) (aop : BitVec 4) (w64 : Bool) (a : LaneAcc) :
    State × DWord :=
  let n := if w64 then 8 else 4
  let old : DWord := BitVec.ofNat 64 (leNat (s.homeRead h n))
  match atomNew cas aop w64 old (a.data.extractLsb' 0 64) a.cmp with
  | some v => (s.homeWrite h (toBytes n v.toNat), old)
  | none => (s, old)

/-- The steps of several lanes, in increasing lane order; a lane without a home takes the next datum
of the host's answer (R301, R313). -/
def State.atomSteps (s : State) (cas : Bool) (aop : BitVec 4) (w64 : Bool)
    (l : List (LaneAcc × Option Home)) (answer : List DWord) : State × List (Nat × DWord) :=
  let r := l.foldl (fun (r : State × List (Nat × DWord) × List DWord) e =>
    match e.2 with
    | some h =>
      let q := r.1.atomStep h cas aop w64 e.1
      (q.1, r.2.1 ++ [(e.1.lane, q.2)], r.2.2)
    | none => (r.1, r.2.1 ++ [(e.1.lane, r.2.2.headD 0)], r.2.2.drop 1)) (s, [], answer)
  (r.1, r.2.1)

/-- The register writes of returned data. -/
def datumWrites (w64 : Bool) (d : Nat) (l : List (Nat × DWord)) : List (Nat × Nat × Word) :=
  l.flatMap fun e =>
    (d, e.1, e.2.extractLsb' 0 32) :: (if w64 then [(d + 1, e.1, e.2.extractLsb' 32 32)] else [])

/-! ## Issue -/

/-- The object of an atomic's ordering component: the lowest active lane's address (R312). -/
def maObj (x : Ctx) (o : MA) (m : LaneMask) (spad : Bool) : Obj :=
  let a := match lowLane m with
    | some l => maEA x o l
    | none => 0
  if spad then .spad a.toNat else .glob a

/-- The regions that an atomic's ordering component uses. -/
def maRegions (x : Ctx) (o : MA) (m : LaneMask) (spad : Bool) : List (DWord × Nat) :=
  if o.ord = 0 then [] else x.core.regionsOf x.block.slot (maObj x o m spad)

/-- Issue of a global atomic: it takes a number and waits for its turn (R311). -/
def issueAtomic (s : State) (g : Ctl) (o : MA) (ret cas : Bool) : Host.Outcome State Fault Refusal :=
  issueVector s g (maRegs o ret cas) (maSrcs o cas) fun x m =>
    let count := if ret then Count.ld else .st
    if m == 0 then s.save (x.done g.sw)
    else if !x.opRoom count then s
    else
      let y := x.addOp count (if ret then 1 else 4) (maLanes x o m)
        (.atomic false (if ret then some o.d.toNat else none) cas o.aop o.w64 o.ord)
        (maRegions x o m false)
      s.save (y.commitStore.done g.sw)

def execAtom (g : Ctl) (o : MA) (s : State) : Host.Outcome State Fault Refusal :=
  issueAtomic s g o true false

def execAtomn (g : Ctl) (o : MA) (s : State) : Host.Outcome State Fault Refusal :=
  issueAtomic s g o false false

def execCas (g : Ctl) (o : MA) (s : State) : Host.Outcome State Fault Refusal :=
  issueAtomic s g o true true

/-- The steps of a scratchpad atomic at the bank: the block after them and the data found. -/
def Block.atomSteps (b : Block) (cas : Bool) (aop : BitVec 4) (w64 : Bool) (l : List LaneAcc) :
    Block × List (Nat × DWord) :=
  let n := if w64 then 8 else 4
  l.foldl (fun (r : Block × List (Nat × DWord)) a =>
    let old : DWord := BitVec.ofNat 64 (leNat (r.1.spadRead a.ea.toNat n))
    match atomNew cas aop w64 old (a.data.extractLsb' 0 64) a.cmp with
    | some v => (r.1.spadWrite a.ea.toNat (toBytes n v.toNat), r.2 ++ [(a.lane, old)])
    | none => (r.1, r.2 ++ [(a.lane, old)])) (b, [])

/-- Issue of a scratchpad atomic: its steps are performed at once, unless its ordering component
names a bound object (R314). -/
def issueSpadAtomic (s : State) (g : Ctl) (o : MA) (cas : Bool) : Host.Outcome State Fault Refusal :=
  let n := if o.w64 then 8 else 4
  issueVector s g (maRegs o true cas) (maSrcs o cas) fun x m =>
    match x.firstBad m (maEA x o) n, x.firstPoisoned m (maEA x o) n with
    | some l, _ => s.raise x ⟨eSpadBounds, 0, maEA x o l⟩
    | none, some l => s.raise x ⟨eSpadPoison, 0, maEA x o l⟩
    | none, none =>
      let regions := maRegions x o m true
      if m == 0 then s.save (x.done g.sw)
      else if x.spadWaits (spadSpans m (maEA x o) n) then s
      else if !regions.isEmpty then
        if !x.opRoom .ld then s
        else
          let y := x.addOp .ld 1 (maLanes x o m)
            (.atomic true (some o.d.toNat) cas o.aop o.w64 o.ord) regions
          s.save (y.commitStore.done g.sw)
      else if 63 ≤ x.core.countOf x.frag .ld then s
      else
        let r := x.block.atomSteps cas o.aop o.w64 (maLanes x o m)
        let y := ({ x with block := r.1 } : Ctx).pendResult .spad m (datumWrites o.w64 o.d.toNat r.2) [] 0
        s.save (y.commitStore.done g.sw)

def execAtoms (g : Ctl) (o : MA) (s : State) : Host.Outcome State Fault Refusal :=
  issueSpadAtomic s g o false

def execCass (g : Ctl) (o : MA) (s : State) : Host.Outcome State Fault Refusal :=
  issueSpadAtomic s g o true

/-! ## Performing (R311 to R313, R401) -/

/-- Whether the host takes an atomic as a PCIe AtomicOp: FetchAdd, Swap or CompareAndSwap, while the function may
request it and through a translation with AOK (R313, R401). -/
def State.hostTakes (s : State) (cas : Bool) (aop : BitVec 4) (p : Piece) : Bool :=
  s.host.atomicReq && (cas || aop == 0 || aop == 8) && p.x.attr.aok

/-- Why the host cannot take a lane's atomic (R313). -/
def State.hostRefuses (s : State) (cas : Bool) (aop : BitVec 4) (ps : List Piece) : Option (BitVec 16) :=
  if ps.any fun p => placeClass p.x.place == 6 && !s.hostTakes cas aop p then some eSysAtomicUnsupported else none

/-- The lanes of an atomic tried: a lane that its unit or the host refuses has failed (R302, R313). -/
def State.tryAtomicLanes (s : State) (c : Nat) (k : OpCtx) (cas : Bool) (aop : BitVec 4) : Verdict (List (List Piece)) :=
  Verdict.all ((k.o.reaches .atomic).map fun r =>
    (s.tryReach c k.root k.b.slot r).check (s.hostRefuses cas aop) r.va)

/-- The home of a lane's place; none for the host. -/
def State.laneHome (s : State) (n : Nat) (ps : List Piece) : Except (BitVec 16) (Option Home) :=
  match ps.head? with
  | none => .ok none
  | some p => if placeClass p.x.place = 6 then .ok none else (s.homeOfPlace p.x.place n).map some

/-- The homes of an operation's lanes, or why the first that has none has failed. -/
def State.laneHomes (s : State) (n : Nat) (l : List (LaneAcc × List Piece)) :
    Except (BitVec 16 × DWord) (List (LaneAcc × Option Home)) :=
  l.mapM fun e => match s.laneHome n e.2 with
    | .ok h => .ok (e.1, h)
    | .error k => .error (k, e.1.ea)

/-- Data of an answer of the host, each of n bytes. -/
def answerData (n : Nat) (bs : List Byte) : List DWord :=
  (List.range (bs.length / n + 1)).map fun k => BitVec.ofNat 64 (recNat bs (n * k) n)

/-- The first lane whose home place cannot be read. -/
def State.atomFault (s : State) (n : Nat) (l : List (LaneAcc × Option Home)) :
    Option (BitVec 16 × DWord) :=
  l.foldl (fun (f : Option (BitVec 16 × DWord)) e =>
    match f, e.2 with
    | none, some h => (s.homeFault h n).map fun k => (if k = eSpadPoison then eMemPoison else k, e.1.ea)
    | f, _ => f) none

/-- A global atomic is performed: the core's copies go home first, then the lanes step, then its
acquire discards. -/
def State.performAtomic (s : State) (c : Nat) (k : OpCtx) (ret : Option Nat) (cas : Bool)
    (aop : BitVec 4) (w64 : Bool) (ord : BitVec 2) (pss : List (List Piece)) (ps : List Piece)
    (answer : List Byte) : State :=
  let n := if w64 then 8 else 4
  let s := pss.foldl (fun s ps => s.keepPieces c k.root ps) s
  let s := s.flushHome c fun key _ => pss.any fun l => l.any fun p => p.hasLine key
  match s.laneHomes n (k.o.lanes.zip pss) with
  | .error (e, a) => s.failOp c k.w.slot k.o.num e a
  | .ok l =>
    match s.atomFault n l with
    | some (e, a) => s.failOp c k.w.slot k.o.num e a
    | none =>
      let r := s.atomSteps cas aop w64 l (answerData n answer)
      let s := if ord.getLsbD 0 then r.1.acquire c ps false else r.1
      let s := match ret with
        | some d => s.updCore c fun x => x.putVectors k.w.slot k.o.handler k.o.frags (datumWrites w64 d r.2)
        | none => s
      s.finishOp c k.w.slot k.o.num

/-- The pieces as a release at SYSTEM scope takes them (R401). -/
def Piece.atSystem (p : Piece) : Piece := { p with x := { p.x with attr := { p.x.attr with scope := 5 } } }

/-- An attempt at a global atomic: steps 1 to 3 of its release, at SYSTEM scope where the host takes it, and then
its steps, or its request to the host. Once the host has answered, the update is made there: the lanes of the module step
where they were translated, and the acquire follows, or fails the operation (R157, R311 to R313, R401). A retry, and an
acquire that waits, keep the answer (DEDUCED, log 86). -/
def State.tryAtomic (s : State) (c : Nat) (k : OpCtx) : State :=
  match k.o.work with
  | .atomic false ret cas aop w64 ord =>
    match k.o.answer with
    | some bs => s.withVerdict c k (s.opPages c k) fun ps => s.performAtomic c k ret cas aop w64 ord k.o.reach ps bs
    | none =>
      s.withVerdict c k ((s.tryAtomicLanes c k cas aop).both (s.opPages c k)) fun e =>
        let host := anyHost e.1
        let a := (k.o.lanes.map fun a => a.ea).headD 0
        let go (s : State) : State :=
          if host then s.askHost c k a e.1 else s.performAtomic c k ret cas aop w64 ord e.1 e.2 []
        if ord.getLsbD 1 then
          s.withRelease c k (if host then e.2.map Piece.atSystem else e.2) false
            (host || s.systemObj c k.root (.glob a)) go
        else go s
  | _ => s

/-- The host has performed an AtomicOp, whatever has become of the enable bit or of AOK since it was sent (R401). -/
def State.atomicAnswer (s : State) (c : Nat) (k : OpCtx) (bs : List Byte) : State :=
  let s := s.updOp c k.w.slot k.o.num fun o => { o with status := .waiting, answer := some bs }
  match s.opCtx? c k.w.slot k.o.num with
  | none => s
  | some k => s.tryAtomic c k

/-- COLLIER_ATOMIC (R311). -/
def State.collierAtomic (s : State) (c w : Nat) (n : HNum) : State :=
  match s.opCtx? c w n with
  | none => s
  | some k => if s.mayAttempt c k then s.tryAtomic c k else s

def execCollierAtomic (core wave : Nat) (num : HNum) (s : State) : Host.Outcome State Fault Refusal :=
  if coreCount ≤ core then .fault .noSuchUnit else .next (s.collierAtomic core wave num)

/-- The scratchpad atomic of a bound object: its write-back, its steps, its discard (R298, R314). -/
def State.trySpadAtomic (s : State) (c : Nat) (k : OpCtx) (ret : Option Nat) (cas : Bool)
    (aop : BitVec 4) (w64 : Bool) (ord : BitVec 2) : State :=
  s.withVerdict c k (s.opPages c k) fun ps =>
    let go (s : State) : State :=
      match s.blockAt c k.b.slot with
      | none => s
      | some b =>
        let r := b.atomSteps cas aop w64 k.o.lanes
        let s := s.updCore c fun x => x.setBlock r.1
        let s := if ord.getLsbD 0 then s.acquire c ps false else s
        let s := match ret with
          | some d => s.updCore c fun x => x.putVectors k.w.slot k.o.handler k.o.frags (datumWrites w64 d r.2)
          | none => s
        s.finishOp c k.w.slot k.o.num
    if ord.getLsbD 1 then s.withRelease c k ps false false go else go s

end Sys2Proof.Machine
end

