-- ==== Sys2Proof/Machine/Control.lean ====
section
/-! DEFINITION. Branches, reconvergence, ending, traps and return, clause headers (R43 to R47, R179,
R246 to R248, R330, R369 to R381, R389, R390). -/

namespace Sys2Proof.Machine

/-! ## Shared operations -/

/-- The shared prologue of a fragment-level word: with no active lane it has no effect and reads
nothing; a poisoned source traps (R297, R369, R371). -/
def issueFragment (s : State) (g : Ctl) (srcs : List Src) (k : Ctx → LaneMask → State) :
    Host.Outcome State Fault Refusal :=
  match s.ctx? with
  | none => .fault .noFragment
  | some x =>
    let m := x.active g
    if x.guardPoison g x.frag.mask || x.anyPoison m srcs then
      .next (s.raise x ⟨ePoisonConsumed, 0, 0⟩)
    else if m == 0 then .next (s.save (x.done g.sw))
    else .next (k x m)

/-- The update of the damper at a take of the backward branch at an address, and whether it demotes
the fragment (R179). -/
def Damper.take (d : Damper) (addr : DWord) : Damper × Bool :=
  if addr ≠ d.dpc then ({ d with dpc := addr, drun := 0, dacc := 0 }, false)
  else
    let run := if 0 < d.drun ∧ d.dacc = d.dsig then min (d.drun + 1) 32 else 1
    let demote := decide (run = 32) && !d.dem
    ({ d with drun := run, dsig := d.dacc, dacc := 0, dem := d.dem || demote }, demote)

/-- The executing fragment continues at a target; a backward target updates the damper where the
branch counts for it (R377). -/
def Ctx.goTo (x : Ctx) (target : DWord) (damp : Bool) : Ctx :=
  let here := x.frag.loc.addr
  let back := damp && decide (target.toNat ≤ x.frag.loc.base.toNat)
  let r := x.frag.damper.take here
  let f := { x.frag with loc := .header target, damper := if back then r.1 else x.frag.damper }
  { x with
    frag := f,
    core := if back && r.2 then
        { x.core with cnt := { x.core.cnt with damperDemote := satInc x.core.cnt.damperDemote } }
      else x.core }

/-- The target of BRA, BRC, CALL and BHZ (R372). -/
def Ctx.branchTarget (x : Ctx) (o : CB) : DWord := x.frag.loc.base + 8 * o.off.signExtend 64

/-- The fragment has issued a branch word: it moves past it, and then to the target if it is taken. -/
def Ctx.jump (x : Ctx) (sw : Bool) (target : DWord) (damp : Bool) : Ctx :=
  let y := x.goTo target damp
  { y with frag := { y.frag with
      waits := none, skip := 0, yielded := false, holds := false,
      park := if sw then .switch else .none, marked := false } }

/-- The live fragments of a core, of its shadow contexts too: they keep their slots (R28, R244). The fragment of
a trap handler is not one of the 256 (DESIGN CHOICE, log 36). -/
def Core.fragCount (x : Core) : Nat :=
  (x.frags.filter fun f => !f.handler).length + (x.shadows.map fun c => c.frags.length).sum

/-- Whether the fragment may detach another one (R44 item 3); a handler's never does (R378). -/
def Ctx.canDetach (x : Ctx) : Bool :=
  !x.frag.handler && decide ((x.core.fragsOf x.wave.slot).length < 32)
    && decide (x.core.fragCount < 256)

/-- Operations and results of a fragment also count for another (R174). -/
def Core.shareCounts (x : Core) (parent child : Nat) : Core :=
  let both (l : List Nat) : List Nat := if l.contains parent then l ++ [child] else l
  { x with
    waves := x.waves.map fun w =>
      { w with ops := w.ops.map fun o => { o with frags := both o.frags } },
    pend := x.pend.map fun p => { p with frags := both p.frags } }

/-- Whether fragment g is a sibling of f under token t (R45). -/
def Frag.siblingOf (g f : Frag) (t : BitVec 8) : Bool :=
  g.id != f.id && g.wave == f.wave && g.handler == f.handler
    && g.stack.length == f.stack.length && g.stack.getLast? == some (.token t)

/-- Whether a fragment is parked at an RCV of a token. -/
def Frag.atRcv (f : Frag) (t : BitVec 8) : Bool := f.park == .rcv t

/-- The operations of several fragments count for one (R174: the distinct operations). -/
def Core.mergeCounts (x : Core) (group : List Nat) (keep : Nat) : Core :=
  let one (l : List Nat) : List Nat :=
    if l.any fun i => group.contains i then keep :: l.filter fun i => !group.contains i else l
  { x with
    waves := x.waves.map fun w =>
      { w with ops := w.ops.map fun o => { o with frags := one o.frags } },
    pend := x.pend.map fun p => { p with frags := one p.frags } }

/-- The group of fragments parked with f at one RCV merges: the one with the lowest active lane
keeps its record and its place in the queue (R45, R137). -/
def Core.mergeGroup (x : Core) (f : Frag) (t : BitVec 8) : Core :=
  let group := x.frags.filter fun g =>
    g.id == f.id || (g.siblingOf f t && g.atRcv t && g.loc == f.loc)
  let mask := group.foldl (fun m g => m ||| g.mask) 0
  let keep := (group.find? fun g => lowLane g.mask == lowLane mask).getD f
  let x := (group.filter fun g => g.id != keep.id).foldl (fun x g => x.dequeue g.id) x
  let x := x.mergeCounts (group.map fun g => g.id) keep.id
  x.updFrag keep.id fun g =>
    { g with mask := mask, stack := g.stack.dropLast, loc := g.loc.next, park :=
        if g.marked then .switch else .none, marked := false, waits := none }

/-- Every parked group of a wave that waits for no sibling merges (R45). -/
def Core.mergeParked (x : Core) (w : Nat) : Core :=
  (x.fragsOf w).foldl (fun x g =>
    match x.frag? g.id with
    | none => x
    | some f =>
      match f.park with
      | .rcv t => if x.frags.all fun h => !h.siblingOf f t || h.atRcv t then x.mergeGroup f t else x
      | _ => x) x

/-! ## Branches (R44, R46, R373 to R377) -/

/-- Whether a branch with these takers divides the fragment and would push a 17th entry (R43). -/
def Ctx.tooDeep (x : Ctx) (take : LaneMask) : Bool :=
  take != 0 && (x.frag.mask &&& ~~~take) != 0 && decide (16 ≤ x.frag.stack.length)

/-- A branch that the lanes of `take` take (R44, R46). -/
def Ctx.divide (x : Ctx) (sw : Bool) (take : LaneMask) (target : DWord) (t : BitVec 8) : Core :=
  let stay := x.frag.mask &&& ~~~take
  if take == 0 then (x.done sw).saved
  else if stay == 0 then (x.jump sw target true).saved
  else
    let minor := decide ((lanesOf take).length ≤ (lanesOf stay).length)
    let fall := x.frag.loc.next
    let few := if minor then take else stay
    let most := if minor then stay else take
    let fewLoc := if minor then Loc.header target else fall
    let mostLoc := if minor then fall else Loc.header target
    if x.canDetach then
      let y := if minor then x.done sw else x.jump sw target true
      let y := { y with frag := { y.frag with mask := most, stack := x.frag.stack ++ [DivEntry.token t] } }
      ((y.saved.newFrag x.wave.slot few fewLoc (x.frag.stack ++ [DivEntry.token t]) false).shareCounts
        x.frag.id x.core.nextFrag).mergeParked x.wave.slot
    else
      let y := if minor then x.jump sw target true else x.done sw
      let y := { y with frag := { y.frag with
        mask := few, stack := x.frag.stack ++ [DivEntry.defer t most mostLoc] } }
      y.saved.mergeParked x.wave.slot

def execBra (g : Ctl) (o : CB) (s : State) : Host.Outcome State Fault Refusal :=
  issueFragment s g [] fun x _ => s.save (x.jump g.sw (x.branchTarget o) true)

/-- The lanes that take a BRC (R374). -/
def Ctx.brcTakes (x : Ctx) (g : Ctl) (o : CB) : LaneMask :=
  x.active g &&& (if o.pn then ~~~ (x.p o.p.toNat) else x.p o.p.toNat)

/-- BRC reads its predicate in every lane of the mask (R371, R374). -/
def execBrc (g : Ctl) (o : CB) (s : State) : Host.Outcome State Fault Refusal :=
  match s.ctx? with
  | none => .fault .noFragment
  | some x =>
    let take := x.brcTakes g o
    if x.guardPoison g x.frag.mask || x.srcPoison x.frag.mask (.p o.p.toNat) then
      .next (s.raise x ⟨ePoisonConsumed, 0, 0⟩)
    else if x.tooDeep take then .next (s.raise x ⟨eDivergeDepth, 0, 0⟩)
    else .next (s.setCore x.c (x.divide g.sw take (x.branchTarget o) o.token))

/-- The target of BRX and RET: bits [2:0] are cleared (R372). -/
def Ctx.regTarget (x : Ctx) (o : CR) : DWord := x.a o.a.toNat &&& ~~~ 7#64

def execBrx (g : Ctl) (o : CR) (s : State) : Host.Outcome State Fault Refusal :=
  match s.ctx? with
  | none => .fault .noFragment
  | some x =>
    let take := x.active g
    if x.guardPoison g x.frag.mask || x.srcPoison take (.a o.a.toNat) then
      .next (s.raise x ⟨ePoisonConsumed, 0, 0⟩)
    else if x.tooDeep take then .next (s.raise x ⟨eDivergeDepth, 0, 0⟩)
    else .next (s.setCore x.c (x.divide g.sw take (x.regTarget o) (o.low.extractLsb' 12 8)))

/-- CALL links the header after its own clause and transfers the whole fragment (R376). -/
def execCall (g : Ctl) (o : CB) (s : State) : Host.Outcome State Fault Refusal :=
  issueFragment s g [] fun x _ =>
    s.save ((x.setA o.link.toNat x.frag.loc.next.addr).jump g.sw (x.branchTarget o) false)

def execRet (g : Ctl) (o : CR) (s : State) : Host.Outcome State Fault Refusal :=
  issueFragment s g [.a o.a.toNat] fun x _ => s.save (x.jump g.sw (x.regTarget o) false)

/-- BHZ is taken when the wave's open count is 0 (R330). -/
def execBhz (g : Ctl) (o : CB) (s : State) : Host.Outcome State Fault Refusal :=
  issueFragment s g [] fun x _ =>
    if x.wave.openCount = 0 then s.save (x.jump g.sw (x.branchTarget o) true)
    else s.save (x.done g.sw)

/-! ## Reconvergence and ending (R45, R47, R378 to R381) -/

def execRcv (g : Ctl) (o : CN) (s : State) : Host.Outcome State Fault Refusal :=
  let t : BitVec 8 := o.low.extractLsb' 12 8
  issueFragment s g [] fun x _ =>
    let f := x.frag
    let rest := f.stack.dropLast
    match f.stack.getLast? with
    | some (.token u) =>
      if u = t then
        let park := { f with park := .rcv t, marked := g.sw, waits := none, skip := 0,
                             yielded := false, holds := false }
        s.setCore x.c (({ x with frag := park } : Ctx).saved.mergeParked x.wave.slot)
      else s.save (x.done g.sw)
    | some (.defer u m pc) =>
      if u = t then
        let y := x.done g.sw
        let f := { y.frag with stack := rest ++ [DivEntry.done t f.mask f.loc.next], mask := m, loc := pc,
                               holds := false }
        s.setCore x.c (({ y with frag := f } : Ctx).saved.mergeParked x.wave.slot)
      else s.save (x.done g.sw)
    | some (.done u m _) =>
      if u = t then
        let y := x.done g.sw
        let f := { y.frag with stack := rest, mask := f.mask ||| m }
        s.setCore x.c (({ y with frag := f } : Ctx).saved.mergeParked x.wave.slot)
      else s.save (x.done g.sw)
    | none => s.save (x.done g.sw)

/-- The stack below the topmost DEFER or DONE entry, with that entry's lanes and place; none where
only tokens are left (R47). -/
def popPath (st : List DivEntry) : Option (List DivEntry × LaneMask × Loc) :=
  match st.reverse.dropWhile fun e => match e with
    | .token _ => true
    | _ => false with
  | .defer _ m pc :: r => some (r.reverse, m, pc)
  | .done _ m pc :: r => some (r.reverse, m, pc)
  | _ => none

/-- Whether some operation that the handler issued has not resolved: the end of the handler waits
for it (R235; DEDUCED, log 16). -/
def Wave.handlerBusy (w : Wave) : Bool := w.ops.any fun o => o.handler && o.status != .done

/-- A wave whose fragments have all ended ends (R39, R47). -/
def State.endIfEmpty (s : State) (c w : Nat) : State :=
  if ((s.core c).fragsOf w).isEmpty then s.endWave c w else s

/-- Results that a handler's words still owe lose the window's own registers with it (R92). -/
def Core.dropWindowPends (x : Core) (w : Nat) : Core :=
  let kept := x.pend.filter fun p => !(p.wave == w && p.handler && p.sr.any fun r => decide (r.dest < 32))
  { x with pend := kept.map fun p =>
    if p.wave == w && p.handler then
      { p with handler := false, flags := 0, preds := [], regs := p.regs.filter fun r => decide (32 ≤ r.1) }
    else p }

/-- An EXIT of a handler's last lanes ends the interrupted wave (R235 item 3). -/
def State.endHandled (s : State) (c w : Nat) : State :=
  let s := s.updCore c fun x => x.dropWindowPends w
  let s := s.returnFromTrap c w 0
  (s.updCore c fun x => x.dropFrags w).endWave c w

def execExit (g : Ctl) (_o : CN) (s : State) : Host.Outcome State Fault Refusal :=
  issueFragment s g [] fun x m =>
    let left := x.frag.mask &&& ~~~m
    let y := x.done g.sw
    if left != 0 then s.save { y with frag := { y.frag with mask := left } }
    else
      match popPath x.frag.stack with
      | some (st, m, pc) =>
        let f := { y.frag with stack := st, mask := m, loc := pc, holds := false }
        s.setCore x.c (({ y with frag := f } : Ctx).saved.mergeParked x.wave.slot)
      | none =>
        if x.frag.handler then
          if x.wave.handlerBusy then s else s.endHandled x.c x.wave.slot
        else
          (s.setCore x.c ((x.core.dequeue x.frag.id).mergeParked x.wave.slot)).endIfEmpty x.c
            x.wave.slot

/-- YIELD releases the slots, and the next choice of the vector slot passes the fragment over
(R381). -/
def execYield (g : Ctl) (_o : CN) (s : State) : Host.Outcome State Fault Refusal :=
  issueFragment s g [] fun x _ =>
    let y := x.done g.sw
    s.save { y with frag := { y.frag with yielded := true, holds := false } }

def execNop (g : Ctl) (_o : CN) (s : State) : Host.Outcome State Fault Refusal :=
  issueFragment s g [] fun x _ => s.save (x.done g.sw)

/-! ## Traps and return (R389, R390) -/

def execTrap (g : Ctl) (o : CN) (s : State) : Host.Outcome State Fault Refusal :=
  issueFragment s g [] fun x _ => s.raise x ⟨eTrap, o.low.extractLsb' 42 8, 0⟩

/-- Whether a special-function result of the interrupted wave is still pending (R93, R236). -/
def Core.sfuOwed (x : Core) (w : Nat) : Bool :=
  x.pend.any fun p => p.wave == w && p.kind == .sfu && !p.handler

/-- RTE waits for the special-function results pending from trap entry, then returns. Outside a trap
window it is an undefined opcode (R236, R390). -/
def execRte (g : Ctl) (o : CR) (s : State) : Host.Outcome State Fault Refusal :=
  match s.ctx? with
  | none => .fault .noFragment
  | some x =>
    if !x.frag.handler then .next (s.raise x (illegal 1))
    else
      issueFragment s g [.a o.a.toNat] fun x _ =>
        if x.core.sfuOwed x.wave.slot || x.wave.handlerBusy then s
        else (s.updCore x.c fun k => k.dropWindowPends x.wave.slot).returnFromTrap x.c x.wave.slot
          (x.a o.a.toNat)

/-! ## Clause headers (R18, R246 to R248) -/

/-- A valid header places its fragment at the clause's first word, with the header's waits; another
one traps and is fetched again. A word that stands inside a clause is no header. -/
def execClauseHeader (h : Header) (s : State) : Host.Outcome State Fault Refusal :=
  match s.ctx? with
  | none => .fault .noFragment
  | some x =>
    match x.frag.loc, Cls.ofCode h.cls with
    | .word .., _ => .next s
    | .header _, none => .next (s.raise x (illegal 3))
    | .header a, some cls =>
      match h.fault with
      | some n => .next (s.raise x (illegal (BitVec.ofNat 8 n)))
      | none =>
        let w : Waits := { ld := h.ldw.toNat, st := h.stw.toNat, eng := h.engw.toNat, hz := h.hzw.toNat }
        .next (s.save { x with frag := { x.frag with
          loc := .word a cls h.count.toNat 0, waits := some w } })

end Sys2Proof.Machine
end

