-- ==== Sys2Proof/Machine/Objects.lean ====
section
/-! DEFINITION. Fences, bindings, sync words, barrier objects, waiter queues and WAITHZ, and the
steps that perform their updates and reads (R141 to R143, R165 to R172, R186 to R193, R316 to R329). -/

namespace Sys2Proof.Machine

/-! ## Operands of format MB (R258, R317) -/

/-- The object that a word names. -/
def mbObj (x : Ctx) (o : MB) : Obj :=
  if o.spc then (if o.obj = 0xFFFF0 then .allot else .spad o.obj.toNat)
  else .glob (x.a (o.obj.extractLsb' 16 4).toNat + (o.obj.extractLsb' 0 16).signExtend 64)

/-- What the object's name reads. -/
def mbSrcs (o : MB) : List Src := if o.spc then [] else [.a (o.obj.extractLsb' 16 4).toNat]

/-- The first bytes of an object operand: its offset or its address. -/
def Obj.addr (o : Obj) : DWord :=
  match o with
  | .spad n => BitVec.ofNat 64 n
  | .glob va => va
  | .allot => 0

/-- Bits of the 29 that each opcode uses in its own way. -/
def mbBit (o : MB) (k : Nat) : Bool := o.low.getLsbD k

/-- An s-register named by bits [k+6:k]. -/
def mbS (o : MB) (k : Nat) : Nat := (o.low.extractLsb' k 7).toNat

/-- The object traps of a word: alignment, bounds and, where it reads the object, poison (R303,
R317). -/
def Ctx.objTrap (x : Ctx) (obj : Obj) (align n : Nat) (reads : Bool) : Option Cause :=
  match obj with
  | .allot => none
  | .glob va => if va.toNat % align = 0 then none else some ⟨eBarrierAlign, 0, va⟩
  | .spad k =>
    if k % align ≠ 0 then some ⟨eBarrierAlign, 0, obj.addr⟩
    else if !x.block.spadOk k n then some ⟨eSpadBounds, 0, obj.addr⟩
    else if reads && x.block.spadBad k n then some ⟨eSpadPoison, 0, obj.addr⟩
    else none

/-- The shared prologue of an object word: register budget, poison, the object's traps, and then the
effect (R271, R297, R303). -/
def issueObject (s : State) (g : Ctl) (o : MB) (regs : List Nat) (srcs : List Src) (align n : Nat)
    (reads : Bool) (k : Ctx → LaneMask → Obj → State) : Host.Outcome State Fault Refusal :=
  match s.ctx? with
  | none => .fault .noFragment
  | some x =>
    if !regs.all x.regOk then .next (s.raise x (illegal 4))
    else
      issueFragment s g (mbSrcs o ++ srcs) fun x m =>
        match x.objTrap (mbObj x o) align n reads with
        | some t => s.raise x t
        | none => k x m (mbObj x o)

/-- Whether an object operation takes a number: its object is global, or a binding names it (R298). -/
def numbered (obj : Obj) (regions : List (DWord × Nat)) : Bool :=
  match obj with
  | .glob _ => true
  | _ => !regions.isEmpty

/-! ## FENCE (R190, R318) -/

def execFence (g : Ctl) (_o : MB) (s : State) : Host.Outcome State Fault Refusal :=
  issueFragment s g [] fun x _ =>
    if !x.opRoom .none then s else s.save ((x.addOp .none 5 [] .fence []).done g.sw)

/-- Write back, then discard. -/
def State.performFence (s : State) (c : Nat) (k : OpCtx) : State :=
  s.withVerdict c k (s.opPages c k) fun _ =>
    s.withRelease c k [] true false fun s =>
      ((s.acquire c [] true).settleWritten c k.w.slot).finishOp c k.w.slot k.o.num

/-! ## BIND and UNBIND (R156, R157, R319, R320) -/

/-- The entry that a BIND with these operands writes. -/
def bindEntry (x : Ctx) (o : MB) (obj : Obj) : BindEnt :=
  { base := x.a (o.low.extractLsb' 25 4).toNat &&& ~~~ 63#64,
    len := (o.low.extractLsb' 3 22).toNat + 1, sync := obj.addr.toNat % 16 != 0,
    slot := x.block.slot, obj := obj.ident.getD 0 }

/-- Whether an entry is one of the block's with the same region and object. -/
def BindEnt.sameAs (e f : BindEnt) : Bool :=
  e.slot == f.slot && e.base == f.base && e.len == f.len && e.obj == f.obj

def bindSrcs (o : MB) : List Src := [.a (o.low.extractLsb' 25 4).toNat]

def execBind (g : Ctl) (o : MB) (s : State) : Host.Outcome State Fault Refusal :=
  issueObject s g o [] (bindSrcs o) 8 8 false fun x _ obj =>
    let e := bindEntry x o obj
    if x.core.binds.any fun k => k.2.sameAs e then s.save (x.done g.sw)
    else
      match (List.range 32).find? fun k => (Map.find x.core.binds k).isNone with
      | none => s.raise x ⟨eBindFull, 0, 0⟩
      | some k => s.save (({ x with core := { x.core with binds := Map.put x.core.binds k e } } : Ctx).done g.sw)

def execUnbind (g : Ctl) (o : MB) (s : State) : Host.Outcome State Fault Refusal :=
  issueObject s g o [] (bindSrcs o) 8 8 false fun x _ obj =>
    let e := bindEntry x o obj
    s.save (({ x with core := { x.core with
      binds := x.core.binds.filter fun k => !k.2.sameAs e } } : Ctx).done g.sw)

/-! ## ACQ and REL (R321, R322) -/

/-- The even vector register of the pair that ACQ and REL name, if they name one. -/
def mbPair (o : MB) : Option Nat := if mbBit o 28 then some (o.low.extractLsb' 20 8).toNat else none

def pairOf (r : Option Nat) : List Nat :=
  match r with
  | some r => [r, r + 1]
  | none => []

/-- An acquire reads its object at the home, discards, and writes its pair. -/
def State.tryAcq (s : State) (c : Nat) (k : OpCtx) : State :=
  match k.o.work with
  | .acq obj pair all lanes =>
    if !s.mayAttempt c k then s
    else
      s.withBoth c k obj .read 8 fun s ps h =>
        let v := s.homeWord h
        let s := s.acquire c ps all
        let s := match pair with
          | some r => s.updCore c fun x => x.putVectors k.w.slot k.o.handler k.o.frags
              (((lanesOf lanes).map fun l => (r, l, v.extractLsb' 0 32))
                ++ (lanesOf lanes).map fun l => (r + 1, l, v.extractLsb' 32 32))
          | none => s
        s.finishOp c k.w.slot k.o.num
  | _ => s

/-- One attempt at an operation of a wave. -/
def State.attempt (s : State) (c w : Nat) (n : HNum) (f : State → OpCtx → State) : State :=
  match s.opCtx? c w n with
  | none => s
  | some k => f s k

def execAcq (g : Ctl) (o : MB) (s : State) : Host.Outcome State Fault Refusal :=
  let pair := mbPair o
  issueObject s g o (pairOf pair) [] 8 8 true fun x m obj =>
    if !x.opRoom .none then s
    else
      let y := x.addOp .none 5 [] (.acq obj pair (mbBit o 11) m) (x.core.regionsOf x.block.slot obj)
      (s.save (y.done g.sw)).attempt x.c x.wave.slot x.wave.seq fun s k => s.tryAcq x.c k

/-- A release writes back, and then updates its sync word at the home. -/
def State.tryRel (s : State) (c : Nat) (k : OpCtx) : State :=
  match k.o.work with
  | .rel obj value all =>
    s.withBoth c k obj (if value.isSome then .write else .atomic) 8 fun s ps h =>
        s.withRelease c k ps all (s.systemObj c k.root obj) fun s =>
          let v := value.getD (s.homeWord h + 1)
          (s.homeWrite h (toBytes 8 v.toNat)).finishOp c k.w.slot k.o.num
  | _ => s

def execRel (g : Ctl) (o : MB) (s : State) : Host.Outcome State Fault Refusal :=
  let pair := mbPair o
  issueObject s g o (pairOf pair) [] 8 8 pair.isNone fun x m obj =>
    let l := (lowLane m).getD 0
    if x.anyPoison (laneBit l) ((pairOf pair).map Src.v) then s.raise x ⟨ePoisonConsumed, 0, 0⟩
    else if !x.opRoom .none then s
    else
      let regions := x.core.regionsOf x.block.slot obj
      let y := x.addOp .none 5 [] (.rel obj (pair.map fun r => x.vPair r l) (mbBit o 11)) regions
      let s := s.save (y.commitStore.done g.sw)
      if spadOnly obj regions (mbBit o 11) then
        s.attempt x.c x.wave.slot x.wave.seq fun s k => if s.mayAttempt x.c k then s.tryRel x.c k else s
      else s

/-! ## BINIT (R165, R323) -/

/-- The targets of BINIT: immediates, or two s-registers. -/
def binitTargets (x : Ctx) (o : MB) : BitVec 16 × BitVec 32 :=
  if mbBit o 28 then ((x.s (mbS o 21)).extractLsb' 0 16, x.s (mbS o 14))
  else ((o.low.extractLsb' 16 12).zeroExtend 16, (o.low.extractLsb' 0 16).zeroExtend 32)

def execBinit (g : Ctl) (o : MB) (s : State) : Host.Outcome State Fault Refusal :=
  let srcs := if mbBit o 28 then [Src.s (mbS o 21), .s (mbS o 14)] else []
  issueObject s g o [] srcs 16 16 false fun x _ obj =>
    let t := binitTargets x o
    match obj with
    | .glob _ =>
      if !x.opRoom .st then s
      else s.save (((x.addOp .st 4 [] (.binit obj t.1 t.2) []).commitStore).done g.sw)
    | .spad k =>
      if x.spadWaits [obj.range 16] then s
      else s.save (({ x with block := x.block.spadWrite k (Bar.init t.1.toNat t.2.toNat).toBytes } : Ctx).commitStore.done g.sw)
    | .allot => s.save (x.done g.sw)

/-- A BINIT of a global object at its home. -/
def State.performBinit (s : State) (c : Nat) (k : OpCtx) : State :=
  match k.o.work with
  | .binit obj at_ bt =>
    s.withObj c k obj .write 16 fun s h =>
      (s.homeWrite h (Bar.init at_.toNat bt.toNat).toBytes).finishOp c k.w.slot k.o.num
  | _ => s

/-! ## ARRIVE (R324) -/

/-- One arrival update at a home, with its check of the expected target. -/
def State.arriveAt (s : State) (h : Home) (n : Nat) (expect : Option (BitVec 16)) : State :=
  let code := match expect with
    | some t => if t.toNat = (s.barAt h).atgt then 0 else eBarrierTarget
    | none => 0
  s.barUpdate h n 0 code

def State.performArrive (s : State) (c : Nat) (k : OpCtx) : State :=
  match k.o.work with
  | .arrive obj n expect all =>
    s.withBoth c k obj .atomic 16 fun s ps h =>
      s.withRelease c k ps all (s.systemObj c k.root obj) fun s => (s.arriveAt h n expect).finishOp c k.w.slot k.o.num
  | _ => s

/-- Whether an unnumbered ARRIVE waits for older operations of its wave (R168, R189 to R191): with ALL for every
one, for the wave's writes to the host, or for a port (R188, R190; DEDUCED, log 18). -/
def State.arriveWaits (s : State) (x : Ctx) (obj : Obj) (all : Bool) : Bool :=
  x.spadWaits [obj.range 16]
    || (all && ((!x.frag.handler && (x.wave.shp || x.wave.openCount != 0)) || x.wave.owesHost [] true false
      || (s.releaseFault x.c [] true).isSome))

/-- The zero-length read behind the wave's writes to the host, for an arrival that takes no number: it is sent while the link
is up, once nothing older is open (R400; DEDUCED, log 18). -/
def State.askArrive (s : State) (x : Ctx) : State :=
  if x.wave.hostOwed && x.wave.hostAsk.isNone && s.linkUp && (x.frag.handler || (!x.wave.shp && x.wave.openCount == 0)) then
    s.updWave x.c x.wave.slot fun w => { w with hostAsk := some w.hostWrites }
  else s

def execArrive (g : Ctl) (o : MB) (s : State) : Host.Outcome State Fault Refusal :=
  let all := mbBit o 11
  let n := (o.low.extractLsb' 3 8).toNat + 1
  let expect := if mbBit o 28 then some (o.low.extractLsb' 12 16) else none
  issueObject s g o [] [] 16 16 true fun x _ obj =>
    let regions := x.core.regionsOf x.block.slot obj
    if numbered obj regions then
      if !x.opRoom .none then s
      else s.save ((x.addOp .none 9 [] (.arrive obj n expect all) regions).commitStore.done g.sw)
    else
      match obj with
      | .spad off =>
        if s.arriveWaits x obj all then (if all then s.askArrive x else s)
        else
          let s := s.save (x.commitStore.done g.sw)
          let s := if all then s.release x.c [] true else s
          s.arriveAt (.spad x.c x.block.slot off) n expect
      | _ => s.save (x.done g.sw)

/-! ## WAITPH and TRYPH (R169, R192, R325, R326) -/

def mbPhase (x : Ctx) (o : MB) : BitVec 16 :=
  if mbBit o 28 then (x.s (mbS o 21)).extractLsb' 0 16 else o.low.extractLsb' 12 16

def phaseSrcs (o : MB) : List Src := if mbBit o 28 then [.s (mbS o 21)] else []

/-- The phase of an object at its home. -/
def State.phaseAt (s : State) (h : Home) : Nat := (s.barAt h).phase

/-- The home of an object that takes no number: in the block's scratchpad, or its allotment barrier. -/
def ownHome (c block : Nat) (obj : Obj) : Home :=
  match obj with
  | .spad off => .spad c block off
  | _ => .allot c block

/-- A WAITPH's read; where it ends the wait, its bound pages are translated, and the discards and the join follow in the
same step: what the wave issues after that read is performed after them (R157 item 4, R189, R325). -/
def State.tryWaitph (s : State) (c : Nat) (k : OpCtx) : State :=
  match k.o.work with
  | .waitph obj ph =>
    if !s.mayAttempt c k then s
    else
      s.withObj c k obj .read 16 fun s h =>
        if s.phaseAt h = ph.toNat then s
        else s.withVerdict c k (s.opPages c k) fun ps =>
          ((s.acquire c ps false).join c h).finishOp c k.w.slot k.o.num
  | _ => s

/-- A parked fragment leaves its park; a switch marker of its word parks it for results. -/
def Frag.unpark (f : Frag) : Frag :=
  { f with park := if f.marked then .switch else .none, marked := false }

/-- Whether the operation of a WAITPH is over: it has resolved as successful, or it is gone. -/
def State.opOver (s : State) (c w : Nat) (n : HNum) : Bool :=
  match s.opCtx? c w n with
  | none => true
  | some k => k.o.status == .done

/-- The read of a parked fragment (R169). -/
def State.waitphWake (s : State) (c f : Nat) : State :=
  match (s.core c).frag? f with
  | none => s
  | some fr =>
    match fr.park, (s.core c).wave? fr.wave with
    | .waitph obj ph num, some w =>
      let wake (s : State) : State := s.updCore c fun x => x.updFrag f Frag.unpark
      match num with
      | some n =>
        if s.opOver c w.slot n then wake s
        else
          let s := s.attempt c w.slot n fun s k => s.tryWaitph c k
          if s.opOver c w.slot n then wake s else s
      | none =>
        let h := ownHome c w.block obj
        if s.phaseAt h = ph.toNat then s else wake (s.join c h)
    | _, _ => s

def execWaitphWake (core frag : Nat) (s : State) : Host.Outcome State Fault Refusal :=
  if coreCount ≤ core then .fault .noSuchUnit else .next (s.waitphWake core frag)

/-- The fragment moves past its WAITPH and parks there. -/
def Ctx.parkAt (x : Ctx) (sw : Bool) (p : Park) : Ctx :=
  { x with frag := { x.frag.past false with park := p, marked := sw, holds := false } }

def execWaitph (g : Ctl) (o : MB) (s : State) : Host.Outcome State Fault Refusal :=
  issueObject s g o [] (phaseSrcs o) 16 16 true fun x _ obj =>
    let ph := mbPhase x o
    let regions := x.core.regionsOf x.block.slot obj
    if numbered obj regions then
      if !x.opRoom .none then s
      else
        let n := x.wave.seq
        let y := x.addOp .none 9 [] (.waitph obj ph) regions
        let t := (s.save (y.done g.sw)).attempt x.c x.wave.slot n fun s k => s.tryWaitph x.c k
        if t.opOver x.c x.wave.slot n then t
        else (s.save (y.parkAt g.sw (.waitph obj ph (some n)))).attempt x.c x.wave.slot n fun s k =>
          s.tryWaitph x.c k
    else if x.spadWaits [obj.range 16] then s
    else
      let h := ownHome x.c x.block.slot obj
      if s.phaseAt h = ph.toNat then s.save (x.parkAt g.sw (.waitph obj ph none))
      else (s.save (x.done g.sw)).join x.c h

/-- A TRYPH's read, its discards and its predicate. -/
def State.tryTryph (s : State) (c : Nat) (k : OpCtx) : State :=
  match k.o.work with
  | .tryph obj ph pd lanes =>
    if !s.mayAttempt c k then s
    else
      s.withBoth c k obj .read 16 fun s ps h =>
        let past := s.phaseAt h != ph.toNat
        let s := s.acquire c ps false
        let s := if past then s.join c h else s
        let s := s.updCore c fun x => x.putPreds k.w.slot k.o.handler k.o.frags
          [(pd, lanes, if past then BitVec.allOnes 64 else 0)]
        s.finishOp c k.w.slot k.o.num
  | _ => s

def execTryph (g : Ctl) (o : MB) (s : State) : Host.Outcome State Fault Refusal :=
  let pd := (o.low.extractLsb' 9 3).toNat
  issueObject s g o [] (phaseSrcs o) 16 16 true fun x m obj =>
    let ph := mbPhase x o
    let regions := x.core.regionsOf x.block.slot obj
    if numbered obj regions then
      if !x.opRoom .none then s
      else
        let y := x.addOp .none 9 [] (.tryph obj ph pd m) regions
        (s.save (y.done g.sw)).attempt x.c x.wave.slot x.wave.seq fun s k => s.tryTryph x.c k
    else if x.spadWaits [obj.range 16] then s
    else
      let h := ownHome x.c x.block.slot obj
      let past := s.phaseAt h != ph.toNat
      let y := (x.setP pd m (if past then BitVec.allOnes 64 else 0)).done g.sw
      if past then (s.save y).join x.c h else s.save y

/-- BARRIER_UPDATE: a BINIT or an ARRIVE that took a number reaches its object's home (R168). -/
def State.barrierUpdate (s : State) (c w : Nat) (n : HNum) : State :=
  s.attempt c w n fun s k =>
    if !s.mayAttempt c k then s
    else
      match k.o.work with
      | .binit .. => s.performBinit c k
      | .arrive .. => s.performArrive c k
      | _ => s

def execBarrierUpdate (core wave : Nat) (num : HNum) (s : State) : Host.Outcome State Fault Refusal :=
  if coreCount ≤ core then .fault .noSuchUnit else .next (s.barrierUpdate core wave num)

/-! ## Waiter queues (R141 to R143, R327, R328) -/

def execQwait (g : Ctl) (o : MB) (s : State) : Host.Outcome State Fault Refusal :=
  let r := (o.low.extractLsb' 25 4).toNat
  issueObject s g o [] [.a r] 16 16 false fun x _ obj =>
    if !x.opRoom .none then s
    else
      let w := Work.qwait obj.addr (x.a r &&& ~~~ 15#64)
      s.save ((x.addOp .none 9 [] w []).done g.sw)

def execWake (g : Ctl) (o : MB) (s : State) : Host.Outcome State Fault Refusal :=
  issueObject s g o [] (phaseSrcs o) 16 16 false fun x _ obj =>
    if !x.opRoom .none then s
    else
      let n := if mbBit o 28 then (x.s (mbS o 21)).toNat else (o.low.extractLsb' 12 16).toNat
      s.save (((x.addOp .none 9 [] (.wake obj.addr n) []).commitStore).done g.sw)

/-- A walk of a context's tables by a Collier, through the L2 of its die and no translation cache;
its answer is the home of n bytes (R143). -/
def State.colHome (s : State) (d root : Nat) (acc : Access) (va : DWord) (n : Nat) :
    Except (BitVec 16) Home :=
  if !canonical va then .error eVaNoncanonical
  else
    match s.walk d root va.toNat with
    | .error f => .error f.code
    | .ok (e, level) =>
      if bitsOf e 13 1 = 1 then .error ePagePoison
      else if !leafAllows acc e then .error eXlatePerm
      else
        let p := pteFrame e + bitsOf va.toNat 0 (pageBits level)
        match s.placeFault p with
        | some k => .error k
        | none =>
          match s.homeOfPlace p n with
          | .error k => .error k
          | .ok h =>
            match if acc = .write then s.homeWriteFault p else s.homeFault h n with
            | some k => .error (if k = eSpadPoison then eMemPoison else k)
            | none => .ok h

/-- The memory place of a queue head or record: its Collier is that of its home port (DEDUCED, log 13). -/
def Home.memPlace (h : Home) : Option Nat :=
  match h with
  | .mem p => some p
  | _ => none

/-- A global address as 8 bytes at a home. -/
def State.putHomeWord (s : State) (h : Home) (v : DWord) : State := s.homeWrite h (toBytes 8 v.toNat)

def Home.plus (h : Home) (n : Nat) : Home :=
  match h with
  | .mem p => .mem (p + n)
  | .spad c b o => .spad c b (o + n)
  | .allot c b => .allot c b

/-- What a party that acts for a block, or for none, reaches at an address that a Collier or the Stoker follows: the window
of another block that is tentative holds it back (R143, R200 item 4). -/
def State.colReach (s : State) (own : Option (Nat × Nat)) (d root : Nat) (acc : Access) (va : DWord) (n : Nat) :
    Verdict Home :=
  match s.colHome d root acc va n with
  | .error e => .fail e va
  | .ok h => if s.heldWindow own h then .wait else .go h

/-- A queue head or a record, tried at its home, which is a place of memory (R141; DEDUCED, log 13). -/
def State.tryMem (s : State) (c : Nat) (k : OpCtx) (va : DWord) (acc : Access) : Verdict Home :=
  (s.tryObj c k (.glob va) acc 16).check (fun h => if h.memPlace.isNone then some ePlaceUnmapped else none) va

/-- The link of a record at the Collier of the head (R141, R327). -/
def State.linkRecord (s : State) (c : Nat) (k : OpCtx) (record : DWord) (head rec : Home) : State :=
  let d := colliers ((head.memPlace).getD 0)
  let last := s.homeWord (head.plus 8)
  if last = 0 then
    ((((s.putHomeWord rec 0).putHomeWord head record).putHomeWord (head.plus 8) record)).finishOp c
      k.w.slot k.o.num
  else
    s.withVerdict c k (s.colReach (some (c, k.b.slot)) d k.root .write last 16) fun l =>
      (((s.putHomeWord rec 0).putHomeWord l record).putHomeWord (head.plus 8) record).finishOp c
        k.w.slot k.o.num

/-- COLLIER_LINK (R327). -/
def State.collierLink (s : State) (c w : Nat) (n : HNum) : State :=
  s.attempt c w n fun s k =>
    match k.o.work with
    | .qwait head record =>
      if !s.mayAttempt c k then s
      else
        let head_ := s.tryMem c k head .atomic
        s.withVerdict c k (head_.both (s.tryMem c k record .write)) fun e =>
          ((s.flushObj c e.1).flushObj c e.2).linkRecord c k record e.1 e.2
    | _ => s

def execCollierLink (core wave : Nat) (num : HNum) (s : State) : Host.Outcome State Fault Refusal :=
  if coreCount ≤ core then .fault .noSuchUnit else .next (s.collierLink core wave num)

/-- The arrival of one wake; dropped and counted where its barrier cannot be reached (R142). -/
def State.wakeArrival (s : State) (d root : Nat) (wakeb : DWord) : State :=
  if wakeb.toNat % 16 ≠ 0 then s.countDropped (.wake d)
  else
    match s.colHome d root .write wakeb 16 with
    | .error _ => s.countDropped (.wake d)
    | .ok h => s.updateFor none h 1 0 0 (.wake d)

/-- Unlink up to n records; the answer is the state, and what stops it before the n-th, with how many were still to be
unlinked: a record that cannot be read, or one in a window that is held (R142, R143, R200). -/
def State.unlink (s : State) (own : Nat × Nat) (d root : Nat) (head : Home) (n : Nat) : State × Verdict Unit × Nat :=
  match n with
  | 0 => (s, .go (), 0)
  | n + 1 =>
    let first := s.homeWord head
    if first = 0 then (s, .go (), 0)
    else
      match s.colReach (some own) d root .read first 16 with
      | .wait => (s, .wait, n + 1)
      | .fail e a => (s, .fail e a, n + 1)
      | .go r =>
        let next := s.homeWord r
        let wakeb := s.homeWord (r.plus 8)
        let s := s.putHomeWord head next
        let s := if next = 0 then s.putHomeWord (head.plus 8) 0 else s
        State.unlink (s.wakeArrival d root wakeb) own d root head n

/-- How many records a WAKE that waits at a held window has unlinked. -/
def Op.unlinked (o : Op) : Nat := (o.results.map fun r => r.2.toNat).headD 0

/-- COLLIER_UNLINK (R328). A failure is that of the whole operation: its retry, and its replay, unlink up to n records again
(R228 item 1, R236). -/
def State.collierUnlink (s : State) (c w : Nat) (n : HNum) : State :=
  s.attempt c w n fun s k =>
    match k.o.work with
    | .wake head count =>
      if !s.mayAttempt c k then s
      else
        s.withVerdict c k (s.tryMem c k head .atomic) fun h =>
          let t := (s.flushObj c h).unlink (c, k.b.slot) (colliers (h.memPlace.getD 0)) k.root h (count - k.o.unlinked)
          match t.2.1 with
          | .go _ => t.1.finishOp c w n
          | .fail e a => t.1.failOp c w n e a
          | .wait => t.1.updOp c w n fun o => { o with results := [(0, BitVec.ofNat 64 (count - t.2.2))] }
    | _ => s

def execCollierUnlink (core wave : Nat) (num : HNum) (s : State) : Host.Outcome State Fault Refusal :=
  if coreCount ≤ core then .fault .noSuchUnit else .next (s.collierUnlink core wave num)

/-! ## WAITHZ (R171, R329) -/

/-- WAITHZ parks on the horizon barrier of its wave's slot; where HZN has reached SEQ, the arrival comes at
once. -/
def execWaithz (g : Ctl) (_o : MB) (s : State) : Host.Outcome State Fault Refusal :=
  issueFragment s g [] fun x _ =>
    s.setCore x.c ((x.parkAt g.sw (.waithz x.wave.seq)).saved.arriveHz x.wave.slot)

end Sys2Proof.Machine
end

