-- ==== Sys2Proof/Machine/CrossLane.lean ====
section
/-! DEFINITION. Cross-lane instructions (R49, R287 to R292). Their results are captured at issue and
written by their own step. -/

namespace Sys2Proof.Machine

/-- The base of the tile of a lane (R287). -/
def tileBase (s l : Nat) : Nat := l - l % s

/-- The members of a lane's tile: the ACTIVE lanes with its base (R287). -/
def tileLanes (m : LaneMask) (s l : Nat) : List Nat :=
  (lanesOf m).filter fun j => tileBase s j == tileBase s l

/-! ## SHFL (R288) -/

inductive ShflMode where
  | idx | up | down | xor
  deriving DecidableEq, Repr

/-- The lane a shuffle names for a lane, before its membership is checked. -/
def shflSrc (mode : ShflMode) (s l t : Nat) : Option Nat :=
  let b := tileBase s l
  match mode with
  | .idx => some (b + t % s)
  | .up => if t ≤ l - b then some (l - t) else none
  | .down => if l + t < b + s then some (l + t) else none
  | .xor => some (b + ((l - b) ^^^ (t % s)))

/-- The lane that is read: the named one where it is ACTIVE, else the lane itself. -/
def shflFrom (mode : ShflMode) (m : LaneMask) (s l t : Nat) : Nat :=
  match shflSrc mode s l t with
  | some j => if m.getLsbD j then j else l
  | none => l

/-- A shuffle consumes `a` in the lanes it reads it from (R76, R288). -/
def execShfl (g : Ctl) (o : VX) (mode : ShflMode) (s : State) : Host.Outcome State Fault Refusal :=
  match s.ctx? with
  | none => .fault .noFragment
  | some x =>
    let m := x.active g
    let src (l : Nat) := shflFrom mode m x.wave.lpart l (bInt x o l).toNat
    if !(o.d.toNat :: o.a.toNat :: bRegs o).all x.regOk then .next (s.raise x (illegal 4))
    else if x.guardPoison g x.frag.mask || x.anyPoison m (bSrcs o)
        || x.srcPoison (maskOf fun j => (lanesOf m).any fun l => src l == j) (.v o.a.toNat) then
      .next (s.raise x ⟨ePoisonConsumed, 0, 0⟩)
    else
      .next (s.save ((x.pendLanes .cross o.d.toNat m fun l =>
        plain (x.v o.a.toNat (src l))).done g.sw))

def execShflIdx (g : Ctl) (o : VX) (s : State) : Host.Outcome State Fault Refusal :=
  execShfl g o .idx s

def execShflUp (g : Ctl) (o : VX) (s : State) : Host.Outcome State Fault Refusal :=
  execShfl g o .up s

def execShflDown (g : Ctl) (o : VX) (s : State) : Host.Outcome State Fault Refusal :=
  execShfl g o .down s

def execShflXor (g : Ctl) (o : VX) (s : State) : Host.Outcome State Fault Refusal :=
  execShfl g o .xor s

/-! ## VOTE (R289) -/

/-- A vote with a predicate result. -/
def execVotePred (g : Ctl) (o : VX) (srcs : List Src) (regs : List Nat)
    (f : Ctx → LaneMask → Nat → Bool) (s : State) : Host.Outcome State Fault Refusal :=
  issueVector s g regs srcs fun x m =>
    s.save ((x.pendResult .cross m []
      [(o.d.toNat, m, maskOf fun l => m.getLsbD l && f x m l)] 0).done g.sw)

def execVoteAny (g : Ctl) (o : VX) (s : State) : Host.Outcome State Fault Refusal :=
  execVotePred g o [.p o.a.toNat] []
    (fun x m l => (tileLanes m x.wave.lpart l).any fun j => (x.p o.a.toNat).getLsbD j) s

def execVoteAll (g : Ctl) (o : VX) (s : State) : Host.Outcome State Fault Refusal :=
  execVotePred g o [.p o.a.toNat] []
    (fun x m l => (tileLanes m x.wave.lpart l).all fun j => (x.p o.a.toNat).getLsbD j) s

def execVoteEq (g : Ctl) (o : VX) (s : State) : Host.Outcome State Fault Refusal :=
  execVotePred g o [.v o.a.toNat] [o.a.toNat]
    (fun x m l => (tileLanes m x.wave.lpart l).all fun j => x.v o.a.toNat j == x.v o.a.toNat l) s

/-- BALLOT: bit j where lane j lies in T(l) and the predicate is 1 there (R289). -/
def execVoteBallot (g : Ctl) (o : VX) (s : State) : Host.Outcome State Fault Refusal :=
  issueVector s g (pairRegs o.d) [.p o.a.toNat] fun x m =>
    s.save ((x.pendPairLanes .cross o.d.toNat m fun l =>
      (maskOf fun j => (tileLanes m x.wave.lpart l).contains j && (x.p o.a.toNat).getLsbD j,
        0)).done g.sw)

/-! ## REDL and SCANL (R290, R291) -/

/-- A partial result of a combination, with its flags so far. -/
abbrev Acc := Option (Nat × BitVec 6)

/-- The combining function ⊕ in type T, on codes (R270, R290). -/
def combine (fn : Nat) (t : BitVec 4) (x y : Nat) : Nat × BitVec 6 :=
  let a : Word := BitVec.ofNat 32 x
  let b : Word := BitVec.ofNat 32 y
  let int (w : Word) : Nat × BitVec 6 := (w.toNat, 0)
  match numFmt t with
  | .float f =>
    match fn with
    | 0 => addCode f 0 x y
    | 1 => fMinMax f false x y
    | _ => fMinMax f true x y
  | _ =>
    match fn with
    | 0 => int (a + b)
    | 1 => int (if t = 14 then minS a b else minU a b)
    | 2 => int (if t = 14 then maxS a b else maxU a b)
    | 3 => int (a &&& b)
    | 4 => int (a ||| b)
    | _ => int (a ^^^ b)

/-- Ident(fn, T) (R291). -/
def identOf (fn : Nat) (t : BitVec 4) : Nat :=
  match numFmt t with
  | .float f =>
    match fn with
    | 0 => 0
    | 1 => f.infCode
    | _ => f.signed true f.infCode
  | .int f =>
    match fn with
    | 0 => 0
    | 1 => f.code f.max
    | 2 => f.code f.min
    | 3 => 2 ^ 32 - 1
    | _ => 0
  | _ => 0

/-- x ⊕ y where both are present, else whichever is. -/
def accJoin (fn : Nat) (t : BitVec 4) (x y : Acc) : Acc :=
  match x, y with
  | some (a, p), some (b, q) => some ((combine fn t a b).1, (combine fn t a b).2 ||| p ||| q)
  | some a, none => some a
  | none, y => y

/-- One level of the tree: neighbours are joined. -/
def joinPairs (fn : Nat) (t : BitVec 4) (l : List Acc) : List Acc :=
  match l with
  | x :: y :: r => accJoin fn t x y :: joinPairs fn t r
  | [x] => [x]
  | [] => []

/-- The tree over a tile of 2^k positions. -/
def treeOver (fn : Nat) (t : BitVec 4) (k : Nat) (l : List Acc) : Acc :=
  match k with
  | 0 => l.headD none
  | k + 1 => treeOver fn t k (joinPairs fn t l)

/-- The value of a lane in type T. -/
def redValue (x : Ctx) (o : VX) (l : Nat) : Nat :=
  if o.t = 0 then (x.vPair o.a.toNat l).toNat else (x.v o.a.toNat l).toNat

/-- The reduction of the tile with a base (R290). -/
def reduceTile (x : Ctx) (o : VX) (m : LaneMask) (base : Nat) : Acc :=
  let s := x.wave.lpart
  treeOver (o.mode.extractLsb' 0 3).toNat o.t (Nat.log2 s)
    ((List.range s).map fun i =>
      if m.getLsbD (base + i) then some (redValue x o (base + i), 0) else none)

/-- The scan of the tile with a base: each ACTIVE lane's result, and the flags of every ⊕ (R291). -/
def scanTile (x : Ctx) (o : VX) (m : LaneMask) (base : Nat) : List (Nat × Nat) × BitVec 6 :=
  let fn := (o.mode.extractLsb' 0 3).toNat
  let excl := o.mode.getLsbD 3
  let step (st : Acc × List (Nat × Nat)) (i : Nat) : Acc × List (Nat × Nat) :=
    let l := base + i
    if m.getLsbD l then
      let acc := accJoin fn o.t st.1 (some (redValue x o l, 0))
      let out := match if excl then st.1 else acc with
        | some (v, _) => v
        | none => identOf fn o.t
      (acc, st.2 ++ [(l, out)])
    else st
  let r := (List.range x.wave.lpart).foldl step (none, [])
  (r.2, match r.1 with
    | some (_, f) => f
    | none => 0)

/-- The tiles that hold an ACTIVE lane. -/
def activeTiles (s : Nat) (m : LaneMask) : List Nat := ((lanesOf m).map (tileBase s)).eraseDups

def redRegs (o : VX) : List Nat :=
  if o.t = 0 then pairRegs o.d ++ pairRegs o.a else [o.d.toNat, o.a.toNat]

def redSrcs (o : VX) : List Src := if o.t = 0 then pairSrcs o.a else [.v o.a.toNat]

/-- Keep the results of REDL or SCANL: a code for each ACTIVE lane, and the flags. -/
def Ctx.pendCodes (x : Ctx) (o : VX) (m : LaneMask) (vals : List (Nat × Nat)) (flags : BitVec 6) :
    Ctx :=
  x.pendResult .cross m
    ((vals.map fun r => (o.d.toNat, r.1, BitVec.ofNat 32 r.2))
      ++ (if o.t = 0 then vals.map fun r => (o.d.toNat + 1, r.1, BitVec.ofNat 32 (r.2 / 2 ^ 32))
          else [])) [] flags

def execRedl (g : Ctl) (o : VX) (s : State) : Host.Outcome State Fault Refusal :=
  issueVector s g (redRegs o) (redSrcs o) fun x m =>
    let tiles := (activeTiles x.wave.lpart m).map fun b => (b, reduceTile x o m b)
    let value (l : Nat) : Nat :=
      match tiles.find? fun t => t.1 == tileBase x.wave.lpart l with
      | some (_, some (v, _)) => v
      | _ => 0
    let flags := orFlags (tiles.map fun t => match t.2 with
      | some (_, f) => f
      | none => 0)
    s.save ((x.pendCodes o m ((lanesOf m).map fun l => (l, value l)) flags).done g.sw)

def execScanl (g : Ctl) (o : VX) (s : State) : Host.Outcome State Fault Refusal :=
  issueVector s g (redRegs o) (redSrcs o) fun x m =>
    let tiles := (activeTiles x.wave.lpart m).map fun b => scanTile x o m b
    s.save ((x.pendCodes o m (tiles.flatMap fun t => t.1) (orFlags (tiles.map fun t => t.2))).done
      g.sw)

end Sys2Proof.Machine
end

