-- ==== Sys2Proof/Machine/Engine.lean ====
section
/-! DEFINITION. What the engines of a core read and write for a wave, the operands of engine words,
and how a command fails (R192, R193, R197, R200, R228, R334 to R337). -/

namespace Sys2Proof.Machine

/-! ## Operands of engine words (R259, R334) -/

/-- The location that a 17-bit field names. -/
def locOf (x : Ctx) (l : BitVec 17) : ELoc :=
  if l.getLsbD 16 then .spad (16 * (l.extractLsb' 0 16).toNat)
  else
    let a := x.a (l.extractLsb' 12 4).toNat
    if l.getLsbD 11 then .spad a.toNat else .glob a

/-- What a location field reads. -/
def locSrcs (l : BitVec 17) : List Src := if l.getLsbD 16 then [] else [.a (l.extractLsb' 12 4).toNat]

/-- The location that the SRC field of format EC names. -/
def ecSrc (x : Ctx) (o : EC) : ELoc :=
  let a := x.a (o.src.extractLsb' 0 4).toNat
  if o.src.getLsbD 4 then .spad a.toNat else .glob a

/-- The value of AUX, where it is enabled. -/
def auxOf (x : Ctx) (o : ED) : Option DWord :=
  if o.aux.getLsbD 4 then some (x.a (o.aux.extractLsb' 0 4).toNat) else none

def auxSrcs (o : ED) : List Src := if o.aux.getLsbD 4 then [.a (o.aux.extractLsb' 0 4).toNat] else []

/-- A location n bytes further on. -/
def ELoc.plus (l : ELoc) (n : Nat) : ELoc :=
  match l with
  | .spad o => .spad (o + n)
  | .glob va => .glob (va + BitVec.ofNat 64 n)
  | .bad => .bad

/-- Why a scratchpad operand of known extent traps: it reaches beyond the backed region (R335). -/
def Ctx.locTrap (x : Ctx) (l : ELoc) (n : Nat) : Option Cause :=
  match l with
  | .spad o => if x.block.spadOk o n then none else some ⟨eSpadBounds, 0, l.addr⟩
  | _ => none

/-- Why a BAR traps: it is not aligned, or it lies beyond the backed region (R172, R335). -/
def Ctx.barTrap (x : Ctx) (l : ELoc) : Option Cause :=
  if l.addr.toNat % 16 ≠ 0 then some ⟨eBarrierAlign, 0, l.addr⟩ else x.locTrap l 16

/-- An engine command takes its number and has been accepted; a handler's takes none (R173, R343). -/
def Ctx.engineOp (x : Ctx) : Ctx :=
  if x.frag.handler then x
  else
    let y := x.addOp .eng 6 [] .engine []
    { y with wave := y.wave.updOp x.wave.seq Op.succeed }

/-- Whether some operation of the wave that is older than the issuing word is open (R337). -/
def Ctx.olderOpen (x : Ctx) : Bool :=
  if x.frag.handler then x.wave.ops.any fun o => o.handler && o.status != .done
  else x.wave.shp || x.wave.openCount != 0

/-! ## Whom an engine acts for -/

def State.engRoot (s : State) (e : Eng) : Nat :=
  match s.blockAt e.c e.block with
  | some b => (s.core e.c).rootOf b.ctx
  | none => 0

/-- Whether the gate of the command's global writes is open: HZN of the wave has passed its number
(R193). -/
def State.engOpen (s : State) (e : Eng) : Bool :=
  !e.gated ||
    match (s.core e.c).wave? e.wave with
    | some w => !w.inWindow e.num
    | none => true

/-- Whether every older plain store of the wave has been performed or stands in a held line, so that the
command sees what its issuer could read. An older operation that is held while provisional has changed nothing
that the issuer could read (R192, R197). -/
def State.engForked (s : State) (e : Eng) : Bool :=
  match (s.core e.c).wave? e.wave with
  | none => true
  | some w =>
    !e.gated || !w.inWindow e.num || w.ops.all fun o =>
      o.handler || !w.older o.num e.num || !o.unresolved
        || (match o.work with
          | .store _ => (s.core e.c).holdsStore e.wave o.num
          | _ => true)

/-! ## Accesses of engines (R193, R336) -/

/-- What an access of an engine finds: it goes on, fails with a code, meets a replayable failure, or
waits. -/
inductive EngRes (α : Type) where
  | ok (x : α)
  | fail (code : BitVec 16)
  | replay (write : Bool) (va : DWord) (f : XFail)
  | wait
  deriving Repr

def EngRes.bind (r : EngRes α) (f : α → EngRes β) : EngRes β :=
  match r with
  | .ok x => f x
  | .fail e => .fail e
  | .replay w va x => .replay w va x
  | .wait => .wait

/-- The translated pieces of an engine's global access; engines reach classes 0 to 2 (DEDUCED, log 19). -/
def State.engPieces (s : State) (e : Eng) (acc : Access) (va : DWord) (n : Nat) : EngRes (List Piece) :=
  match s.pieces e.c (s.engRoot e) acc va n with
  | .error f => if f.replay then .replay (acc != .read) va f else .fail f.code
  | .ok ps =>
    if ps.any fun p => decide (3 ≤ placeClass p.x.place) then .fail ePlaceUnmapped
    else
      match ps.foldl (fun k p => k.or (s.unitFault acc p)) none with
      | some k => .fail k
      | none => if ps.any (s.windowHeld e.c e.block) then .wait else .ok ps

/-- Which held stores of the wave a command sees: those older than it (R192). -/
def Eng.older (e : Eng) (w : Wave) (n : HNum) : Bool :=
  !e.gated || (w.inWindow e.num && w.older n e.num)

/-- n bytes at a location: scratchpad at the bank, global through the issuer's L1 with the wave's own
held lines. -/
def State.engRead (s : State) (e : Eng) (l : ELoc) (n : Nat) : EngRes (List Byte) :=
  match l, s.blockAt e.c e.block with
  | .spad o, some b =>
    if !b.spadOk o n then .fail eOperandBounds
    else if b.spadBad o n then .fail eSpadPoison
    else .ok (b.spadRead o n)
  | .glob va, some _ =>
    (s.engPieces e .read va n).bind fun ps =>
      match ps.foldl (fun k p => k.or (s.pieceFault e.c p)) none with
      | some k => .fail k
      | none =>
        match (s.core e.c).wave? e.wave with
        | some w => .ok (ps.flatMap fun p => s.waveRead e.c w (e.older w) p)
        | none => .ok (ps.flatMap fun p => s.pieceRead e.c p)
  | _, _ => .fail eOperandBounds

/-- n bytes of a global range at their home port (R193, R339). -/
def State.engReadHome (s : State) (e : Eng) (l : ELoc) (n : Nat) : EngRes (List Byte) :=
  match l with
  | .glob va =>
    (s.engPieces e .read va n).bind fun ps =>
      let at_ := ps.flatMap fun p => (List.range p.n).map fun k => p.x.place + k
      match at_.findSome? s.homeReadFault with
      | some k => .fail k
      | none => .ok (at_.map s.homeByte)
  | _ => .fail eOperandBounds

/-- The caches and translations that such a read fills. -/
def State.engTouch (s : State) (e : Eng) (l : ELoc) (n : Nat) : State :=
  match l with
  | .glob va =>
    match s.engPieces e .read va n with
    | .ok ps =>
      let s := s.keepPieces e.c (s.engRoot e) ps
      ps.foldl (fun s p => s.pieceTouch e.c p) s
    | _ => s
  | _ => s

/-- Whether n bytes at a location can be written now, at the home port where `home` says so; an update there is an
atomic access. -/
def State.engWritable (s : State) (e : Eng) (acc : Access) (home : Bool) (l : ELoc) (n : Nat) :
    EngRes (List Piece) :=
  match l, s.blockAt e.c e.block with
  | .spad o, some b => if b.spadOk o n then .ok [] else .fail eOperandBounds
  | .glob va, some _ =>
    if !s.engOpen e then .wait
    else
      (s.engPieces e acc va n).bind fun ps =>
        match ps.foldl (fun k p => k.or (if placeClass p.x.place < 2 ∧ (home ∨ !p.cached) then
            s.homeWriteFault p.x.place else none)) none with
        | some k => .fail k
        | none => .ok ps
  | _, _ => .fail eOperandBounds

/-- Write a piece for an engine: at the die's L2 with the page's scope, discarding copies in the
issuer's L1; at the home where no L2 holds the page (R192, R193). -/
def State.engPut (s : State) (c : Nat) (home : Bool) (p : Piece) (bs : List Byte) : State :=
  let inR (k : Nat) (_ : CByte) : Bool := p.hasLine k
  if 2 ≤ placeClass p.x.place then s.pieceWrite c p bs
  else if p.x.attr.inL2 && !home then
    let s := s.l1WriteBack c inR
    let s := s.updCore c fun x => { x with l1 := dropBytes x.l1 inR }
    s.updDie (dieOf c) fun x => { x with l2 := putDirty x.l2 (cellsFrom p.x.place bs) p.x.attr.scope }
  else (s.flushHome c inR).writeHome (cellsFrom p.x.place bs)

/-- The bytes of each piece. -/
def cutBytes (ps : List Piece) (bs : List Byte) : List (Piece × List Byte) :=
  (ps.foldl (fun (r : List (Piece × List Byte) × List Byte) p =>
    (r.1 ++ [(p, r.2.take p.n)], r.2.drop p.n)) ([], bs)).1

/-- The 128-byte lines that a global write touches. -/
def pieceLines (ps : List Piece) : List Nat :=
  (ps.filter fun p => decide (placeClass p.x.place < 2)).flatMap fun p =>
    let k := placeKey p.x.place
    (List.range ((k + p.n - 1) / 128 - k / 128 + 1)).map fun i => k / 128 + i

/-- Write bytes at a location whose pieces are known. -/
def State.engWrite (s : State) (e : Eng) (home : Bool) (l : ELoc) (ps : List Piece) (bs : List Byte) :
    State :=
  match l with
  | .spad o => s.updCore e.c fun x => x.updBlock e.block fun b => b.spadWrite o bs
  | .glob _ => (cutBytes ps bs).foldl (fun s q => s.engPut e.c home q.1 q.2) s
  | .bad => s

/-- Where a piece's bytes go: the die of the L2, or none for the home. -/
def engDie (c : Nat) (home : Bool) (ps : List Piece) : Option Nat :=
  if !home && ps.all (fun p => p.x.attr.inL2) then some (dieOf c) else none

/-- Land bytes on a barrier for the operation of an identifier, with the lines written for its joins (R170, R192). -/
def State.engLand (s : State) (e : Eng) (id : Nat) (bar : ELoc) (n : Nat) (code : BitVec 16) (lines : List Nat)
    (die : Option Nat) (loads : Bool := false) : State :=
  s.land e.c e.block ⟨bar, 0, n, code, lines, die, e.wave, e.num, id, loads, none⟩

/-- Whether a failure is retried once before its code counts: those of translation, places and
memory (R228, R336). -/
def retryable (code : BitVec 16) : Bool :=
  code != eOperandBounds && code != eKilnFormat && code != eSpadPoison

/-- The failed translation of an engine's access takes a fault buffer entry (R128). -/
def State.engFault (s : State) (e : Eng) (id : Nat) (write : Bool) (va : DWord) (f : XFail) :
    Option State :=
  match s.blockAt e.c e.block with
  | none => none
  | some b =>
    some <| s.takeFault e.c
      { va := va, entry := f.entry, hnum := e.num, kind := if write then 4 else 3, wave := e.wave,
        level := f.level, perm := f.code == eXlatePerm,
        ctx := ((s.core e.c).ctxSlot b.ctx).ctxid.toNat, cmd := some id, frame := false }

/-- A failure that succeeded on its retry is counted (R177). -/
def State.countTransient (s : State) (c : Nat) : State :=
  s.updCore c fun x => { x with cnt := { x.cnt with transient := satInc x.cnt.transient } }

end Sys2Proof.Machine
end

