-- ==== Sys2Proof/Machine/KilnSums.lean ====
section
/-! DEFINITION. The arithmetic of the Kiln: formats, exact inputs, row records, weight planes, sums,
quench and add-on-store, on plain values (R54, R57 to R60, R65 to R69, R102, R344, R348 to R353). -/

namespace Sys2Proof.Machine

/-! ## Formats (R54, R65, R66) -/

/-- Output columns of an array for a weight format; 0 where it is no weight format. -/
def kilnCols (fmt : BitVec 4) : Nat :=
  match fmt.toNat with
  | 0 => 18
  | 1 => 32
  | 2 => 64
  | 3 => 64
  | 6 => 64
  | 4 => 128
  | 5 => 128
  | 7 => 128
  | 9 => 256
  | 13 => 256
  | 11 => 512
  | 12 => 1024
  | _ => 0

/-- Cells that a weight of a format spans. -/
def kilnCells (fmt : BitVec 4) : Nat :=
  match fmt.toNat with
  | 0 => 7
  | 1 => 4
  | 2 => 2
  | 3 => 2
  | 6 => 2
  | _ => 1

def isWeightFmt (fmt : BitVec 4) : Bool := kilnCols fmt != 0

def isActivationFmt (fmt : BitVec 4) : Bool := decide (fmt.toNat ≤ 12)

def isOutputFmt (fmt : BitVec 4) : Bool := decide (fmt.toNat ≤ 10) || fmt == 14 || fmt == 15

/-- Default plane count of an activation format. -/
def defPlanes (fmt : BitVec 4) : Nat :=
  match fmt.toNat with
  | 0 => 56
  | 1 => 28
  | 2 => 16
  | 3 => 12
  | 6 => 16
  | 9 => 4
  | 10 => 4
  | 11 => 2
  | 12 => 1
  | _ => 8

/-- The floating-point format that a code names, if it names one. -/
def floatFmt? (fmt : BitVec 4) : Option FFmt :=
  match numFmt fmt with
  | .float f => some f
  | _ => none

/-- Whether a plane count suits an activation format (R66). -/
def planesOk (fmt : BitVec 4) (p : Nat) : Bool :=
  if (floatFmt? fmt).isSome then decide (4 ≤ p) && decide (p ≤ defPlanes fmt) else p == defPlanes fmt

/-- Whether a row scale may accompany a format (R67 item 3). -/
def scaleOk (fmt : BitVec 4) (scaled : Bool) : Bool := !scaled || decide (fmtBits fmt ≤ 8)

/-- The formats that an INT32 accumulator admits on a side (R67 item 4). -/
def isIntSide (fmt : BitVec 4) : Bool :=
  match numFmt fmt with
  | .float _ => false
  | _ => true

/-! ## Elements (R57 to R59) -/

/-- Element k of some packed elements. -/
def packedElem (bits : Nat) (bs : List Byte) (k : Nat) : Nat :=
  if 8 ≤ bits then recNat bs (k * (bits / 8)) (bits / 8)
  else bitsOf (recNat bs (k * bits / 8) 1) (k * bits % 8) bits

/-- The value of an O8 code. -/
def o8Value (c : Nat) : Int :=
  let v : Int := (2 + (c % 2 : Nat)) * 2 ^ (2 + c / 2 % 4)
  if 8 ≤ c then -v else v

/-- Element k of Q4X data. -/
def q4xElem (bs : List Byte) (k : Nat) : Int :=
  let b := recNat bs (k / 2) 1
  let lo := b % 16
  let hi := b / 16
  let nib (n : Nat) : Int := if 8 ≤ n then (n : Int) - 16 else n
  if lo = 8 then (if k % 2 = 0 then o8Value hi else 0)
  else if hi = 8 then (if k % 2 = 1 then o8Value lo else 0)
  else nib (if k % 2 = 0 then lo else hi)

/-- Element k of an integer format, BIN1 or Q4X. -/
def intElem (fmt : BitVec 4) (bs : List Byte) (k : Nat) : Int :=
  match numFmt fmt with
  | .int f => f.value (packedElem f.bits bs k)
  | .bin1 => 1 - 2 * (packedElem 1 bs k : Int)
  | .q4x => q4xElem bs k
  | .float _ => 0

/-! ## Exact inputs (R68) -/

/-- The integers of a row or column, its exponent E, and whether it holds a NaN or an infinity. -/
structure Quant where
  q : List Int
  exp : Int
  bad : Bool
  deriving DecidableEq, Repr

/-- A value with a subnormal taken as zero. -/
def flushed (f : FFmt) (x : Nat) : FVal :=
  match f.value x with
  | .fin neg m e => if m < 2 ^ f.mb then .fin neg 0 e else .fin neg m e
  | v => v

/-- ⌊log2 |x|⌋ of a nonzero finite value. -/
def floorLog2 (x : FVal) : Option Int :=
  match x with
  | .fin _ m e => if m = 0 then none else some (e + (Nat.log2 m : Int))
  | _ => none

/-- sign(x) × ⌊|x| × 2^sh⌋. -/
def truncAt (x : FVal) (sh : Int) : Int :=
  match x with
  | .fin neg m e => signedNat neg (m * 2 ^ (e + sh).toNat / 2 ^ (-(e + sh)).toNat)
  | _ => 0

/-- Floating-point inputs as integers of a width, with the step 2^(E − width + 2). -/
def quantise (f : FFmt) (width : Nat) (codes : List Nat) : Quant :=
  let xs := codes.map (flushed f)
  let bad := xs.any fun x => x.isNan || x.isInf
  match (xs.filterMap floorLog2).max? with
  | none => { q := xs.map fun _ => 0, exp := 0, bad := bad }
  | some e => { q := xs.map fun x => truncAt x ((width : Int) - 2 - e), exp := e, bad := bad }

/-- n packed elements of a format as the Kiln's inputs, where the elements from `valid` on are zero. -/
def quantElems (fmt : BitVec 4) (width n valid : Nat) (bs : List Byte) : Quant :=
  match floatFmt? fmt with
  | some f => quantise f width ((List.range n).map fun k => if k < valid then packedElem f.bits bs k else 0)
  | none =>
    { q := (List.range n).map fun k => if k < valid then intElem fmt bs k else 0, exp := 0, bad := false }

/-! ## Row records (R102, R342) -/

/-- One bit plane of 128 integers: bit t of byte u is bit p of q(8u + t). -/
def planeBytes (q : List Int) (p : Nat) : List Byte :=
  (List.range 16).map fun u =>
    BitVec.ofNat 8 ((List.range 8).foldl (fun a t =>
      a + ((q.getD (8 * u + t) 0 / 2 ^ p) % 2).toNat * 2 ^ t) 0)

/-- The row record of 128 elements with P planes. -/
def rowRecord (fmt : BitVec 4) (p valid : Nat) (bs : List Byte) (scale : Nat) : List Byte :=
  let x := quantElems fmt p 128 valid bs
  let zero := !x.bad && x.q.all fun v => v == 0
  let q := if fmt = 12 then x.q.map fun v => if v < 0 then 1 else 0 else x.q
  toBytes 2 (x.exp % 65536).toNat ++ toBytes 2 scale ++ [BitVec.ofNat 8 (x.bad.toNat + 2 * zero.toNat)]
    ++ List.replicate 11 0 ++ (List.range p).flatMap (planeBytes q)

/-- What the Kiln takes from a row record: its integers, the exponent of its step, whether it holds a
NaN or an infinity, its scale. -/
structure ActRow where
  q : List Int
  step : Int
  bad : Bool
  scale : BitVec 16
  deriving DecidableEq, Repr

/-- A row record as the Kiln reads it: the fields exactly as written. -/
def readRow (fmt : BitVec 4) (p : Nat) (bs : List Byte) : ActRow :=
  let raw (k : Nat) : Nat :=
    (List.range p).foldl (fun a i => a + bitsOf (recNat bs (16 + 16 * i + k / 8) 1) (k % 8) 1 * 2 ^ i) 0
  let signed := fmt != 8 && fmt != 10
  let q (k : Nat) : Int :=
    let v := raw k
    if fmt = 12 then 1 - 2 * ((v % 2 : Nat) : Int)
    else if signed && decide (2 ^ (p - 1) ≤ v) then (v : Int) - 2 ^ p else v
  { q := (List.range 128).map q,
    step := if (floatFmt? fmt).isSome then
        (BitVec.ofNat 16 (recNat bs 0 2)).toInt - p + 2 else 0,
    bad := bitsOf (recNat bs 4 1) 0 1 = 1, scale := BitVec.ofNat 16 (recNat bs 2 2) }

/-! ## Weight planes (R68, R344) -/

/-- The plane of N columns from up to 128 rows of packed weights. -/
def planeOf (fmt : BitVec 4) (rows : List (List Byte)) (scales : List (BitVec 16)) : Plane :=
  let n := kilnCols fmt
  let col (j : Nat) : Quant :=
    match floatFmt? fmt with
    | some f => quantise f (8 * kilnCells fmt) (rows.map fun r => packedElem f.bits r j)
    | none => { q := rows.map fun r => intElem fmt r j, exp := 0, bad := false }
  let cols := (List.range n).map col
  { q := cols.map fun c => c.q, exp := cols.map fun c => c.exp, bad := cols.map fun c => c.bad,
    scale := scales }

/-- A plane of zero weights. -/
def Plane.zero : Plane := { q := [], exp := [], bad := [], scale := [] }

/-- The exponent of a column's step. -/
def weightStep (fmt : BitVec 4) (e : Int) : Int :=
  if (floatFmt? fmt).isSome then e - 8 * (kilnCells fmt : Int) + 2 else 0

/-! ## Sums (R69) -/

/-- The status bits NV, OF and SAT of the flags of an operation (R348). -/
def statusOf (f : BitVec 6) : BitVec 3 :=
  (if f &&& flNV != 0 then 1 else 0) ||| (if f &&& flOF != 0 then 2 else 0)
    ||| (if f &&& flSAT != 0 then 4 else 0)

/-- Σ q_a × q_w. -/
def dotProduct (a w : List Int) : Int := (a.zip w).foldl (fun s e => s + e.1 * e.2) 0

/-- The accumulator formats: 0 FP64, 1 FP32, 14 INT32. -/
def accFloat (acc : BitVec 4) : FFmt := if acc = 0 then fp64 else fp32

def accSize (acc : BitVec 4) : Nat := if acc = 0 then 8 else 4

/-- The bit of these that a k-block's pass may set of its own: OF (R69). -/
def overflowOf (f : BitVec 6) : BitVec 3 := statusOf f &&& 2

/-- P of R69 for finite inputs: the exact sum rounded, then once for each scale. -/
def kilnProduct (acc : BitVec 4) (dot step : Int) (ws as : Option (BitVec 16)) : Nat × BitVec 3 :=
  let exact : FVal := .fin (decide (dot < 0)) dot.natAbs step
  let times (r : Nat × BitVec 3) (s : Option (BitVec 16)) : Nat × BitVec 3 :=
    match s with
    | none => r
    | some s =>
      let m := fMul fp32 0 (fp32.value r.1) (flushed fp16 s.toNat)
      (m.1, r.2 ||| overflowOf m.2)
  if ws.isNone && as.isNone then
    let r := (accFloat acc).roundVal 0 exact
    (r.1, overflowOf r.2)
  else
    let r := fp32.roundVal 0 exact
    times (times (r.1, overflowOf r.2) ws) as

/-- One k-block's update of one accumulator element (R69). NV is set for a bad input alone. INT32 has no NaN: P is
a free value there (log 62). -/
def accUpdate (acc : BitVec 4) (old : Nat) (dot step : Int) (bad : Bool) (ws as : Option (BitVec 16)) :
    Nat × BitVec 3 :=
  if acc = 14 then
    let p := if bad then Config.kilnIntNan.toInt else satInt ⟨32, true⟩ dot
    let v := (BitVec.ofNat 32 old).toInt + p
    let r := satInt ⟨32, true⟩ v
    ((BitVec.ofInt 32 r).toNat, (if bad then 1 else 0) ||| if (!bad ∧ p ≠ dot) ∨ r ≠ v then 2 else 0)
  else
    let f := accFloat acc
    let p : Nat × BitVec 3 := if bad then (f.nanCode, 1) else kilnProduct acc dot step ws as
    let r := fAdd f 0 (f.value old) (f.value p.1)
    (r.1, p.2 ||| overflowOf r.2)

/-- Whether a scale is a NaN or an infinity. -/
def badScale (s : BitVec 16) : Bool := (flushed fp16 s.toNat).isNan || (flushed fp16 s.toNat).isInf

/-! ## Tile-task records (R346) -/

/-- The fields of a tile-task record. -/
structure TaskRec where
  gate : DWord
  gph : BitVec 16
  m : Nat
  kb : Nat
  afmt : Nat
  p : Nat
  wfmt : Nat
  accfmt : Nat
  aoff : Nat
  accoff : Nat
  nc : Nat
  flags : Nat
  qs : Nat
  grp : Nat
  midx : Nat
  dst : DWord
  dstr : Nat
  bytes : Nat
  done : DWord
  koff : Nat
  stat : Nat
  reserved : Nat
  deriving DecidableEq, Repr

def TaskRec.ofBytes (b : List Byte) : TaskRec :=
  let fl := recNat b 26 1
  let qs := recNat b 27 1
  let grp := recNat b 28 1
  { gate := BitVec.ofNat 64 (recNat b 0 8), gph := BitVec.ofNat 16 (recNat b 8 2),
    m := recNat b 10 1 + 1, kb := recNat b 11 1, afmt := recNat b 12 1, p := recNat b 13 1,
    wfmt := recNat b 14 1, accfmt := recNat b 15 1, aoff := recNat b 16 4, accoff := recNat b 20 4,
    nc := recNat b 24 2, flags := fl, qs := qs, grp := grp, midx := recNat b 29 1,
    dst := BitVec.ofNat 64 (recNat b 32 8), dstr := recNat b 40 4, bytes := recNat b 44 4,
    done := BitVec.ofNat 64 (recNat b 48 8), koff := recNat b 56 1, stat := recNat b 60 4,
    reserved := recNat b 30 2 + recNat b 57 3 + bitsOf fl 6 2 + bitsOf qs 2 5 + bitsOf grp 5 3 }

def TaskRec.ascale (t : TaskRec) : Bool := t.flags.testBit 0
def TaskRec.zero (t : TaskRec) : Bool := t.flags.testBit 1
def TaskRec.affine (t : TaskRec) : Bool := t.flags.testBit 2
def TaskRec.drain (t : TaskRec) : Nat := bitsOf t.flags 3 2
def TaskRec.add (t : TaskRec) : Bool := t.flags.testBit 5
def TaskRec.qen (t : TaskRec) : Bool := t.qs.testBit 7
def TaskRec.gr (t : TaskRec) : Nat := bitsOf t.grp 0 2 + 1
def TaskRec.gc (t : TaskRec) : Nat := bitsOf t.grp 2 3 + 1
def TaskRec.aFmt (t : TaskRec) : BitVec 4 := BitVec.ofNat 4 t.afmt
def TaskRec.wFmt (t : TaskRec) : BitVec 4 := BitVec.ofNat 4 t.wfmt
def TaskRec.accFmt (t : TaskRec) : BitVec 4 := BitVec.ofNat 4 t.accfmt
/-- Bytes of one row record. -/
def TaskRec.rowSize (t : TaskRec) : Nat := 16 * (t.p + 1)
/-- The byte of the accumulator storage where element (i, j) stands (R104, R348). -/
def TaskRec.accAt (t : TaskRec) (i j : Nat) : Nat := t.accoff + (i * t.nc + j) * accSize t.accFmt

/-- One k-block's update of the accumulator tile: the storage after it and the status. `rows` are the
row records of the k-block. -/
def tileUpdate (t : TaskRec) (plane : Plane) (scaled : Bool) (rows : List ActRow) (acc : Memory) :
    Memory × BitVec 3 :=
  let sz := accSize t.accFmt
  let elem (r : Memory × BitVec 3) (i j : Nat) (row : ActRow) : Memory × BitVec 3 :=
    let ws := if scaled then some (plane.scale.getD j 0) else none
    let as := if t.ascale then some row.scale else none
    let bad := row.bad || plane.bad.getD j false || (ws.any badScale) || (as.any badScale)
    let step := row.step + weightStep t.wFmt (plane.exp.getD j 0)
    let u := accUpdate t.accFmt (leNat (Memory.read r.1 (t.accAt i j) sz))
      (dotProduct row.q (plane.q.getD j [])) step bad ws as
    (Memory.write r.1 (t.accAt i j) (toBytes sz u.1), r.2 ||| u.2)
  (rows.zipIdx).foldl (fun r e => (List.range t.nc).foldl (fun r j => elem r e.2 j e.1) r) (acc, 0)

/-! ## Quench (R349 to R351) -/

/-- The fields of a quench control block. -/
structure Quench where
  qcw : Nat
  scale : Nat
  boff : Nat
  lo : Nat
  hi : Nat
  actp : Nat
  slot : Nat
  reserved : Nat
  deriving DecidableEq, Repr

def Quench.ofBytes (b : List Byte) : Quench :=
  { qcw := recNat b 0 4, scale := recNat b 4 4, boff := recNat b 8 4, lo := recNat b 12 4,
    hi := recNat b 16 4, actp := recNat b 20 4, slot := recNat b 24 1, reserved := recNat b 25 7 }

def Quench.scl (q : Quench) : Bool := q.qcw.testBit 0
def Quench.bias (q : Quench) : Bool := q.qcw.testBit 1
def Quench.acten (q : Quench) : Bool := q.qcw.testBit 2
def Quench.clamp (q : Quench) : Bool := q.qcw.testBit 3
def Quench.conv (q : Quench) : Bool := q.qcw.testBit 4
def Quench.act (q : Quench) : Nat := bitsOf q.qcw 12 4
def Quench.sat (q : Quench) : Bool := q.qcw.testBit 17
def Quench.rm (q : Quench) : BitVec 2 := BitVec.ofNat 2 (bitsOf q.qcw 18 2)
def Quench.outfmt (q : Quench) : BitVec 4 := BitVec.ofNat 4 (bitsOf q.qcw 20 4)
/-- No stage is enabled. -/
def Quench.idle (q : Quench) : Bool := bitsOf q.qcw 0 5 == 0

/-- The format code of the working format: FP64 for an FP64 accumulator, else FP32. -/
def workFmt (acc : BitVec 4) : BitVec 4 := if acc = 0 then 0 else 1

/-- The output format of a drain (R350, R351). -/
def outFmt (q : Option Quench) (acc : BitVec 4) : BitVec 4 :=
  match q with
  | none => acc
  | some q => if q.idle then acc else if q.conv then q.outfmt else workFmt acc

/-- Whether a control block is valid for an accumulator format (R350). -/
def Quench.ok (q : Quench) (acc : BitVec 4) (add : Bool) (nc : Nat) : Bool :=
  let out := outFmt (some q) acc
  q.qcw &&& 0xFF010FE0 == 0 && q.slot / 4 == 0 && q.reserved == 0 && isOutputFmt q.outfmt
    && decide (q.act ≤ 4) && !((q.act == 3 || q.act == 4) && acc == 0)
    && (!q.clamp || !((fp32.value q.lo).isNan || (fp32.value q.hi).isNan
        || ltVal (fp32.value q.hi) (fp32.value q.lo)))
    && (!add || out == 0 || out == 1 || out == 2 || out == 3 || out == 14)
    && (!q.bias || q.boff % (if acc = 0 then 8 else 4) == 0)
    && !(q.conv && (q.outfmt == 9 || q.outfmt == 10) && nc % 2 == 1)

/-- A code of FP32 in the working format, with the flag of a signalling NaN that becomes quiet there (R56). -/
def widen (acc : BitVec 4) (x : Nat) : Nat × BitVec 6 :=
  if acc = 0 then ((convFloatFloat fp32 fp64 0 false x).1, (convFloatFloat fp32 fp64 0 false x).2) else (x, 0)

/-- A product with a parameter of the control block, widened. -/
def mulParam (acc : BitVec 4) (y x : Nat) : Nat × BitVec 6 :=
  let p := widen acc x
  let m := fMul (accFloat acc) 0 ((accFloat acc).value y) ((accFloat acc).value p.1)
  (m.1, m.2 ||| p.2)

/-- The activation stage on a value that is no NaN. -/
def actStage (q : Quench) (acc : BitVec 4) (y : Nat) : Nat × BitVec 6 :=
  let f := accFloat acc
  let v := f.value y
  let below := v.isNeg && !v.isZero
  match q.act with
  | 1 => (if v.isNeg then 0 else y, 0)
  | 2 => if below then mulParam acc y q.actp else (y, 0)
  | 3 => sfuTanh y
  | 4 =>
    let half := fp32.value 0x3F000000
    let a := fMul fp32 0 v half
    let b := sfuTanh a.1
    let c := fMul fp32 0 (fp32.value b.1) half
    let d := fAdd fp32 0 (fp32.value c.1) half
    (d.1, a.2 ||| b.2 ||| c.2 ||| d.2)
  | _ => (y, 0)

/-- Quench of one accumulator element; `bias` is the column's bias in the working format. Its first step makes a
signalling NaN quiet, and raises NV (R56, R351). -/
def Quench.apply (q : Quench) (acc : BitVec 4) (x bias : Nat) : Nat × BitVec 3 :=
  if q.idle then (x, 0)
  else
    let f := accFloat acc
    let v := if acc = 14 then (NumFmt.int ⟨32, true⟩).value x else f.value x
    let y0 := (f.roundVal 0 v).1
    let s0 := (f.roundVal 0 v).2 ||| nvOf [v]
    let s1 : Nat × BitVec 6 := if q.scl then
        let r := mulParam acc y0 q.scale
        (r.1, s0 ||| r.2) else (y0, s0)
    let s2 : Nat × BitVec 6 := if q.bias then
        let r := fAdd f 0 (f.value s1.1) (f.value bias)
        (r.1, s1.2 ||| r.2) else s1
    let s3 : Nat × BitVec 6 := if q.acten && !(f.value s2.1).isNan then
        let r := actStage q acc s2.1
        (r.1, s2.2 ||| r.2) else s2
    let s4 : Nat × BitVec 6 := if q.clamp && !(f.value s3.1).isNan then
        ((fMinMax f false (fMinMax f true s3.1 (widen acc q.lo).1).1 (widen acc q.hi).1).1, s3.2) else s3
    let s5 : Nat × BitVec 6 := if q.conv then
        let r := convert (.float f) (numFmt q.outfmt) q.rm q.sat s4.1
        (r.1, s4.2 ||| r.2) else s4
    (s5.1, statusOf s5.2)

/-- The add-on-store of one element (R353). -/
def addOn (fmt : BitVec 4) (sat : Bool) (old out : Nat) : Nat × BitVec 3 :=
  match numFmt fmt with
  | .float f =>
    let r := fAdd f 0 (f.value old) (f.value out)
    (r.1, statusOf r.2 &&& 3)
  | _ =>
    let v := (BitVec.ofNat 32 old).toInt + (BitVec.ofNat 32 out).toInt
    let c := satInt ⟨32, true⟩ v
    if sat then ((BitVec.ofInt 32 c).toNat, if c = v then 0 else 4) else ((BitVec.ofInt 32 v).toNat, 0)

/-- Element codes of a row as packed bytes (R57, R352). -/
def packRow (fmt : BitVec 4) (codes : List Nat) : List Byte :=
  let bits := fmtBits fmt
  if 8 ≤ bits then codes.flatMap fun c => toBytes (bits / 8) c
  else (List.range ((codes.length + 1) / 2)).map fun k =>
    BitVec.ofNat 8 (codes.getD (2 * k) 0 % 16 + 16 * (codes.getD (2 * k + 1) 0 % 16))

end Sys2Proof.Machine
end

