-- ==== Sys2Proof/Machine/Barrow.lean ====
section
/-! DEFINITION. The copy and load commands of the Barrow, their landings, and the latch of a weight load
(R338 to R345). -/

namespace Sys2Proof.Machine

/-! ## Issue -/

/-- A new command of the issuing word. -/
def Ctx.newCmd (x : Ctx) (kind : EngKind) (dst src desc bar : ELoc) (aux : Option DWord) (len : Nat) :
    Ctx :=
  let k : EngCmd :=
    { id := x.core.nextCmd, kind := kind, wave := x.wave.slot, block := x.block.slot,
      num := x.wave.seq, gated := !x.frag.handler, dst := dst, src := src, desc := desc, bar := bar,
      aux := aux, len := len, fields := none, unit := 0, buf := none, landed := 0, retried := false,
      err := 0, inFault := false, abandon := false }
  { x.engineOp with core := { x.core with cmds := x.core.cmds ++ [k], nextCmd := x.core.nextCmd + 1 } }

/-- The bytes of an EC command. -/
def ecLen (x : Ctx) (o : EC) : Nat :=
  if o.len.getLsbD 10 then (x.s (o.len.extractLsb' 0 7).toNat).toNat
  else 16 * (o.len.extractLsb' 0 10).toNat

/-- Issue of CPY, TIERP and TIERE. -/
def issueEC (s : State) (g : Ctl) (o : EC) (kind : EngKind) : Host.Outcome State Fault Refusal :=
  let srcs := locSrcs o.dst ++ [Src.a (o.src.extractLsb' 0 4).toNat] ++ locSrcs o.bar
    ++ (if o.len.getLsbD 10 then [Src.s (o.len.extractLsb' 0 7).toNat] else [])
  issueFragment s g srcs fun x _ =>
    let n := ecLen x o
    match ((x.barTrap (locOf x o.bar)).or (x.locTrap (locOf x o.dst) n)).or (x.locTrap (ecSrc x o) n) with
    | some t => s.raise x t
    | none =>
      if x.spadWaits [] || !x.opRoom .eng then s
      else s.save ((x.newCmd kind (locOf x o.dst) (ecSrc x o) .bad (locOf x o.bar) none n).done g.sw)

def execCpy (g : Ctl) (o : EC) (s : State) : Host.Outcome State Fault Refusal := issueEC s g o .cpy
def execTierp (g : Ctl) (o : EC) (s : State) : Host.Outcome State Fault Refusal := issueEC s g o .tierp
def execTiere (g : Ctl) (o : EC) (s : State) : Host.Outcome State Fault Refusal := issueEC s g o .tiere

/-- Issue of a command with a descriptor of 32 bytes. -/
def issueED (s : State) (g : Ctl) (o : ED) (kind : EngKind) : Host.Outcome State Fault Refusal :=
  issueFragment s g (locSrcs o.desc ++ auxSrcs o ++ locSrcs o.bar) fun x _ =>
    match (x.barTrap (locOf x o.bar)).or (x.locTrap (locOf x o.desc) 32) with
    | some t => s.raise x t
    | none =>
      if x.spadWaits [] || !x.opRoom .eng then s
      else s.save ((x.newCmd kind .bad .bad (locOf x o.desc) (locOf x o.bar) (auxOf x o) 0).done g.sw)

def execCpy2 (g : Ctl) (o : ED) (s : State) : Host.Outcome State Fault Refusal := issueED s g o .cpy2
def execCpyt (g : Ctl) (o : ED) (s : State) : Host.Outcome State Fault Refusal := issueED s g o .cpyt
def execCpyg (g : Ctl) (o : ED) (s : State) : Host.Outcome State Fault Refusal := issueED s g o .cpyg
def execWload (g : Ctl) (o : ED) (s : State) : Host.Outcome State Fault Refusal := issueED s g o .wload

/-! ## Fields of descriptors -/

/-- A field of the descriptor as read. -/
def EngCmd.fld (k : EngCmd) (off n : Nat) : Nat := recNat (k.fields.getD []) off n

/-- An address field; AUX replaces the one at `at_`. -/
def EngCmd.loc (k : EngCmd) (off : Nat) (aux : Bool) : ELoc :=
  match k.aux, aux with
  | some a, true => elocOf a
  | _, _ => elocOf (BitVec.ofNat 64 (k.fld off 8))

/-- A format code of a byte field: the code, and whether the byte is one. -/
def EngCmd.fmt (k : EngCmd) (off : Nat) : BitVec 4 := BitVec.ofNat 4 (k.fld off 1)

def EngCmd.isEC (k : EngCmd) : Bool := k.kind == .cpy || k.kind == .tierp || k.kind == .tiere

def EngCmd.isTier (k : EngCmd) : Bool := k.kind == .tierp || k.kind == .tiere

/-- Rows of a CPYT and planes: M, KB, P, and the size of a record (R342). -/
def EngCmd.tM (k : EngCmd) : Nat := k.fld 26 1 + 1
def EngCmd.tSize (k : EngCmd) : Nat := 16 * (k.fld 25 1 + 1)
def EngCmd.tScales (k : EngCmd) : Bool := k.fld 28 1 % 2 = 1

/-- Columns, row bytes and scale bytes of a WLOAD (R344). -/
def EngCmd.wN (k : EngCmd) : Nat := kilnCols (k.fmt 20)
def EngCmd.wRow (k : EngCmd) : Nat := k.wN * fmtBits (k.fmt 20) / 8
def EngCmd.wScales (k : EngCmd) : Nat := if k.fld 22 1 % 2 = 1 then 2 * k.wN * k.fld 21 1 else 0

/-- The command's whole count (R338 to R344). -/
def EngCmd.total (k : EngCmd) : Nat :=
  match k.kind with
  | .cpy2 => k.fld 16 4 * k.fld 20 4
  | .cpyg => k.fld 24 4 * 2 ^ min (k.fld 28 1) 4
  | .cpyt => k.tM * k.fld 27 1 * k.tSize
  | .wload => k.wScales + k.fld 24 4 * k.wRow
  | _ => k.len

/-- How many units the command has. -/
def EngCmd.units (k : EngCmd) : Nat :=
  match k.kind with
  | .cpy2 => k.fld 20 4 * ((k.fld 16 4 + 127) / 128)
  | .cpyg => k.fld 24 4
  | .cpyt => k.tM * k.fld 27 1
  | .wload => 1
  | _ => (k.len + 127) / 128

/-- The code of a descriptor that the unit refuses; 0 for none (R336, R338 to R344). -/
def EngCmd.refused (k : EngCmd) : BitVec 16 :=
  let bad (b : Bool) : BitVec 16 := if b then eOperandBounds else 0
  match k.kind with
  | .cpy2 =>
    bad (k.loc 0 false == .bad || k.loc 8 true == .bad || k.fld 16 4 == 0
      || decide (2 ^ 20 < k.fld 16 4) || k.fld 20 4 == 0 || decide (65536 < k.fld 20 4))
  | .cpyg =>
    bad (k.loc 0 true == .bad || k.loc 8 false == .bad || k.loc 16 false == .bad
      || (k.loc 8 false).addr.toNat % 4 != 0 || k.fld 24 4 == 0 || decide (2 ^ 20 < k.fld 24 4)
      || decide (4 < k.fld 28 1) || decide (1 < k.fld 29 1) || k.fld 30 2 != 0)
  | .cpyt =>
    if k.loc 0 true == .bad || k.loc 8 false == .bad || k.fld 20 4 % 16 != 0
        || decide (127 < k.fld 26 1) || k.fld 27 1 == 0 || decide (4 < k.fld 27 1)
        || decide (1 < k.fld 28 1) || k.fld 29 1 != 0 || k.fld 30 2 == 0
        || decide (128 * k.fld 27 1 < k.fld 30 2) then eOperandBounds
    else if decide (15 < k.fld 24 1) || !isActivationFmt (k.fmt 24) || !planesOk (k.fmt 24) (k.fld 25 1)
        || !scaleOk (k.fmt 24) k.tScales then eKilnFormat
    else 0
  | .wload =>
    if k.loc 0 true == .bad || k.loc 8 false == .bad || k.fld 21 1 == 0 || decide (4 < k.fld 21 1)
        || decide (1 < k.fld 22 1) || k.fld 23 1 != 0 || k.fld 24 4 == 0
        || decide (128 * k.fld 21 1 < k.fld 24 4) || k.fld 28 4 != 0
        || (decide (k.fld 20 1 ≤ 15) && isWeightFmt (k.fmt 20) && decide (k.fld 16 4 < k.wRow)) then
      eOperandBounds
    else if decide (15 < k.fld 20 1) || !isWeightFmt (k.fmt 20)
        || !scaleOk (k.fmt 20) (k.fld 22 1 % 2 == 1) then eKilnFormat
    else 0
  | _ => bad (decide (2 ^ 24 < k.len))

/-! ## Units -/

/-- One copied unit: where from, where to, how many bytes. -/
structure CopyUnit where
  src : ELoc
  dst : ELoc
  n : Nat
  deriving DecidableEq, Repr

/-- Unit u of a copy of n bytes (R338). -/
def copyUnit (src dst : ELoc) (n u : Nat) : CopyUnit :=
  { src := src.plus (128 * u), dst := dst.plus (128 * u), n := min 128 (n - 128 * u) }

/-- The whom of a command. -/
def EngCmd.eng (k : EngCmd) (c : Nat) : Eng :=
  { c := c, block := k.block, wave := k.wave, num := k.num, gated := k.gated }

/-- The next unit of a copying command; a gather or scatter reads its index first (R338 to R341). -/
def State.cmdUnit (s : State) (c : Nat) (k : EngCmd) : EngRes CopyUnit :=
  match k.kind with
  | .cpy2 =>
    let per := (k.fld 16 4 + 127) / 128
    let r := k.unit / per
    .ok (copyUnit ((k.loc 0 false).plus (r * k.fld 24 4)) ((k.loc 8 true).plus (r * k.fld 28 4))
      (k.fld 16 4) (k.unit % per))
  | .cpyg =>
    let z := 2 ^ k.fld 28 1
    (s.engRead (k.eng c) ((k.loc 8 false).plus (4 * k.unit)) 4).bind fun ix =>
      let idx := (k.loc 0 true).plus (leNat ix * z)
      let cont := (k.loc 16 false).plus (k.unit * z)
      .ok (if k.fld 29 1 = 0 then ⟨idx, cont, z⟩ else ⟨cont, idx, z⟩)
  | _ => .ok (copyUnit k.src k.dst k.len k.unit)

/-- The record that unit u of a CPYT writes, and where (R342). -/
def State.cpytRecord (s : State) (c : Nat) (k : EngCmd) : EngRes (ELoc × List Byte) :=
  let b := k.unit / k.tM
  let i := k.unit % k.tM
  let bits := fmtBits (k.fmt 24)
  let valid := min 128 (k.fld 30 2 - 128 * b)
  let at_ := ((k.loc 0 true).plus (i * k.fld 16 4)).plus (16 * b * bits)
  let row := if valid = 0 then EngRes.ok [] else s.engRead (k.eng c) at_ ((valid * bits + 7) / 8)
  row.bind fun bs =>
    (if k.tScales then s.engRead (k.eng c) ((k.loc 8 false).plus (2 * (b * k.tM + i))) 2 else .ok []).bind
      fun sc => .ok (.spad (k.fld 20 4 + k.unit * k.tSize), rowRecord (k.fmt 24) (k.fld 25 1) valid bs (leNat sc))

/-- The class that the source of a tier copy has; its destination has the other one (R339). -/
def EngCmd.tierSrc (k : EngCmd) : Nat := if k.kind = .tierp then 1 else 0

/-- Whether some piece of an access translates to a place of another class. -/
def State.wrongClass (s : State) (e : Eng) (acc : Access) (l : ELoc) (n cls : Nat) : Bool :=
  match l with
  | .glob va => (pageSpans va n).any fun p =>
      match s.translate (some e.c) (dieOf e.c) (s.engRoot e) acc p.1 with
      | .ok x => placeClass x.place != cls
      | .error _ => false
  | _ => true

/-- Whether a tier copy is not aligned, or some translated page of n bytes of its ranges has a place of the wrong
class (R339). -/
def State.tierWrong (s : State) (c : Nat) (k : EngCmd) (src dst : ELoc) (n : Nat) : Bool :=
  k.src.addr.toNat % 64 != 0 || k.dst.addr.toNat % 64 != 0 || k.len % 64 != 0
    || s.wrongClass (k.eng c) .read src n k.tierSrc || s.wrongClass (k.eng c) .write dst n (1 - k.tierSrc)

/-! ## Steps of a command -/

def State.updCmd (s : State) (c id : Nat) (f : EngCmd → EngCmd) : State :=
  s.updCore c fun x => { x with cmds := x.cmds.map fun k => if k.id = id then f k else k }

def State.dropCmd (s : State) (c id : Nat) : State :=
  s.updCore c fun x => { x with cmds := x.cmds.filter fun k => k.id != id }

/-- The command ends: the rest of its count lands, with a code, and its fault buffer entries are gone (R336). -/
def State.endCmd (s : State) (c : Nat) (k : EngCmd) (code : BitVec 16) : State :=
  let s := (s.updCore c fun x => x.dropFaults fun e => e.cmd == some k.id).refillFaults c
  (s.engLand (k.eng c) k.id k.bar (k.total - k.landed) code [] none).dropCmd c k.id

/-- A failure of a command: retried once where R228 says so, then the command ends with it. -/
def State.failCmd (s : State) (c : Nat) (k : EngCmd) (code : BitVec 16) : State :=
  if retryable code && !k.retried then s.updCmd c k.id fun k => { k with retried := true }
  else s.endCmd c k code

/-- A replayable failure takes an entry, and the command stalls. -/
def State.stallCmd (s : State) (c : Nat) (k : EngCmd) (write : Bool) (va : DWord) (f : XFail) : State :=
  match s.engFault (k.eng c) k.id write va f with
  | none => s
  | some t => t.updCmd c k.id fun k => { k with inFault := true }

/-- What follows an access of a command. -/
def State.cmdGo (s : State) (c : Nat) (k : EngCmd) (r : EngRes α) (go : α → State) : State :=
  match r with
  | .ok x => go x
  | .fail e => s.failCmd c k e
  | .replay w va f => s.stallCmd c k w va f
  | .wait => s

/-- The unit's bytes are written, and land; the command goes on, or ends. -/
def State.landUnit (s : State) (c : Nat) (k : EngCmd) (n : Nat) (lines : List Nat) (die : Option Nat) :
    State :=
  let e := k.eng c
  let s := if k.retried then s.countTransient c else s
  let s := s.engLand e k.id k.bar n 0 lines die (k.kind == .wload)
  if k.unit + 1 < k.units then
    s.updCmd c k.id fun _ =>
      { k with unit := k.unit + 1, buf := none, landed := k.landed + n, retried := false }
  else s.dropCmd c k.id

/-- What the command has read stays with it; a read that has succeeded on its retry is counted (R228). -/
def State.keepRead (s : State) (c : Nat) (k : EngCmd) (f : EngCmd → EngCmd) : State :=
  (if k.retried then s.countTransient c else s).updCmd c k.id fun k => { f k with retried := false }

/-- The source bytes of a unit. A tier copy reads them at their home port, after the dirty lines of its issuer
have gone there (R193, R338, R339). -/
def State.readUnit (s : State) (c : Nat) (k : EngCmd) (u : CopyUnit) : State × EngRes (List Byte) :=
  let e := k.eng c
  if k.isTier then
    let t := match s.engPieces e .read u.src.addr u.n with
      | .ok ps => s.pushHome c fun key _ => ps.any fun p => p.hasLine key
      | _ => s
    (t, t.engReadHome e u.src u.n)
  else (s.engTouch e u.src u.n, s.engRead e u.src u.n)

/-- A unit that is read is written when its write may be performed (R193, R338). -/
def State.writeUnit (s : State) (c : Nat) (k : EngCmd) (u : CopyUnit) (bs : List Byte) : State :=
  let e := k.eng c
  s.cmdGo c k (s.engWritable e .write k.isTier u.dst u.n) fun ps =>
    (s.engWrite e k.isTier u.dst ps bs).landUnit c k u.n (pieceLines ps) (engDie c k.isTier ps)

/-- One unit of a copy: it is read, kept while its write is gated, and written (R193, R338). -/
def State.stepCopy (s : State) (c : Nat) (k : EngCmd) : State :=
  match k.buf with
  | some bs => s.cmdGo c k (s.cmdUnit c k) fun u => s.writeUnit c k u bs
  | none =>
    s.cmdGo c k (s.cmdUnit c k) fun u =>
      if k.isTier && s.tierWrong c k u.src u.dst u.n then s.endCmd c k eOperandBounds
      else
        let r := s.readUnit c k u
        match r.2 with
        | .ok bs =>
          (r.1.keepRead c k fun k => { k with buf := some bs }).writeUnit c
            { k with buf := some bs, retried := false } u bs
        | .fail e => r.1.failCmd c k e
        | .replay w va f => r.1.stallCmd c k w va f
        | .wait => s

/-- One record of a CPYT. -/
def State.stepCpyt (s : State) (c : Nat) (k : EngCmd) : State :=
  let e := k.eng c
  s.cmdGo c k (s.cpytRecord c k) fun r =>
    s.cmdGo c k (s.engWritable e .write false r.1 r.2.length) fun ps =>
      (s.engWrite e false r.1 ps r.2).landUnit c k r.2.length [] none

/-- The bytes that a WLOAD reads: the scales, and then the valid rows (R344). -/
def State.wloadBytes (s : State) (c : Nat) (k : EngCmd) : EngRes (List Byte) :=
  let e := k.eng c
  let scales : EngRes (List Byte) := if k.wScales = 0 then .ok [] else
    (List.range (k.wScales / 2)).foldl (fun r j => r.bind fun bs =>
      (s.engRead e ((k.loc 8 false).plus (2 * j)) 2).bind fun x => .ok (bs ++ x)) (.ok [])
  (List.range (k.fld 24 4)).foldl (fun r j => r.bind fun bs =>
    (s.engRead e ((k.loc 0 true).plus (j * k.fld 16 4)) k.wRow).bind fun x => .ok (bs ++ x)) scales

/-- The command with its descriptor, where that can be read now: an abandoned command lands the rest of its count;
where no descriptor gives one, that is 0 (R199; DESIGN CHOICE, log 61). -/
def State.described (s : State) (c : Nat) (k : EngCmd) : EngCmd :=
  if k.isEC || k.fields.isSome then k
  else
    match s.engRead (k.eng c) k.desc 32 with
    | .ok bs => { k with fields := some bs }
    | _ => k

/-- Whether a command stalls at a landing on a barrier whose translation fails replayably (R128 item 1, R172). -/
def Core.landStalls (x : Core) (k : EngCmd) : Bool :=
  (x.block? k.block).any fun b => b.lands.any fun l => l.cmd == k.id && l.fault.isSome

/-- BARROW_LANDING: the next step of a command. The first eight commands of a core run (R343). -/
def State.cmdStep (s : State) (c : Nat) (k : EngCmd) : State :=
  let e := k.eng c
  if k.abandon then s.endCmd c (s.described c k) eCmdAbandoned
  else if k.inFault || (s.core c).landStalls k || !s.engForked e then s
  else if k.err != 0 then s.endCmd c k k.err
  else if !k.isEC && k.fields.isNone then
    s.cmdGo c k (s.engRead e k.desc 32) fun bs =>
      (s.engTouch e k.desc 32).keepRead c k fun k => { k with fields := some bs }
  else if k.refused != 0 then s.endCmd c k k.refused
  else if k.isTier && k.unit == 0 && s.tierWrong c k k.src k.dst k.len then s.endCmd c k eOperandBounds
  else if k.units = 0 then s.endCmd c k 0
  else
    match k.kind with
    | .cpyt => s.stepCpyt c k
    | .wload =>
      if k.buf.isSome then s
      else s.cmdGo c k (s.wloadBytes c k) fun bs =>
        (s.engTouch e (k.loc 0 true) 1).keepRead c k fun k => { k with buf := some bs }
    | _ => s.stepCopy c k

def State.barrowLanding (s : State) (c id : Nat) : State :=
  match ((s.core c).cmds.take 8).find? fun k => k.id == id with
  | none => s
  | some k => s.cmdStep c k

def execBarrowLanding (core cmd : Nat) (s : State) : Host.Outcome State Fault Refusal :=
  if coreCount ≤ core then .fault .noSuchUnit else .next (s.barrowLanding core cmd)

/-- What a WLOAD latches: its format, whether it has scales, and its planes (R344). -/
def EngCmd.latched (k : EngCmd) (bs : List Byte) (kiln : Kiln) : Kiln :=
  let rows := bs.drop k.wScales
  let klen := k.fld 24 4
  let plane (b : Nat) : Plane :=
    planeOf (k.fmt 20)
      ((List.range (min 128 (klen - 128 * b))).map fun r => (rows.drop ((128 * b + r) * k.wRow)).take k.wRow)
      (if k.wScales = 0 then [] else (List.range k.wN).map fun j =>
        BitVec.ofNat 16 (recNat bs (2 * (b * k.wN + j)) 2))
  { kiln with
    fmt := some (k.fmt 20), scaled := k.wScales != 0,
    planes := (List.range 4).map fun b => if b < k.fld 21 1 then plane b else Plane.zero }

/-- Whether a task runs on the Kiln: it has neither ended nor paused (R220, R345). -/
def Kiln.running (k : Kiln) : Bool := k.task.any fun t => !t.paused

/-- WLOAD_LATCH: while no task runs on the Kiln, the oldest WLOAD that has been read is latched, and
lands what it read (R345). -/
def State.wloadLatch (s : State) (c : Nat) : State :=
  let x := s.core c
  match (x.cmds.take 8).find? fun k => k.kind == .wload && k.buf.isSome with
  | none => s
  | some k =>
    if x.kiln.running || x.landStalls k || k.abandon || k.err != 0 then s
    else
      let s := s.updCore c fun x => { x with kiln := k.latched (k.buf.getD []) x.kiln }
      s.landUnit c k k.total [] none

def execWloadLatch (core : Nat) (s : State) : Host.Outcome State Fault Refusal :=
  if coreCount ≤ core then .fault .noSuchUnit else .next (s.wloadLatch core)

end Sys2Proof.Machine
end

