-- ==== Sys2Proof/Machine/Hearth.lean ====
section
/-! DEFINITION. The Hearth and the Kiln: tile-task records and quench slots, gates, dispatch, cooperative
groups, k-blocks, drains and completion (R139, R140, R193, R215 to R221, R346 to R353). -/

namespace Sys2Proof.Machine

/-! ## Issue (R139, R335, R346, R349) -/

/-- The scratchpad bytes that MTASK or QCFG reads at issue: a reach beyond the backed region and a
poisoned word trap. -/
def Ctx.issueRead (x : Ctx) (l : ELoc) (n : Nat) : Except Cause (List Byte) :=
  match x.locTrap l n with
  | some t => .error t
  | none =>
    if x.block.spadBad l.addr.toNat n then .error ⟨eSpadPoison, 0, l.addr⟩
    else .ok (x.block.spadRead l.addr.toNat n)

/-- Why a record's GATE or DONE traps: it is neither 0 nor a multiple of 16. -/
def TaskRec.alignTrap (t : TaskRec) : Option Cause :=
  if t.gate.toNat % 16 ≠ 0 then some ⟨eBarrierAlign, 0, t.gate⟩
  else if t.done.toNat % 16 ≠ 0 then some ⟨eBarrierAlign, 0, t.done⟩
  else none

/-- The records of a block in its cluster's ring. -/
def State.ringOf (s : State) (c b : Nat) : List HRec :=
  (s.cluster (clusterOf c)).ring.filter fun r => r.core == c && r.block == b

/-- A record as it enters the ring, with the quench slot that it names. One without a gate is eligible (R140, R215). -/
def Ctx.newRec (x : Ctx) (bs : List Byte) : HRec :=
  let t := TaskRec.ofBytes bs
  { id := x.core.nextCmd, bytes := bs,
    quench := if t.qen then x.block.quench.getD (t.qs % 4) [] else [], core := x.c,
    block := x.block.slot, wave := x.wave.slot, num := x.wave.seq, gated := !x.frag.handler,
    eligible := t.gate == 0, registered := false, inFault := false, retried := false, fail := 0 }

def execMtask (g : Ctl) (o : ED) (s : State) : Host.Outcome State Fault Refusal :=
  issueFragment s g (locSrcs o.desc) fun x _ =>
    match x.issueRead (locOf x o.desc) 64 with
    | .error t => s.raise x t
    | .ok bs =>
      match (TaskRec.ofBytes bs).alignTrap with
      | some t => s.raise x t
      | none =>
        let ring := (s.cluster (clusterOf x.c)).ring
        if x.spadWaits [((locOf x o.desc).addr.toNat + 2 ^ 64, 64)] || !x.opRoom .eng || decide (256 ≤ ring.length)
            || decide (64 ≤ (s.ringOf x.c x.block.slot).length) then s
        else
          let s := s.updCluster (clusterOf x.c) fun k => { k with ring := k.ring ++ [x.newRec bs] }
          let y := x.engineOp
          s.save ({ y with core := { y.core with nextCmd := y.core.nextCmd + 1 } }.done g.sw)

def execQcfg (g : Ctl) (o : ED) (s : State) : Host.Outcome State Fault Refusal :=
  issueFragment s g (locSrcs o.desc) fun x _ =>
    match x.issueRead (locOf x o.desc) 32 with
    | .error t => s.raise x t
    | .ok bs =>
      if x.spadWaits [((locOf x o.desc).addr.toNat + 2 ^ 64, 32)] then s
      else
        let slot := (Quench.ofBytes bs).slot % 4
        s.save ({ x with block := { x.block with
          quench := updAt x.block.quench slot fun _ => bs } }.done g.sw)

/-! ## Records of the ring -/

def HRec.task (r : HRec) : TaskRec := TaskRec.ofBytes r.bytes

def HRec.eng (r : HRec) : Eng :=
  { c := r.core, block := r.block, wave := r.wave, num := r.num, gated := r.gated }

/-- The control block of a task that drains through quench. -/
def HRec.quench? (r : HRec) : Option Quench := if r.task.qen then some (Quench.ofBytes r.quench) else none

/-- Whether the record's block is placed and its context is not being drained (R242, R244). -/
def State.recRuns (s : State) (r : HRec) : Bool :=
  match s.blockAt r.core r.block with
  | some b => !(s.core r.core).draining.contains b.ctx
  | none => false

def State.updRec (s : State) (r : HRec) (f : HRec → HRec) : State :=
  s.updCluster (clusterOf r.core) fun k => { k with ring := updFirst r.same f k.ring }

/-- A record is refused: it leaves the ring, its code is recorded and its count lands (R140, R347). -/
def State.refuseRec (s : State) (r : HRec) (code : BitVec 16) : State := (s.dropRec r).landTask r r.count code

/-! ## Gates (R215) -/

/-- What the Hearth finds at a record's gate: the bytes of the barrier, or why it cannot read them. -/
def State.gateRead (s : State) (r : HRec) : EngRes (Home × List Byte) :=
  match elocOf r.task.gate, s.blockAt r.core r.block with
  | .spad o, some b =>
    if !b.spadOk o 16 then .fail eOperandBounds
    else if b.spadBad o 16 then .fail eSpadPoison
    else .ok (.spad r.core r.block o, b.spadRead o 16)
  | .glob va, some _ =>
    (s.engPieces r.eng .read va 16).bind fun ps =>
      match ps.head? with
      | none => .wait
      | some p =>
        match s.homeOfPlace p.x.place 16 with
        | .error e => .fail e
        | .ok h =>
          match s.homeFault h 16 with
          | some e => .fail (if e = eSpadPoison then eMemPoison else e)
          | none => .ok (h, s.homeRead h 16)
  | _, _ => .fail eVaNoncanonical

/-- Whether a phase opens a gate. -/
def TaskRec.opens (t : TaskRec) (bar : List Byte) : Bool := BitVec.ofNat 16 (recNat bar 12 2) != t.gph - 1

/-- A replayable failure of a record's access takes an entry, and the record waits. -/
def State.stallRec (s : State) (r : HRec) (write : Bool) (va : DWord) (f : XFail)
    (mark : State → State) : State :=
  match s.engFault r.eng r.id write va f with
  | none => s
  | some t => mark t

/-- One check of the gate of the record at a position of a ring. -/
def State.gateCheck (s : State) (k pos : Nat) : State :=
  match (s.cluster k).ring[pos]? with
  | none => s
  | some r =>
    if r.inFault || !s.recRuns r then s
    else if r.fail != 0 then s.refuseRec r r.fail
    else if r.eligible then s
    else
      match s.gateRead r with
      | .wait => s
      | .ok (_, bar) =>
        if r.task.opens bar then
          (if r.retried then s.countTransient r.core else s).updRec r fun r =>
            { r with eligible := true, retried := false }
        else s
      | .fail e =>
        if retryable e && !r.retried then s.updRec r fun r => { r with retried := true }
        else s.refuseRec r e
      | .replay w va f => s.stallRec r w va f fun t => t.updRec r fun r => { r with inFault := true }

def clusterCount : Nat := 320

def execHearthGateCheck (cluster pos : Nat) (s : State) : Host.Outcome State Fault Refusal :=
  if clusterCount ≤ cluster then .fault .noSuchUnit else .next (s.gateCheck cluster pos)

/-- A global gate is read again while its record waits; a scratchpad gate at each change. Either way
the check is that of `gateCheck`. -/
def execHearthGateReread (cluster pos : Nat) (s : State) : Host.Outcome State Fault Refusal :=
  if clusterCount ≤ cluster then .fault .noSuchUnit else .next (s.gateCheck cluster pos)

/-! ## Scratchpad gates (R215) -/

/-- Whether the scratchpad gate of a record that waits is open now. -/
def HRec.gateOpen (r : HRec) (b : Block) : Bool :=
  !r.eligible && r.task.gate != 0 && match elocOf r.task.gate with
    | .spad o => b.spadOk o 16 && !b.spadBad o 16 && r.task.opens (b.spadRead o 16)
    | _ => false

/-- A record whose gate has been seen open. -/
def HRec.opened (r : HRec) : HRec := { r with eligible := true, retried := false }

/-- The records of a ring whose gates are open now. -/
def State.openIn (s : State) (ring : List HRec) : List HRec :=
  ring.filter fun r => match s.blockAt r.core r.block with
    | some b => r.gateOpen b
    | none => false

/-- The saved records of a context whose gates are open now. -/
def SavedCtx.checkGates (v : SavedCtx) : SavedCtx :=
  { v with recs := v.recs.map fun r =>
      if v.blocks.any fun b => b.slot == r.block && r.gateOpen b then r.opened else r }

/-- The scratchpad gates of all records that wait are checked. -/
def State.checkGates (s : State) : State :=
  let s := s.clusters.foldl (fun s e => (s.openIn e.2.ring).foldl (fun s r =>
    (if r.retried then s.countTransient r.core else s).updRec r HRec.opened) s) s
  { s with cores := s.cores.map fun e =>
      (e.1, { e.2 with shadows := e.2.shadows.map SavedCtx.checkGates }) }

/-! ## The checks before dispatch (R67, R216, R218, R347) -/

/-- Bytes of one drained row (R352). -/
def HRec.rowBytes (r : HRec) : Nat :=
  (r.task.nc * fmtBits (outFmt r.quench? r.task.accFmt) + 7) / 8

/-- The scratchpad ranges of a task: offset and extent. A member that reads another member's
activations has none of its own (R219 item 4). -/
def HRec.spadRanges (r : HRec) (follows : Bool) : List (Nat × Nat) :=
  let t := r.task
  (if follows then [] else [(t.aoff, t.kb * t.m * t.rowSize)])
    ++ (if t.stat = 0xFFFFFFFF then [] else [(t.stat, 4)])
    ++ (match r.quench? with
      | some q => if q.bias then [(q.boff, t.nc * if t.accFmt = 0 then 8 else 4)] else []
      | none => [])
    ++ (match t.drain, elocOf t.dst with
      | 1, .spad o => [(o, max (t.m * t.dstr) ((t.m - 1) * t.dstr + r.rowBytes))]
      | _, _ => [])

/-- Whether the accumulator format suits the formats and the scales (R67 item 4). -/
def TaskRec.accOk (t : TaskRec) (scaled : Bool) : Bool :=
  match t.accfmt with
  | 0 => !t.ascale && !scaled
  | 1 => true
  | 14 => isIntSide t.aFmt && isIntSide t.wFmt && !t.ascale && !scaled
  | _ => false

/-- Whether DST suits DRAIN. -/
def TaskRec.dstOk (t : TaskRec) : Bool :=
  match t.drain, elocOf t.dst with
  | 0, _ => true
  | 1, .spad _ => true
  | 2, .glob _ => true
  | _, _ => false

/-- Item 3 of R216, with R347. -/
def HRec.formatOk (r : HRec) (k : Kiln) (follows : Bool) : Bool :=
  let t := r.task
  t.reserved == 0 && decide (t.m ≤ 128) && decide (1 ≤ t.kb) && decide (t.kb ≤ 4)
    && decide (t.koff + t.kb ≤ 4)
    && decide (t.afmt ≤ 15) && isActivationFmt t.aFmt && planesOk t.aFmt t.p && scaleOk t.aFmt t.ascale
    && decide (t.wfmt ≤ 15) && isWeightFmt t.wFmt && k.fmt == some t.wFmt && scaleOk t.wFmt k.scaled
    && decide (1 ≤ t.nc) && decide (t.nc ≤ kilnCols t.wFmt) && t.accOk k.scaled
    && t.dstOk && (r.done == 0 || elocOf r.done != .bad) && !(t.add && t.drain == 0)
    && (match r.quench? with
      | some q => q.ok t.accFmt t.add t.nc
      | none => true)
    && (follows || t.aoff % 16 == 0) && t.accoff % 64 == 0
    && (t.stat == 0xFFFFFFFF || t.stat % 4 == 0)

/-- Item 4 of R216: the cooperative fields (R218). -/
def TaskRec.groupOk (t : TaskRec) : Bool :=
  let n := t.gr * t.gc
  decide (t.midx < n) && decide (t.gc * kilnCols t.wFmt ≤ 1024)
    && (n == 1 || match elocOf t.gate with
      | .glob _ => t.gate != 0
      | _ => false)

/-- The code with which a record is refused on a Kiln; 0 for none. -/
def State.recCheck (s : State) (r : HRec) (k : Kiln) : BitVec 16 :=
  match s.blockAt r.core r.block with
  | none => eOperandBounds
  | some b =>
    let t := r.task
    let follows := decide (1 < t.gr * t.gc) && t.midx % t.gc != 0
    if !(r.spadRanges follows).all fun e => b.spadOk e.1 e.2 then eOperandBounds
    else if decide (b.accBound < t.accoff + t.m * t.nc * accSize t.accFmt) then eOperandBounds
    else if !r.formatOk k follows then eKilnFormat
    else if !t.groupOk then eGroupMismatch
    else 0

/-! ## Dispatch (R140, R217) -/

def State.kiln (s : State) (c : Nat) : Kiln := (s.core c).kiln
def State.updKiln (s : State) (c : Nat) (f : Kiln → Kiln) : State :=
  s.updCore c fun x => { x with kiln := f x.kiln }

/-- The cores of a cluster whose Kilns may run tasks. -/
def State.kilnsOf (s : State) (k : Nat) : List Nat :=
  ((List.range 4).map fun j => 4 * k + j).filter fun c => (s.core c).enabled

def Kiln.free (k : Kiln) : Bool := k.task.isNone && k.reserved.isNone

/-- Whether the landing of a WLOAD that has been latched still waits: no task is dispatched to the Kiln until then
(R345). -/
def Core.loading (x : Core) : Bool := x.blocks.any fun b => b.lands.any fun l => l.loads

/-- Whether R217 lets a record take the Kiln of a core now. -/
def State.mayTake (s : State) (r : HRec) (c : Nat) : Bool :=
  let all := s.kilnsOf (clusterOf r.core)
  let same (c : Nat) : Bool := (s.kiln c).fmt == some r.task.wFmt
  all.contains c && (s.kiln c).free && !(s.core c).loading
    && (if r.task.affine then c == r.core
        else same c || !all.any same)

/-- Whether a record that is no member of a group stands ready for dispatch. -/
def State.recReady (s : State) (r : HRec) : Bool :=
  r.eligible && !r.inFault && r.fail == 0 && r.task.gr * r.task.gc == 1 && s.recRuns r

/-- Whether some accumulator word among n bytes at an offset is poisoned (R99). -/
def Block.accBad (b : Block) (o n : Nat) : Bool :=
  b.accPoison.any fun w => decide (o < 4 * w + 4) && decide (4 * w < o + n)

/-- The bytes of a tile's accumulators. -/
def TaskRec.tileBytes (t : TaskRec) : Nat := t.m * t.nc * accSize t.accFmt

/-- The accumulator bytes of a tile start at zero, and their words are written whole (R99, R104, R348). -/
def Block.zeroTile (b : Block) (t : TaskRec) : Block :=
  { b with acc := Memory.write b.acc t.accoff (List.replicate t.tileBytes 0),
           accPoison := b.accPoison.filter fun w =>
             !(decide (t.accoff ≤ 4 * w) && decide (4 * w + 4 ≤ t.accoff + t.tileBytes)) }

/-- The acquire of the gating barrier that acts for the task (R186, R193). -/
def State.gateAcquire (s : State) (r : HRec) : State :=
  if r.task.gate = 0 then s
  else
    match s.gateRead r with
    | .ok (h, _) =>
      let s := s.join r.core h
      let rs := (s.core r.core).binds.filterMap fun e =>
        if e.2.slot == r.block && e.2.obj == r.task.gate then some (e.2.base, e.2.len) else none
      match s.tryRegions r.core (s.engRoot r.eng) rs with
      | .go ps => s.acquire r.core ps false
      | _ => s
    | _ => s

/-- A task leaves the ring and starts on the Kiln of a core, with the weights that are latched now (R345). -/
def State.startTask (s : State) (r : HRec) (c : Nat) (group : Option Nat) (leader : Option HRec) : State :=
  let s := (s.gateAcquire r).dropRec r
  let s := if r.task.zero then
      s.updCore r.core fun x => x.updBlock r.block fun b => b.zeroTile r.task
    else s
  let k : KTask :=
    { task := { r with retried := false, fail := 0 }, kblock := 0, unit := 0, status := 0, lines := [], paused := false,
      stop := false, abandon := false, away := false, group := group, leader := leader,
      fmt := (s.kiln c).fmt, scaled := (s.kiln c).scaled, planes := (s.kiln c).planes }
  s.updKiln c fun x => { x with task := some k, reserved := none }

/-- The record at a position of a ring is dispatched to a Kiln of its cluster, or refused there: it is
the oldest that may take a Kiln. -/
def State.hearthDispatch (s : State) (k pos j : Nat) : State :=
  let ring := (s.cluster k).ring
  match ring[pos]? with
  | none => s
  | some r =>
    let takeable (q : HRec) : Bool := s.recReady q && (s.kilnsOf k).any (s.mayTake q)
    if !s.recReady r || !s.mayTake r (4 * k + j) || (ring.take pos).any takeable then s
    else
      let code := s.recCheck r (s.kiln (4 * k + j))
      if code != 0 then s.refuseRec r code else s.startTask r (4 * k + j) none none

def execHearthDispatch (cluster pos kiln : Nat) (s : State) : Host.Outcome State Fault Refusal :=
  if clusterCount ≤ cluster ∨ 4 ≤ kiln then .fault .noSuchUnit else .next (s.hearthDispatch cluster pos kiln)

/-! ## Cooperative groups (R218, R219) -/

/-- The key of a record's gate: the place of the barrier. -/
def State.gateKey (s : State) (r : HRec) : Option DWord :=
  match elocOf r.task.gate with
  | .glob va =>
    match s.engPieces r.eng .read va 16 with
    | .ok ps => ps.head?.map fun p => BitVec.ofNat 64 p.x.place
    | _ => none
  | _ => none

/-- GROUP_REGISTRATION: an eligible record of a group is registered with the arbiter. One that breaks R218 is
refused, with the first code of R216 that applies; the other checks are made at the dispatch. -/
def State.registerRec (s : State) (k pos : Nat) : State :=
  match (s.cluster k).ring[pos]? with
  | none => s
  | some r =>
    let t := r.task
    if !r.eligible || r.registered || r.inFault || r.fail != 0 || t.gr * t.gc == 1 || !s.recRuns r then s
    else
      if !t.groupOk then s.refuseRec r (s.recCheck r (s.kiln r.core))
      else
        match s.gateKey r with
        | none => s
        | some key =>
          let g : GroupReg :=
            { gate := key, phase := t.gph, gr := t.gr, gc := t.gc, member := t.midx, cluster := k,
              task := { r with registered := true } }
          let old := (s.groupRegs ++ s.groups.flatten).filter fun q => g.sameKey q
          if old.any fun q => q.gr != g.gr || q.gc != g.gc || q.member == g.member then
            s.refuseRec r eGroupMismatch
          else
            let s := s.updRec r fun r => { r with registered := true }
            if (old.length + 1) < t.gr * t.gc then { s with groupRegs := s.groupRegs ++ [g] }
            else { s with groupRegs := s.groupRegs.filter fun q => !g.sameKey q,
                          groups := s.groups ++ [old ++ [g]] }

def execGroupRegistration (cluster pos : Nat) (s : State) : Host.Outcome State Fault Refusal :=
  if clusterCount ≤ cluster then .fault .noSuchUnit else .next (s.registerRec cluster pos)

/-- The member whose activations a member uses, where it is another one. -/
def leaderOf (gs : List GroupReg) (g : GroupReg) : Option HRec :=
  if g.member % g.gc = 0 then none
  else (gs.find? fun q => q.member == g.member - g.member % g.gc).map fun q => q.task

/-- All members of the group that is served start together. Where one is refused at this dispatch, the others are
too, with E_GROUP_BROKEN (R216, R347; DESIGN CHOICE, log 63). -/
def State.startGroup (s : State) (gs : List GroupReg) : State :=
  let code (g : GroupReg) : BitVec 16 := s.recCheck g.task (s.kiln g.task.core)
  if gs.all fun g => code g == 0 then
    gs.foldl (fun s g => s.startTask g.task g.task.core (some s.nextGroup) (leaderOf gs g)) s
  else
    gs.foldl (fun s g => s.refuseRec g.task (if code g = 0 then eGroupBroken else code g)) s.unreserve

/-- GROUP_DISPATCH: the group that is served reserves the Kilns that are free, and all its members
start together once it holds them all. Two members on one core would need one Kiln at once: such a group never
starts, and those behind it wait (DESIGN CHOICE, log 65). -/
def State.groupDispatch (s : State) : State :=
  match s.groups with
  | [] => s
  | gs :: rest =>
    let id := s.nextGroup
    let cores := gs.map fun g => g.task.core
    if !(gs.all fun g => s.recRuns g.task && (s.core g.task.core).enabled) then s
    else
      let s := cores.foldl (fun s c => s.updKiln c fun k =>
        if k.free then { k with reserved := some id } else k) s
      if cores.Nodup ∧ cores.all (fun c => (s.kiln c).reserved == some id && (s.kiln c).task.isNone
          && !(s.core c).loading) then
        { s.startGroup gs with groups := rest, nextGroup := id + 1 }
      else s

def execGroupDispatch (s : State) : Host.Outcome State Fault Refusal := .next s.groupDispatch

/-! ## k-blocks and drains (R69, R220, R221, R348, R351 to R353) -/

def State.updTask (s : State) (c : Nat) (f : KTask → KTask) : State :=
  s.updKiln c fun k => { k with task := k.task.map f }

def State.endTask (s : State) (c : Nat) : State := s.updKiln c fun k => { k with task := none }

/-- Whether every drain unit of a task has been written. -/
def KTask.drained (k : KTask) : Bool :=
  k.task.task.drain == 0 || decide ((k.task.task.m + 7) / 8 ≤ k.unit)

/-- The row records of a k-block, from the scratchpad of the block whose activations the task uses. -/
def State.taskRows (s : State) (k : KTask) : EngRes (List ActRow) :=
  let r := k.leader.getD k.task
  let t := r.task
  (List.range k.task.task.m).foldl (fun (a : EngRes (List ActRow)) i => a.bind fun rows =>
    match s.engRead r.eng (.spad (t.aoff + (k.kblock * t.m + i) * t.rowSize)) t.rowSize with
    | .ok bs => .ok (rows ++ [readRow t.aFmt t.p bs])
    | _ => if k.leader.isSome && (s.blockAt r.core r.block).isNone then .fail eGroupBroken
      else .fail eSpadPoison) (.ok [])

/-- One k-block of the task on the Kiln of a core, with the weights latched at its dispatch. The updates of
unordered tasks interleave at whole k-blocks here (DESIGN CHOICE, log 67); a member that uses another's activations
reads them with that member's AFMT, P and ASCALE (DESIGN CHOICE, log 66). -/
def State.kblockStep (s : State) (c : Nat) (k : KTask) : State :=
  let r := k.task
  match s.taskRows k, s.blockAt r.core r.block with
  | .ok rows, some b =>
    let t := (k.leader.getD r).task
    if b.accBad r.task.accoff r.task.tileBytes then
      s.updTask c fun k => { k with task := { k.task with fail := eSpadPoison } }
    else
    let u := tileUpdate { r.task with afmt := t.afmt, p := t.p, flags := (r.task.flags &&& 0xFE) + t.flags % 2 }
      (k.planes.getD (r.task.koff + k.kblock) Plane.zero) k.scaled rows b.acc
    let s := s.updCore r.core fun x => x.updBlock r.block fun b => { b with acc := u.1 }
    s.updTask c fun k => { k with kblock := k.kblock + 1, status := k.status ||| u.2 }
  | .fail e, _ => s.updTask c fun k => { k with task := { k.task with fail := e } }
  | _, _ => s

/-- The bias vector of a task, in the working format. -/
def State.taskBias (s : State) (r : HRec) : EngRes (List Nat) :=
  match r.quench? with
  | none => .ok []
  | some q =>
    if !q.bias then .ok []
    else
      let sz := if r.task.accFmt = 0 then 8 else 4
      (s.engRead r.eng (.spad q.boff) (r.task.nc * sz)).bind fun bs =>
        .ok ((List.range r.task.nc).map fun j => recNat bs (j * sz) sz)

/-- The output codes of row i, with their status. -/
def HRec.rowOut (r : HRec) (b : Block) (bias : List Nat) (i : Nat) : List Nat × BitVec 3 :=
  let t := r.task
  (List.range t.nc).foldl (fun (a : List Nat × BitVec 3) j =>
    let x := leNat (Memory.read b.acc (t.accAt i j) (accSize t.accFmt))
    let y := match r.quench? with
      | some q => q.apply t.accFmt x (bias.getD j 0)
      | none => (x, 0)
    (a.1 ++ [y.1], a.2 ||| y.2)) ([], 0)

/-- Add-on-store of a row of codes to the codes that stand there (R353). -/
def HRec.rowAdd (r : HRec) (old : List Byte) (out : List Nat) : List Nat × BitVec 3 :=
  let f := outFmt r.quench? r.task.accFmt
  let sat := match r.quench? with
    | some q => q.sat
    | none => false
  (out.zipIdx).foldl (fun (a : List Nat × BitVec 3) e =>
    let y := addOn f sat (packedElem (fmtBits f) old e.2) e.1
    (a.1 ++ [y.1], a.2 ||| y.2)) ([], 0)

/-- Where row i drains to. -/
def HRec.rowAt (r : HRec) (i : Nat) : ELoc := (elocOf r.task.dst).plus (i * r.task.dstr)

/-- The bytes at the home of a destination row of an add-on-store. -/
def State.oldRow (s : State) (r : HRec) (i : Nat) (ps : List Piece) : EngRes (List Byte) :=
  match r.rowAt i with
  | .glob _ =>
    match ps.findSome? fun p => if placeClass p.x.place < 2 then
        (List.range p.n).findSome? fun k => s.homeReadFault (p.x.place + k)
        else s.pieceFault r.core p with
    | some e => .fail e
    | none => .ok (ps.flatMap fun p =>
        if placeClass p.x.place < 2 then (List.range p.n).map fun k => s.homeByte (p.x.place + k)
        else s.pieceRead r.core p)
  | l => s.engRead r.eng l r.rowBytes

/-- A row after another: what has been drained so far, and its status. -/
structure Drain where
  s : State
  status : BitVec 3
  lines : List Nat

/-- Drain row i: computed, added where ADD is set, and written (R352, R353). -/
def Drain.row (d : Drain) (r : HRec) (b : Block) (bias : List Nat) (i : Nat) : EngRes Drain :=
  let out := r.rowOut b bias i
  let f := outFmt r.quench? r.task.accFmt
  let acc : Access := if r.task.add then .atomic else .write
  (d.s.engWritable r.eng acc r.task.add (r.rowAt i) r.rowBytes).bind fun ps =>
    let s := if r.task.add then d.s.flushHome r.core fun key _ => ps.any fun p => p.hasLine key else d.s
    (if r.task.add then s.oldRow r i ps else .ok []).bind fun old =>
      let y := if r.task.add then r.rowAdd old out.1 else (out.1, 0)
      .ok { s := s.engWrite r.eng r.task.add (r.rowAt i) ps (packRow f y.1),
            status := d.status ||| out.2 ||| y.2, lines := d.lines ++ pieceLines ps }

/-- The rows of the next drain unit; an add-on-store is one unit for the whole tile (R193, R220). -/
def KTask.unitRows (k : KTask) : List Nat :=
  let m := k.task.task.m
  if k.task.task.add then List.range m else (List.range (min 8 (m - 8 * k.unit))).map fun i => 8 * k.unit + i

/-- One drain unit of the task on the Kiln of a core. -/
def State.drainStep (s : State) (c : Nat) (k : KTask) : State :=
  let r := k.task
  match s.blockAt r.core r.block with
  | none => s
  | some b =>
    let bad := k.unitRows.any fun i => b.accBad (r.task.accAt i 0) (r.task.nc * accSize r.task.accFmt)
    let d : EngRes Drain := if bad then .fail eSpadPoison else (s.taskBias r).bind fun bias =>
      k.unitRows.foldl (fun (a : EngRes Drain) i => a.bind fun d => d.row r b bias i)
        (EngRes.ok { s := s, status := 0, lines := [] })
    match d with
    | .wait => s
    | .fail e =>
      if retryable e && !r.retried then s.updTask c fun k => { k with task := { k.task with retried := true } }
      else s.updTask c fun k => { k with task := { k.task with fail := e } }
    | .replay w va f => s.stallRec r w va f fun t =>
        t.updTask c fun k => { k with task := { k.task with inFault := true } }
    | .ok d =>
      let s := if r.retried then d.s.countTransient r.core else d.s
      s.updTask c fun k =>
        { k with lines := k.lines ++ d.lines, unit := if r.task.add then (r.task.m + 7) / 8 else k.unit + 1,
                 status := k.status ||| d.status, task := { k.task with retried := false } }

/-- Where the lines that a task has written stand: at the L2 of its die, or at the homes (R192). -/
def KTask.writesAt (k : KTask) : Option Nat := if k.task.task.add then none else some (dieOf k.task.core)

/-- The members of a running group: their cores and tasks. -/
def State.groupTasks (s : State) (g : Nat) : List (Nat × KTask) :=
  s.cores.filterMap fun e =>
    match e.2.kiln.task with
    | some t => if t.group = some g then some (e.1, t) else none
    | none => none

/-- The tasks that advance and pause with one. -/
def State.partners (s : State) (c : Nat) (k : KTask) : List (Nat × KTask) :=
  match k.group with
  | some g => s.groupTasks g
  | none => [(c, k)]

/-- Whether a member of a task's group is saved with its context. -/
def State.groupAway (s : State) (k : KTask) : Bool :=
  let holds (v : SavedCtx) : Bool := match v.kiln.task with
    | some t => t.group == k.group
    | none => false
  k.group.isSome && (s.saved.any holds || s.cores.any fun e => e.2.shadows.any holds)

/-- KILN_BOUNDARY: the task on the Kiln of a core reaches its next boundary. It stops, lands its count
with a code, pauses or resumes with its context, or does its next k-block or drain unit. -/
def State.kilnBoundary (s : State) (c : Nat) : State :=
  match (s.kiln c).task with
  | none => s
  | some k =>
    let r := k.task
    if k.stop then s.endTask c
    else if k.abandon || (!r.inFault && r.fail != 0) then
      let s := (s.updCore r.core fun x => x.dropFaults fun e => e.cmd == some r.id).refillFaults r.core
      (s.endTask c).landTask r r.count (if k.abandon then eCmdAbandoned else r.fail) k.lines k.writesAt
    else if r.inFault then s
    else
      let ps := s.partners c k
      let paused := ps.any (fun p => p.2.away || !s.recRuns p.2.task) || s.groupAway k
      if paused then ps.foldl (fun s p => s.updTask p.1 fun k => { k with paused := true }) s
      else if k.paused then ps.foldl (fun s p => s.updTask p.1 fun k => { k with paused := false }) s
      else if k.kblock < r.task.kb then
        if ps.any fun p => p.2.stop || p.2.abandon || p.2.task.fail != 0 then s
        else (ps.filter fun p => p.2.kblock == k.kblock && decide (p.2.kblock < p.2.task.task.kb)).foldl
          (fun s p => s.kblockStep p.1 p.2) s
      else if k.drained then s
      else s.drainStep c k

def execKilnBoundary (core : Nat) (s : State) : Host.Outcome State Fault Refusal :=
  if coreCount ≤ core then .fault .noSuchUnit else .next (s.kilnBoundary core)

/-- KILN_TASK_COMPLETE: the status word is written and BYTES lands on DONE (R348). -/
def State.kilnComplete (s : State) (c : Nat) : State :=
  match (s.kiln c).task with
  | none => s
  | some k =>
    let r := k.task
    if k.stop || k.abandon || k.paused || r.inFault || r.fail != 0 || decide (k.kblock < r.task.kb)
        || !k.drained then s
    else
      let s := if r.task.stat = 0xFFFFFFFF then s else
        s.updCore r.core fun x => x.updBlock r.block fun b =>
          b.spadWrite r.task.stat (toBytes 4 k.status.toNat)
      (s.endTask c).landTask r r.count 0 k.lines k.writesAt

def execKilnTaskComplete (core : Nat) (s : State) : Host.Outcome State Fault Refusal :=
  if coreCount ≤ core then .fault .noSuchUnit else .next (s.kilnComplete core)

end Sys2Proof.Machine
end

