-- ==== Sys2Proof/Machine/Bellows.lean ====
section
/-! DEFINITION. Matched messages, communicators and collectives (R145, R159 to R162, R354 to R361, R368,
R438). -/

namespace Sys2Proof.Machine

/-! ## Accesses for a context, on the core whatever is resident there -/

/-- The pieces of a range, page by page, through the tables of a root. -/
def State.spanPieces (s : State) (c root block : Nat) (acc : Access) (va : DWord) (n : Nat) :
    EngRes (List Piece) :=
  (pageSpans va n).foldl (fun (r : EngRes (List Piece)) p => r.bind fun ps =>
    match s.translate (some c) (dieOf c) root acc p.1 with
    | .error f => if f.replay then .replay (acc != .read) p.1 f else .fail f.code
    | .ok x =>
      let q : Piece := ⟨x, p.1, p.2⟩
      if 3 ≤ placeClass x.place then .fail ePlaceUnmapped
      else
        match s.unitFault acc q with
        | some e => .fail e
        | none => if s.windowHeld c block q then .wait else .ok (ps ++ [q])) (.ok [])

/-- The bytes of a piece at the die's L2 or at the home port (R193). -/
def State.l2Read (s : State) (c : Nat) (p : Piece) : EngRes (List Byte) :=
  if 2 ≤ placeClass p.x.place then
    match s.pieceFault c p with
    | some e => .fail e
    | none => .ok (s.pieceRead c p)
  else
    let at_ (k : Nat) : Nat := p.x.place + k
    let fault (k : Nat) : Option (BitVec 16) :=
      if p.x.attr.inL2 then s.l2Fault (dieOf c) p.x.attr.scope (at_ k) else s.homeReadFault (at_ k)
    match (List.range p.n).findSome? fault with
    | some e => .fail e
    | none => .ok ((List.range p.n).map fun k =>
        if p.x.attr.inL2 then s.l2Byte (dieOf c) p.x.attr.scope (at_ k) else s.homeByte (at_ k))

/-- Read a source range for a context: the issuer's dirty lines go to the die's L2 first. -/
def State.collRead (s : State) (c root block : Nat) (l : ELoc) (n : Nat) : EngRes (State × List Byte) :=
  match l with
  | .spad o =>
    match s.blockAt c block with
    | none => .fail eOperandBounds
    | some b =>
      if !b.spadOk o n then .fail eOperandBounds
      else if b.spadBad o n then .fail eSpadPoison
      else .ok (s, b.spadRead o n)
  | .glob va =>
    (s.spanPieces c root block .read va n).bind fun ps =>
      let s := s.l1WriteBack c fun k _ => ps.any fun p => p.hasLine k
      ps.foldl (fun (r : EngRes (State × List Byte)) p => r.bind fun t =>
        (t.1.l2Read c p).bind fun bs => .ok (t.1, t.2 ++ bs)) (.ok (s, []))
  | .bad => .fail eOperandBounds

/-- Write a destination range for a context: at the bank, or at the home port of each place. Its answer
has the 128-byte lines that it wrote. -/
def State.collWrite (s : State) (c root block : Nat) (l : ELoc) (bs : List Byte) :
    EngRes (State × List Nat) :=
  match l with
  | .spad o =>
    match s.blockAt c block with
    | none => .fail eOperandBounds
    | some b =>
      if !b.spadOk o bs.length then .fail eOperandBounds
      else .ok (s.updCore c fun x => x.updAnyBlock block fun b => b.spadWrite o bs, [])
  | .glob va =>
    (s.spanPieces c root block .write va bs.length).bind fun ps =>
      match ps.findSome? fun p => if placeClass p.x.place < 2 then s.homeWriteFault p.x.place else none with
      | some e => .fail e
      | none => .ok ((cutBytes ps bs).foldl (fun s q => s.engPut c true q.1 q.2) s, pieceLines ps)
  | .bad => .fail eOperandBounds

/-- The home of a barrier that a context names. -/
def State.collHome (s : State) (c root block : Nat) (l : ELoc) : Except XFail Home :=
  let none_ : XFail := ⟨ePlaceUnmapped, false, 0, 0⟩
  match l with
  | .spad o =>
    match s.blockAt c block with
    | some b => if b.spadOk o 16 then .ok (.spad c block o) else .error none_
    | none => .error none_
  | .glob va =>
    match s.translate (some c) (dieOf c) root .atomic va with
    | .error f => .error f
    | .ok x =>
      match s.homeOfPlace x.place 16, s.homeWriteFault x.place with
      | .ok h, none => .ok h
      | _, _ => .error none_
  | .bad => .error none_

/-- An address field that names a location (R317, R334). -/
def ELoc.word (l : ELoc) : DWord :=
  match l with
  | .spad o => BitVec.ofNat 64 (2 ^ 63 + o)
  | .glob va => va
  | .bad => BitVec.ofNat 64 (2 ^ 63 + 786432)

/-- The update that the barrier of a message or of a command is owed. A barrier whose translation fails replayably takes
an entry of the fault buffer, and the update waits; one that cannot be reached is dropped and counted (R128, R172). The
second part of the answer is what waits. -/
def State.landOwed (s : State) (m : MatchLand) (o : Nat × Nat × BitVec 16) : State × List MatchLand :=
  let e := m.ent
  match s.collHome e.core e.root.toNat e.block (elocOf e.bar) with
  | .ok h => ((s.noteWrites h m.lines none).updateFor none h o.1 o.2.1 o.2.2 (.landing e.core), [])
  | .error f =>
    let x : FaultEnt := ⟨e.bar, 0, 0, 4, e.wave, 0, false, e.ctxid.toNat, some m.id, false⟩
    (s.unreached e.core f x fun s => s, if f.replay then [{ m with owed := some o, inFault := true, err := 0 }] else [])

/-- What waits at the die of a core for its next attempt. -/
def State.keepOwed (r : State × List MatchLand) (c : Nat) : State :=
  r.1.updDie (dieOf c) fun x => { x with landing := x.landing ++ r.2 }

/-! ## Matched messages (R159, R160, R368) -/

def execMatchArm (g : Ctl) (o : ED) (s : State) : Host.Outcome State Fault Refusal :=
  issueFragment s g (locSrcs o.desc ++ auxSrcs o ++ locSrcs o.bar) fun x _ =>
    match (x.barTrap (locOf x o.bar)).or (x.locTrap (locOf x o.desc) 32) with
    | some t => s.raise x t
    | none =>
      if x.spadWaits [] || !x.opRoom .eng then s
      else
        let y := x.addOp .eng 11 [] (.matchArm (locOf x o.desc) (locOf x o.bar).addr (auxOf x o)) []
        s.save (y.done g.sw)

/-- The entry that a MATCH.ARM descriptor fills; none where a field is out of its range. -/
def matchEntry (k : OpCtx) (c : Nat) (ctxid : BitVec 16) (bar : DWord) (aux : Option DWord) (bs : List Byte) :
    Option MatchEnt :=
  let dest := aux.getD (BitVec.ofNat 64 (recNat bs 16 8))
  let len := recNat bs 8 4
  let src := recNat bs 4 2
  if (4096 ≤ src ∧ src ≠ 0xFFFF) ∨ recNat bs 6 2 ≠ 0 ∨ len = 0 ∨ 2 ^ 24 < len ∨ recNat bs 12 4 ≠ 0
      ∨ !canonical dest ∨ recNat bs 24 8 ≠ 0 then none
  else some { tag := BitVec.ofNat 32 (recNat bs 0 4), src := BitVec.ofNat 16 src, len := len, ctxid := ctxid,
              root := BitVec.ofNat 64 k.root, dest := dest, bar := bar, core := c, block := k.b.slot,
              wave := k.w.slot }

/-- A MATCH.ARM leaves the core and fills an entry of its die's table, from its descriptor, which is read once. A fault of
its descriptor is written into its barrier, with its whole count (R334, R336). -/
def State.armMatch (s : State) (c : Nat) (k : OpCtx) (desc : ELoc) (bar : DWord) (aux : Option DWord) :
    State :=
  let w := k.w.slot
  let n := k.o.num
  let ended (s : State) (len : Nat) (code : BitVec 16) : State :=
    (s.landCode c k.b.slot w n bar len code).finishOp c w n
  let read : EngRes (State × List Byte) := match k.o.answer with
    | some bs => .ok (s, bs)
    | none => s.collRead c k.root k.b.slot desc 32
  match read with
  | .wait => s
  | .replay .. => s
  | .fail e =>
    if retryable e && !k.o.retried then s.failOp c w n e desc.addr
    else ended (s.updOp c w n fun o => { o with retried := false }) 0 e
  | .ok (s, bs) =>
    let s := s.updOp c w n fun o => { o with answer := some bs }
    match matchEntry k c ((s.core c).ctxSlot k.b.ctx).ctxid bar aux bs with
    | none => ended s (recNat bs 8 4) eOperandBounds
    | some e =>
      if 256 ≤ (s.die (dieOf c)).arms.length then s.failOp c w n eMatchFull 0
      else (s.updDie (dieOf c) fun x => { x with arms := x.arms ++ [e] }).finishOp c w n

/-- One attempt to land a message that an entry has taken: a failure is retried once, a replayable one takes an
entry of the fault buffer, and a window of a tentative block makes it wait (R128, R160, R200, R228). An entry that
has gone with the wave of its slot is taken anew. What is left of it is the second part of the answer. -/
def State.tryMessage (s : State) (m : MatchLand) : State × List MatchLand :=
  let e := m.ent
  let root := e.root.toNat
  let land (s : State) (code : BitVec 16) (lines : List Nat) : State × List MatchLand :=
    s.landOwed { m with lines := lines } (0, e.len, code)
  if m.inFault && (s.core e.core).anyFault fun f => f.cmd == some m.id then (s, [m])
  else
    match m.owed with
    | some o => if m.err != 0 then (s.countLandingDrop e.core, []) else s.landOwed m o
    | none =>
      if m.err != 0 then land s m.err []
      else
        match s.collWrite e.core root e.block (.glob e.dest) m.data with
        | .ok (t, lines) => land (if m.retried then t.countTransient e.core else t) 0 lines
        | .fail code => if retryable code && !m.retried then (s, [{ m with retried := true }]) else land s code []
        | .wait => (s, [m])
        | .replay w va f =>
          (s.takeFault e.core
            { va := va, entry := f.entry, hnum := 0, kind := if w then 4 else 3, wave := e.wave, level := f.level,
              perm := f.code == eXlatePerm, ctx := e.ctxid.toNat, cmd := some m.id, frame := false },
           [{ m with inFault := true }])

/-- The next attempt to land what has not landed yet at a die. -/
def State.messageLand (s : State) (d : Nat) : State :=
  let ms := (s.die d).landing
  let s := s.updDie d fun x => { x with landing := [] }
  ms.foldl (fun s m =>
    let r := s.tryMessage m
    r.1.updDie d fun x => { x with landing := x.landing ++ r.2 }) s

/-- A message reaches a die: it lands where the oldest armed entry that it matches says, or it is
refused. The answer says whether it was taken. -/
def State.deliver (s : State) (d node : Nat) (tag : Word) (data : List Byte) : State × Bool :=
  let hit (e : MatchEnt) : Bool := e.tag == tag && (e.src == 0xFFFF || e.src.toNat == node)
  match (s.die d).arms.find? hit with
  | none =>
    (s.updDie d fun x => { x with cnt := { x.cnt with matchRefused := satInc x.cnt.matchRefused } }, false)
  | some e =>
    let s := s.updDie d fun x => { x with arms := x.arms.eraseP hit }
    let owed := if data.length = e.len then none else some (0, e.len, eMatchLength)
    let m : MatchLand :=
      { ent := e, data := data, owed := owed, lines := [], id := (s.core e.core).nextCmd, retried := false,
        inFault := false, err := 0 }
    let r := (s.updCore e.core fun x => { x with nextCmd := x.nextCmd + 1 }).tryMessage m
    (r.1.updDie d fun x => { x with landing := x.landing ++ r.2 }, true)

def dieCount : Nat := 8

def execMessageArrival (die node : Nat) (tag : Word) (data : List Byte) (s : State) :
    Host.Outcome State Fault Refusal :=
  if dieCount ≤ die then .fault .noSuchUnit else .next (s.deliver die node tag data).1

/-! ## Issue of communicator commands (R145, R337, R355) -/

def State.comm (s : State) (d i : Nat) : Comm := Map.get (s.die d).comms i Comm.closed
def State.setComm (s : State) (d i : Nat) (k : Comm) : State :=
  s.updDie d fun x => { x with comms := Map.put x.comms i k }
def State.updComm (s : State) (d i : Nat) (f : Comm → Comm) : State := s.setComm d i (f (s.comm d i))

/-- Issue of COMM.OPEN and the COLL commands: they are held until nothing older is open. -/
def issueComm (s : State) (g : Ctl) (o : ED) (op : Nat) : Host.Outcome State Fault Refusal :=
  issueFragment s g (locSrcs o.desc ++ auxSrcs o ++ locSrcs o.bar) fun x _ =>
    match (x.barTrap (locOf x o.bar)).or (x.locTrap (locOf x o.desc) 32) with
    | some t => s.raise x t
    | none =>
      if x.spadWaits [] || !x.opRoom .eng
          || decide (32 ≤ (s.comm (dieOf x.c) o.comm.toNat).queue.length) then s
      else
        let y := x.addOp .eng 6 []
          (.comm o.comm.toNat op o.pri (locOf x o.desc) (locOf x o.bar) (auxOf x o)) []
        s.save (y.done g.sw)

def execCommOpen (g : Ctl) (o : ED) (s : State) : Host.Outcome State Fault Refusal := issueComm s g o 7
def execCollRs (g : Ctl) (o : ED) (s : State) : Host.Outcome State Fault Refusal := issueComm s g o 0
def execCollAg (g : Ctl) (o : ED) (s : State) : Host.Outcome State Fault Refusal := issueComm s g o 1
def execCollAr (g : Ctl) (o : ED) (s : State) : Host.Outcome State Fault Refusal := issueComm s g o 2
def execCollBc (g : Ctl) (o : ED) (s : State) : Host.Outcome State Fault Refusal := issueComm s g o 3
def execCollBar (g : Ctl) (o : ED) (s : State) : Host.Outcome State Fault Refusal := issueComm s g o 4
def execCollSend (g : Ctl) (o : ED) (s : State) : Host.Outcome State Fault Refusal := issueComm s g o 5
def execCollRecv (g : Ctl) (o : ED) (s : State) : Host.Outcome State Fault Refusal := issueComm s g o 6

/-- A new command for the Bellows. -/
def newColl (op c id wave : Nat) (b : Block) (slot : CtxSlot) (pri : Bool) (desc bar : ELoc)
    (aux : Option DWord) : CollCmd :=
  { op := op, core := c, block := b.slot, wave := wave, ctxid := slot.ctxid, root := slot.root, id := id,
    pri := pri, desc := desc, bar := bar, aux := aux, fields := none, sent := false, agreed := false,
    chunks := 0, steps := 0, flits := 0, aside := false, retried := false, stepRetried := false, lines := [],
    message := [], refused := false, inFault := false, err := 0 }

/-- COMM.CLOSE goes to the Bellows when no older operation of its wave is open. -/
def execCommClose (g : Ctl) (o : ED) (s : State) : Host.Outcome State Fault Refusal :=
  issueFragment s g (locSrcs o.bar) fun x _ =>
    match x.barTrap (locOf x o.bar) with
    | some t => s.raise x t
    | none =>
      if x.olderOpen then s
      else
        let k := newColl 8 x.c x.core.nextCmd x.wave.slot x.block (x.core.ctxSlot x.block.ctx) false .bad
          (locOf x o.bar) none
        let s := s.updComm (dieOf x.c) o.comm.toNat fun m => { m with closing := m.closing ++ [k] }
        s.save ({ x with core := { x.core with nextCmd := x.core.nextCmd + 1 } }.done g.sw)

/-- Whether a communicator is open to the context of a command. -/
def Comm.openTo (m : Comm) (k : CollCmd) : Bool := m.isOpen && m.ctxid == k.ctxid

/-- What waits for a command's barrier, as an entry of the matching table would name it. -/
def CollCmd.ent (k : CollCmd) : MatchEnt :=
  { tag := 0, src := 0, len := 0, ctxid := k.ctxid, root := k.root, dest := 0, bar := k.bar.word, core := k.core,
    block := k.block, wave := k.wave }

/-- The arrival of a command that has ended, with its code (R360). -/
def State.collDone (s : State) (k : CollCmd) (code : BitVec 16) : State :=
  let m : MatchLand :=
    { ent := k.ent, data := [], owed := none, lines := k.lines, id := k.id, retried := false, inFault := false, err := 0 }
  State.keepOwed (s.landOwed m (1, 0, code)) k.core

/-- A communicator command leaves its core: it enters the queue, or completes at once where its
communicator is not open to its context and no COMM.OPEN of the context is queued (R355). -/
def State.enterComm (s : State) (c : Nat) (k : OpCtx) (i op : Nat) (pri : Bool) (desc bar : ELoc)
    (aux : Option DWord) : State :=
  let d := dieOf c
  let m := s.comm d i
  if 32 ≤ m.queue.length then s
  else
    let q := newColl op c (s.core c).nextCmd k.w.slot k.b ((s.core c).ctxSlot k.b.ctx) pri desc bar aux
    let s := s.updCore c fun x => { x with nextCmd := x.nextCmd + 1 }
    let s := if op = 7 || m.openTo q || m.queue.any fun p => p.op == 7 && p.ctxid == q.ctxid then
        s.updComm d i fun m => { m with queue := m.queue ++ [q] }
      else s.collDone q eOperandBounds
    s.finishOp c k.w.slot k.o.num

/-! ## Fields of COLL commands (R357, R358, R360) -/

def CollCmd.fld (k : CollCmd) (off n : Nat) : Nat := recNat (k.fields.getD []) off n
def CollCmd.count (k : CollCmd) : Nat := k.fld 16 4
def CollCmd.dtype (k : CollCmd) : BitVec 4 := BitVec.ofNat 4 (k.fld 20 1)
def CollCmd.rop (k : CollCmd) : Nat := k.fld 21 1
def CollCmd.peer (k : CollCmd) : Nat := k.fld 22 2
def CollCmd.matched (k : CollCmd) : Bool := k.op == 5 && (k.fld 28 1).testBit 0
def CollCmd.src (k : CollCmd) : ELoc := elocOf (BitVec.ofNat 64 (k.fld 0 8))
def CollCmd.dstWord (k : CollCmd) : DWord := k.aux.getD (BitVec.ofNat 64 (k.fld 8 8))
def CollCmd.dst (k : CollCmd) : ELoc := elocOf k.dstWord
/-- Bytes of one element. -/
def CollCmd.esz (k : CollCmd) : Nat := fmtBits k.dtype / 8
def CollCmd.reduces (k : CollCmd) : Bool := k.op == 0 || k.op == 2
/-- COUNT elements in bytes. -/
def CollCmd.part (k : CollCmd) : Nat := k.count * k.esz

/-- The bytes of the operation at one member. -/
def CollCmd.total (k : CollCmd) (nr : Nat) : Nat :=
  match k.op with
  | 4 => 0
  | 1 => nr * k.part
  | _ => k.part

/-- D: the local destination bytes. R357 says that a DST of 0 is none, and R358 allows it at the PEER of a COLL.BC; in
every other command the model takes it for a D of 0 too, and no fault (DESIGN CHOICE, log 91). -/
def CollCmd.destBytes (k : CollCmd) (nr : Nat) : Nat :=
  if k.op = 4 ∨ k.op = 5 ∨ k.dstWord = 0 then 0 else k.total nr

def Comm.nr (m : Comm) : Nat := m.members.length
def Comm.stepCount (m : Comm) (k : CollCmd) : Nat := max 1 ((k.destBytes m.nr + m.chunk - 1) / max 1 m.chunk)
def Comm.chunkCount (m : Comm) (k : CollCmd) : Nat := max 1 ((k.total m.nr + m.chunk - 1) / max 1 m.chunk)

/-- The bytes of SRC that a member reads. -/
def Comm.srcBytes (m : Comm) (k : CollCmd) : Nat :=
  match k.op with
  | 0 => m.nr * k.part
  | 3 => if k.peer = m.rank then k.part else 0
  | 4 => 0
  | 6 => 0
  | _ => k.part

/-- Whether DTYPE and ROP suit the command. -/
def CollCmd.typeOk (k : CollCmd) : Bool :=
  if k.reduces then
    decide (k.rop ≤ 2) && decide (k.fld 20 1 ≤ 15)
      && (k.dtype == 0 || k.dtype == 1 || k.dtype == 2 || k.dtype == 3 || k.dtype == 14 || k.dtype == 15)
  else k.op == 4 || (decide (k.fld 20 1 ≤ 15) && fmtBits k.dtype % 8 == 0)

/-- Whether a descriptor is without fault (R336, R357). -/
def State.collOk (s : State) (m : Comm) (k : CollCmd) : Bool :=
  let fits (l : ELoc) (n : Nat) : Bool :=
    match l with
    | .spad o => n == 0 || (match s.blockAt k.core k.block with
      | some b => b.spadOk o n
      | none => false)
    | .glob _ => true
    | .bad => false
  decide (k.count ≤ 2 ^ 28) && k.typeOk && k.fld 29 3 == 0
    && decide (k.fld 28 1 ≤ if k.op = 5 then 1 else 0)
    && (!(k.op == 3 || k.op == 5 || k.op == 6) || decide (k.peer < m.nr))
    && k.src != .bad && (k.dstWord == 0 || k.dst != .bad)
    && fits k.src (m.srcBytes k) && (k.destBytes m.nr == 0 || fits k.dst (k.destBytes m.nr))

/-! ## Ends of commands (R162, R356, R360) -/

/-- The parts of a release-table entry: barrier, step, mask of commands, kind, count (R161). -/
def relBar (e : List Byte) : DWord := BitVec.ofNat 64 (recNat e 0 8)
def relStep (e : List Byte) : Nat := recNat e 8 2
def relNames (e : List Byte) (op : Nat) : Bool := (recNat e 10 1).testBit op

/-- One release-table entry is applied; a barrier that cannot be reached is skipped and counted. -/
def State.applyRel (s : State) (k : CollCmd) (e : List Byte) (lines : List Nat) : State :=
  match s.collHome k.core k.root.toNat k.block (.glob (relBar e)) with
  | .error _ => s.countDropped (.release (dieOf k.core))
  | .ok h =>
    let n := recNat e 12 4
    let a := if recNat e 11 1 = 0 then n else 0
    (s.noteWrites h lines none).updateFor none h a (n - a) 0 (.release (dieOf k.core))

/-- The entries of a completed step, in entry order. -/
def State.applyStep (s : State) (m : Comm) (k : CollCmd) (step : Nat) (lines : List Nat) : State :=
  let last := decide (step + 1 = m.stepCount k)
  (m.rel.filter fun e => relNames e k.op
    && (relStep e == step && relStep e != 0xFFFF || last && relStep e == 0xFFFF)).foldl
    (fun s e => s.applyRel k e lines) s

/-- Insert by step, after the entries of the same step. -/
def insertRel (l : List (List Byte)) (e : List Byte) : List (List Byte) :=
  l.takeWhile (fun x => decide (relStep x ≤ relStep e)) ++ e :: l.dropWhile fun x => decide (relStep x ≤ relStep e)

/-- The entries of the steps that will never complete, in step order, those of the last step last. -/
def State.applyRest (s : State) (m : Comm) (k : CollCmd) : State :=
  if m.stepCount k ≤ k.steps then s
  else
    ((m.rel.filter fun e => relNames e k.op && decide (k.steps ≤ relStep e)
      && (relStep e == 0xFFFF || decide (relStep e < m.stepCount k))).foldl insertRel []).foldl
      (fun s e => s.applyRel k e []) s

/-- The head command leaves the queue with a code: after an error the entries of the steps that are left
are applied; its barrier receives one arrival. -/
def State.endColl (s : State) (d i : Nat) (k : CollCmd) (code : BitVec 16) : State :=
  let m := s.comm d i
  let s := if code = 0 then s else s.applyRest m k
  let s := s.updComm d i fun m =>
    { m with queue := m.queue.drop 1, doneCount := m.doneCount + 1,
             firstErr := if m.firstErr = 0 then code else m.firstErr,
             heads := m.heads.filter fun h => h.num != m.doneCount,
             data := m.data.filter fun h => h.num != m.doneCount }
  s.collDone k code

def State.updHead (s : State) (d i : Nat) (f : CollCmd → CollCmd) : State :=
  s.updComm d i fun m => { m with queue := updAt m.queue 0 f }

/-- The retry that a command has left: that of its chunk, or of its step (R228). -/
def CollCmd.tried (k : CollCmd) (step : Bool) : Bool := if step then k.stepRetried else k.retried
def CollCmd.try (k : CollCmd) (step b : Bool) : CollCmd :=
  if step then { k with stepRetried := b } else { k with retried := b }

/-- What follows an access of the head command, for its chunk or for its step: a failure is retried once where R228 says
so, and a replayable one takes an entry. -/
def State.collGo (s : State) (d i : Nat) (k : CollCmd) (step : Bool) (r : EngRes α) (fail : BitVec 16 → State)
    (go : α → State) : State :=
  match r with
  | .ok x => go x
  | .wait => s
  | .fail e =>
    if retryable e && !k.tried step then s.updHead d i fun k => k.try step true else fail e
  | .replay w va f =>
    (s.takeFault k.core
      { va := va, entry := f.entry, hnum := 0, kind := if w then 4 else 3, wave := k.wave, level := f.level,
        perm := f.code == eXlatePerm, ctx := k.ctxid.toNat, cmd := some k.id, frame := false }).updHead d i
      fun k => { k with inFault := true }

/-- An access that a retry has made good is counted. -/
def State.collGood (s : State) (d i : Nat) (k : CollCmd) (step : Bool) : State :=
  if k.tried step then (s.countTransient k.core).updHead d i fun k => k.try step false else s

/-! ## Opening and closing (R354, R355) -/

/-- The member that an entry names; none where its upper bits are set. -/
def memberOf (v : Nat) : Option (Nat × Nat) :=
  if v / 2 ^ 15 ≠ 0 then none else some (v % 4096, v / 4096)

/-- Whether a release table entry is well formed. -/
def relOk (e : List Byte) : Bool :=
  (relBar e).toNat % 16 == 0 && decide (recNat e 10 1 < 128) && decide (recNat e 11 1 ≤ 1)
    && (recNat e 11 1 == 1 || (decide (1 ≤ recNat e 12 4) && decide (recNat e 12 4 ≤ 65535)))

/-- Whether the fixed fields of an open descriptor are in range. -/
def CollCmd.openOk (k : CollCmd) : Bool :=
  let nr := k.fld 16 2
  let chunk := k.fld 24 4
  decide (1 ≤ nr) && decide (nr ≤ 4096) && decide (k.fld 18 2 < nr) && decide (k.fld 20 1 ≤ 64)
    && k.fld 21 3 == 0 && chunk % 256 == 0 && decide (4096 ≤ chunk) && decide (chunk ≤ 1048576)
    && k.fld 28 4 == 0 && canonical (BitVec.ofNat 64 (k.fld 0 8))
    && (if k.fld 20 1 = 0 then k.fld 8 8 == 0 else canonical (BitVec.ofNat 64 (k.fld 8 8)))

/-- The communicator that an open makes of its tables. -/
def State.opened (s : State) (d : Nat) (m : Comm) (k : CollCmd) (mem rel : List Byte) : Option Comm :=
  let nr := k.fld 16 2
  let ms := (List.range nr).map fun j => memberOf (recNat mem (4 * j) 4)
  let rs := (List.range (k.fld 20 1)).map fun j => (rel.drop (16 * j)).take 16
  let members := ms.filterMap id
  if ms.any Option.isNone || members.eraseDups.length ≠ nr
      || members[k.fld 18 2]? ≠ some (s.host.nodeid.toNat, d) || !rs.all relOk then none
  else some { m with
    isOpen := true, ctxid := k.ctxid, root := k.root, hipri := k.pri, members := members, rank := k.fld 18 2,
    rel := rs, chunk := k.fld 24 4, heads := [], data := [], doneCount := 0, firstErr := 0 }

/-- An open leaves the queue and arrives on its barrier. -/
def State.endOpen (s : State) (d i : Nat) (k : CollCmd) (code : BitVec 16) : State :=
  (s.updComm d i fun m => { m with queue := m.queue.drop 1 }).collDone k code

/-- COMM_OPEN_APPLY: the open at the head of a queue is checked and takes effect. Its descriptor is read once (R334). -/
def State.commOpenApply (s : State) (d i : Nat) : State :=
  let m := s.comm d i
  match m.queue.head? with
  | none => s
  | some k =>
    if k.op ≠ 7 || k.inFault then s
    else if k.err != 0 then s.endOpen d i k k.err
    else if m.isOpen then s.endOpen d i k eOperandBounds
    else
      let root := k.root.toNat
      let fail (e : BitVec 16) : State := s.endOpen d i k e
      let desc : EngRes (State × List Byte) := match k.fields with
        | some bs => .ok (s, bs)
        | none => s.collRead k.core root k.block k.desc 32
      s.collGo d i k false desc fail fun t =>
        let good := k.fields.isNone && k.retried
        let s := (if good then t.1.collGood d i k false else t.1).updHead d i fun k => { k with fields := some t.2 }
        let k := { k with fields := some t.2, retried := k.retried && !good }
        if !k.openOk then s.endOpen d i k eOperandBounds
        else
          s.collGo d i k false (s.collRead k.core root k.block (.glob (BitVec.ofNat 64 (k.fld 0 8))) (4 * k.fld 16 2)) fail
            fun t => s.collGo d i k false
              (t.1.collRead k.core root k.block (.glob (BitVec.ofNat 64 (k.fld 8 8))) (16 * k.fld 20 1)) fail fun u =>
              let s := (u.1).collGood d i k false
              match s.opened d (s.comm d i) k t.2 u.2 with
              | none => s.endOpen d i k eOperandBounds
              | some m => (s.setComm d i m).endOpen d i k 0

def commCount : Nat := 16

def execCommOpenApply (die comm : Nat) (s : State) : Host.Outcome State Fault Refusal :=
  if dieCount ≤ die ∨ commCount ≤ comm then .fault .noSuchUnit else .next (s.commOpenApply die comm)

/-- Whether a context is still known: resident, saved, or of an active launch. -/
def State.ctxAlive (s : State) (ctxid : BitVec 16) : Bool :=
  (s.cores.any fun e => e.2.ctxs.any fun k => k.used && k.ctxid == ctxid)
    || s.saved.any (fun k => k.ctxid == ctxid)

/-- COMM_CLOSE_APPLY: the oldest close takes effect once its communicator's queue is empty; a
communicator whose context has ended is closed too. An open of its own context that is still queued comes first. -/
def State.commCloseApply (s : State) (d i : Nat) : State :=
  let m := s.comm d i
  match m.closing with
  | k :: r =>
    if m.queue.any fun q => q.op == 7 && q.ctxid == k.ctxid then s
    else if !m.openTo k then (s.setComm d i { m with closing := r }).collDone k eOperandBounds
    else if m.queue.isEmpty then (s.setComm d i { Comm.closed with closing := r }).collDone k 0
    else s
  | [] =>
    if m.isOpen && m.queue.isEmpty && !s.ctxAlive m.ctxid then s.setComm d i Comm.closed else s

def execCommCloseApply (die comm : Nat) (s : State) : Host.Outcome State Fault Refusal :=
  if dieCount ≤ die ∨ commCount ≤ comm then .fault .noSuchUnit else .next (s.commCloseApply die comm)

/-! ## Headers (R359) -/

def CollCmd.header (k : CollCmd) (faulty : Bool) : CollHeader :=
  { cmd := k.op, count := k.count, dtype := BitVec.ofNat 8 (k.fld 20 1), rop := BitVec.ofNat 8 k.rop,
    peer := k.peer, faulty := faulty }

/-- The ranks with which a command exchanges headers. -/
def Comm.parties (m : Comm) (k : CollCmd) : List Nat :=
  if k.op = 5 ∨ k.op = 6 then (if k.matched then [] else [k.peer])
  else (List.range m.nr).filter fun q => q != m.rank

/-- The ranks that the header of a command goes to. A faulty COLL.SEND or COLL.RECV that names no rank sends its header
to every other one: whichever of them names it as the peer is its partner (R359; DEDUCED, log 92). -/
def Comm.headerTo (m : Comm) (k : CollCmd) (faulty : Bool) : List Nat :=
  if faulty && (k.fields == some [] || decide (m.nr ≤ k.peer)) && !k.matched then
    (List.range m.nr).filter fun q => q != m.rank
  else m.parties k

/-- The die of a rank of the own node. -/
def State.ownRank (s : State) (m : Comm) (q : Nat) : Option Nat :=
  match m.members[q]? with
  | some (n, d) => if n = s.host.nodeid.toNat then some d else none
  | none => none

/-- The dies of the own node among some ranks. -/
def State.ownDies (s : State) (m : Comm) (qs : List Nat) : List Nat := qs.filterMap (s.ownRank m)

/-- A header goes to the parties of the own node, once their communicators are open. -/
def State.sendHeader (s : State) (d i : Nat) (m : Comm) (k : CollCmd) (faulty : Bool) : Option State :=
  let ds := s.ownDies m (m.headerTo k faulty)
  if !ds.all fun e => (s.comm e i).isOpen then none
  else
    let h : CollHead := ⟨m.doneCount, m.rank, k.header faulty⟩
    some ((ds.foldl (fun s e => s.updComm e i fun q => { q with heads := q.heads ++ [h] }) s).updHead d i
      fun k => { k with sent := true })

/-- The header of a party: received from the own node, or given by the outside. -/
def State.headerOf (s : State) (m : Comm) (others : List (Nat × CollHeader)) (q : Nat) : Option CollHeader :=
  match s.ownRank m q with
  | some _ => (m.heads.find? fun h => h.num == m.doneCount && h.rank == q).map fun h => h.head
  | none => (others.find? fun e => e.1 == q).map fun e => e.2

/-- The verdict of a comparison: 0 where the headers agree. -/
def Comm.verdict (m : Comm) (k : CollCmd) (hs : List CollHeader) : BitVec 16 :=
  let own := k.header false
  if k.op = 5 ∨ k.op = 6 then
    match hs with
    | h :: _ =>
      if h.faulty || h.cmd + k.op ≠ 11 || h.peer ≠ m.rank then eGroupMismatch
      else if h.count * (fmtBits (h.dtype.setWidth 4) / 8) ≠ k.part then eMatchLength
      else 0
    | [] => 0
  else if hs.all fun h => h == own then 0 else eGroupMismatch

/-- BELLOWS_HEADER_EXCHANGE: the command at the head of a queue reads its descriptor, sends its header,
and compares the headers of its parties once it has them all. -/
def State.headerExchange (s : State) (d i : Nat) (others : List (Nat × CollHeader)) : State :=
  let m := s.comm d i
  match m.queue.head? with
  | none => s
  | some k =>
    if k.op = 7 || k.inFault || k.agreed then s
    else if !m.openTo k then
      (s.updComm d i fun m => { m with queue := m.queue.drop 1 }).collDone k eOperandBounds
    else if k.fields.isNone then
      if k.err != 0 then
        match s.sendHeader d i m { k with fields := some [] } true with
        | some t => t.endColl d i k k.err
        | none => s
      else
        s.collGo d i k false (s.collRead k.core k.root.toNat k.block k.desc 32)
          (fun e => s.updHead d i fun k => { k with err := e })
          fun t => (t.1.collGood d i k false).updHead d i fun k => { k with fields := some t.2 }
    else if !k.sent then
      let bad := !s.collOk m k
      match s.sendHeader d i m k bad with
      | none => s
      | some t => if bad then t.endColl d i k eOperandBounds else t
    else
      let hs := (m.parties k).map (s.headerOf m others)
      if hs.any Option.isNone then s
      else
        let v := m.verdict k (hs.filterMap id)
        if v = 0 then s.updHead d i fun k => { k with agreed := true } else s.endColl d i k v

def execBellowsHeaderExchange (die comm : Nat) (others : List (Nat × CollHeader)) (s : State) :
    Host.Outcome State Fault Refusal :=
  if dieCount ≤ die ∨ commCount ≤ comm then .fault .noSuchUnit else .next (s.headerExchange die comm others)

/-! ## Chunks (R145, R438) -/

/-- The bytes [lo, hi) of the operation that a step covers. -/
def Comm.stepRange (m : Comm) (k : CollCmd) (step : Nat) : Nat × Nat :=
  (step * m.chunk, min ((step + 1) * m.chunk) (k.total m.nr))

/-- Where the bytes start, in SRC, that a member has for rank q. -/
def CollCmd.base (k : CollCmd) (q : Nat) : Nat := if k.op = 0 then q * k.part else 0

/-- The part that a step's range has of the block that rank q contributes to the destination: its offset in what q has
for this member, and its size. -/
def Comm.partOf (m : Comm) (k : CollCmd) (q step : Nat) : Nat × Nat :=
  let r := m.stepRange k step
  if k.op = 1 then
    let lo := max r.1 (q * k.part)
    (lo - q * k.part, min r.2 ((q + 1) * k.part) - lo)
  else (r.1, r.2 - r.1)

/-- The offset and the number of the bytes that a member sends to each other rank for a chunk, in what it has for that
rank. -/
def Comm.sends (m : Comm) (k : CollCmd) (step : Nat) : Nat × Nat :=
  match k.op with
  | 3 => if k.peer = m.rank then m.partOf k m.rank step else (0, 0)
  | 4 => (0, 0)
  | 6 => (0, 0)
  | _ => m.partOf k m.rank step

/-- Whether a chunk of the command sends anything to rank q. -/
def Comm.sendsTo (m : Comm) (k : CollCmd) (q : Nat) : Bool :=
  match k.op with
  | 3 => k.peer == m.rank && q != m.rank
  | 5 => q == k.peer
  | 6 => false
  | _ => q != m.rank

/-- Whether a communicator has work ready, where `short` says that its virtual channel has no credit now: a chunk
that is set aside waits for some (R438). The data of a command moves once its headers agree; COLL.BAR has none
(R359). -/
def Comm.workReady (m : Comm) (short : Bool) : Bool :=
  match m.queue.head? with
  | none => false
  | some k =>
    (k.agreed || (k.op == 4 && k.sent)) && !k.inFault && decide (k.chunks < m.chunkCount k)
      && !(k.aside && short)

/-- The flits that the virtual channel of a communicator still takes; none where no bound is known. -/
def Die.flits (x : Die) (i : Nat) : Option Nat := Map.find x.credit i

/-- The communicators in the order in which a class takes its turns after one. -/
def turnsAfter (i : Nat) : List Nat := (List.range commCount).map fun j => (i + 1 + j) % commCount

/-- The communicators with work ready in the order of the choice of R145: the high class first, and round-robin
within a class. -/
def Die.turns (x : Die) : List Nat :=
  let ready (hi : Bool) (i : Nat) : Bool :=
    let m := Map.get x.comms i Comm.closed
    m.workReady (x.flits i == some 0) && m.hipri == hi
  (turnsAfter x.rrHigh).filter (ready true) ++ (turnsAfter x.rrLow).filter (ready false)

/-- The payload of a flit (R404), and how many flits n bytes of a message take; an arrival takes one. -/
def flitBytes : Nat := 224
def flitCount (n : Nat) : Nat := max 1 ((n + flitBytes - 1) / flitBytes)

/-- Bytes of a chunk for a rank: an offset in what the member has for it, and a size. -/
structure Sends where
  rank : Nat
  off : Nat
  n : Nat
  deriving DecidableEq, Repr

/-- What of a chunk goes in one turn: its flits, the credit that they leave, and whether the chunk has gone whole. -/
structure Turn where
  parts : List Sends
  flits : Nat
  credit : Option Nat
  whole : Bool
  deriving DecidableEq, Repr

/-- What goes of the messages of a chunk after some of its flits, as far as the credit reaches. The own node takes what it
is sent without any (R361, R438 item 5; DESIGN CHOICE, log 76). -/
def turnOf (own : Nat → Bool) (skip : Nat) (credit : Option Nat) (ms : List Sends) : Turn :=
  match ms with
  | [] => ⟨[], 0, credit, true⟩
  | p :: r =>
    if flitCount p.n ≤ skip then turnOf own (skip - flitCount p.n) credit r
    else
      let left := flitCount p.n - skip
      let may := if own p.rank then left else min left (credit.getD left)
      let q : Sends := ⟨p.rank, p.off + flitBytes * skip, min (p.n - flitBytes * skip) (flitBytes * may)⟩
      if may < left then ⟨if may = 0 then [] else [q], may, credit.map fun _ => 0, false⟩
      else
        let t := turnOf own 0 (if own p.rank then credit else credit.map fun c => c - left) r
        { t with parts := q :: t.parts, flits := left + t.flits }

/-- The messages of the next chunk of a command, in the order of the ranks. -/
def Comm.chunkMsgs (m : Comm) (k : CollCmd) : List Sends :=
  let e := m.sends k k.chunks
  ((List.range m.nr).filter (m.sendsTo k)).map fun q => ⟨q, e.1, e.2⟩

/-- What goes now of the next chunk of a command. -/
def State.chunkTurn (s : State) (d i : Nat) (m : Comm) (k : CollCmd) : Turn :=
  turnOf (fun q => (s.ownRank m q).isSome) k.flits ((s.die d).flits i) (m.chunkMsgs k)

/-- The bytes of what goes, after the issuer's dirty lines have gone to the L2. -/
def State.turnBytes (s : State) (k : CollCmd) (ps : List Sends) : EngRes (State × List (Nat × List Byte)) :=
  ps.foldl (fun (r : EngRes (State × List (Nat × List Byte))) p => r.bind fun t =>
    if p.n = 0 then .ok (t.1, t.2 ++ [(p.rank, [])])
    else (t.1.collRead k.core k.root.toNat k.block (k.src.plus (k.base p.rank + p.off)) p.n).bind fun u =>
      .ok (u.1, t.2 ++ [(p.rank, u.2)])) (.ok (s, []))

/-- Whether a chunk waits for the window of a tentative block: the others do not wait with it. -/
def State.chunkWaits (s : State) (d i : Nat) : Bool :=
  let m := s.comm d i
  match m.queue.head? with
  | none => false
  | some k => k.err == 0 && match s.turnBytes k (s.chunkTurn d i m k).parts with
    | .wait => true
    | _ => false

/-- The communicator that the choice of R145 takes. -/
def State.nextComm (s : State) (d : Nat) : Option Nat := (s.die d).turns.find? fun i => !s.chunkWaits d i

/-- A communicator of a class has had its turn. -/
def Die.turned (x : Die) (hi : Bool) (i : Nat) : Die := if hi then { x with rrHigh := i } else { x with rrLow := i }

/-- A communicator's credit after a turn. -/
def Die.spent (x : Die) (i : Nat) (credit : Option Nat) : Die :=
  match credit with
  | some n => { x with credit := Map.put x.credit i n }
  | none => x

/-- Bytes go to the member of the own node that they are for; what a matched COLL.SEND sends is one message (R359). -/
def State.sendData (s : State) (d i : Nat) (m : Comm) (k : CollCmd) (q : Nat) (bs : List Byte) : State :=
  if k.matched then s.updHead d i fun k => { k with message := k.message ++ bs }
  else
    match s.ownRank m q with
    | some f => s.updComm f i fun r => if r.isOpen then { r with data := r.data ++ [⟨m.doneCount, m.rank, bs⟩] } else r
    | none => s

/-- A command after a turn of its chunk: the chunk has ended, or it is set aside with part of it sent (R438 items 3 and
5). -/
def CollCmd.afterTurn (k : CollCmd) (t : Turn) : CollCmd :=
  if t.whole then { k with chunks := k.chunks + 1, flits := 0, aside := false }
  else { k with flits := k.flits + t.flits, aside := true }

/-- BELLOWS_CHUNK: one chunk of a ready communicator runs; it sends its bytes to the parties of the own
node, and to the outside. A chunk whose virtual channel runs out of credit is set aside (R438 item 5; DESIGN CHOICE,
log 76). -/
def State.bellowsChunk (s : State) (d : Nat) : State :=
  match s.nextComm d with
  | none => s
  | some i =>
    let m := s.comm d i
    let s := s.updDie d fun x => x.turned m.hipri i
    match m.queue.head? with
    | none => s
    | some k =>
      if k.err != 0 then s.endColl d i k k.err
      else
        let t := s.chunkTurn d i m k
        s.collGo d i k false (s.turnBytes k t.parts) (fun e => s.endColl d i k e) fun u =>
          let s := u.2.foldl (fun s e => s.sendData d i m k e.1 e.2) (u.1.collGood d i k false)
          (s.updDie d fun x => x.spent i t.credit).updHead d i fun k => k.afterTurn t

def execBellowsChunk (die : Nat) (s : State) : Host.Outcome State Fault Refusal :=
  if dieCount ≤ die then .fault .noSuchUnit else .next (s.bellowsChunk die)

/-! ## Steps (R290, R358, R360) -/

/-- What a communicator has received from a rank for its command, in the order in which it was sent. -/
def Comm.received (m : Comm) (q : Nat) : List Byte :=
  (m.data.filter fun x => x.num == m.doneCount && x.rank == q).flatMap fun x => x.bytes

/-- What rank q contributes to a step: the own part of SRC, what the own node has received, whatever the CHUNK of its
sender, or what the outside gives (R358). -/
def State.contribution (s : State) (m : Comm) (k : CollCmd) (others : List (Nat × List Byte)) (q : Nat) :
    EngRes (List Byte) :=
  let e := m.partOf k q k.steps
  if e.2 = 0 then .ok []
  else if q = m.rank then
    (s.collRead k.core k.root.toNat k.block (k.src.plus (k.base q + e.1)) e.2).bind fun t => .ok t.2
  else
    match s.ownRank m q with
    | some _ => if e.1 + e.2 ≤ (m.received q).length then .ok (((m.received q).drop e.1).take e.2) else .wait
    | none =>
      match others.find? fun e => e.1 == q with
      | some bs => .ok bs.2
      | none => .wait

/-- The reduction of one element over the ranks (R290, R358). -/
def CollCmd.reduce (k : CollCmd) (vals : List Nat) : Nat :=
  match treeOver k.rop k.dtype (Nat.log2 (2 * vals.length - 1)) (vals.map fun v => some (v, 0)) with
  | some (v, _) => v
  | none => 0

/-- The destination bytes of a step from every rank's contribution. -/
def Comm.stepBytes (m : Comm) (k : CollCmd) (parts : List (List Byte)) : List Byte :=
  let r := m.stepRange k k.steps
  let e := k.esz
  if k.reduces then
    (List.range ((r.2 - r.1) / e)).flatMap fun t => toBytes e (k.reduce (parts.map fun p => recNat p (t * e) e))
  else parts.flatten

/-- The ranks whose contributions a step needs. -/
def Comm.sources (m : Comm) (k : CollCmd) : List Nat :=
  match k.op with
  | 3 => [k.peer]
  | 6 => [k.peer]
  | _ => List.range m.nr

/-- Whether the step without destination bytes of a command may complete: its data is sent and accepted,
or the last arrival of a barrier is there. -/
def State.emptyStep (s : State) (m : Comm) (k : CollCmd) (others : List (Nat × List Byte)) : Bool :=
  let accepted (q : Nat) : Bool := (s.ownRank m q).isSome || others.any fun e => e.1 == q
  if k.op = 4 then
    ((List.range m.nr).filter fun q => q != m.rank).all fun q =>
      if (s.ownRank m q).isSome then m.data.any fun x => x.num == m.doneCount && x.rank == q
      else others.any fun e => e.1 == q
  else
    decide (m.chunkCount k ≤ k.chunks)
      && (!((k.op == 5 && !k.matched) || (k.op == 3 && k.peer == m.rank))
          || ((List.range m.nr).filter (m.sendsTo k)).all accepted)

/-- A matched message that has been sent is offered at the die of its peer; the answer says whether it was taken, where it
is known. -/
def State.offer (s : State) (m : Comm) (k : CollCmd) (others : List (Nat × List Byte)) : Option (State × Bool) :=
  match s.ownRank m k.peer with
  | none => (others.find? fun e => e.1 == k.peer).map fun e => (s, e.2.isEmpty)
  | some f => some (s.deliver f s.host.nodeid.toNat (BitVec.ofNat 32 (k.fld 24 4)) k.message)

/-- A matched COLL.SEND whose message was refused sends it once more (R160, R228). -/
def CollCmd.again (k : CollCmd) : CollCmd := { k with refused := true, chunks := 0, flits := 0, message := [] }

/-- Whether a step may write its destination bytes: a reduction combines what has arrived, whether the local chunk has
run or not; in the other commands the step's own chunk writes them (R438 item 1). -/
def CollCmd.mayWrite (k : CollCmd) : Bool := k.reduces || decide (k.steps < k.chunks)

/-- A step is complete: the release table is applied to it. -/
def State.stepDone (s : State) (d i : Nat) (lines : List Nat) : State :=
  let m := s.comm d i
  match m.queue.head? with
  | none => s
  | some k =>
    (s.applyStep m k k.steps lines).updHead d i fun k =>
      { k with steps := k.steps + 1, lines := (k.lines ++ lines).eraseDups }

/-- BELLOWS_STEP_COMPLETE: the next step of the command at the head of a queue, or, after the last step
and the last chunk, its end. -/
def State.bellowsStep (s : State) (d i : Nat) (others : List (Nat × List Byte)) : State :=
  let m := s.comm d i
  match m.queue.head? with
  | none => s
  | some k =>
    if !k.agreed || k.inFault then s
    else if k.err != 0 then s.endColl d i k k.err
    else if m.stepCount k ≤ k.steps then
      if m.chunkCount k ≤ k.chunks then s.endColl d i k 0 else s
    else
      let fail (e : BitVec 16) : State := s.endColl d i k e
      if k.destBytes m.nr = 0 then
        if !s.emptyStep m k others then s
        else if k.matched then
          match s.offer m k others with
          | none => s
          | some t =>
            if t.2 then (if k.refused then t.1.countTransient k.core else t.1).stepDone d i []
            else if k.refused then t.1.endColl d i k eMatchNone
            else t.1.updHead d i CollCmd.again
        else s.stepDone d i []
      else if !k.mayWrite then s
      else
        let parts := (m.sources k).foldl (fun (r : EngRes (List (List Byte))) q => r.bind fun l =>
          (s.contribution m k others q).bind fun bs => .ok (l ++ [bs])) (.ok [])
        s.collGo d i k true (parts.bind fun l =>
            s.collWrite k.core k.root.toNat k.block (k.dst.plus (m.stepRange k k.steps).1) (m.stepBytes k l))
          fail fun t => (t.1.collGood d i k true).stepDone d i t.2

def execBellowsStepComplete (die comm : Nat) (others : List (Nat × List Byte)) (s : State) :
    Host.Outcome State Fault Refusal :=
  if dieCount ≤ die ∨ commCount ≤ comm then .fault .noSuchUnit else .next (s.bellowsStep die comm others)

/-- BELLOWS_TIMEOUT: the command at the head of a queue has received no flit that it needs for 100 ms, be it a
header of a party that has not opened its communicator (R361). A code recorded before it is kept. -/
def State.bellowsTimeout (s : State) (d i : Nat) : State :=
  let m := s.comm d i
  match m.queue.head? with
  | none => s
  | some k =>
    if k.op = 7 || !m.openTo k || k.inFault || (k.fields.isSome && decide (m.stepCount k ≤ k.steps)) then s
    else s.endColl d i k (if k.err != 0 then k.err else if k.fields.isSome && !s.collOk m k then eOperandBounds
      else eFlueLink)

def execBellowsTimeout (die comm : Nat) (s : State) : Host.Outcome State Fault Refusal :=
  if dieCount ≤ die ∨ commCount ≤ comm then .fault .noSuchUnit else .next (s.bellowsTimeout die comm)

end Sys2Proof.Machine
end

