-- ==== Sys2Proof/Machine/Fetch.lean ====
section
/-! DEFINITION. Fetching instruction lines and words (R110 to R112), and what holds a fragment's next
word: parks, header waits, interlocks, the fault buffer (R18, R20, R93, R128, R223). -/

namespace Sys2Proof.Machine

/-! ## Instruction lines (R110) -/

/-- The instruction caches know a line by its place, 128 bytes to a line. -/
def lineOf (p : Nat) : Nat := placeKey p / 128

/-- The place of a line of the module's own node. -/
def State.linePlace (s : State) (n : Nat) : Nat := s.host.nodeid.toNat * 2 ^ 48 + 128 * n

/-- The bytes of a line as the L2 of a die gives them to a mapping of a scope. -/
def State.lineBytes (s : State) (d : Nat) (scope : BitVec 3) (n : Nat) : List Byte :=
  (List.range 128).map fun k => s.l2Byte d scope (s.linePlace n + k)

/-- Whether some sector of a line cannot be read through the L2 of a die. -/
def State.lineFault (s : State) (d : Nat) (scope : BitVec 3) (n : Nat) : Option (BitVec 16) :=
  (List.range 4).foldl (fun f k => f.or (s.l2Fault d scope (s.linePlace n + 32 * k))) none

/-- The line that a core's fetch finds in the L0 or in the cluster's cache. -/
def State.cachedLine (s : State) (c n : Nat) : Option ILine :=
  (Map.find (s.core c).l0 n) <|> (Map.find (s.cluster (clusterOf c)).icache n)

/-- Keep a line in a map of lines, with the pins it has there. -/
def keepLine (m : Map ILine) (n : Nat) (bs : List Byte) : Map ILine :=
  match Map.find m n with
  | some _ => m
  | none => Map.put m n { data := bs, pins := 0 }

/-- Fill a line into the cluster's cache, and into the L0 where `l0` holds (R111 item 1). What the L2 keeps of
it has the scope of the page through which it is fetched (R190). -/
def State.fillLine (s : State) (c n : Nat) (scope : BitVec 3) (l0 : Bool) : State :=
  let bs := match s.cachedLine c n with
    | some l => l.data
    | none => s.lineBytes (dieOf c) scope n
  let s := match s.cachedLine c n with
    | some _ => s
    | none => s.fillL2 (dieOf c) scope ((List.range 4).map fun k => s.linePlace n + 32 * k)
  let s := s.updCluster (clusterOf c) fun k => { k with icache := keepLine k.icache n bs }
  if l0 then s.updCore c fun x => { x with l0 := keepLine x.l0 n bs } else s

/-- The line that holds a virtual address, for a fetch: its number, or why it cannot be fetched. A
class that no L2 caches has no instruction lines (R95, R106; DEDUCED, log 14). -/
def State.fetchLine (s : State) (c root : Nat) (va : DWord) : Except (BitVec 16) Nat :=
  match s.translate (some c) (dieOf c) root .fetch va with
  | .error f => .error f.code
  | .ok x => if 2 ≤ placeClass x.place then .error ePlaceUnmapped else .ok (lineOf x.place)

/-- The scope of the page of a virtual address that can be fetched. -/
def State.lineScope (s : State) (c root : Nat) (va : DWord) : BitVec 3 :=
  match s.translate (some c) (dieOf c) root .fetch va with
  | .error _ => 0
  | .ok x => x.attr.scope

/-- One instruction word at an 8-byte aligned address, as the caches hold it. -/
def State.fetchWord (s : State) (c root : Nat) (va : DWord) : Except (BitVec 16) DWord :=
  match s.fetchLine c root va with
  | .error e => .error e
  | .ok n =>
    let o := va.toNat % 128
    match s.cachedLine c n with
    | some l => .ok (BitVec.ofNat 64 (recNat l.data o 8))
    | none =>
      let scope := s.lineScope c root va
      match s.l2Fault (dieOf c) scope (s.linePlace n + o) with
      | some e => .error e
      | none => .ok (BitVec.ofNat 64 (leNat ((List.range 8).map fun k =>
          s.l2Byte (dieOf c) scope (s.linePlace n + o + k))))

/-- The caches after the fetch of a word: its line is kept, unless some of it cannot be read. -/
def State.fetchKeep (s : State) (c root : Nat) (va : DWord) : State :=
  match s.fetchLine c root va with
  | .error _ => s
  | .ok n =>
    let s := s.cacheLeaf (some c) (dieOf c) root va
    if (s.cachedLine c n).isNone && (s.lineFault (dieOf c) (s.lineScope c root va) n).isSome then s
    else s.fillLine c n (s.lineScope c root va) true

/-! ## Parks (R20, R45, R137, R169, R171) -/

/-- Whether a fragment is parked. A switch marker's park ends when no result is outstanding, the others
when what they wait for happens. -/
def Core.parked (x : Core) (f : Frag) : Bool :=
  match f.park with
  | .none => false
  | .switch => x.resultsOut f
  | .rcv _ => true
  | .waitph .. => true
  | .waithz _ => true

/-! ## Which registers a word touches -/

/-- The pairs of vector registers that an instruction word reads or writes, by its encoding. -/
def wordPairs (w : DWord) : List Nat :=
  let x : BitVec 50 := w.extractLsb' 0 50
  let op := (w.extractLsb' 54 8).toNat
  let half (h : Compact) : List Nat :=
    [h.d.toNat / 2, h.a.toNat / 2] ++ (if h.bu then [] else [h.b.toNat / 2])
  if w.getLsbD 62 then
    half (Compact.ofBits (w.extractLsb' 31 31)) ++ half (Compact.ofBits (w.extractLsb' 0 31))
  else if op < 0x20 then []
  else if op = 0x21 then [(VI.ofBits x).d.toNat / 2]
  else if op = 0x3F then []
  else if op < 0xA0 then
    let o := VX.ofBits x
    let toPred := op == 0x3C || (decide (0x40 ≤ op) && decide (op < 0x80) && op % 16 == 8)
    (if toPred then [] else [o.d.toNat / 2]) ++ [o.a.toNat / 2]
      ++ (if o.bk = 0 then [o.b.toNat / 2] else []) ++ (if op = 0x3B then [] else [o.c.toNat / 2])
  else if op < 0xA6 then
    let o := MG.ofBits x
    [o.d.toNat / 2] ++ (if o.sz = 4 then [o.d.toNat / 2 + 1] else [])
      ++ (if o.ik = 1 then [o.idx.toNat / 2] else [])
  else if op = 0xA6 then []
  else if op < 0xAC then
    let o := MA.ofBits x
    [o.d.toNat / 2, o.s.toNat / 2, o.k.toNat / 2] ++ (if o.ik = 1 then [o.idx.toNat / 2] else [])
  else if op = 0xAF || op = 0xB0 then
    if x.getLsbD 28 then [(x.extractLsb' 20 8).toNat / 2] else []
  else if 0xDA ≤ op && op ≤ 0xDD then
    let o := ER.ofBits x
    [o.reg.toNat / 2] ++ (if o.ik = 1 then [o.idx.toNat / 2] else [])
  else if op = 0xF8 || op = 0xF9 then
    let o := SR.ofBits x
    if o.uk then [] else [o.reg.toNat / 2]
  else []

/-- The predicates that an instruction word reads or writes, by its encoding. -/
def wordPreds (w : DWord) : List Nat :=
  let x : BitVec 50 := w.extractLsb' 0 50
  let op := (w.extractLsb' 54 8).toNat
  let o := VX.ofBits x
  if w.getLsbD 62 then []
  else
    (w.extractLsb' 51 3).toNat ::
      (if op = 0x3C || (decide (0x40 ≤ op) && decide (op < 0x80) && op % 16 == 8) then [o.d.toNat]
       else if op = 0x3B then [o.c.toNat % 8]
       else if op = 0x3F then [o.d.toNat, o.a.toNat, o.b.toNat]
       else if op = 0x91 then [o.d.toNat, o.a.toNat]
       else if op = 0xE5 then [(CB.ofBits x).p.toNat]
       else if op = 0xB4 then [(x.extractLsb' 9 3).toNat]
       else [])

/-! ## Interlocks (R20, R93, R322, R326) -/

/-- Whether an outstanding ACQ or TRYPH of the wave still owes a register that the word touches. A
word that writes the register waits like one that reads it (DEDUCED, log 15). -/
def Wave.interlocked (w : Wave) (handler : Bool) (word : DWord) : Bool :=
  w.ops.any fun o =>
    o.owes && match o.work with
      | .acq _ (some r) _ _ =>
        (wordPairs word).contains (r / 2) && (o.handler || !handler || decide (32 ≤ r))
      | .tryph _ _ k _ => (wordPreds word).contains k && (o.handler || !handler)
      | _ => false

/-- Whether the word waits for an RDSR of its wave that waits: it touches the vector register that the RDSR
owes; where the RDSR owes an s-register, every word of the wave waits (R391; DEDUCED, log 58). -/
def Core.srInterlock (x : Core) (w : Nat) (word : DWord) : Bool :=
  x.pend.any fun p =>
    p.wave == w && match p.sr with
      | some r => r.uk || (wordPairs word).contains (r.dest / 2)
      | none => false

/-- Whether a handler's word touches a register that a result of the interrupted wave still owes
(R93). -/
def Core.handlerOwes (x : Core) (w : Nat) (word : DWord) : Bool :=
  x.pend.any fun p =>
    p.wave == w && !p.handler
      && p.regs.any fun r => decide (32 ≤ r.1) && (wordPairs word).contains (r.1 / 2)

/-- Whether the header waits of the fragment's clause are met; a term of all ones is no wait (R18). -/
def Core.waitsMet (x : Core) (w : Wave) (f : Frag) : Bool :=
  match f.waits with
  | none => true
  | some n =>
    (n.ld == 63 || decide (x.countOf f .ld ≤ n.ld)) && (n.st == 63 || decide (x.countOf f .st ≤ n.st))
      && (n.eng == 15 || decide (x.countOf f .eng ≤ n.eng))
      && (n.hz == 63 || decide (w.openCount ≤ n.hz))

/-- Whether an operation stops its wave: it waits in the fault buffer, unless its access is an engine's
(R128), or it is a store for which no held line is free (R107). -/
def Op.parksWave (o : Op) : Bool :=
  o.stall || (o.status == .inFault && match o.work with
    | .matchArm .. => false
    | _ => true)

/-- Whether a fragment may go on at all: it is not parked, its wave is not stopped by a trap nor
held in the fault buffer, a handler runs alone, and its context is issued and not drained. A drain
lets clauses in progress and handlers go on, and a handler does not wait for what its wave waited for when the
trap came (R128, R230, R231, R242, R244). -/
def Core.mayGo (x : Core) (w : Wave) (b : Block) (f : Frag) : Bool :=
  !w.ended && !(x.parked f)
    && (if f.handler then w.win.isSome else w.win.isNone && !w.stopped)
    && !(w.ops.any fun o => o.parksWave && (o.handler || !f.handler))
    && x.active == some b.ctx
    && (!x.draining.contains b.ctx || f.holds || f.handler)

/-- Whether the word that stands next may issue, but for what its own meaning holds it for. -/
def Core.wordFree (x : Core) (w : Wave) (f : Frag) (word : DWord) : Bool :=
  x.waitsMet w f && !w.interlocked f.handler word && !x.srInterlock w.slot word
    && !(f.handler && x.handlerOwes w.slot word)

end Sys2Proof.Machine
end

