-- ==== Sys2Proof/Machine/Remote.lean ====
section
/-! DEFINITION. Remote stores, their acknowledgements, and the remote operations of the Colliers (R146,
R175, R203, R362 to R367, R405 to R408). -/

namespace Sys2Proof.Machine

/-! ## Places of another node (R121, R362, R364, R407) -/

/-- Whether a place is a multicast group place. -/
def isGroupPlace (p : Nat) : Bool := placeClass p == 5 && bitsOf (placeOff p) 43 1 == 1

/-- Why a place is no target of a remote operation, with the classes that the operation admits. -/
def State.farFault (s : State) (classes : Nat → Bool) (p : Nat) : Option (BitVec 16) :=
  if !classes p then some ePlaceUnmapped
  else if placeNode p = s.host.nodeid.toNat && decide (placeClass p < 3) then s.placeFault p
  else none

def rstClasses (p : Nat) : Bool := decide (placeClass p < 3) || isGroupPlace p
def rmoClasses (p : Nat) : Bool := decide (placeClass p < 2)

/-- Whether a place is of the own node, and no group place. -/
def State.isOwn (s : State) (p : Nat) : Bool :=
  placeNode p == s.host.nodeid.toNat && decide (placeClass p < 3)

/-- Translate addresses for a remote operation: a lasting failure of the lowest lane decides; a
replayable failure waits. -/
def State.tryFar (s : State) (c root : Nat) (acc : Access) (classes : Nat → Bool) (vas : List DWord) :
    Verdict (List Xlated) :=
  Verdict.all (vas.map fun va => Verdict.ofXlate (s.translateTo (s.farFault classes) (some c) (dieOf c) root acc va) va)

/-! ## Issue -/

def erRegs (o : ER) : List Nat := if o.ik = 1 then [o.idx.toNat] else []

/-- The address of a lane, with its low bits cleared. -/
def erEA (x : Ctx) (o : ER) (l : Nat) : DWord :=
  let index : DWord := if o.ik = 1 then (x.v o.idx.toNat l).signExtend 64 else 0
  (x.a o.base.toNat + index) &&& ~~~ (if o.w64 then 7#64 else 3#64)

def erSrcs (o : ER) : List Src :=
  [.a o.base.toNat] ++ (if o.ik = 1 then [.v o.idx.toNat] else [])

/-- The stores of a stream that have been issued and not sent. -/
def Core.unsent (x : Core) (t : Nat) : Nat :=
  (x.waves.flatMap fun w => w.ops).foldl (fun n o =>
    match o.work with
    | .rst u _ _ => if u = t ∧ o.results.isEmpty ∧ o.unresolved then n + o.lanes.length else n
    | _ => n) 0

/-- Whether a stream takes n more stores (R146). -/
def Core.streamRoom (x : Core) (t n : Nat) : Bool :=
  decide ((x.stream t).queue.length + x.unsent t + n ≤ 256)

/-- Whether the operation that an entry names is an RST of a stream that has still to be sent. -/
def Core.toSend (x : Core) (t : Nat) (e : Nat × HNum) : Bool :=
  match (x.wave? e.1).bind fun w => w.op? e.2 with
  | none => false
  | some o => o.unresolved && o.results.isEmpty && match o.work with
    | .rst u _ _ => u == t
    | _ => false

/-- An RST is issued: its place in its stream is behind those that have still to be sent (R146). -/
def Core.noteRst (x : Core) (t : Nat) (e : Nat × HNum) : Core :=
  let st := x.stream t
  x.setStream t { st with issued := st.issued.filter (x.toSend t) ++ [e] }

def execRst (g : Ctl) (o : ER) (s : State) : Host.Outcome State Fault Refusal :=
  issueVector s g (datumRegs o.w64 o.reg ++ erRegs o)
      (erSrcs o ++ (datumRegs o.w64 o.reg).map Src.v) fun x m =>
    if m == 0 then s.save (x.done g.sw)
    else if !x.opRoom .st || !x.core.streamRoom o.stream.toNat (lanesOf m).length then s
    else
      let lanes := (lanesOf m).map fun l =>
        ({ lane := l, ea := erEA x o l, data := (datum x o.w64 o.reg l).zeroExtend 128, cmp := 0 } : LaneAcc)
      let y := x.addOp .st 7 lanes (.rst o.stream.toNat o.w64 o.fl) []
      let core := y.core.noteRst o.stream.toNat (x.wave.slot, x.wave.seq)
      s.save (({ y with core := core } : Ctx).commitStore.done g.sw)

/-- The flush bit of the last store of a stream is set, or its acknowledgement is due at once (R363). -/
def RStream.flush (t : RStream) : RStream :=
  match t.queue.getLast? with
  | none => t
  | some q => if q.performed then { t with flushDue := true }
      else { t with queue := t.queue.dropLast ++ [{ q with flush := true }] }

def execRflush (g : Ctl) (o : ER) (s : State) : Host.Outcome State Fault Refusal :=
  issueFragment s g [] fun x _ =>
    if x.olderOpen then s
    else
      let t := o.stream.toNat
      s.save ({ x with core := x.core.setStream t (x.core.stream t).flush }.done g.sw)

/-- The bytes of a lane record. -/
def rmoSize (op : Nat) : Nat :=
  match op with
  | 0 => 80
  | 1 => 16
  | _ => 32

/-- The scratchpad offset that the DESC field names. -/
def erDesc (x : Ctx) (o : ER) : Nat := (locOf x o.desc).addr.toNat

/-- Issue of a remote operation: every active lane's record is in bounds (R335). -/
def issueRmo (s : State) (g : Ctl) (o : ER) (op : Nat) : Host.Outcome State Fault Refusal :=
  let z := rmoSize op
  issueVector s g (o.reg.toNat :: erRegs o) (erSrcs o ++ locSrcs o.desc) fun x m =>
    match (lanesOf m).find? fun l => !x.block.spadOk (erDesc x o + z * l) z with
    | some l => s.raise x ⟨eSpadBounds, 0, BitVec.ofNat 64 (erDesc x o + z * l)⟩
    | none =>
      if m == 0 then s.save (x.done g.sw)
      else if !x.opRoom .ld then s
      else
        let lanes := (lanesOf m).map fun l =>
          ({ lane := l, ea := erEA x o l, data := 0, cmp := 0 } : LaneAcc)
        let y := x.addOp .ld 8 lanes (.rmo op o.reg.toNat (erDesc x o)) []
        s.save ((if op = 2 then y else y.commitStore).done g.sw)

def execRmoCas4 (g : Ctl) (o : ER) (s : State) : Host.Outcome State Fault Refusal := issueRmo s g o 0
def execRmoEnq (g : Ctl) (o : ER) (s : State) : Host.Outcome State Fault Refusal := issueRmo s g o 1
def execRmoChase (g : Ctl) (o : ER) (s : State) : Host.Outcome State Fault Refusal := issueRmo s g o 2

/-! ## Leaving the core (R193, R362, R364) -/

/-- The core's copies of the lines that hold some own places go home (R191, R311). -/
def State.flushPlaces (s : State) (c : Nat) (ps : List Nat) : State :=
  let keys := (ps.filter s.isOwn).map fun p => placeKey p / 128
  s.flushHome c fun k _ => keys.contains (k / 128)

/-- Whether an RST may be sent: every RST of its stream that was issued before it has been, whichever wave issued it
(R146). What its own wave holds back does not hold back that wave's handler, and one that RTE replays has had its
place. -/
def Core.rstTurn (x : Core) (t : Nat) (w : Nat) (o : Op) : Bool :=
  !(x.stream t).issued.contains (w, o.num) || ((x.stream t).issued.takeWhile fun e => e != (w, o.num)).all fun e =>
    !x.toSend t e || (o.handler && e.1 == w)

/-- The stores of an RST are sent in their turn, in lane order; the last carries the flush bit. The RST counts in STC
until its stream has accepted it (R174). -/
def State.sendRst (s : State) (c : Nat) (k : OpCtx) (t : Nat) (w64 flush : Bool) : State :=
  if !(s.core c).rstTurn t k.w.slot k.o then s
  else
  s.withVerdict c k (s.tryFar c k.root .write rstClasses (k.o.lanes.map fun a => a.ea)) fun xs =>
    let s := s.flushPlaces c (xs.map fun x => x.place)
    let n := k.o.lanes.length
    let new := (k.o.lanes.zip xs).mapIdx fun i e =>
      ({ place := e.2.place, va := e.1.ea, bytes := toBytes (if w64 then 8 else 4) e.1.data.toNat,
         flush := flush && i + 1 == n, wave := k.w.slot, num := k.o.num, performed := false } : RStore)
    let st := (s.core c).stream t
    let st := { st with snt := st.snt + BitVec.ofNat 32 n, queue := st.queue ++ new,
                        issued := st.issued.filter fun e => e != (k.w.slot, k.o.num) }
    let s := s.updCore c fun x => x.setStream t st
    s.updOp c k.w.slot k.o.num fun o =>
      { o with status := .sent, counted := false, results := [(0, st.snt.zeroExtend 64)] }

/-- The bytes of a lane's record. A poisoned word of it gives E_MEM_POISON (DESIGN CHOICE, log 88). -/
def Block.recordAt (b : Block) (op desc : Nat) (a : LaneAcc) : Except (BitVec 16) (List Byte) :=
  let o := desc + rmoSize op * a.lane
  if b.spadBad o (rmoSize op) then .error eMemPoison else .ok (b.spadRead o (rmoSize op))

/-- The requests of a remote operation are sent: the place of each lane, and for RMO.ENQ the place of
its record, are kept with the lane. -/
def State.sendRmo (s : State) (c : Nat) (k : OpCtx) (op desc : Nat) : State :=
  let acc : Access := if op = 2 then .read else .atomic
  let targets := s.tryFar c k.root acc rmoClasses (k.o.lanes.map fun a => a.ea)
  let records := Verdict.all (k.o.lanes.map fun a => match k.b.recordAt op desc a with
    | .ok bs => Verdict.go (BitVec.ofNat 64 (recNat bs 0 8))
    | .error e => .fail e a.ea)
  let far := match records with
    | .go vas => if op = 1 then s.tryFar c k.root .atomic (fun _ => true) vas else .go []
    | .fail e a => .fail e a
    | .wait => .wait
  s.withVerdict c k (targets.both far) fun e =>
    let s := s.flushPlaces c ((e.1 ++ e.2).map fun x => x.place)
    let placed (i : Nat) (q : LaneAcc × Xlated) : LaneAcc :=
      { q.1 with cmp := BitVec.ofNat 64 q.2.place,
                 data := BitVec.ofNat 128 ((e.2[i]?.map fun y => y.place).getD 0) }
    s.updOp c k.w.slot k.o.num fun o =>
      { o with status := .sent, lanes := (o.lanes.zip e.1).mapIdx placed }

/-! ## Performing remote stores (R146, R203, R362) -/

/-- Whether a store to an own place fails there. -/
def State.storeFaultAt (s : State) (p n : Nat) : Option (BitVec 16) :=
  match s.homeOfPlace p n with
  | .error e => some e
  | .ok h => s.homeStoreFault h

/-- Whether a store to an own place waits for the tentative block in whose window it lies (R200 item 4). -/
def State.storeWaits (s : State) (p n : Nat) : Bool :=
  match s.homeOfPlace p n with
  | .ok h => s.heldWindow none h
  | .error _ => false

/-- A store is performed at its home. -/
def State.storeAt (s : State) (p : Nat) (bs : List Byte) : State :=
  match s.homeOfPlace p bs.length with
  | .ok h => s.homeWrite h bs
  | .error _ => s

def RStream.updPos (t : RStream) (i : Nat) (f : RStore → RStore) : RStream :=
  { t with queue := updAt t.queue i f }

/-- The stores of an operation that has failed are given up. -/
def RStream.giveUp (t : RStream) (w : Nat) (n : HNum) : RStream :=
  { t with queue := t.queue.map fun q =>
    if q.wave == w && q.num == n then { q with performed := true } else q }

/-- The module performs the next store that a stream of its own sends to its own node. -/
def State.performOwn (s : State) (c t : Nat) : State :=
  let st := (s.core c).stream t
  match (st.queue.zipIdx).find? fun e => !e.1.performed && s.isOwn e.1.place with
  | none => s
  | some (q, i) =>
    match ((s.core c).wave? q.wave).bind fun w => w.op? q.num with
    | some o =>
      if o.status != .sent || s.storeWaits q.place q.bytes.length then s
      else
        match s.storeFaultAt q.place q.bytes.length with
        | some e =>
          let s := if o.retried then s.updCore c fun x => x.setStream t ((x.stream t).giveUp q.wave q.num) else s
          s.failOp c q.wave q.num e q.va
        | none => perform s st q i
    | none => perform s st q i
where
  perform (s : State) (st : RStream) (q : RStore) (i : Nat) : State :=
    let s := s.storeAt q.place q.bytes
    let st := st.updPos i fun q => { q with performed := true }
    s.updCore c fun x => x.setStream t
      { st with sinceAck := st.sinceAck + 1, flushDue := st.flushDue || q.flush }

/-- What this module keeps of a stream of another one. -/
def State.remoteIn (s : State) (node core stream : Nat) : RemoteIn :=
  (s.rstIn.find? fun r => r.node == node && r.core == core && r.stream == stream).getD ⟨node, core, stream, 0, []⟩

def State.setRemoteIn (s : State) (r : RemoteIn) : State :=
  let same (e : RemoteIn) : Bool := e.node == r.node && e.core == r.core && e.stream == r.stream
  { s with rstIn := s.rstIn.filter (fun e => !same e) ++ [r] }

/-- The stores of a stream of another module that have come are performed in order, up to one that is missing or
whose window is held. A store that cannot be performed is reported to its sender. -/
def State.drainRemote (s : State) (fuel : Nat) (r : RemoteIn) : State :=
  match fuel with
  | 0 => s.setRemoteIn r
  | fuel + 1 =>
    match r.early.find? fun e => e.1 == r.next with
    | none => s.setRemoteIn r
    | some (n, p, bs) =>
      if s.storeWaits p bs.length then s.setRemoteIn r
      else
        let bad := !s.isOwn p || (s.placeFault p).isSome || (s.storeFaultAt p bs.length).isSome
        State.drainRemote (if bad then s else (s.storeAt p bs).checkGates) fuel
          { r with next := r.next + 1, early := r.early.filter fun e => e.1 != n }

def State.drainRemotes (s : State) : State :=
  s.rstIn.foldl (fun s r => s.drainRemote (r.early.length + 1) r) s

/-- REMOTE_STORE_PERFORM: a store of a stream of the module, or one of another module, which is performed once and
in the order of its stream, whatever path it took (R146, R362, R405; DESIGN CHOICE, log 75). -/
def State.remoteStore (s : State) (src : StoreSource) : State :=
  match src with
  | .own c t => s.performOwn c t
  | .other node core stream num p bs =>
    let r := s.remoteIn node core stream
    if num < r.next ∨ r.early.any (fun e => e.1 == num) then s
    else s.drainRemote (r.early.length + 2) { r with early := r.early ++ [(num, p, bs)] }

def execRemoteStorePerform (src : StoreSource) (s : State) : Host.Outcome State Fault Refusal :=
  match src with
  | .own c t => if coreCount ≤ c ∨ 16 ≤ t then .fault .noSuchUnit else .next (s.remoteStore src)
  | .other .. => .next (s.remoteStore src)

/-! ## Acknowledgements (R175, R408) -/

/-- The count that an acknowledgement names: every store before it has been performed. -/
def RStream.ackCount (t : RStream) : Word :=
  t.ack + BitVec.ofNat 32 (t.queue.takeWhile fun q => q.performed).length

/-- The target sends a cumulative acknowledgement. -/
def RStream.sendAck (t : RStream) : RStream :=
  { t with acks := t.acks ++ [t.ackCount], sinceAck := 0, flushDue := false }

def RStream.owes (t : RStream) : Bool :=
  t.ackCount != t.ack && !t.acks.contains t.ackCount

/-- REMOTE_ACK: after 64 stores, or after a store with the flush bit. -/
def State.remoteAck (s : State) (c t : Nat) : State :=
  let st := (s.core c).stream t
  if st.owes && (st.flushDue || decide (64 ≤ st.sinceAck)) then s.updCore c fun x => x.setStream t st.sendAck
  else s

/-- REMOTE_ACK_TIMER: stores await acknowledgement and none has come for 1,024 cycles. -/
def State.remoteAckTimer (s : State) (c t : Nat) : State :=
  let st := (s.core c).stream t
  if st.owes then s.updCore c fun x => x.setStream t st.sendAck else s

def execRemoteAck (core stream : Nat) (s : State) : Host.Outcome State Fault Refusal :=
  if coreCount ≤ core ∨ 16 ≤ stream then .fault .noSuchUnit else .next (s.remoteAck core stream)

def execRemoteAckTimer (core stream : Nat) (s : State) : Host.Outcome State Fault Refusal :=
  if coreCount ≤ core ∨ 16 ≤ stream then .fault .noSuchUnit else .next (s.remoteAckTimer core stream)

/-- Every RST of a stream whose last store is acknowledged resolves. -/
def State.retireRsts (s : State) (c t : Nat) : State :=
  let ack := ((s.core c).stream t).ack
  let passed (o : Op) : Bool :=
    match o.work, o.results.head? with
    | .rst u _ _, some r =>
      u == t && o.status == .sent && decide ((ack - r.2.extractLsb' 0 32).toNat < 2 ^ 31)
    | _, _ => false
  ((s.core c).waves.flatMap fun w => (w.ops.filter passed).map fun o => (w.slot, o.num)).foldl
    (fun s e => s.finishOp c e.1 e.2) s

/-- A stream is acknowledged up to a count, which retires the stores before it. -/
def State.ackTo (s : State) (c t : Nat) (count : Word) : State :=
  let st := (s.core c).stream t
  let n := (count - st.ack).toNat
  if st.queue.length < n then s
  else
    (s.updCore c fun x => x.setStream t
      { st with ack := count, queue := st.queue.drop n, acks := st.acks.filter fun a => a != count }).retireRsts c t

/-- ACKNOWLEDGEMENT_ARRIVAL: a cumulative acknowledgement retires the stores up to its count, once the
own node has performed those that it has to perform. A count outside the stream's window is an old
one, and has no effect. -/
def State.ackArrival (s : State) (c t : Nat) (count : Word) : State :=
  let st := (s.core c).stream t
  let n := (count - st.ack).toNat
  let st' := { st with acks := st.acks.filter fun a => a != count }
  if st.queue.length < n || (st.queue.take n).any fun q => !q.performed && s.isOwn q.place then
    s.updCore c fun x => x.setStream t st'
  else s.ackTo c t count

def execAcknowledgementArrival (core stream : Nat) (count : Word) (s : State) :
    Host.Outcome State Fault Refusal :=
  if coreCount ≤ core ∨ 16 ≤ stream then .fault .noSuchUnit else .next (s.ackArrival core stream count)

/-- MULTICAST_ACK: the bitmap of the members that performed the stream's oldest multicast store. Missing
members are kept in the MISS word; a store that no member performed fails its RST (R203, R408). -/
def State.multicastAck (s : State) (c t : Nat) (bitmap members : DWord) : State :=
  let st := (s.core c).stream t
  match (st.queue.zipIdx).find? fun e => !e.1.performed && isGroupPlace e.1.place with
  | none => s
  | some (q, i) =>
    if bitmap &&& members = 0 then
      match ((s.core c).wave? q.wave).bind fun w => w.op? q.num with
      | some o =>
        if o.status != .sent then s
        else
          let s := if o.retried then
              s.updCore c fun x => x.setStream t ((x.stream t).giveUp q.wave q.num)
            else s
          s.failOp c q.wave q.num eFlueLink q.va
      | none => s.updCore c fun x => x.setStream t ((x.stream t).updPos i fun q => { q with performed := true })
    else
      let missing := members &&& ~~~ bitmap
      let st := { st.updPos i fun q => { q with performed := true } with miss := st.miss ||| missing }
      let s := s.updCore c fun x => x.setStream t st
      let s := if missing = 0 then s else
        s.updDie (dieOf c) fun x => { x with cnt := { x.cnt with mcastPartial := satInc x.cnt.mcastPartial } }
      s.ackTo c t st.ackCount

def execMulticastAck (core stream : Nat) (bitmap members : DWord) (s : State) :
    Host.Outcome State Fault Refusal :=
  if coreCount ≤ core ∨ 16 ≤ stream then .fault .noSuchUnit
  else .next (s.multicastAck core stream bitmap members)

/-! ## Remote operations at the Collier (R364 to R367) -/

/-- What a Collier answers for one lane: memory after it, the lane's record, the status word. -/
structure RmoAnswer where
  s : State
  record : List Byte
  status : Word

def rmoInvalid (s : State) (record : List Byte) : RmoAnswer := ⟨s, record, 0x80000000⟩

/-- Eight bytes at a place of the own node, or why they cannot be read. -/
def State.farWord (s : State) (p : Nat) : Except (BitVec 16) Nat :=
  match (s.farFaultAt p).or ((s.homeReadFault p).or (s.homeReadFault (p + 7))) with
  | some e => .error e
  | none => .ok (leNat ((List.range 8).map fun k => s.homeByte (p + k)))

def State.putFar (s : State) (p v : Nat) : State := s.writeHome (cellsFrom p (toBytes 8 v))

/-- RMO.CAS4 at place A (R365). -/
def State.rmoCas4 (s : State) (a : Nat) (r : List Byte) : Except (BitVec 16) RmoAnswer :=
  let nw := recNat r 0 1
  if nw = 0 ∨ 4 < nw ∨ recNat r 1 7 ≠ 0 ∨ recNat r 72 8 ≠ 0 ∨ a % 8 ≠ 0 ∨ 32 < a % 32 + 8 * nw then
    .ok (rmoInvalid s r)
  else
    let found := (List.range nw).foldl (fun (l : Except (BitVec 16) (List Nat)) i =>
      match l, s.farWord (a + 8 * i) with
      | .ok l, .ok v => .ok (l ++ [v])
      | .ok _, .error e => .error e
      | l, _ => l) (.ok [])
    match found with
    | .error e => .error e
    | .ok found =>
      let hit (i : Nat) : Bool := found.getD i 0 == recNat r (8 + 8 * i) 8
      let all := (List.range nw).all hit
      match if all then s.homeWriteFault a else none with
      | some e => .error e
      | none =>
        let t := if all then (List.range nw).foldl (fun s i => s.putFar (a + 8 * i) (recNat r (40 + 8 * i) 8)) s
          else s
        let st := (List.range nw).foldl (fun n i => if hit i then n + 2 ^ i else n) (if all then 256 else 0)
        .ok ⟨t, splice r 8 (found.flatMap (toBytes 8)), BitVec.ofNat 32 st⟩

/-- RMO.ENQ of the record at place `re` into the list at A (R366). -/
def State.rmoEnq (s : State) (a re : Nat) (r : List Byte) : Except (BitVec 16) RmoAnswer :=
  if recNat r 8 8 ≠ 0 ∨ placeNode re ≠ placeNode a ∨ 2 ≤ placeClass re then .ok (rmoInvalid s r)
  else
    match s.farWord a, s.farWord (a + 8) with
    | .ok _, .ok last =>
      let link := if last = 0 then a else last
      match ((s.farFaultAt re).or (s.farFaultAt link)).or
          ((s.homeWriteFault re).or ((s.homeWriteFault link).or (s.homeWriteFault a))) with
      | some e => .error e
      | none => .ok ⟨((s.putFar re 0).putFar link re).putFar (a + 8) re, r, if last = 0 then 1 else 0⟩
    | .error e, _ => .error e
    | _, .error e => .error e

/-- How far a lane has come: it goes on, or it has its answer. -/
inductive RmoStep where
  | more (a : LaneAcc)
  | done (x : RmoAnswer)

/-- What one read of a link makes of a lane: `data` holds how many links it has followed and, once it follows no
more, 256 times one above the stop bit (R367). -/
def State.chaseLink (s : State) (a : LaneAcc) (nx : Nat) : LaneAcc :=
  let h := a.data.toNat % 256
  if nx = 0 then { a with data := BitVec.ofNat 128 (h + 256 * 17) }
  else if placeNode nx ≠ s.host.nodeid.toNat ∨ 1 < placeClass nx then { a with data := BitVec.ofNat 128 (h + 256 * 33) }
  else { a with cmp := BitVec.ofNat 64 (nx % 2 ^ 60), data := BitVec.ofNat 128 (h + 1) }

/-- One read of RMO.CHASE: each is indivisible, and other accesses may come between two of them. -/
def State.rmoChase (s : State) (a : LaneAcc) (r : List Byte) : Except (BitVec 16) RmoStep :=
  let nl := recNat r 0 1
  let loff := recNat r 2 2
  let voff := recNat r 4 2
  let p := a.cmp.toNat
  let h := a.data.toNat % 256
  if nl = 0 ∨ 8 < nl ∨ recNat r 1 1 ≠ 0 ∨ recNat r 6 2 ≠ 0 ∨ recNat r 24 8 ≠ 0 ∨ loff % 8 ≠ 0 ∨ voff % 8 ≠ 0 then
    .ok (.done (rmoInvalid s r))
  else if a.data.toNat < 256 ∧ h < nl then
    match s.farWord (p + loff) with
    | .error e => .error e
    | .ok nx => .ok (.more (s.chaseLink a nx))
  else
    match s.farWord (p + voff) with
    | .error e => .error e
    | .ok v => .ok (.done ⟨s, splice (splice r 8 (toBytes 8 p)) 16 (toBytes 8 v),
        BitVec.ofNat 32 (h + (a.data.toNat / 256 - 1))⟩)

/-- The next indivisible step of one lane at a Collier of the own node. -/
def State.rmoLane (s : State) (op : Nat) (a : LaneAcc) (r : List Byte) : Except (BitVec 16) RmoStep :=
  match op with
  | 0 => (s.rmoCas4 a.cmp.toNat r).map .done
  | 1 => (s.rmoEnq a.cmp.toNat a.data.toNat r).map .done
  | _ => s.rmoChase a r

/-- What another node's Collier answers: the lane's record, and the status word after it. A record of
RMO.ENQ that lies on a node other than the target's is INVALID. -/
def State.rmoFar (s : State) (op : Nat) (a : LaneAcc) (r : List Byte) (remote : Option (List Byte)) :
    Option RmoAnswer :=
  if op = 1 ∧ placeNode a.data.toNat ≠ placeNode a.cmp.toNat then some (rmoInvalid s r)
  else
    match remote with
    | none => none
    | some bs =>
      if bs.length ≠ rmoSize op + 4 then none
      else some ⟨s, bs.take (rmoSize op), BitVec.ofNat 32 (recNat bs (rmoSize op) 4)⟩

/-- RMO_PERFORM: the next lane's operation is performed at the target Collier, a chase one read at a time, and its
response is written into the lane's record. -/
def State.rmoPerform (s : State) (c w : Nat) (n : HNum) (remote : Option (List Byte)) : State :=
  match s.opCtx? c w n with
  | none => s
  | some k =>
    match k.o.work, k.o.lanes.find? fun a => !k.o.results.any fun r => r.1 == a.lane with
    | .rmo op _ desc, some a =>
      if k.o.status != .sent then s
      else
        match k.b.recordAt op desc a with
        | .error e => s.failOp c w n e a.ea
        | .ok r =>
          let ans : Except (BitVec 16) RmoStep := if placeNode a.cmp.toNat = s.host.nodeid.toNat then s.rmoLane op a r
            else .ok (match s.rmoFar op a r remote with
              | some x => .done x
              | none => .more a)
          match ans with
          | .error e => s.failOp c w n e a.ea
          | .ok (.more b) => s.updOp c w n fun o =>
              { o with lanes := updFirst (fun l => l.lane == a.lane) (fun _ => b) o.lanes }
          | .ok (.done x) =>
            let s := x.s.updCore c fun y => y.updBlock k.b.slot fun b =>
              b.spadWrite (desc + rmoSize op * a.lane) x.record
            s.updOp c w n fun o => { o with results := o.results ++ [(a.lane, x.status.zeroExtend 64)] }
    | _, _ => s

def execRmoPerform (core wave : Nat) (num : HNum) (remote : Option (List Byte)) (s : State) :
    Host.Outcome State Fault Refusal :=
  if coreCount ≤ core then .fault .noSuchUnit else .next (s.rmoPerform core wave num remote)

/-- RMO_RESPONSE: every lane has answered; the status words are written. -/
def State.rmoResponse (s : State) (c w : Nat) (n : HNum) : State :=
  match s.opCtx? c w n with
  | none => s
  | some k =>
    match k.o.work with
    | .rmo _ d _ =>
      if k.o.status != .sent || k.o.lanes.any fun a => !k.o.results.any fun r => r.1 == a.lane then s
      else
        let regs := k.o.results.map fun r => (d, r.1, r.2.extractLsb' 0 32)
        (s.updCore c fun x => x.putVectors w k.o.handler k.o.frags regs).finishOp c w n
    | _ => s

def execRmoResponse (core wave : Nat) (num : HNum) (s : State) : Host.Outcome State Fault Refusal :=
  if coreCount ≤ core then .fault .noSuchUnit else .next (s.rmoResponse core wave num)

/-! ## Remote operations of other modules (R364, R406) -/

/-- A request of another module: its lanes are served one after another. A retried one, which carries the original
sequence number, finds the stored response, and goes on only where a lane had failed. -/
def State.rmoRequest (s : State) (node seq op : Nat) (lanes : List (Nat × Nat × List Byte)) : State :=
  let same (r : RemoteRmo) : Bool := r.node == node && r.seq == seq
  if s.rmoIn.any same then { s with rmoIn := s.rmoIn.map fun r => if same r then { r with code := 0 } else r }
  else
    let lane (i : Nat) (e : Nat × Nat × List Byte) : LaneAcc :=
      { lane := i, ea := 0, data := BitVec.ofNat 128 e.2.1, cmp := BitVec.ofNat 64 e.1 }
    { s with rmoIn := s.rmoIn ++ [{ node := node, seq := seq, op := op, lanes := lanes.mapIdx lane,
                                    records := lanes.map fun e => e.2.2, answers := [], code := 0 }] }

/-- What the next step of a request's first unanswered lane makes of the module and the request. -/
def State.rmoNext (s : State) (r : RemoteRmo) : State × RemoteRmo :=
  let i := r.answers.length
  match r.lanes[i]?, r.records[i]? with
  | some a, some bs =>
    if r.code != 0 then (s, r)
    else
      match s.rmoLane r.op a bs with
      | .error e => (s, { r with code := e })
      | .ok (.more b) => (s, { r with lanes := updAt r.lanes i fun _ => b })
      | .ok (.done x) => (x.s, { r with answers := r.answers ++ [(x.record, x.status)] })
  | _, _ => (s, r)

/-- The Collier takes the next step of a request of another module. -/
def State.rmoServe (s : State) (node seq : Nat) : State :=
  match s.rmoIn.find? fun r => r.node == node && r.seq == seq with
  | none => s
  | some r =>
    let t := s.rmoNext r
    { t.1 with rmoIn := s.rmoIn.map fun q => if q.node == node && q.seq == seq then t.2 else q }

/-! ## Loss (R406) -/

/-- FLUE_TIMEOUT: no acknowledgement or response of a remote request has come within FTO. The first
loss is retried; a second fails the operation with E_FLUE_LINK. -/
def State.flueTimeout (s : State) (c w : Nat) (n : HNum) : State :=
  match s.opCtx? c w n with
  | none => s
  | some k =>
    if k.o.status != .sent then s
    else
      match k.o.work with
      | .rst t _ _ =>
        match ((s.core c).stream t).queue.find? fun q => q.wave == w && q.num == n && !s.isOwn q.place with
        | none => s
        | some q =>
          let s := if k.o.retried then s.updCore c fun x => x.setStream t ((x.stream t).giveUp w n) else s
          s.failOp c w n eFlueLink q.va
      | .rmo .. =>
        match k.o.lanes.find? fun a => !(k.o.results.any fun r => r.1 == a.lane)
            && placeNode a.cmp.toNat != s.host.nodeid.toNat with
        | none => s
        | some a => s.failOp c w n eFlueLink a.ea
      | _ => s

def execFlueTimeout (core wave : Nat) (num : HNum) (s : State) : Host.Outcome State Fault Refusal :=
  if coreCount ≤ core then .fault .noSuchUnit else .next (s.flueTimeout core wave num)

end Sys2Proof.Machine
end

