-- ==== Sys2Proof/Machine/Work.lean ====
section
/-! DEFINITION. Code prefetch and pins, the making of work and of shapes, and the granules of a block
(R36 to R38, R51, R98, R111, R112, R133, R136, R382 to R388). -/

namespace Sys2Proof.Machine

/-! ## PREFI, PIN and UNPIN (R111, R112, R382) -/

def crLines (o : CR) : Nat := (o.low.extractLsb' 30 16).toNat
def crCluster (o : CR) : Bool := o.low.getLsbD 29

/-- The address of line k of the range that a word names. -/
def Ctx.lineVa (x : Ctx) (o : CR) (k : Nat) : DWord :=
  (x.a o.a.toNat &&& ~~~ 127#64) + BitVec.ofNat 64 (128 * k)

def State.countDrop (s : State) (c : Nat) : State :=
  s.updCluster (clusterOf c) fun k => { k with prefetchDrop := satInc k.prefetchDrop }

/-- One line of a range is fetched into its level and the levels above; a line that cannot be fetched
is skipped and counted. The answer names the line that is there. -/
def State.prefetch (s : State) (c root : Nat) (va : DWord) (l0 : Bool) : State × Option Nat :=
  match s.fetchLine c root va with
  | .error _ => (s.countDrop c, none)
  | .ok n =>
    if (s.cachedLine c n).isNone && (s.lineFault (dieOf c) (s.lineScope c root va) n).isSome then (s.countDrop c, none)
    else ((s.cacheLeaf (some c) (dieOf c) root va).fillLine c n (s.lineScope c root va) l0, some n)

/-- The lines of a level, and how many may be pinned there. -/
def State.level (s : State) (c : Nat) (cluster : Bool) : Map ILine :=
  if cluster then (s.cluster (clusterOf c)).icache else (s.core c).l0

def pinLimit (cluster : Bool) : Nat := if cluster then 1024 else 64

def State.setLevel (s : State) (c : Nat) (cluster : Bool) (m : Map ILine) : State :=
  if cluster then s.updCluster (clusterOf c) fun k => { k with icache := m }
  else s.updCore c fun x => { x with l0 := m }

/-- Add one to the pin count of a line. -/
def pinLine (m : Map ILine) (n : Nat) : Map ILine :=
  m.map fun e => if e.1 = n then (e.1, { e.2 with pins := e.2.pins + 1 }) else e

/-- Take pins from lines. -/
def unpinLines (m : Map ILine) (ns : List Nat) : Map ILine :=
  m.map fun e => (e.1, { e.2 with pins := e.2.pins - ns.count e.1 })

/-- Whether one more line may be pinned in a level, or this one is pinned there already. -/
def mayPin (m : Map ILine) (cluster : Bool) (n : Nat) : Bool :=
  (match Map.find m n with
    | some l => l.pins != 0
    | none => false)
    || decide ((m.filter fun e => e.2.pins != 0).length < pinLimit cluster)

/-- Fetch the lines of a range in increasing order, and pin them while the limits allow: the answer
has the lines pinned, and whether pinning has been refused. -/
def State.pinRange (s : State) (c root : Nat) (vas : List DWord) (cluster : Bool) (room : Bool) :
    State × List Nat × Bool :=
  vas.foldl (fun (r : State × List Nat × Bool) va =>
    let t := r.1.prefetch c root va (!cluster)
    match t.2 with
    | none => (t.1, r.2.1, r.2.2)
    | some n =>
      if r.2.2 || !mayPin (t.1.level c cluster) cluster n then (t.1, r.2.1, true)
      else (t.1.setLevel c cluster (pinLine (t.1.level c cluster) n), r.2.1 ++ [n], false)) (s, [], !room)

/-- The shared prologue of the three words: they are performed at issue. -/
def issueLines (s : State) (g : Ctl) (o : CR) (k : State → Ctx → List DWord → State) :
    Host.Outcome State Fault Refusal :=
  issueFragment s g [.a o.a.toNat] fun x _ =>
    k (s.save (x.done g.sw)) x ((List.range (crLines o)).map (x.lineVa o))

def Ctx.root (x : Ctx) : Nat := x.core.rootOf x.block.ctx

def execPrefi (g : Ctl) (o : CR) (s : State) : Host.Outcome State Fault Refusal :=
  issueLines s g o fun s x vas =>
    vas.foldl (fun s va => (s.prefetch x.c x.root va (!crCluster o)).1) s

def execPin (g : Ctl) (o : CR) (s : State) : Host.Outcome State Fault Refusal :=
  issueLines s g o fun s x vas =>
    let r := s.pinRange x.c x.root vas (crCluster o) (decide (x.block.pins.length < 4))
    let s := if r.2.2 then
        r.1.updCluster (clusterOf x.c) fun k => { k with pinRefused := satInc k.pinRefused }
      else r.1
    if r.2.1.isEmpty then s
    else s.updCore x.c fun y => y.updBlock x.block.slot fun b =>
      { b with pins := b.pins ++ [⟨crCluster o, r.2.1⟩] }

/-- A line leaves the oldest record of a level that holds it; a record left with no line is freed. -/
def dropPin (ps : List PinRec) (cluster : Bool) (n : Nat) : List PinRec :=
  (updFirst (fun p => p.cluster == cluster && p.lines.contains n)
    (fun p => { p with lines := p.lines.erase n }) ps).filter fun p => !p.lines.isEmpty

/-- One pin of a line is removed where a block's records hold it (R111 item 3). -/
def State.unpinLine (s : State) (c b : Nat) (cl : Bool) (n : Nat) : State :=
  match s.blockAt c b with
  | none => s
  | some k =>
    if k.pins.any fun p => p.cluster == cl && p.lines.contains n then
      (s.setLevel c cl (unpinLines (s.level c cl) [n])).updCore c fun y =>
        y.updBlock b fun b => { b with pins := dropPin b.pins cl n }
    else s

/-- UNPIN: a line whose translation fails is counted (R382 item 3). -/
def execUnpin (g : Ctl) (o : CR) (s : State) : Host.Outcome State Fault Refusal :=
  issueLines s g o fun s x vas =>
    vas.foldl (fun s va =>
      match s.fetchLine x.c x.root va with
      | .error _ => s.countDrop x.c
      | .ok n => s.unpinLine x.c x.block.slot (crCluster o) n) s

/-- Every pin of a block is removed (R111 item 4). -/
def State.dropPins (s : State) (c : Nat) (b : Block) : State :=
  b.pins.foldl (fun s p => s.setLevel c p.cluster (unpinLines (s.level c p.cluster) p.lines)) s

/-! ## LAUNCH (R133, R383) -/

def crQueue (o : CR) : Nat := (o.low.extractLsb' 42 4).toNat

def execLaunch (g : Ctl) (o : CR) (s : State) : Host.Outcome State Fault Refusal :=
  issueFragment s g [.a o.a.toNat] fun x _ =>
    if !x.opRoom .none then s
    else s.save ((x.addOp .none 10 [] (.launch (x.a o.a.toNat &&& ~~~ 127#64) (crQueue o)) []).done g.sw)

/-- The record goes to the queue port: it enters, or the queue is full. -/
def State.enterQueue (s : State) (c : Nat) (k : OpCtx) (q : Nat) (a : DWord) (bs : List Byte) : State :=
  if 512 ≤ (s.stokeQ.getD q []).length then s.failOp c k.w.slot k.o.num eStokeFull a
  else
    let r : QRec := { bytes := bs, ctxid := some ((s.core c).ctxSlot k.b.ctx).ctxid }
    ({ s with stokeQ := updAt s.stokeQ q fun l => l ++ [r] }).finishOp c k.w.slot k.o.num

/-- A LAUNCH leaves the core: it writes back, reads its record, and sends it. `answer` is the host's
answer to the read of a record that lies in host memory. -/
def State.sendLaunch (s : State) (c : Nat) (k : OpCtx) (a : DWord) (q : Nat) (answer : Option (List Byte)) :
    State :=
  let send (s : State) (ps : List Piece) : State :=
    let bs := (s.loadBytes c k [ps] (answer.getD [])).flatten
    let s := s.keepPieces c k.root ps
    let s := ps.foldl (fun s p => s.pieceTouch c p) s
    s.enterQueue c k q a bs
  let reached (s : State) (v : Verdict (List Piece)) : State := s.withVerdict c k v fun ps =>
    if anyHost [ps] && answer.isNone then s.askHost c k a [ps] else send s ps
  if answer.isSome then reached s ((Verdict.go k.o.reach.flatten).check (s.readFault c) a)
  else
    s.withVerdict c k (s.opPages c k) fun _ =>
      s.withRelease c k [] true false fun s =>
        reached (s.settleWritten c k.w.slot) (s.tryReach c k.root k.b.slot ⟨a, 128, .read⟩)

/-! ## SHAPE (R209, R388) -/

def execShape (g : Ctl) (o : CR) (s : State) : Host.Outcome State Fault Refusal :=
  let r := (o.low.extractLsb' 42 4).toNat
  issueFragment s g [.a o.a.toNat, .a r] fun x _ =>
    let a := x.a o.a.toNat
    if a.toNat % 8 ≠ 0 then s.raise x ⟨eBarrierAlign, 0, a⟩
    else if !x.opRoom .none then s
    else
      let regions := x.core.regionsOf x.block.slot (.glob a)
      s.save ((x.addOp .none 5 [] (.shape a (x.a r)) regions).commitStore.done g.sw)

/-- The word that SHAPE writes: PUB and the extent. -/
def shapeValue (t : DWord) : Nat := 2 ^ 63 + min t.toNat (2 ^ 63 - 1)

/-- A SHAPE leaves the core: a release on the shape word, and a notice to the Stoker. -/
def State.performShape (s : State) (c : Nat) (k : OpCtx) (a t : DWord) : State :=
  s.withBoth c k (.glob a) .write 8 fun s ps h =>
    s.withRelease c k ps false (s.systemObj c k.root (.glob a)) fun s =>
      let s := s.homeWrite h (toBytes 8 (shapeValue t))
      ({ s with notices := s.notices ++ [(BitVec.ofNat 64 k.root, a)] }).finishOp c k.w.slot k.o.num

/-! ## FETCHW (R51, R136, R385) -/

/-- Whether a launch is active in a context under an error barrier. A barrier of 0 names none. -/
def Launch.named (l : Launch) (ctxid : BitVec 16) (barrier : DWord) : Bool :=
  barrier != 0 && recNat l.record 48 8 == barrier.toNat && recNat l.record 74 2 == ctxid.toNat

/-- The launch that a FETCHW names: the one taken earliest. -/
def State.launchNamed (s : State) (ctxid : BitVec 16) (barrier : DWord) : Option Launch :=
  s.launches.find? fun l => l.named ctxid barrier

/-- Blocks that the wave has drawn from a launch end with its next FETCHW of that launch. -/
def State.endDrawnOf (s : State) (c w : Nat) (launch : Option Launch) : State :=
  match launch, (s.core c).wave? w with
  | some l, some wv =>
    let of (d : Drawn) : Bool := d.launch == l.id
    (s.endDrawn (wv.drawn.filter of)).updWave c w fun y =>
      { y with drawn := y.drawn.filter fun d => !of d }
  | _, _ => s

def execFetchw (g : Ctl) (o : CR) (s : State) : Host.Outcome State Fault Refusal :=
  issueFragment s g [.a o.a.toNat] fun x _ =>
    let m := 32 * crLines o
    let a := x.a o.a.toNat
    if !x.block.spadOk m 32 then s.raise x ⟨eSpadBounds, 0, BitVec.ofNat 64 m⟩
    else if x.wave.fetchw then s.raise x ⟨eFetchwBusy, 0, 0⟩
    else
      let w := { x.wave with fetchw := true, heldFetchw := if x.block.tent then some (a, m) else none }
      let s := s.save ({ x with wave := w }.done g.sw)
      let ctxid := (x.core.ctxSlot x.block.ctx).ctxid
      let s := s.endDrawnOf x.c x.wave.slot (s.launchNamed ctxid a)
      if x.block.tent then s
      else { s with drawReqs := s.drawReqs ++ [⟨x.c, ctxid, x.wave.slot, a, m⟩] }

/-! ## ALLOC and FREEA (R37, R38, R98, R207, R386, R387) -/

def execAlloc (g : Ctl) (_o : CN) (s : State) : Host.Outcome State Fault Refusal :=
  issueFragment s g [] fun x _ =>
    let b := x.block
    if b.req || b.full || b.freed then s.save (x.done g.sw)
    else
      s.save ({ x with block := { b with req := true },
                       core := { x.core with allocs := x.core.allocs ++ [b.slot] } }.done g.sw)

/-- A block with its last k granules unbacked: what they held is gone. -/
def Block.unbacked (b : Block) (k : Nat) : Block :=
  let b := { b with backed := b.backed - k }
  { b with spad := b.spad.filter fun e => decide (e.1 < b.spadBound),
           spadPoison := b.spadPoison.filter fun w => decide (4 * w < b.spadBound),
           acc := b.acc.filter fun e => decide (e.1 < b.accBound),
           accPoison := b.accPoison.filter fun w => decide (4 * w < b.accBound) }

/-- The scratchpad ranges of a block that n bytes at a location lie in: an offset, or a window of
class 2 that an address names, with whatever permission. -/
def State.spadSpans (s : State) (c : Nat) (b : Block) (l : ELoc) (n : Nat) : List (Nat × Nat) :=
  match l with
  | .spad o => [(o, n)]
  | .bad => []
  | .glob va => (pageSpans va n).filterMap fun p =>
      match [Access.read, .write, .atomic].findSome? fun a =>
          (s.translate (some c) (dieOf c) ((s.core c).rootOf b.ctx) a p.1).toOption with
      | none => none
      | some x =>
        if placeClass x.place = 2 ∧ placeCore (placeOff x.place) = some c
            ∧ bitsOf (placeOff x.place) 31 3 = b.slot then
          some (bitsOf (placeOff x.place) 0 20, p.2)
        else none

/-- The ranges that a Barrow command names. The table of a CPYG is named from its start on. -/
def EngCmd.named (k : EngCmd) : List (ELoc × Nat) :=
  (k.bar, 16) ::
    match k.kind with
    | .cpy2 => [(k.desc, 32), (k.loc 0 false, (k.fld 20 4 - 1) * k.fld 24 4 + k.fld 16 4),
                (k.loc 8 true, (k.fld 20 4 - 1) * k.fld 28 4 + k.fld 16 4)]
    | .cpyg => [(k.desc, 32), (k.loc 0 true, windowSize), (k.loc 8 false, 4 * k.fld 24 4),
                (k.loc 16 false, k.total)]
    | .cpyt => [(k.desc, 32), (k.loc 0 true, (k.tM - 1) * k.fld 16 4 + 16 * k.fld 27 1 * fmtBits (k.fmt 24)),
                (k.loc 8 false, 2 * k.fld 27 1 * k.tM), (.spad (k.fld 20 4), k.total)]
    | .wload => [(k.desc, 32), (k.loc 0 true, k.fld 24 4 * k.fld 16 4), (k.loc 8 false, k.wScales)]
    | _ => [(k.dst, k.len), (k.src, k.len)]

/-- The ranges that a Bellows command names, with the barriers of the release table that it applies. -/
def CollCmd.named (m : Comm) (k : CollCmd) : List (ELoc × Nat) :=
  [(k.bar, 16), (k.desc, 32)]
    ++ (if k.op < 7 then [(k.src, m.srcBytes k), (k.dst, k.destBytes m.nr)]
        ++ (m.rel.filter fun e => relNames e k.op).map fun e => (ELoc.glob (relBar e), 16) else [])

/-- Whether an operation will go to an engine that then reads its descriptor: it may name any granule until it has
left the core (R387; DEDUCED, log 21). -/
def Op.namesAny (o : Op) : Bool :=
  o.unresolved && match o.work with
    | .comm .. => true
    | .matchArm .. => true
    | _ => false

/-- The ranges that an operation of a wave names for an engine from which it waits for an answer: what an RMO reads and
writes, and where an RST lands (R193, R387). -/
def Op.named (o : Op) : List (ELoc × Nat) :=
  if !o.unresolved then []
  else
    match o.work with
    | .rmo op _ desc => o.lanes.map fun a => (ELoc.spad (desc + rmoSize op * a.lane), rmoSize op)
    | .rst _ w64 _ => o.lanes.map fun a => (ELoc.glob a.ea, if w64 then 8 else 4)
    | _ => []

/-- Whether an engine operation of a block still names a granule beyond the given bounds of its
scratchpad and its accumulator. A command whose descriptor has not been read may name any (DEDUCED, log 21). -/
def State.namesBeyond (s : State) (c : Nat) (b : Block) (spad acc : Nat) : Bool :=
  let beyond (l : List (ELoc × Nat)) : Bool := l.any fun e =>
    (s.spadSpans c b e.1 e.2).any fun r => r.2 != 0 && decide (spad < r.1 + r.2)
  let tasks := (List.range 4).filterMap fun j => (s.kiln (4 * clusterOf c + j)).task
  (s.core c).cmds.any (fun k => k.block == b.slot && ((!k.isEC && k.fields.isNone) || beyond k.named))
    || tasks.any (fun t =>
      let r := t.task
      r.core == c && r.block == b.slot && !t.paused && !t.stop
        && (((r.spadRanges t.leader.isSome).any fun e => decide (spad < e.1 + e.2))
          || decide (acc < r.task.accoff + r.task.m * r.task.nc * accSize r.task.accFmt)
          || beyond [(elocOf r.task.gate, if r.task.gate = 0 then 0 else 16),
                     (elocOf r.done, if r.done = 0 then 0 else 16),
                     (elocOf r.task.dst, if r.task.drain = 2 then (r.task.m - 1) * r.task.dstr + r.rowBytes else 0)]))
    || (s.die (dieOf c)).comms.any (fun e => (e.2.queue ++ e.2.closing).any fun k =>
      k.core == c && k.block == b.slot
        && ((decide (k.op < 7) && k.fields.isNone) || beyond (CollCmd.named e.2 k)))
    || (s.die (dieOf c)).arms.any (fun e =>
      e.core == c && e.block == b.slot && beyond [(.glob e.dest, e.len), (.glob e.bar, 16)])
    || (s.die (dieOf c)).landing.any (fun e =>
      e.ent.core == c && e.ent.block == b.slot && beyond [(.glob e.ent.dest, e.ent.len), (.glob e.ent.bar, 16)])
    || (s.core c).waves.any fun w => w.block == b.slot && w.ops.any fun o => o.namesAny || beyond o.named

def execFreea (g : Ctl) (o : CN) (s : State) : Host.Outcome State Fault Refusal :=
  issueFragment s g [] fun x _ =>
    let b := x.block
    let k := min (o.low.extractLsb' 43 7).toNat (b.backed - b.vreg)
    if b.req then s
    else if k = 0 then s.save (x.done g.sw)
    else
      let b' := b.unbacked k
      if s.namesBeyond x.c b b'.spadBound b'.accBound then s
      else s.save ({ x with block := { b' with commit := b'.backed, freed := true } }.done g.sw)

end Sys2Proof.Machine
end

