-- ==== Sys2Proof/Machine/Stoker.lean ====
section
/-! DEFINITION. The Stoker: posts, takes and their checks, the shape predictor, unplaced blocks,
placement, drawn blocks and the ends of launches (R29 to R37, R51, R132 to R136, R158, R205 to R214,
R384, R385). -/

namespace Sys2Proof.Machine

/-! ## Fields of a launch record (R30) -/

def recN (r : List Byte) : Nat := bitsOf (recNat r 8 8) 36 3
def recWidth (r : List Byte) (k : Nat) : Nat := bitsOf (recNat r 8 8) (6 * k) 6
/-- The extent of grid field k, 2 to 5. -/
def recExt (r : List Byte) (k : Nat) : Nat := recNat r (16 + 8 * (k - 2)) 8
def recBarrier (r : List Byte) : DWord := BitVec.ofNat 64 (recNat r 48 8)
def recPool (r : List Byte) (lo : Nat) : Nat := bitsOf (recNat r 56 4) lo 7
def recG (r : List Byte) : Nat := recNat r 60 2
def recH (r : List Byte) : Nat := recNat r 62 2
def recRole (r : List Byte) (i : Nat) : Nat := bitsOf (recNat r 64 8) (4 * i) 2
def recStage (r : List Byte) (i : Nat) : Nat := bitsOf (recNat r 64 8) (4 * i + 2) 2
def recWaves (r : List Byte) : Nat := recNat r 72 1
def recFlags (r : List Byte) : Nat := recNat r 73 1
def recCtxid (r : List Byte) : BitVec 16 := BitVec.ofNat 16 (recNat r 74 2)
/-- The budget of a role: COPY, ISSUE, EPILOGUE and GENERAL stand in that order. -/
def recBudget (r : List Byte) (role : Nat) : Nat := recNat r (76 + 2 * ((role + 3) % 4)) 2
def recShape (r : List Byte) : DWord := BitVec.ofNat 64 (recNat r 96 8)
def recCap (r : List Byte) : Nat := recNat r 104 8
def recMode (r : List Byte) : Nat := recNat r 112 1
def recField (r : List Byte) : Nat := recNat r 113 1
/-- The grid fields of a record. -/
def recGrid (r : List Byte) : List Nat := (List.range (recN r - 2)).map fun k => k + 2

/-- The items 1 to 10 of R31, each as the condition under which a record passes it. -/
def recItems (r : List Byte) : List Bool :=
  let n := recN r
  let w := recWaves r
  let ks := [0, 1, 2, 3, 4, 5]
  let waves := List.range w
  let budgets := [0, 1, 2, 3].map (recBudget r)
  [ recNat r 92 4 == 0 && recNat r 116 12 == 0 && bitsOf (recNat r 8 8) 39 25 == 0
      && bitsOf (recNat r 56 4) 7 1 == 0 && bitsOf (recNat r 56 4) 15 1 == 0
      && bitsOf (recNat r 56 4) 23 9 == 0 && decide (recFlags r < 2) && decide (recMode r < 4)
      && recNat r 0 8 % 8 == 0,
    decide (2 ≤ n ∧ n ≤ 6) && recWidth r 0 == 6 && ks.all (fun k => decide (recWidth r k ≤ 32))
      && ks.all (fun k => decide (k < n) || recWidth r k == 0)
      && decide ((ks.map (recWidth r)).sum ≤ 64),
    decide (1 ≤ w ∧ w ≤ 16 ∧ w ≤ 2 ^ recWidth r 1),
    [2, 3, 4, 5].all fun k => if k < n then decide (recExt r k ≤ 2 ^ recWidth r k) else recExt r k == 0,
    decide (1 ≤ recG r ∧ recG r ≤ recH r ∧ recH r ≤ 96)
      && recPool r 0 + recPool r 8 + recPool r 16 == recH r,
    decide (((waves.map fun i => recBudget r (recRole r i) * 256).sum + 8191) / 8192 ≤ recPool r 0)
      && decide (recPool r 0 ≤ recG r),
    waves.all (fun i => recBudget r (recRole r i) != 0) && budgets.all fun b => decide (b ≤ 256),
    decide (recNat r 64 8 < 16 ^ w)
      && (recFlags r % 2 == 1 || (List.range 16).all fun i => recStage r i == 0),
    recMode r == 0
      || (decide (2 ≤ recField r ∧ recField r < n) && decide (1 ≤ recCap r)
          && decide (recCap r ≤ 2 ^ recWidth r (recField r)) && recShape r != 0
          && (recShape r).toNat % 8 == 0),
    (recBarrier r).toNat % 16 == 0 ]

/-! ## Context table (R33) -/

/-- Eight bytes at a place of class 0 or 1, as its home holds them. -/
def State.homeQuad (s : State) (p : Nat) : Option Nat :=
  if s.tableOk p && (s.placeFault p).isNone && (s.homeReadFault p).isNone then
    some (leNat ((List.range 8).map fun k => s.homeByte (p + k)))
  else none

/-- ROOT and TFPB of a context. An entry that cannot be read is unused (DEDUCED, log 22). -/
def State.ctxEntry (s : State) (ctxid : BitVec 16) : DWord × DWord :=
  let p := s.host.ctxtab.toNat + 16 * ctxid.toNat
  match s.homeQuad p, s.homeQuad (p + 8) with
  | some r, some t => (BitVec.ofNat 64 r, BitVec.ofNat 64 t)
  | _, _ => (0, 0)

/-! ## What the Stoker reads and updates (R31, R32, R172, R211) -/

/-- The Stoker walks at the homes: it uses the L2 of no die. -/
def stokerDie : Nat := 8

/-- A shape word at its home. One in the window of a tentative block is read once that is confirmed (R200 item 4, R210). -/
def State.shapeWord (s : State) (root : DWord) (va : DWord) : Verdict DWord :=
  match s.colReach none stokerDie root.toNat .read va 8 with
  | .go h => .go (s.homeWord h)
  | .fail e a => .fail e a
  | .wait => .wait

/-- An arrival on an error barrier, with a code. One that cannot be made is dropped and counted (DEDUCED, log 22). -/
def State.stokerArrive (s : State) (root va : DWord) (code : BitVec 16) : State :=
  if va = 0 then s
  else if va.toNat % 16 ≠ 0 then s.countLandingDrop 0
  else
    match s.colHome stokerDie root.toNat .atomic va 16 with
    | .ok h => s.updateFor none h 1 0 code (.landing 0)
    | .error _ => s.countLandingDrop 0

/-! ## Posts (R132, R396) -/

/-- An unsupported request is logged in the AER registers (R396). -/
def State.logUr (s : State) : State := { s with host := { s.host with aerUr := true } }

/-- A record that the host posts enters its queue whole, or is discarded and counted; one posted before the
queues open is discarded (R426). An access of another width is an unsupported request. -/
def State.hostPost (s : State) (q : Nat) (r : List Byte) : State :=
  if r.length ≠ 128 then s.logUr
  else if !s.up || decide (512 ≤ (s.stokeQ.getD q []).length) then
    { s with stoker := { s.stoker with stokeOverflow := satInc s.stoker.stokeOverflow } }
  else { s with stokeQ := updAt s.stokeQ q fun l => l ++ [{ bytes := r, ctxid := none }] }

def execHostPost (queue : Nat) (record : List Byte) (s : State) : Host.Outcome State Fault Refusal :=
  if 16 ≤ queue then .fault .noSuchUnit else .next (s.hostPost queue record)

/-! ## The shape predictor (R158) -/

/-- The extent that an entry predicts in a mode. -/
def PredEnt.guess (e : PredEnt) (mode : Nat) : DWord := if mode = 2 then e.last else e.max

/-- An entry that has been read becomes the youngest. -/
def predTouch (l : List PredEnt) (tag : DWord) : List PredEnt :=
  l.filter (fun e => e.tag != tag) ++ l.filter fun e => e.tag == tag

/-- The table after a publication of an extent: the oldest of 64 entries is replaced by a new one. -/
def predUpdate (l : List PredEnt) (tag t : DWord) : List PredEnt :=
  match l.find? fun e => e.tag == tag with
  | some e => l.filter (fun e => e.tag != tag) ++ [⟨tag, t, if e.max ≤ t then t else e.max⟩]
  | none => (if 64 ≤ l.length then l.drop 1 else l) ++ [⟨tag, t, t⟩]

/-! ## Takes (R31, R134, R210) -/

def recTag (r : List Byte) : DWord := BitVec.ofNat 64 (recNat r 0 8)

/-- EXT of a shape word. -/
def shapeExt (v : DWord) : DWord := v &&& 0x7FFFFFFFFFFFFFFF#64

/-- The extent that an EXT gives: 2^w of the shaped field where it is greater (R212). -/
def clipExt (r : List Byte) (t : DWord) : Nat := min t.toNat (2 ^ recWidth r (recField r))

/-- Whether another grid extent than the shaped one is 0. -/
def otherZero (r : List Byte) : Bool :=
  (recGrid r).any fun k => (recMode r == 0 || k != recField r) && recExt r k == 0

/-- The guess of a shaped launch (R30). -/
def State.guess (s : State) (r : List Byte) : Nat :=
  match if recMode r = 1 then none else s.predictor.find? fun e => e.tag == recTag r with
  | some e => (e.guess (recMode r)).toNat
  | none => recExt r (recField r)

/-- A refused record is counted, and reported on its error barrier where it has tables. -/
def State.refuseLaunch (s : State) (root : DWord) (r : List Byte) : State :=
  let s := { s with stoker := { s.stoker with launchReject := satInc s.stoker.launchReject } }
  if root = 0 then s else s.stokerArrive root (recBarrier r) eLaunchRecord

/-- An accepted record becomes an active launch. `word` is the shape word as read at the take. -/
def State.acceptLaunch (s : State) (q : Nat) (r : List Byte) (root tfpb : DWord) (word : DWord) : State :=
  let shaped := recMode r != 0
  let pub := shaped && word.getLsbD 63
  let t := shapeExt word
  let watching := shaped && !pub && !otherZero r
  let extent := if pub then clipExt r t else min (s.guess r) (recCap r)
  let tag := recTag r
  let pred := if recMode r = 2 ∨ recMode r = 3 then predTouch s.predictor tag else s.predictor
  { s with
    predictor := if pub then predUpdate pred tag t else pred,
    nextLaunch := s.nextLaunch + 1,
    launches := s.launches ++
      [{ id := s.nextLaunch, queue := q, record := r, root := root, tfpb := tfpb,
         extent := if shaped then extent else 0, watching := watching,
         published := if pub then some extent else none, cursor := 0, tail := 0, live := 0,
         err := if pub && !otherZero r && decide (clipExt r t < t.toNat) then eShapeRange else 0,
         timedOut := false }] }

/-- The record that a take finds, with its queue. -/
def State.headRecord (s : State) : Option (Nat × QRec) :=
  match s.stokeQ.findIdx? fun l => !l.isEmpty with
  | none => none
  | some q => ((s.stokeQ.getD q []).head?).map fun r => (q, r)

/-- STOKER_TAKE: the head of the lowest-numbered queue that holds one, while the table has room. -/
def State.stokerTake (s₀ : State) : State :=
  let s := s₀
  if !s.up || decide (256 ≤ s.launches.length) then s
  else
    match s.headRecord with
    | none => s
    | some (q, rec) =>
      let s := { s with stokeQ := updAt s.stokeQ q fun l => l.drop 1 }
      let r := match rec.ctxid with
        | some c => splice rec.bytes 74 (toBytes 2 c.toNat)
        | none => rec.bytes
      let (root, tfpb) := s.ctxEntry (recCtxid r)
      if !(recItems r).all id || root == 0 then s.refuseLaunch root r
      else if recMode r = 0 then s.acceptLaunch q r root tfpb 0
      else
        match s.shapeWord root (recShape r) with
        | .wait => s₀
        | .fail .. => s.refuseLaunch root r
        | .go v => s.acceptLaunch q r root tfpb v

def execStokerTake (s : State) : Host.Outcome State Fault Refusal := .next s.stokerTake

/-! ## Unplaced blocks (R35, R135, R212) -/

def Launch.shaped (l : Launch) : Bool := recMode l.record != 0

/-- The extents of the launched grid, with a given one for the shaped field. -/
def Launch.extents (l : Launch) (shapedExt : Nat) : List Nat :=
  (recGrid l.record).map fun k =>
    if l.shaped && k == recField l.record then shapedExt else recExt l.record k

/-- The digits of an index, field 2 varying fastest. -/
def digitsOf (es : List Nat) (n : Nat) : List Nat :=
  match es with
  | [] => []
  | e :: r => n % e :: digitsOf r (n / e)

/-- The linear index of some digits. -/
def linearOf (es ds : List Nat) : Nat :=
  match es, ds with
  | e :: es, d :: ds => d + e * linearOf es ds
  | _, _ => 0

/-- The product of the extents of the grid fields before the shaped one. -/
def Launch.stride (l : Launch) : Nat :=
  ((recGrid l.record).filter fun k => decide (k < recField l.record)).foldl
    (fun p k => p * recExt l.record k) 1

/-- The shaped-field index of a block of the launched grid. -/
def Launch.shapedIndex (l : Launch) (lin : Nat) : Nat := lin / l.stride % l.extent

/-- The first index at or above one that a publication has not removed. -/
def Launch.skipRemoved (l : Launch) (n : Nat) : Nat :=
  match l.published with
  | none => n
  | some t =>
    if l.extent ≤ t ∨ l.shapedIndex n < t then n
    else if t = 0 then (l.extents l.extent).prod
    else (n / (l.stride * l.extent) + 1) * (l.stride * l.extent)

/-- The extents of the tail launch: the shaped field runs over the blocks that were not launched. -/
def Launch.tailExtents (l : Launch) : List Nat :=
  match l.published with
  | some t => if l.extent < t then l.extents (t - l.extent) else [0]
  | none => [0]

/-- The digits of a block of the tail launch. -/
def Launch.tailDigits (l : Launch) (n : Nat) : List Nat :=
  ((recGrid l.record).zip (digitsOf l.tailExtents n)).map fun e =>
    if l.shaped && e.1 == recField l.record then e.2 + l.extent else e.2

/-- A block of a launch that may be placed or drawn: its digits, its linear index, and the launch
once it is handed out. -/
structure Offer where
  grid : List Nat
  lin : Nat
  tent : Bool
  launch : Launch
  deriving DecidableEq, Repr

/-- The first unplaced block of a launch. -/
def Launch.offer (l : Launch) : Option Offer :=
  if l.timedOut then none
  else
    let es := l.extents l.extent
    let n := if l.shaped then l.skipRemoved l.cursor else l.cursor
    if n < es.prod then some ⟨digitsOf es n, n, l.watching, { l with cursor := n + 1, live := l.live + 1 }⟩
    else if l.shaped && decide (l.tail < l.tailExtents.prod) then
      let ds := l.tailDigits l.tail
      some ⟨ds, linearOf (l.extents (l.published.getD 0)) ds, false,
        { l with tail := l.tail + 1, live := l.live + 1 }⟩
    else none

def State.setLaunch (s : State) (l : Launch) : State :=
  { s with launches := updFirst (fun k => k.id == l.id) (fun _ => l) s.launches }

def State.launch? (s : State) (id : Nat) : Option Launch := s.launches.find? fun l => l.id == id

/-- Some blocks of a launch have ended. -/
def State.blocksGone (s : State) (id n : Nat) : State :=
  let less (l : Launch) : Launch := { l with live := l.live - n }
  { s with launches := updFirst (fun l => l.id == id) less s.launches }

/-! ## LAUNCH_END (R32, R213) -/

def State.launchEnd (s : State) (id : Nat) : State :=
  match s.launch? id with
  | none => s
  | some l =>
    if l.watching || l.live != 0 || l.offer.isSome then s
    else { s.stokerArrive l.root (recBarrier l.record) l.err with
           launches := s.launches.filter fun k => k.id != id }

def execLaunchEnd (launch : Nat) (s : State) : Host.Outcome State Fault Refusal := .next (s.launchEnd launch)

/-! ## BLOCK_PLACEMENT (R33, R36, R205, R384) -/

/-- The blocks and fragments that stand on a core, shadow contexts' among them. -/
def Core.allBlocks (x : Core) : List Block := x.blocks ++ x.shadows.flatMap fun v => v.blocks

def Core.backedSum (x : Core) : Nat := (x.allBlocks.map fun b => b.backed).sum
def Core.commitSum (x : Core) : Nat := (x.allBlocks.map fun b => b.commit).sum

/-- The block slots and wave slots that are free. -/
def Core.freeBlocks (x : Core) : List Nat :=
  (List.range 8).filter fun k => !(x.allBlocks.any fun b => b.slot == k)
def Core.freeWaves (x : Core) : List Nat :=
  (List.range 32).filter fun k => !(x.allWaves.any fun w => w.slot == k)

/-- The context slot in which a core takes a block of a context. R33 leaves open whether an active context takes
blocks while it is drained: it takes none (DESIGN CHOICE, log 70). -/
def Core.slotFor (x : Core) (ctxid : BitVec 16) : Option Nat :=
  match x.active with
  | some k =>
    if (x.ctxSlot k).ctxid == ctxid && !x.draining.contains k then some k else none
  | none =>
    if x.ctxs.any fun k => k.used && k.ctxid == ctxid then none
    else x.ctxs.findIdx? fun k => !k.used

/-- Whether the Staram is making a change on a core (R88, R415; DEDUCED, log 25). -/
def State.inChange (s : State) (c : Nat) : Bool :=
  match s.staram.jobs with
  | j :: _ => j.cores.contains c
  | [] => false

/-- Whether a core meets R36 and R205 for a block of a record. -/
def State.eligible (s : State) (c : Nat) (r : List Byte) : Bool :=
  let x := s.core c
  x.enabled && !s.dieGated (dieOf c) && !s.inChange c && x.allocs.isEmpty
    && (x.slotFor (recCtxid r)).isSome && !x.freeBlocks.isEmpty
    && decide (recWaves r ≤ x.freeWaves.length) && decide (x.fragCount + recWaves r ≤ 256)
    && decide (x.backedSum + recG r ≤ 96) && decide (x.commitSum + recH r ≤ 96)

/-- The launches in the order in which they are offered: by queue, and in turn within one. -/
def State.offerOrder (s : State) : List Launch :=
  (List.range 16).flatMap fun q =>
    let ls := s.launches.filter fun l => l.queue == q && l.offer.isSome
    let last := s.lastOffered.getD q 0
    (ls.filter fun l => decide (last < l.id)) ++ ls.filter fun l => decide (l.id ≤ last)

/-- The launch whose first unplaced block a core receives: the first in order that some core can take,
where this core can. -/
def State.launchFor (s : State) (c : Nat) (ls : List Launch) : Option Launch :=
  match ls with
  | [] => none
  | l :: r =>
    if s.eligible c l.record then some l
    else if (List.range coreCount).any fun d => s.eligible d l.record then none
    else s.launchFor c r

/-- Some core that receives a block now (R206). -/
def State.placementCore (s : State) (ls : List Launch) : Option Nat :=
  match ls with
  | [] => none
  | l :: r =>
    match (List.range coreCount).find? fun c => s.eligible c l.record with
    | some c => some c
    | none => s.placementCore r

/-- The value of %wid in lane 0 of a wave (R34). -/
def widOf (r : List Byte) (grid : List Nat) (wave : Nat) : DWord :=
  let ds := 0 :: wave :: grid
  BitVec.ofNat 64 ((List.range ds.length).foldl (fun v k =>
    v + ds.getD k 0 * 2 ^ ((List.range k).map (recWidth r)).sum) 0)

/-- TFP of a core's context slot, for a context table's TFPB (R33). -/
def tfpOf (tfpb : DWord) (c : Nat) : DWord := if tfpb = 0 then 0 else tfpb + BitVec.ofNat 64 (4096 * c)

/-- A wave as placement starts it (R36, R80, R82, R91). -/
def Wave.start (slot block : Nat) (wid : DWord) (budget stage : Nat) (tent : Bool)
    (tfp : DWord) : Wave :=
  { slot := slot, block := block, wid := wid, budget := budget, stage := stage,
    v := [], s := [], a := [], p := [], vPoison := [], sPoison := [], aPoison := [], pPoison := [],
    lpart := 64, fpflags := 0, seq := 1, hzn := if tent then 0 else 1, shp := tent, clkLatch := 0,
    trapcause := 0, tfp := tfp, ops := [], trap := none, drainTrap := false,
    trapEarly := false, win := none, winHeld := false, frameFail := false, frameRetry := false, handlerRetry := false, frameAsked := false,
    frameHandler := none,
    hzPhase := 0, fetchw := false, heldFetchw := none,
    drawn := [], hostWrites := 0, hostSeen := 0, hostAsk := none, written := [], ended := false }

/-- A block as placement makes it, with its first g granules backed (R36, R37, R98). -/
def Block.placed (slot launch lin ctx : Nat) (grid : List Nat) (record : List Byte) (tent : Bool)
    (stamp : Nat) : Block :=
  let g := recNat record 60 2
  let h := recNat record 62 2
  { slot := slot, launch := launch, lin := lin, grid := grid, ctx := ctx, record := record,
    tent := tent, backed := g, req := false, full := g == h, freed := false, commit := h,
    allotPhase := if g = h then 1 else 0, spad := [], spadPoison := [], acc := [], accPoison := [], lands := [],
    inbox := [], quench := List.replicate 4 [], pins := [], stamp := stamp }

/-- The waves of a block as placement starts them, in the lowest free slots. -/
def startWaves (x : Core) (r : List Byte) (slot : Nat) (o : Offer) (tfp : DWord) : List Wave :=
  ((x.freeWaves.take (recWaves r)).zip (List.range (recWaves r))).map fun e =>
    Wave.start e.1 slot (widOf r o.grid e.2) (recBudget r (recRole r e.2)) (recStage r e.2) o.tent
      (if tfp = 0 then 0 else tfp + BitVec.ofNat 64 (128 * e.1))

/-- A block is placed in a slot of a core, in a context slot of it. A free slot takes ROOT and TFPB as the Stoker read them
when it took the launch: R33 does not say whether the context table is read again at the placement (DESIGN CHOICE,
log 95). -/
def Core.place (x : Core) (c k slot : Nat) (l : Launch) (o : Offer) (stamp : Nat) : Core :=
  let r := l.record
  let ctx : CtxSlot := if (x.ctxSlot k).used then x.ctxSlot k else
    { used := true, root := l.root, tfp := tfpOf l.tfpb c, ctxid := recCtxid r }
  let ws := startWaves x r slot o ctx.tfp
  let x := { x with
    ctxs := updAt x.ctxs k fun _ => ctx, active := some k,
    blocks := x.blocks ++ [Block.placed slot l.id o.lin k o.grid r o.tent stamp],
    waves := x.waves ++ ws }
  ws.foldl (fun x w => x.newFrag w.slot (BitVec.allOnes 64) (.header (recTag r)) [] false) x

/-- BLOCK_PLACEMENT. -/
def State.blockPlacement (s : State) (c : Nat) : State :=
  if !s.up then s
  else
    match s.launchFor c s.offerOrder with
    | none => s
    | some l =>
      match l.offer, (s.core c).slotFor (recCtxid l.record), (s.core c).freeBlocks with
      | some o, some k, slot :: _ =>
        let s := (s.acquire c [] true).updCore c fun x => x.place c k slot l o s.tick
        { s.setLaunch o.launch with lastOffered := updAt s.lastOffered l.queue fun _ => l.id }
      | _, _, _ => s

def execBlockPlacement (core : Nat) (s : State) : Host.Outcome State Fault Refusal :=
  if coreCount ≤ core then .fault .noSuchUnit else .next (s.blockPlacement core)

/-! ## ALLOTMENT_GRANT (R38, R207) -/

/-- The block at the head of a core's requests, which may be a shadow context's, is backed whole: what is backed
reads as zero. -/
def Block.granted (b : Block) : Block :=
  { b with backed := recH b.record, req := false, full := true, allotPhase := b.allotPhase + 1 }

def State.allotmentGrant (s : State) (c : Nat) : State :=
  let x := s.core c
  match x.allocs with
  | [] => s
  | k :: r =>
    match x.anyBlock? k with
    | none => s.setCore c { x with allocs := r }
    | some b =>
      if 96 < x.backedSum + (recH b.record - b.backed) then s
      else s.setCore c { x.updAnyBlock k Block.granted with allocs := r }

def execAllotmentGrant (core : Nat) (s : State) : Host.Outcome State Fault Refusal :=
  if coreCount ≤ core then .fault .noSuchUnit else .next (s.allotmentGrant core)

end Sys2Proof.Machine
end

