-- ==== Sys2Proof/Machine/Blocks.lean ====
section
/-! DEFINITION. How blocks are confirmed, trimmed and end, shape notifications and timeouts, drawn blocks,
and the termination of a wave (R39, R47, R51, R129, R136, R140, R157, R160, R200, R201, R207, R211 to
R214, R221, R385). -/

namespace Sys2Proof.Machine

/-! ## What a block leaves behind (R39, R98, R111, R129, R157, R160) -/

/-- A context slot that has no block and no saved state left is free (R33). -/
def Core.freeSlot (x : Core) (k : Nat) : Core :=
  if x.blocks.any (fun b => b.ctx == k) || x.shadows.any fun v => v.slotIdx == k then x
  else { x with ctxs := updAt x.ctxs k fun _ => CtxSlot.empty,
                active := if x.active = some k then none else x.active,
                reqs := x.reqs.filter fun r => r.slot != k, draining := x.draining.filter fun j => j != k }

/-- A block leaves its core: its waves, their fragments and what they hold, its entries in the tables, and
its slots. -/
def Core.removeBlock (x : Core) (b : Block) : Core :=
  let ws := (x.waves.filter fun w => w.block == b.slot).map fun w => w.slot
  let of (w : Nat) : Bool := ws.contains w
  let x := ws.foldl (fun x w => x.dropFrags w) x
  let x := x.dropFaults fun e => of e.wave
  Core.freeSlot
    { x with waves := x.waves.filter fun w => !of w.slot, held := x.held.filter fun h => !of h.wave,
             pend := x.pend.filter fun p => !of p.wave, trapQueue := x.trapQueue.filter fun w => !of w,
             binds := x.binds.filter fun e => e.2.slot != b.slot, allocs := x.allocs.filter fun k => k != b.slot,
             blocks := x.blocks.filter fun k => k.slot != b.slot } b.ctx

/-- An entry that a block armed stays armed when the block has ended; its block is none of the 8 (R148, R160). -/
def MatchEnt.orphan (e : MatchEnt) (c slot : Nat) : MatchEnt :=
  if e.core = c ∧ e.block = slot then { e with block := 8 } else e

/-- A FETCHW request of a wave whose block ends stays at the Stoker; its wave is none of the 32 (R39, R51, R172). -/
def DrawReq.orphan (q : DrawReq) (c : Nat) (ws : List Wave) (slot : Nat) : DrawReq :=
  if q.core == c && ws.any fun w => w.slot == q.wave && w.block == slot then { q with wave := 32 } else q

/-- The same with its pins and what its barriers remember for joins. -/
def State.removeBlock (s : State) (c : Nat) (b : Block) : State :=
  let s := s.dropPins c b
  let s := s.updDie (dieOf c) fun d =>
    { d with arms := d.arms.map fun e => e.orphan c b.slot,
             landing := d.landing.map fun m => { m with ent := m.ent.orphan c b.slot } }
  let s := { s with joins := s.joins.filter fun r => !(r.spad && r.core == c && r.block == b.slot),
                    drawReqs := s.drawReqs.map fun (q : DrawReq) => q.orphan c (s.core c).waves b.slot }
  (s.updCore c fun x => x.removeBlock b).refillFaults c

/-! ## BLOCK_END (R39) -/

/-- Whether a running task is of a block, and not stopped. -/
def Kiln.runs (k : Kiln) (c slot : Nat) : Bool :=
  match k.task with
  | some t => t.task.core == c && t.task.block == slot && !t.stop && !t.away
  | none => false

/-- Whether some engine operation of a block has not landed. -/
def State.engineWork (s : State) (c slot : Nat) : Bool :=
  (s.core c).cmds.any (fun k => k.block == slot)
    || (s.cluster (clusterOf c)).ring.any (fun r => r.core == c && r.block == slot)
    || (List.range 4).any (fun j => (s.core (4 * clusterOf c + j)).kiln.runs c slot)
    || (s.blockAt c slot).any (fun b => !b.lands.isEmpty)
    || (s.die (dieOf c)).landing.any (fun m => m.arrives && m.ent.core == c && m.ent.block == slot)
    || s.dies.any fun d => d.2.comms.any fun e =>
      (e.2.queue ++ e.2.closing).any fun k => k.core == c && k.block == slot

/-- Whether a wave has ended, with every operation resolved. -/
def Wave.over (w : Wave) : Bool := w.ended && !w.shp && w.hzn == w.seq

def State.blockEnd (s : State) (c slot : Nat) : State :=
  match s.blockAt c slot with
  | none => s
  | some b =>
    if ((s.core c).waves.any fun w => w.block == slot && !w.over) || s.engineWork c slot then s
    else (s.removeBlock c b).blocksGone b.launch 1

def execBlockEnd (core slot : Nat) (s : State) : Host.Outcome State Fault Refusal :=
  if coreCount ≤ core then .fault .noSuchUnit else .next (s.blockEnd core slot)

/-! ## WAVE_TERMINATION (R47) -/

def State.terminateWave (s : State) (c w : Nat) : State :=
  match (s.core c).wave? w with
  | none => s
  | some y => if y.ended then s else s.killWave c w

def execWaveTermination (core wave : Nat) (s : State) : Host.Outcome State Fault Refusal :=
  if coreCount ≤ core then .fault .noSuchUnit else .next (s.terminateWave core wave)

/-! ## Confirming and trimming (R81, R140, R200, R201, R211, R221) -/

/-- The shape operation of a wave of a confirmed block has resolved. -/
def Wave.confirmIn (slot : Nat) (w : Wave) : Wave := if w.block = slot then { w with shp := false } else w

/-- The stores held for waves of a confirmed block are tentative no more. -/
def confirmHeld (ws : List Wave) (slot : Nat) (h : HeldStore) : HeldStore :=
  if ws.any fun w => w.slot == h.wave && w.block == slot then { h with tent := false } else h

/-- The context identifier of a block of a core. -/
def State.ctxidOf (s : State) (c slot : Nat) : BitVec 16 :=
  match s.blockAt c slot with
  | some b => ((s.core c).ctxSlot b.ctx).ctxid
  | none => 0

/-- Held FETCHW requests of a confirmed block go to the Stoker. -/
def State.sendDraws (s : State) (c slot : Nat) : State :=
  let ws := (s.core c).allWaves.filter fun w => w.block == slot
  let reqs := ws.filterMap fun w => w.heldFetchw.map fun e =>
    (⟨c, s.ctxidOf c slot, w.slot, e.1, e.2⟩ : DrawReq)
  let sent (w : Wave) : Wave := if w.block = slot then { w with heldFetchw := none } else w
  { s.updCore c fun x => x.mapWaves sent with drawReqs := s.drawReqs ++ reqs }

/-- A block is confirmed: its own landings and what waited at its window are done, in order, and the scratchpad gates are
checked at each change (R200, R215). -/
def State.releaseWindow (s : State) (c b : Nat) : State :=
  match s.blockAt c b with
  | none => s
  | some y =>
    let s := (s.landAgain c y).checkGates
    let s := s.updCore c fun x => x.updAnyBlock b fun y => { y with inbox := [] }
    y.inbox.foldl (fun s e => (s.windowOp c b e).checkGates) s

/-- What waited for the confirmation of a resident block: its requests, its landings, and what others do to its
window. -/
def State.released (s : State) (c slot : Nat) : State := ((s.sendDraws c slot).releaseWindow c slot).drainRemotes

/-- HZN of the waves of a block moves as far as it may (R81 items 3 and 4). -/
def Core.moveHzns (x : Core) (slot : Nat) : Core :=
  (x.waves.filter fun w => w.block == slot).foldl (fun x w => x.moveHzn w.slot) x

def Core.confirm (x : Core) (slot : Nat) : Core :=
  Core.moveHzns
    { x.updBlock slot fun b => { b with tent := false } with
      waves := x.waves.map (Wave.confirmIn slot), held := x.held.map (confirmHeld x.waves slot) } slot

def State.confirmBlock (s : State) (c slot : Nat) : State := (s.updCore c fun x => x.confirm slot).released c slot

/-- A tentative block is trimmed: its waves are killed, and none of its work has any effect. -/
def State.trimBlock (s : State) (c : Nat) (b : Block) : State :=
  ((((s.dropWindow b).stopEngines c b.slot).removeBlock c b).blocksGone b.launch 1).drainRemotes

/-- What a saved context is left with when a block of it is confirmed. -/
def SavedCtx.confirm (v : SavedCtx) (slot : Nat) : SavedCtx :=
  let x : Core := { Core.reset with blocks := v.blocks, waves := v.waves, frags := v.frags, held := v.held }
  let x := x.confirm slot
  { v with blocks := x.blocks, waves := x.waves, frags := x.frags, held := x.held }

/-- What a saved context is left with when a block of it is trimmed. -/
def SavedCtx.trim (v : SavedCtx) (slot : Nat) : SavedCtx :=
  let ws := (v.waves.filter fun w => w.block == slot).map fun w => w.slot
  let of (w : Nat) : Bool := ws.contains w
  { v with
    blocks := v.blocks.filter fun b => b.slot != slot, waves := v.waves.filter fun w => !of w.slot,
    frags := v.frags.filter fun f => !of f.wave, held := v.held.filter fun h => !of h.wave,
    binds := v.binds.filter fun e => e.slot != slot, faults := v.faults.filter fun e => !of e.wave,
    cmds := v.cmds.filter fun k => k.block != slot, arms := v.arms.filter fun e => e.block != slot,
    recs := v.recs.filter fun r => r.block != slot, joins := v.joins.filter fun r => r.block != slot,
    queue := v.queue.filter fun w => !of w, regs := v.regs.filter fun g => g.task.block != slot,
    allocs := v.allocs.filter fun k => k != slot, draws := v.draws.filter fun q => !of q.wave,
    kiln := { v.kiln with task := v.kiln.task.filter fun t => t.task.block != slot } }

/-- The verdict on a tentative block of a launch whose extent is known: whether it is confirmed. -/
structure Verdict1 where
  launch : Launch
  extent : Nat
  deriving DecidableEq, Repr

def Verdict1.names (v : Verdict1) (launch : Nat) (tent : Bool) : Bool := tent && launch == v.launch.id
def Verdict1.stays (v : Verdict1) (lin : Nat) : Bool := decide (v.launch.shapedIndex lin < v.extent)

/-- The resident blocks of a launch are confirmed or trimmed. -/
def State.settleCore (s : State) (c : Nat) (v : Verdict1) : State :=
  ((s.core c).blocks.filter fun b => v.names b.launch b.tent).foldl (fun s b =>
    if v.stays b.lin then s.confirmBlock c b.slot else s.trimBlock c b) s

/-- Paused tasks of a trimmed block of a saved context stop in the Kilns that hold them. -/
def State.stopAway (s : State) (v : SavedCtx) (slot : Nat) : State :=
  let own (r : HRec) : Bool := match v.kiln.task with
    | some t => t.task.block == slot && t.task.same r
    | none => false
  let s := s.trimTasks fun r => own r
  v.away.foldl (fun s c => s.updCore c fun x =>
    { x with kiln := { x.kiln with task := x.kiln.task.map fun t =>
      if t.away && t.task.block == slot then { t with stop := true, away := false } else t } }) s

/-- What goes with a trimmed block of a saved context: what waited at its window, its pins, its matched messages, its
paused tasks, and its group members with those of their groups (R111, R140, R160, R200, R219, R221, R392). -/
def State.dropSaved (s : State) (v : SavedCtx) (b : Block) : State :=
  let s := ((s.dropWindow b).dropPins v.core b).stopAway v b.slot
  let s := s.updDie (dieOf v.core) fun d => { d with landing := d.landing.filter fun e =>
    !(e.ent.core == v.core && e.ent.ctxid == v.ctxid && e.ent.block == b.slot) }
  (s.refuseGroups (v.regs.filter fun g => g.task.block == b.slot) fun _ => false).blocksGone b.launch 1

def State.updShadow (s : State) (c k : Nat) (f : SavedCtx → SavedCtx) : State :=
  s.updCore c fun x => { x with shadows := x.shadows.map fun v => if v.slotIdx = k then f v else v }

/-- A block of a shadow context is confirmed or trimmed. -/
def State.settleShadow (s : State) (c : Nat) (v : SavedCtx) (b : Block) (stays : Bool) : State :=
  if stays then (s.updShadow c v.slotIdx fun v => v.confirm b.slot).released c b.slot
  else
    let s := (s.dropSaved v b).updShadow c v.slotIdx fun v => v.trim b.slot
    (s.updCore c fun x => { x with allocs := x.allocs.filter fun k => k != b.slot }).drainRemotes

/-- The same for the shadow contexts of a core; one that is left with no block frees its slot. -/
def State.settleShadows (s : State) (c : Nat) (q : Verdict1) : State :=
  let s := (s.core c).shadows.foldl (fun s v => (v.blocks.filter fun b => q.names b.launch b.tent).foldl
    (fun s b => s.settleShadow c v b (q.stays b.lin)) s) s
  let empty := ((s.core c).shadows.filter fun v => v.blocks.isEmpty).map fun v => v.slotIdx
  s.updCore c fun x =>
    empty.foldl (fun x k => x.freeSlot k) { x with shadows := x.shadows.filter fun v => !v.blocks.isEmpty }

/-- A block of a context that has streamed out is confirmed or trimmed; what waited for its confirmation waits for
its restore (DEDUCED, log 24). -/
def State.settleAt (s : State) (i : Nat) (v : SavedCtx) (b : Block) (stays : Bool) : State :=
  if stays then { s with saved := updAt s.saved i fun v => v.confirm b.slot }
  else
    let s := s.dropSaved v b
    { s with saved := updAt s.saved i fun v => v.trim b.slot }

def State.settleStreamed (s : State) (q : Verdict1) : State :=
  let s := s.saved.zipIdx.foldl (fun s e => (e.1.blocks.filter fun b => q.names b.launch b.tent).foldl
    (fun s b => s.settleAt e.2 e.1 b (q.stays b.lin)) s) s
  { s with saved := s.saved.filter fun v => !v.blocks.isEmpty }

/-! ## Drawn blocks and mailboxes (R51, R136, R385) -/

/-- Bytes from one offset of a mailbox on, and one arrival on its ready flag; with the number of error
codes that the arrival loses. -/
def Block.mail (b : Block) (m at_ : Nat) (bs : List Byte) : Block × Nat :=
  let b := b.spadWrite (m + at_) bs
  let r := (Bar.ofBytes (b.spadRead m 16)).update 1 0 0
  (b.spadWrite m r.1.toBytes, r.2)

/-- Blocks, a wave's drawn blocks, and the counts that second arrivals leave. -/
structure Mails where
  blocks : List Block
  drawn : List Drawn
  lost : Nat
  dropped : Nat
  gone : Nat
  deriving DecidableEq, Repr

/-- The second arrival for one drawn block, if the verdict names it. -/
def Mails.second (m : Mails) (slot : Nat) (q : Verdict1) (d : Drawn) : Mails :=
  if !q.names d.launch d.tent then { m with drawn := m.drawn ++ [d] }
  else
    let ok := q.stays d.lin
    let m := if ok then { m with drawn := m.drawn ++ [{ d with tent := false }] } else { m with gone := m.gone + 1 }
    match m.blocks.find? fun b => b.slot == slot with
    | none => { m with dropped := m.dropped + 1 }
    | some b =>
      if b.spadOk d.mailbox 32 then
        let r := b.mail d.mailbox 24 (toBytes 4 (if ok then 0 else 4))
        { m with blocks := updFirst (fun k => k.slot == slot) (fun _ => r.1) m.blocks, lost := m.lost + r.2 }
      else { m with dropped := m.dropped + 1 }

/-- The second arrivals for the drawn blocks of one wave. -/
def secondArrivals (bs : List Block) (w : Wave) (q : Verdict1) : Mails :=
  w.drawn.foldl (fun (m : Mails) d => m.second w.block q d) ⟨bs, [], 0, 0, 0⟩

/-- The blocks, the waves and the counts after the second arrivals of several waves. -/
def settleWaves (bs : List Block) (ws : List Wave) (q : Verdict1) : List Wave × Mails :=
  ws.foldl (fun (r : List Wave × Mails) w =>
    let m := secondArrivals r.2.blocks w q
    (r.1 ++ [{ w with drawn := m.drawn }],
      ⟨m.blocks, [], r.2.lost + m.lost, r.2.dropped + m.dropped, r.2.gone + m.gone⟩)) ([], ⟨bs, [], 0, 0, 0⟩)

/-- The counts of second arrivals, at the core whose scratchpads held the mailboxes. -/
def State.countMails (s : State) (c : Nat) (q : Verdict1) (m : Mails) : State :=
  (s.updCore c fun x => { x with cnt := { x.cnt with
    barrierErrLost := satAdd x.cnt.barrierErrLost m.lost,
    landingDrop := satAdd x.cnt.landingDrop m.dropped } }).blocksGone q.launch.id m.gone

def State.settleDrawn (s : State) (c : Nat) (q : Verdict1) : State :=
  let x := s.core c
  let r := settleWaves x.blocks x.waves q
  (s.setCore c { x with waves := r.1, blocks := r.2.blocks }).countMails c q r.2

/-- The same in a saved context; its counts go to core c. -/
def State.settleSavedDrawn (s : State) (c : Nat) (v : SavedCtx) (q : Verdict1) : State × SavedCtx :=
  let r := settleWaves v.blocks v.waves q
  (s.countMails c q r.2, { v with waves := r.1, blocks := r.2.blocks })

def State.settleSavedMails (s : State) (q : Verdict1) : State :=
  let s := s.cores.foldl (fun (s : State) e =>
    let r := e.2.shadows.foldl (fun (r : State × List SavedCtx) v =>
      let t := r.1.settleSavedDrawn e.1 v q
      (t.1, r.2 ++ [t.2])) (s, [])
    r.1.updCore e.1 fun x => { x with shadows := r.2 }) s
  let r := s.saved.foldl (fun (r : State × List SavedCtx) v =>
    let t := r.1.settleSavedDrawn 0 v q
    (t.1, r.2 ++ [t.2])) (s, [])
  { r.1 with saved := r.2 }

/-- Every tentative block of a launch is confirmed or trimmed, and every tentative drawn block receives
its second arrival. -/
def State.settle (s : State) (q : Verdict1) : State :=
  let ids := s.cores.map fun e => e.1
  let s := ids.foldl (fun s c => (s.settleDrawn c q)) s
  let s := s.settleSavedMails q
  let s := ids.foldl (fun s c => (s.settleCore c q).settleShadows c q) s
  s.settleStreamed q

/-! ## SHAPE_NOTIFICATION and SHAPE_TIMEOUT (R211 to R214) -/

/-- A notification is applied to a launch that watches the word, with the extent as read. -/
def State.publish (s : State) (id : Nat) (v : DWord) : State :=
  match s.launch? id with
  | none => s
  | some l =>
    let t := clipExt l.record (shapeExt v)
    let s := s.setLaunch { l with watching := false, published := some t }
    let s := if t < (shapeExt v).toNat then s.launchFault id eShapeRange else s
    let s := { s with predictor := predUpdate s.predictor (recTag l.record) (shapeExt v) }
    s.settle ⟨l, t⟩

/-- SHAPE_NOTIFICATION: the first notice is applied, with the word as its home holds it now. -/
def State.applyNotice (s : State) : State :=
  match s.notices with
  | [] => s
  | (root, va) :: r =>
    let t := { s with notices := r }
    match s.shapeWord root va with
    | .wait => s
    | .fail .. => t
    | .go v =>
      let s := t
      if !v.getLsbD 63 then s
      else
        (s.launches.filter fun l => l.watching && l.root == root && recShape l.record == va).foldl
          (fun s l => s.publish l.id v) s

def execShapeNotification (s : State) : Host.Outcome State Fault Refusal := .next s.applyNotice

/-- SHAPE_TIMEOUT: a launch that is still unpublished ends with E_SHAPE_TIMEOUT. -/
def State.shapeTimeout (s : State) (id : Nat) : State :=
  match s.launch? id with
  | none => s
  | some l =>
    if !l.watching then s
    else
      let s := s.setLaunch { l with watching := false, timedOut := true }
      (s.launchFault id eShapeTimeout).settle ⟨l, 0⟩

def execShapeTimeout (launch : Nat) (s : State) : Host.Outcome State Fault Refusal := .next (s.shapeTimeout launch)

/-! ## FETCHW_DRAW (R51, R136, R385) -/

def State.updAnyWave (s : State) (c w : Nat) (f : Wave → Wave) : State :=
  s.updCore c fun x => x.mapWaves fun y => if y.slot = w then f y else y

/-- The mailbox of a request receives an answer, and the request is outstanding no more. -/
def State.answerDraw (s : State) (q : DrawReq) (w : Wave) (wid : DWord) (status : Nat) : State :=
  let s := s.updAnyWave q.core q.wave fun w => { w with fetchw := false }
  match s.blockAt q.core w.block with
  | none => s
  | some b =>
    if b.spadOk q.mailbox 32 then
      let r := b.mail q.mailbox 16 (toBytes 8 wid.toNat ++ toBytes 4 status ++ toBytes 4 0)
      (s.updCore q.core fun x => x.updAnyBlock b.slot fun _ => r.1).countErrLost (.allot q.core b.slot) r.2
    else s.countLandingDrop q.core

/-- A block is handed to the drawing wave. A wave that has ended has no drawn block. -/
def State.keepDrawn (s : State) (q : DrawReq) (w : Wave) (l : Launch) (o : Offer) : State :=
  let s := s.setLaunch o.launch
  if w.ended then s.blocksGone l.id 1
  else s.updAnyWave q.core q.wave fun w =>
    { w with drawn := w.drawn ++ [⟨l.id, o.lin, o.tent, q.mailbox⟩] }

/-- A request whose block has ended draws as any other does: what it draws ends at once, and its arrival is dropped and
counted (R51, R172). -/
def State.drawLost (s : State) (q : DrawReq) : State :=
  let s := s.countLandingDrop q.core
  match (s.launchNamed q.ctxid q.barrier).bind fun l => l.offer.map fun o => (l.id, o.launch) with
  | none => s
  | some (id, l) => (s.setLaunch l).blocksGone id 1

/-- FETCHW_DRAW: the first request is served. Those of a context that has streamed out wait for its restore (DEDUCED,
log 24). -/
def State.fetchwDraw (s : State) : State :=
  match s.drawReqs with
  | [] => s
  | q :: r =>
    let s := { s with drawReqs := r }
    match (s.core q.core).anyWave? q.wave with
    | none => s.drawLost q
    | some w =>
      match s.launchNamed q.ctxid q.barrier with
      | none => s.answerDraw q w 0 3
      | some l =>
        match l.offer with
        | none => s.answerDraw q w 0 2
        | some o => (s.keepDrawn q w l o).answerDraw q w (widOf l.record o.grid 0) o.tent.toNat

def execFetchwDraw (s : State) : Host.Outcome State Fault Refusal := .next s.fetchwDraw

end Sys2Proof.Machine
end

