-- ==== Sys2Proof/Machine/Trap.lean ====
section
/-! DEFINITION. Taking a trap, for a horizon failure or a precise trap: the accesses to the trap frame, and
the start of the handler (R92, R231, R232). -/

namespace Sys2Proof.Machine

/-- Why the frame cannot be used now: there is none, an access to it fails, an access waits in the fault
buffer, an access waits for another party's block, or HANDLER is to be read in the host's memory (R200, R232, R400). -/
inductive FrameFault where
  | absent
  | fails (write : Bool)
  | host
  | replay (write : Bool) (va : DWord) (f : XFail)
  | waits
  deriving DecidableEq, Repr

/-- The frame as the entry finds it: the piece of HANDLER, and its other bytes in pieces of 8. -/
structure FrameAt where
  handler : Piece
  rest : List Piece
  deriving DecidableEq, Repr

/-- One piece of 8 bytes at a translated place and at a distance from it. -/
def Xlated.pieceAt (x : Xlated) (va : DWord) (off : Nat) : Piece :=
  { x := { x with place := x.place + off }, va := va + BitVec.ofNat 64 off, n := 8 }

/-- Whether the frame lies in the host's memory: its read is a request, and its writes are posted (R400). -/
def FrameAt.atHost (f : FrameAt) : Bool := placeClass f.handler.x.place == 6

/-- Whether the frame's bytes can be read and written where the page puts them; `answer` is what the host has answered to
the read of HANDLER. -/
def State.frameUsable (s : State) (c block : Nat) (answer : Option (List Byte)) (f : FrameAt) :
    Except FrameFault FrameAt :=
  if (f.handler :: f.rest).any (s.windowHeld c block) then .error .waits
  else if f.atHost && answer.isNone then .error (if s.linkUp then .host else .fails false)
  else if !f.atHost && ((s.unitFault .read f.handler).or (s.pieceFault c f.handler)).isSome then .error (.fails false)
  else if f.rest.any fun p => (s.pieceStoreFault p).isSome then .error (.fails true)
  else .ok f

/-- The frame at an address: its 128 bytes lie in one page. The read of HANDLER comes first. -/
def State.frameAt (s : State) (c root block : Nat) (answer : Option (List Byte)) (tfp : DWord) :
    Except FrameFault FrameAt :=
  if tfp = 0 then .error .absent
  else
    let fail (write : Bool) (va : DWord) (f : XFail) : FrameFault :=
      if f.replay then .replay write va f else .fails write
    match s.translate (some c) (dieOf c) root .read tfp,
        s.translate (some c) (dieOf c) root .write (tfp + 8) with
    | .error f, _ => .error (fail false tfp f)
    | .ok _, .error f => .error (fail true (tfp + 8) f)
    | .ok x, .ok y =>
      s.frameUsable c block answer
        { handler := x.pieceAt tfp 0,
          rest := (List.range 15).map fun k => y.pieceAt (tfp + 8) (8 * k) }

/-- The wave is killed for want of a frame: E_TRAP_NOFRAME, with the original code counted (R232). -/
def State.noFrame (s : State) (c w : Nat) : State :=
  let id := s.launchOf c w
  ((s.killWave c w).launchFault id eTrapNoframe).countLaunchErr

/-- An empty trap window for an entry (R92). -/
def Window.fresh (e : Entry) : Window :=
  { v := [], s := [], a := [], p := [], precise := e.precise,
    frag := e.frag, vPoison := [], sPoison := [], aPoison := [], pPoison := [] }

/-- The hardware's bytes of the frame are written, 8 at a time. -/
def State.writeFrame (s : State) (c : Nat) (ps : List Piece) (bs : List Byte) : State :=
  (ps.mapIdx fun k p => (p, (bs.drop (8 * k)).take 8)).foldl (fun s e => s.pieceWrite c e.1 e.2) s

/-- HANDLER as the entry reads it. -/
def State.handlerWord (s : State) (c : Nat) (w : Wave) (f : FrameAt) : DWord :=
  BitVec.ofNat 64 (leNat (if f.atHost then (w.frameHandler.getD []).take 8 else s.pieceRead c f.handler))

/-- The retries that an entry has made, each of which has succeeded (R228). -/
def Wave.frameRetries (w : Wave) : Nat := w.frameRetry.toNat + w.handlerRetry.toNat

/-- Steps 4 to 6 of R231: HANDLER is read and the frame is written through the wave's own L1, %trapcause is
set, and the handler starts as one fragment with all lanes, at the header that HANDLER names. An access
that has succeeded in its retry is counted (R228). -/
def State.enterHandler (s : State) (c : Nat) (w : Wave) (e : Entry) (f : FrameAt) (ctxid : BitVec 16) :
    State :=
  let handler := s.handlerWord c w f
  let bytes := frameBytes w ctxid e ((s.core c).inWaithz e.frag)
  let s := (s.pieceTouch c f.handler).writeFrame c f.rest bytes
  let s := s.updCore c fun x => { x with cnt := { x.cnt with transient := satAdd x.cnt.transient w.frameRetries } }
  let s := s.updWave c w.slot fun z =>
    { z with win := some (Window.fresh e), winHeld := false, frameFail := false, frameRetry := false,
             handlerRetry := false, frameAsked := false, frameHandler := none,
             hostWrites := z.hostWrites + (if f.atHost then f.rest.length else 0),
             trap := none, drainTrap := false, trapEarly := false,
             trapcause := BitVec.ofNat 32 (e.sub.toNat * 65536 + e.code.toNat) }
  s.updCore c fun x =>
    { x.newFrag w.slot (BitVec.allOnes 64) (.header handler) [] true with
      trapQueue := x.trapQueue.filter fun j => j != w.slot }

/-- An access to the frame has met what stops it: the read of HANDLER and the write of the frame are each retried once; the
access waits in the fault buffer, or for the host, while the wave keeps its window; or the wave is killed (R228, R232). -/
def State.frameMiss (s : State) (c : Nat) (w : Wave) (ctxid : BitVec 16) (m : FrameFault) : State :=
  match m with
  | .absent => s.noFrame c w.slot
  | .waits => s.updWave c w.slot fun z => { z with winHeld := true }
  | .host => s.updWave c w.slot fun z => { z with winHeld := true, frameAsked := true }
  | .fails write =>
    if (if write then w.frameRetry else w.handlerRetry) then s.noFrame c w.slot
    else s.updWave c w.slot fun z =>
      { z with winHeld := true, frameRetry := z.frameRetry || write, handlerRetry := z.handlerRetry || !write }
  | .replay write va f =>
    let s := s.updWave c w.slot fun z => { z with winHeld := true }
    if (s.core c).anyFault fun k => k.wave == w.slot && k.frame then s
    else
      s.takeFault c
        { va := va, entry := f.entry, hnum := w.hzn, kind := write.toNat, wave := w.slot,
          level := f.level, perm := f.code == eXlatePerm, ctx := ctxid.toNat,
          cmd := none, frame := true }

/-- Taking a trap, for a horizon failure or a precise trap (R231, R232). Nothing happens while the
window's operations are not at rest, or while no trap window is free. -/
def State.enterTrap (s : State) (c w : Nat) : State :=
  match (s.core c).wave? w with
  | none => s
  | some wv =>
    match wv.entry with
    | none => s
    | some e =>
      if !s.entryReady c wv then s
      else if !wv.winHeld && decide (4 ≤ (s.core c).windowsUsed + s.aheadOf c w) then s
      else if wv.frameFail then s.noFrame c w
      else
        match (s.core c).block? wv.block with
        | none => s
        | some b =>
          let ctx := (s.core c).ctxSlot b.ctx
          match s.frameAt c ctx.root.toNat wv.block wv.frameHandler wv.tfp with
          | .ok f => s.enterHandler c wv e f ctx.ctxid
          | .error m => s.frameMiss c wv ctx.ctxid m

end Sys2Proof.Machine
end

