-- ==== Sys2Proof/Machine/Progress.lean ====
section
/-! DEFINITION. How outstanding operations go on: held operations, the host's answers, retries, fault
buffer entries, the horizon and trap entry (R39, R81, R128, R129, R153, R197, R228 to R232, R302, R400,
R401). -/

namespace Sys2Proof.Machine

/-! ## HELD_OPERATION_PROCEED (R197, R199, R200) -/

/-- The first lane of an operation that reaches the host. -/
def Op.hostLane (o : Op) (pss : List (List Piece)) : DWord :=
  match (o.lanes.zip pss).find? fun e => anyHost [e.2] with
  | some e => e.1.ea
  | none => (o.lanes.map fun a => a.ea).headD 0

/-- A load that reaches the host sends its requests. -/
def State.askLoad (s : State) (c : Nat) (k : OpCtx) : State :=
  match s.tryAll c k.root k.b.slot (k.o.reaches .read) with
  | .go pss => if anyHost pss then s.askHost c k (k.o.hostLane pss) pss else s
  | _ => s

/-- An operation that waited is attempted, as its own rule states. -/
def State.proceed (s : State) (c : Nat) (k : OpCtx) : State :=
  match k.o.work with
  | .load .. => s.askLoad c k
  | .uload .. => s.askLoad c k
  | .atomic true ret cas aop w64 ord => s.trySpadAtomic c k ret cas aop w64 ord
  | .acq .. => s.tryAcq c k
  | .tryph .. => s.tryTryph c k
  | .rel .. => s.tryRel c k
  | .fence => s.performFence c k
  | .shape a t => s.performShape c k a t
  | .launch a q => s.sendLaunch c k a q none
  | .rst t w64 flush => s.sendRst c k t w64 flush
  | .rmo op _ desc => s.sendRmo c k op desc
  | .comm i op pri desc bar aux => s.enterComm c k i op pri desc bar aux
  | .matchArm desc bar aux => s.armMatch c k desc bar aux
  | _ => s

def State.heldProceed (s : State) (c w : Nat) (n : HNum) : State :=
  s.attempt c w n fun s k => if s.mayAttempt c k then s.proceed c k else s

def execHeldOperationProceed (core wave : Nat) (num : HNum) (s : State) : Host.Outcome State Fault Refusal :=
  if coreCount ≤ core then .fault .noSuchUnit else .next (s.heldProceed core wave num)

/-! ## Answers of the host (R153, R400, R401) -/

/-- The address of the lane that a failed answer is about, and its piece, as the request was sent. -/
def Op.hostPiece (o : Op) : Option (DWord × Piece) :=
  match (o.lanes.zip o.reach).find? fun e => anyHost [e.2] with
  | some e => (e.2.find? fun p => placeClass p.x.place == 6).map fun p => (e.1.ea, p)
  | none => none

/-- The address that a failure of the host's answer reports. -/
def Op.hostAddr (o : Op) : DWord :=
  match o.work with
  | .launch a _ => a
  | _ => (o.hostPiece.map fun e => e.1).getD 0

/-- The zero-length read behind the wave's writes to the host has completed: those that it was sent behind have completed
there, and the release goes on (R181, R400). -/
def State.behindDone (s : State) (c : Nat) (k : OpCtx) (m : Nat) : State :=
  (s.updWave c k.w.slot fun w => w.seen m).updOp c k.w.slot k.o.num fun o =>
    { o with status := .waiting, mark := none, behind := true }

/-- A load that went to the host is performed with its answer: every lane was translated before (R302). -/
def State.loadAnswer (s : State) (c : Nat) (k : OpCtx) (bs : List Byte) : State :=
  let lanes := (k.o.lanes.zip k.o.reach).map fun e => (Verdict.go e.2).check (s.readFault c) e.1.ea
  s.withVerdict c k (Verdict.all lanes) fun pss => s.performLoad c k.w.slot k pss bs

/-- Data from the host. -/
def State.hostData (s : State) (c : Nat) (k : OpCtx) (bs : List Byte) : State :=
  match k.o.mark, k.o.work with
  | some m, _ => s.behindDone c k m
  | none, .load .. => s.loadAnswer c k bs
  | none, .uload .. => s.loadAnswer c k bs
  | none, .atomic false .. => s.atomicAnswer c k bs
  | none, .launch a q => s.sendLaunch c k a q (some bs)
  | _, _ => s

/-- AOK is cleared in the cached translation of a page, whose entry stands for all of the page (R123, R153). -/
def State.clearAok (s : State) (c root : Nat) (va : DWord) : State :=
  let s := s.cacheLeaf (some c) (dieOf c) root va
  let off (e : TlbEnt) : TlbEnt :=
    if e.root = root ∧ e.coversPage (vaPage va) then { e with aok := false } else e
  (s.updCore c fun x => { x with tlb := x.tlb.map off }).updDie (dieOf c) fun x =>
    { x with tlb := x.tlb.map off }

/-- The completer has refused a request. -/
def State.hostRefused (s : State) (c : Nat) (k : OpCtx) : State :=
  let fail (s : State) (e : BitVec 16) : State := s.failOp c k.w.slot k.o.num e k.o.hostAddr
  match k.o.mark, k.o.work with
  | none, .atomic .. =>
    match k.o.hostPiece with
    | some (_, p) => fail (s.clearAok c k.root p.va) eSysAtomicUnsupported
    | none => fail s eSysAtomicUnsupported
  | _, _ => fail s ePlaceUnmapped

/-- Whether an operation waits for the host: it is sent, and no remote operation. -/
def Op.atHost (o : Op) : Bool :=
  o.status == .sent && match o.work with
    | .rst .. => false
    | .rmo .. => false
    | _ => true

/-- Whether a completion with the number n answers a request of the wave that no operation has sent: the read of HANDLER in
the host's memory has the number that the frame's HNUM will hold, and the zero-length read of an arrival that takes no number
has the one that the wave takes next (DEDUCED, log 18 and 39). -/
def Wave.frameTurn (w : Wave) (n : HNum) : Bool := w.frameAsked && n == w.hzn
def Wave.arriveTurn (w : Wave) (n : HNum) : Bool := w.hostAsk.isSome && n == w.seq

/-- What the host's answer, or the want of one, makes of such a request. -/
def Wave.answered (w : Wave) (n : HNum) (data : Option (List Byte)) : Wave :=
  if w.frameTurn n then
    match data with
    | some bs => { w with frameAsked := false, frameHandler := some bs }
    | none => { w with frameAsked := false, frameFail := w.frameFail || w.handlerRetry, handlerRetry := true }
  else if w.arriveTurn n then
    match w.hostAsk, data with
    | some m, some _ => { w.seen m with hostAsk := none }
    | _, _ => { w with hostAsk := none }
  else w

/-- HOST_COMPLETION. -/
def State.hostCompletion (s : State) (c w : Nat) (n : HNum) (a : HostAnswer) : State :=
  let other (data : Option (List Byte)) : State := s.updWave c w fun y => y.answered n data
  match s.opCtx? c w n, a with
  | some k, .data bs => if k.o.atHost then s.hostData c k bs else other (some bs)
  | some k, .refused => if k.o.atHost then s.hostRefused c k else other none
  | some k, .poisoned => if k.o.atHost then s.failOp c w n eMemPoison k.o.hostAddr else other none
  | none, .data bs => other (some bs)
  | none, _ => other none

def execHostCompletion (core wave : Nat) (num : HNum) (answer : HostAnswer) (s : State) :
    Host.Outcome State Fault Refusal :=
  if coreCount ≤ core then .fault .noSuchUnit else .next (s.hostCompletion core wave num answer)

/-- An access to the host fails for want of a completion. -/
def State.hostLost (s : State) (c w : Nat) (n : HNum) : State :=
  match s.opCtx? c w n with
  | some k =>
    if k.o.atHost then s.failOp c w n ePlaceOffline k.o.hostAddr else s.updWave c w fun y => y.answered n none
  | none => s.updWave c w fun y => y.answered n none

def execHostCompletionTimeout (core wave : Nat) (num : HNum) (s : State) : Host.Outcome State Fault Refusal :=
  if coreCount ≤ core then .fault .noSuchUnit else .next (s.hostLost core wave num)

/-- HOST_LINK_DOWN: the link is down, and every outstanding access to the host fails. -/
def State.hostDown (s : State) : State :=
  let s := { s with linkUp := false }
  s.cores.foldl (fun s e => e.2.waves.foldl (fun s w =>
    let s := (w.ops.filter Op.atHost).foldl (fun s o => s.hostLost e.1 w.slot o.num) s
    if w.frameAsked || w.hostAsk.isSome then
      s.updWave e.1 w.slot fun y => (y.answered y.hzn none).answered y.seq none
    else s) s) s

def execHostLinkDown (s : State) : Host.Outcome State Fault Refusal := .next s.hostDown

/-! ## FAILURE_RETRY (R228) -/

/-- A failed operation is attempted once more. Remote stores that have been sent are sent again as they
are; what another request has answered already is kept. -/
def Op.retry (o : Op) : Op :=
  match o.status with
  | .failing _ _ =>
    match o.work with
    | .rst .. => { o with retried := true, status := if o.results.isEmpty then .waiting else .sent }
    | .rmo .. => { o with retried := true, status := .waiting }
    | _ => { o with retried := true, status := .waiting, results := [], mark := none }
  | _ => o

def execFailureRetry (core wave : Nat) (num : HNum) (s : State) : Host.Outcome State Fault Refusal :=
  if coreCount ≤ core then .fault .noSuchUnit
  else .next (if (s.core core).waves.any fun w => w.slot == wave && w.ops.any fun o => o.num == num then
      s.updOp core wave num Op.retry
    else s)

/-! ## FAULT_BUFFER_ENTRY (R128, R129, R302) -/

/-- One access of an operation as the fault buffer sees it: its bytes, what it needs, and its KIND. -/
structure Touch where
  va : DWord
  n : Nat
  acc : Access
  kind : Nat
  deriving DecidableEq, Repr

/-- The access to an object that an operation names. -/
def objTouch (o : Obj) (n : Nat) (acc : Access) (kind : Nat) : List Touch :=
  match o with
  | .glob va => [⟨va, n, acc, kind⟩]
  | _ => []

/-- Whether a WAITPH still waits for its phase: only its ending read is followed by accesses to bound pages (R325). -/
def State.waitsPhase (s : State) (c : Nat) (k : OpCtx) : Bool :=
  match k.o.work with
  | .waitph obj ph =>
    match s.tryObj c k obj .read 16 with
    | .go h => (s.flushObj c h).phaseAt h == ph.toNat
    | _ => true
  | _ => false

/-- The accesses that an operation makes when it is attempted. -/
def State.touches (s : State) (c : Nat) (k : OpCtx) : List Touch :=
  let lanes (acc : Access) (kind : Nat) : List Touch :=
    (k.o.lanes.zip k.o.ranges).map fun e => ⟨BitVec.ofNat 64 e.2.1, e.2.2, acc, kind⟩
  let pages : List Touch := (k.o.regions.map fun r => ⟨r.1, 64 * r.2, .read, 0⟩)
    ++ (s.writtenPages c k).map fun p => ⟨p.1, p.2, .read, 0⟩
  (if s.waitsPhase c k then [] else pages) ++
    if k.o.answer.isSome then []
    else match k.o.work with
    | .load .. => lanes .read 0
    | .uload .. => lanes .read 0
    | .store _ => lanes .write 1
    | .atomic false .. => lanes .atomic 2
    | .atomic true .. => []
    | .binit obj _ _ => objTouch obj 16 .write 1
    | .arrive obj .. => objTouch obj 16 .atomic 2
    | .waitph obj _ => objTouch obj 16 .read 0
    | .tryph obj .. => objTouch obj 16 .read 0
    | .acq obj .. => objTouch obj 8 .read 0
    | .rel obj (some _) _ => objTouch obj 8 .write 1
    | .rel obj none _ => objTouch obj 8 .atomic 2
    | .qwait head record => [⟨head, 16, .atomic, 2⟩, ⟨record, 16, .write, 1⟩]
    | .wake head _ => [⟨head, 16, .atomic, 2⟩]
    | .shape a _ => [⟨a, 8, .write, 1⟩]
    | .launch a _ => [⟨a, 128, .read, 0⟩]
    | .matchArm (.glob va) _ _ => [⟨va, 32, .read, 3⟩]
    | .rst _ w64 _ => k.o.lanes.map fun a => ⟨a.ea, if w64 then 8 else 4, .write, 1⟩
    | .rmo op _ desc =>
      (k.o.lanes.map fun a => ⟨a.ea, 8, if op = 2 then .read else .atomic, if op = 2 then 0 else 2⟩)
        ++ (if op = 1 then k.o.lanes.filterMap fun a =>
              match k.b.recordAt op desc a with
              | .ok bs => some ⟨BitVec.ofNat 64 (recNat bs 0 8), 8, .atomic, 2⟩
              | .error _ => none
            else [])
    | _ => []

/-- What the translation of each page of an access finds. -/
def State.touchPages (s : State) (c : Nat) (k : OpCtx) (t : Touch) : List (DWord × Touch × Option XFail) :=
  (pageSpans t.va t.n).map fun p =>
    (p.1, t, match s.translateLeaf (some c) (dieOf c) k.root t.acc p.1 with
      | .error f => some f
      | .ok _ => none)

/-- The entry of a page that an operation cannot reach. -/
def OpCtx.faultEnt (k : OpCtx) (ctxid : BitVec 16) (va : DWord) (t : Touch) (f : XFail) : FaultEnt :=
  { va := va, entry := f.entry, hnum := k.o.num, kind := t.kind, wave := k.w.slot, level := f.level,
    perm := f.code == eXlatePerm, ctx := ctxid.toNat, cmd := none, frame := false }

/-- The attempts at an access of an operation. -/
def opAttempts (c w : Nat) (n : HNum) : List (State → State) :=
  [fun s => s.returnLoad c w n, fun s => s.acceptStore c w n, fun s => s.collierAtomic c w n,
   fun s => s.barrierUpdate c w n, fun s => s.collierLink c w n, fun s => s.collierUnlink c w n,
   fun s => s.heldProceed c w n, fun s => s.attempt c w n fun s k => s.tryWaitph c k]

def Op.fails (o : Op) : Bool :=
  match o.status with
  | .failing .. => true
  | .failed .. => true
  | _ => false

/-- Whether an attempt at an operation would fail now: some access of it fails lastingly, at its translation, its
place or its home (R302 item 2). -/
def State.failsNow (s : State) (c w : Nat) (n : HNum) : Bool :=
  let t := s.updOp c w n fun o => { o with status := .waiting }
  (opAttempts c w n).any fun f => match ((f t).core c).wave? w with
    | none => false
    | some y => match y.op? n with
      | some o => o.fails
      | none => y.ended

/-- An operation leaves the fault buffer, and is attempted again. -/
def State.leaveBuffer (s : State) (c w : Nat) (n : HNum) : State :=
  ((s.updCore c fun x => x.freeFaults w n).refillFaults c).updOp c w n fun o =>
    if o.status = .inFault then { o with status := .waiting } else o

/-- Each page of the operation whose translation fails replayably takes an entry, once no access of the
operation fails lastingly; one that fails lastingly keeps no entry. An operation that waits in the buffer goes on
when no entry is left. -/
def State.faultEntry (s : State) (c w : Nat) (n : HNum) : State :=
  s.attempt c w n fun s k =>
    let live := k.o.status == .inFault || s.mayAttempt c k || match k.o.work with
      | .waitph .. => k.o.status == .waiting
      | _ => false
    let pages := (s.touches c k).flatMap (s.touchPages c k)
    if !live then s
    else if s.failsNow c w n then s.leaveBuffer c w n
    else
      let has (l : List FaultEnt) (va : DWord) : Bool := l.any fun e => vaPage e.va == vaPage va
      let mine := (((s.core c).faults.map fun e => e.2) ++ (s.core c).faultWait).filter fun e => e.isOf w n
      let new := pages.foldl (fun (l : List FaultEnt) p =>
        match p.2.2 with
        | some f =>
          if !f.replay || has (mine ++ l) p.1 then l
          else l ++ [k.faultEnt ((s.core c).ctxSlot k.b.ctx).ctxid p.1 p.2.1 f]
        | none => l) []
      if !new.isEmpty then
        (new.foldl (fun s e => s.takeFault c e) s).updOp c w n fun o => { o with status := .inFault }
      else if k.o.status == .inFault && mine.isEmpty then
        s.updOp c w n fun o => { o with status := .waiting }
      else s

def execFaultBufferEntry (core wave : Nat) (num : HNum) (s : State) : Host.Outcome State Fault Refusal :=
  if coreCount ≤ core then .fault .noSuchUnit else .next (s.faultEntry core wave num)

/-- FAULT_STATUS_WRITE: system software writes STATUS of an entry (R129, R154). -/
def execFaultStatusWrite (core entry : Nat) (status : Byte) (s : State) : Host.Outcome State Fault Refusal :=
  if coreCount ≤ core ∨ 64 ≤ entry then .fault .noSuchUnit else .next (s.faultStatus core entry status)

/-! ## HORIZON_RESOLUTION and TRAP_ENTRY (R39, R81, R229 to R231, R242) -/

/-- Whether the context of a wave is being drained. -/
def State.waveDrains (s : State) (c : Nat) (w : Wave) : Bool :=
  match (s.core c).block? w.block with
  | some b => (s.core c).draining.contains b.ctx
  | none => false

/-- A failure that no wave can be told of: it is recorded against the launch and counted, and the
operation is gone with what it holds. -/
def State.lateFailure (s : State) (c w : Nat) (n : HNum) (code : BitVec 16) : State :=
  let id := s.launchOf c w
  let first := (s.launches.find? fun l => l.id == id).any fun l => l.err == 0
  let s := s.launchFault id code
  let s := if first then s.countLaunchErr else s
  (s.updCore c fun x => x.squash w fun m => m == n).updWave c w fun y =>
    { y with ops := y.ops.filter fun o => o.handler || o.num != n }

/-- HZN moves past what has resolved; a failure that it reaches is delivered. One that is delivered during
a drain, and not before it, is saved as a pending trap of the drain (R233, R242). -/
def State.resolveHorizon (s : State) (c w : Nat) : State :=
  match (s.core c).wave? w with
  | none => s
  | some y =>
    if y.win.isSome then s
    else
      let s := s.updCore c fun x => x.moveHzn w
      match ((s.core c).wave? w).bind Wave.delivered with
      | none => s
      | some (o, code, _) =>
        if y.ended then s.lateFailure c w o.num code
        else
          let s := if s.waveDrains c y && !y.trapEarly then s.updWave c w fun z => { z with drainTrap := true }
            else s
          if (s.core c).trapQueue.contains w then s
          else s.updCore c fun x => { x with trapQueue := x.trapQueue ++ [w] }

def execHorizonResolution (core wave : Nat) (s : State) : Host.Outcome State Fault Refusal :=
  if coreCount ≤ core then .fault .noSuchUnit else .next (s.resolveHorizon core wave)

/-- A wave enters its trap while its context is issued and not drained. One that holds a trap window while an access
to its frame waits goes on (R232, R242). -/
def State.trapStep (s : State) (c w : Nat) : State :=
  match (s.core c).wave? w with
  | none => s
  | some y =>
    match (s.core c).block? y.block with
    | none => s
    | some b =>
      if y.ended || (s.waveDrains c y && !y.winHeld) || (s.core c).active != some b.ctx then s else s.enterTrap c w

def execTrapEntry (core wave : Nat) (s : State) : Host.Outcome State Fault Refusal :=
  if coreCount ≤ core then .fault .noSuchUnit else .next (s.trapStep core wave)

end Sys2Proof.Machine
end

