-- ==== Sys2Proof/Machine/Contexts.lean ====
section
/-! DEFINITION. Pre-emption, its drain and what it saves, streaming out and restore, priority pre-emption,
and translation invalidations (R109, R129, R138, R155, R157, R160, R208, R241 to R245). -/

namespace Sys2Proof.Machine

/-! ## Requests (R208, R241) -/

/-- A request for the pre-emption of a context: one that stands already also takes its STREAM. -/
def Core.addReq (x : Core) (r : PreReq) : Core :=
  if x.reqs.any fun q => q.slot == r.slot then
    { x with reqs := x.reqs.map fun q => if q.slot = r.slot then
        { q with stream := q.stream || r.stream, staram := q.staram || r.staram,
                 software := q.software || r.software }
      else q }
  else { x with reqs := x.reqs ++ [r] }

/-- System software requests the pre-emption of a context on a core, where it is active there; one that is
a shadow already is marked for streaming out (DEDUCED, log 24). -/
def Core.preempt (x : Core) (ctxid : BitVec 16) (stream : Bool) : Core :=
  let x := match x.active with
    | some k => if (x.ctxSlot k).ctxid = ctxid then x.addReq ⟨k, stream, none, false, true⟩ else x
    | none => x
  { x with shadows := x.shadows.map fun v => if v.ctxid = ctxid then { v with stream := v.stream || stream, resume := false }
    else v }

/-- PREEMPT_WRITE: bits [15:0] name the context and bit [16] is STREAM (R396). -/
def State.preemptWrite (s : State) (v : DWord) : State :=
  { s with cores := s.cores.map fun e => (e.1, e.2.preempt (v.extractLsb' 0 16) (v.getLsbD 16)) }

def execPreemptWrite (value : DWord) (s : State) : Host.Outcome State Fault Refusal :=
  .next (s.preemptWrite value)

/-- What makes one context of another launch the better victim: a tentative block, the greater queue
number, the later placement (R208). -/
structure Victim where
  core : Nat
  slot : Nat
  tent : Bool
  queue : Nat
  stamp : Nat
  deriving DecidableEq, Repr

def Victim.beats (a b : Victim) : Bool :=
  if a.tent != b.tent then a.tent
  else if a.queue ≠ b.queue then decide (b.queue < a.queue) else decide (b.stamp < a.stamp)

/-- The blocks of active contexts that are of launches of a greater queue number than p, in contexts for
which no request stands. -/
def State.victims (s : State) (p : Nat) : List Victim :=
  s.cores.flatMap fun e =>
    match e.2.active with
    | none => []
    | some k =>
      if e.2.reqs.any fun r => r.slot == k then []
      else (e.2.blocks.filter fun b => b.ctx == k).filterMap fun b =>
        match s.launch? b.launch with
        | some l => if p < l.queue then some ⟨e.1, k, b.tent, l.queue, b.stamp⟩ else none
        | none => none

/-- PRIORITY_PREEMPTION_REQUEST: the first unplaced block of a launch has waited 20,000 Stoker cycles, and
the context in a slot of a core is one that R208 chooses. -/
def State.priorityPreempt (s : State) (id c k : Nat) : State :=
  match s.launch? id with
  | none => s
  | some l =>
    let vs := s.victims l.queue
    let mine := vs.filter fun v => v.core == c && v.slot == k
    let cores := List.range coreCount
    if l.offer.isNone || (s.cores.any fun e => e.2.reqs.any fun r => r.launch == some id)
        || (cores.any fun d => s.eligible d l.record)
        || !(cores.any fun d => (s.core d).enabled && !s.dieGated (dieOf d))
        || !(mine.any fun v => !(vs.any fun w => w.beats v)) then s
    else s.updCore c fun x => x.addReq ⟨k, false, some id, false, false⟩

def execPriorityPreemptionRequest (launch core slot : Nat) (s : State) : Host.Outcome State Fault Refusal :=
  if coreCount ≤ core then .fault .noSuchUnit else .next (s.priorityPreempt launch core slot)

/-! ## PREEMPTION_DRAIN (R242) -/

/-- The drain of a requested context begins: no clause and no task of it starts from now on. A failure that has been
delivered already is none of the drain (R233, R242). -/
def State.beginDrain (s : State) (c k : Nat) : State :=
  s.updCore c fun x =>
    if x.active = some k ∧ x.reqs.any (fun r => r.slot == k) ∧ !x.draining.contains k then
      let early (w : Wave) : Wave :=
        if (x.blocks.any fun b => b.slot == w.block && b.ctx == k) && w.delivered.isSome then
          { w with trapEarly := true }
        else w
      { x with draining := k :: x.draining, waves := x.waves.map early }
    else x

def execPreemptionDrain (core slot : Nat) (s : State) : Host.Outcome State Fault Refusal :=
  if coreCount ≤ core then .fault .noSuchUnit else .next (s.beginDrain core slot)

/-! ## What a drain waits for (R242) -/

/-- Whether none of some steps changes the state. -/
def State.still (s : State) (steps : List (State → State)) : Bool := steps.all fun f => decide (f s = s)

/-- Whether an operation that waits is held, and not merely before a queue that is full or a port that is down: it may not
be attempted yet, it needs a held line, or an access of it waits for the window of a tentative block (R107, R197, R200). -/
def State.waitsHeld (s : State) (c w : Nat) (o : Op) : Bool :=
  match s.opCtx? c w o.num with
  | none => true
  | some k =>
    !s.mayAttempt c k || o.stall || (s.core c).holdsStore w o.num
      || (s.touches c k).any fun t => (pageSpans t.va t.n).any fun p =>
        match s.translate (some c) (dieOf c) k.root t.acc p.1 with
        | .ok x => s.windowHeld c k.b.slot ⟨x, p.1, p.2⟩
        | .error _ => false

/-- Whether an operation needs no more time before its context is saved: it has resolved, it stands in the
fault buffer, or it is held and not performed (R129, R200). -/
def State.opRests (s : State) (c w : Nat) (o : Op) : Bool :=
  match o.status with
  | .done => true
  | .failed .. => true
  | .sent => false
  | .failing .. => false
  | .inFault => s.still [fun s => s.faultEntry c w o.num]
  | .waiting =>
    (match o.work with
      | .waitph .. => false
      | _ => true)
      && s.waitsHeld c w o && s.still [fun s => s.returnLoad c w o.num, fun s => s.acceptStore c w o.num,
        fun s => s.collierAtomic c w o.num, fun s => s.barrierUpdate c w o.num,
        fun s => s.collierLink c w o.num, fun s => s.collierUnlink c w o.num,
        fun s => s.heldProceed c w o.num, fun s => s.faultEntry c w o.num]

/-- Whether a wave may be saved. One that holds a trap window runs its handler first, whether it has begun or waits for
an access to its frame. -/
def State.waveRests (s : State) (c : Nat) (w : Wave) : Bool :=
  w.win.isNone && !w.winHeld && w.ops.all (s.opRests c w.slot)
    && s.still [fun s => s.resolveHorizon c w.slot, fun s => s.drainHeld c w.slot]
    && !((s.core c).pend.any fun p => p.wave == w.slot)
    && !((s.core c).fragsOf w.slot).any fun f => f.holds

/-- Whether a location lies in the scratchpad of a block. -/
def State.inSpadOf (s : State) (c : Nat) (b : Block) (l : ELoc) (n : Nat) : Bool := !(s.spadSpans c b l n).isEmpty

/-- Where a Bellows command writes and arrives: its destination, which its descriptor names, be it read or not, its barrier,
and the barriers of its release table entries (R242 step 5). -/
def State.collDests (s : State) (m : Comm) (k : CollCmd) : List (ELoc × Nat) :=
  let q : CollCmd := match k.fields, s.collRead k.core k.root.toNat k.block k.desc 32 with
    | none, .ok t => { k with fields := some t.2 }
    | _, _ => k
  (k.bar, 16) :: (if q.op < 7 then (q.dst, if q.fields.isSome then q.destBytes m.nr else 0)
      :: (m.rel.filter fun e => relNames e q.op).map fun e => (ELoc.glob (relBar e), 16)
    else [])

/-- Whether the destination or a barrier of a Bellows command of a core lies in the scratchpad of one of some blocks. -/
def State.collTouches (s : State) (c : Nat) (bs : List Block) (m : Comm) (k : CollCmd) : Bool :=
  (s.collDests m k).any fun e => e.2 != 0 && bs.any fun b =>
    match e.1 with
    | .spad _ => k.block == b.slot
    | _ => s.inSpadOf c b e.1 e.2

/-- Whether the engines of a core have come to rest for a context: no Barrow command and no task of it can
go on, and no command at the Bellows touches its scratchpads. -/
def State.enginesRest (s : State) (c : Nat) (bs : List Block) : Bool :=
  let of (slot : Nat) : Bool := bs.any fun b => b.slot == slot
  (s.core c).cmds.all (fun k => !of k.block
      || s.still [fun s => s.barrowLanding c k.id, fun s => s.wloadLatch c])
    && (List.range 4).all (fun j =>
      let d := 4 * clusterOf c + j
      match (s.kiln d).task with
      | none => true
      | some t => !(t.task.core == c && of t.task.block && !t.stop && !t.away)
          || s.still [fun s => s.kilnBoundary d, fun s => s.kilnComplete d])
    && (s.die (dieOf c)).comms.all fun e => (e.2.queue ++ e.2.closing).all fun k =>
      k.core != c || !s.collTouches c bs e.2 k

/-- Whether the drain of a context is complete. -/
def State.drained (s : State) (c k : Nat) : Bool :=
  let x := s.core c
  let bs := x.blocks.filter fun b => b.ctx == k
  let of (slot : Nat) : Bool := bs.any fun b => b.slot == slot
  x.draining.contains k && x.active == some k
    && (x.waves.filter fun w => of w.block).all (s.waveRests c) && s.enginesRest c bs

/-! ## DRAIN_COMPLETE (R138, R243, R244) -/

/-- Whether a fault buffer entry is of a command that is at the Bellows, or of a matched message, and stays with it. -/
def State.bellowsFault (s : State) (c : Nat) (e : FaultEnt) : Bool :=
  match e.cmd with
  | none => false
  | some id =>
    ((s.die (dieOf c)).comms.any fun m => (m.2.queue ++ m.2.closing).any fun k => k.core == c && k.id == id)
      || (s.die (dieOf c)).landing.any fun m => m.ent.core == c && m.id == id

/-- The state that is saved for the context in a slot. -/
def State.savedCtx (s : State) (c k : Nat) : SavedCtx :=
  let x := s.core c
  let slot := x.ctxSlot k
  let bs := x.blocks.filter fun b => b.ctx == k
  let inBlock (b : Nat) : Bool := bs.any fun y => y.slot == b
  let ws := x.waves.filter fun w => inBlock w.block
  let ofWave (w : Nat) : Bool := ws.any fun y => y.slot == w
  let mine (r : HRec) : Bool := r.core == c && inBlock r.block
  let faults := (x.faults.map fun e => e.2) ++ x.faultWait
  { core := c, ctxid := slot.ctxid, slotIdx := k, root := slot.root, tfp := slot.tfp, blocks := bs, waves := ws,
    frags := ((x.frags.drop x.vptr ++ x.frags.take x.vptr).filter fun f => ofWave f.wave).map fun f =>
      { f with skip := 0 },
    held := x.held.filter fun h => ofWave h.wave,
    binds := (x.binds.filter fun e => inBlock e.2.slot).map fun e => e.2,
    faults := faults.filter fun e => ofWave e.wave && !s.bellowsFault c e,
    cmds := x.cmds.filter fun q => inBlock q.block,
    arms := (s.die (dieOf c)).arms.filter fun a => a.core == c && a.ctxid == slot.ctxid,
    kiln := { x.kiln with task := x.kiln.task.filter fun t => mine t.task && !t.away, reserved := none },
    recs := ((s.cluster (clusterOf c)).ring.filter mine).map fun r => { r with registered := false },
    queue := x.trapQueue.filter ofWave,
    away := (List.range 4).filterMap fun j =>
      let d := 4 * clusterOf c + j
      match (s.kiln d).task with
      | some t => if d ≠ c ∧ mine t.task ∧ !t.stop ∧ !t.away then some d else none
      | none => none,
    joins := s.joins.filter fun r => r.spad && r.core == c && inBlock r.block,
    regs := (s.groupRegs ++ s.groups.flatten).filter fun g => mine g.task,
    issued := x.streams.flatMap fun e =>
      (e.2.issued.filter fun q => ofWave q.1 && x.toSend e.1 q).map fun q => (e.1, q),
    allocs := [], draws := [], stream := x.reqs.any fun r => r.slot == k && r.stream,
    resume := x.reqs.any fun r => r.slot == k && r.staram && !r.software && r.launch.isNone }

/-- A core without what has been saved of its context. A Kiln that runs another core's task keeps it: the task has its
weights with it. -/
def Core.withoutSaved (x : Core) (v : SavedCtx) : Core :=
  let ofWave (w : Nat) : Bool := v.waves.any fun y => y.slot == w
  let inBlock (b : Nat) : Bool := v.blocks.any fun y => y.slot == b
  let x := v.frags.foldl (fun x f => x.dequeue f.id) x
  let x := x.dropFaults fun e => v.faults.contains e
  { x with
    active := none, reqs := x.reqs.filter fun r => r.slot != v.slotIdx,
    draining := x.draining.filter fun j => j != v.slotIdx, shadows := x.shadows ++ [v],
    blocks := x.blocks.filter fun b => b.ctx != v.slotIdx, waves := x.waves.filter fun w => !ofWave w.slot,
    held := x.held.filter fun h => !ofWave h.wave, binds := x.binds.filter fun e => !inBlock e.2.slot,
    cmds := x.cmds.filter fun q => !inBlock q.block, trapQueue := x.trapQueue.filter fun w => !ofWave w,
    streams := x.streams.map fun e => (e.1, { e.2 with issued := e.2.issued.filter fun q => !ofWave q.1 }),
    kiln := { Kiln.reset with reserved := x.kiln.reserved,
                              task := if v.kiln.task.isSome then none else x.kiln.task } }

/-- Tasks of a context that stay in the Kilns of other cores are out of reach until it is restored. -/
def State.markAway (s : State) (cores : List Nat) (away : Bool) : State :=
  cores.foldl (fun s d => s.updTask d fun t => { t with away := away }) s

/-- A shadow context that a restore names becomes the active one (R244). -/
def State.restorePending (s : State) (c : Nat) : Option SavedCtx :=
  (s.core c).shadows.find? fun v => s.restoreReqs.any fun r => r.1 == v.ctxid && r.2 == c

/-- The context in a slot of a core is saved. A registered member of a cooperative group leaves its registration, its group is
complete no more and loses its place, and the member registers anew after the restore: R219 and R243 do not speak of it
(DESIGN CHOICE, log 20). -/
def State.saveContext (s : State) (c k : Nat) : State :=
  let v := s.savedCtx c k
  let mine (r : HRec) : Bool := r.core == c && v.blocks.any fun b => b.slot == r.block
  let s := s.unregister mine
  let s := s.updCluster (clusterOf c) fun x => { x with ring := x.ring.filter fun r => !mine r }
  let s := s.updDie (dieOf c) fun d => { d with arms := d.arms.filter fun a => !v.arms.contains a }
  let s := (s.markAway v.away true).updCore c fun x => x.withoutSaved v
  let s := { s with joins := s.joins.filter fun r => !v.joins.contains r,
                    eventQ := s.eventQ ++ [(⟨2, v.ctxid, ccid c, 0⟩ : Event)] }
  s.refillFaults c

/-! ## CONTEXT_RESTORE (R129, R138, R157, R160, R237, R245) -/

/-- How numbers of a core change for a context that is restored from its save area: its block slots and wave slots
by their old ones. -/
structure Rekey where
  core : Nat
  frag : Nat
  cmd : Nat
  blocks : List (Nat × Nat)
  waves : List (Nat × Nat)

/-- The number that stands for an old one. -/
def renamed (l : List (Nat × Nat)) (n : Nat) : Nat := ((l.find? fun e => e.1 == n).map fun e => e.2).getD n

def Rekey.block (k : Rekey) (b : Nat) : Nat := renamed k.blocks b
def Rekey.slot (k : Rekey) (w : Nat) : Nat := renamed k.waves w

def Rekey.hrec (k : Rekey) (r : HRec) : HRec :=
  { r with core := k.core, id := r.id + k.cmd, block := k.block r.block, wave := k.slot r.wave }
def Rekey.op (k : Rekey) (o : Op) : Op := { o with frags := o.frags.map fun f => f + k.frag }
def Rekey.wave (k : Rekey) (w : Wave) : Wave :=
  { w with slot := k.slot w.slot, block := k.block w.block, ops := w.ops.map k.op,
           trap := w.trap.map fun t => { t with frag := t.frag + k.frag } }
def Rekey.task (k : Rekey) (t : KTask) : KTask := { t with task := k.hrec t.task, away := false }
def Rekey.cmdOf (k : Rekey) (q : EngCmd) : EngCmd :=
  { q with id := q.id + k.cmd, block := k.block q.block, wave := k.slot q.wave }
def Rekey.landing (k : Rekey) (l : Landing) : Landing :=
  { l with wave := k.slot l.wave, cmd := l.cmd + k.cmd, fault := l.fault.map fun n => n + k.cmd }
def Rekey.arm (k : Rekey) (a : MatchEnt) : MatchEnt :=
  { a with core := k.core, block := k.block a.block, wave := k.slot a.wave }

/-- A saved context under the numbers that it has on its core. -/
def Rekey.saved (k : Rekey) (v : SavedCtx) (slot : Nat) : SavedCtx :=
  { v with
    core := k.core, slotIdx := slot,
    tfp := if v.tfp = 0 then 0 else v.tfp + BitVec.ofNat 64 (4096 * k.core) - BitVec.ofNat 64 (4096 * v.core),
    blocks := v.blocks.map fun b =>
      { b with ctx := slot, slot := k.block b.slot, lands := b.lands.map k.landing },
    waves := v.waves.map k.wave,
    frags := v.frags.map fun f => { f with id := f.id + k.frag, wave := k.slot f.wave },
    held := v.held.map fun h => { h with wave := k.slot h.wave },
    binds := v.binds.map fun e => { e with slot := k.block e.slot },
    faults := v.faults.map fun e => { e with cmd := e.cmd.map fun q => q + k.cmd, wave := k.slot e.wave },
    cmds := v.cmds.map k.cmdOf, arms := v.arms.map k.arm, kiln := { v.kiln with task := v.kiln.task.map k.task },
    recs := v.recs.map k.hrec, queue := v.queue.map k.slot,
    joins := v.joins.map fun (r : JoinRec) => { r with core := k.core, block := k.block r.block },
    issued := v.issued.map fun e => (e.1, k.slot e.2.1, e.2.2), allocs := v.allocs.map k.block,
    draws := v.draws.map fun q => { q with core := k.core, wave := k.slot q.wave } }

/-- Free numbers for old ones: each its own where it is free, else the lowest that are (DEDUCED, log 24). -/
def assign (free old : List Nat) : List (Nat × Nat) :=
  let own := old.filter free.contains
  own.map (fun n => (n, n)) ++ (old.filter fun n => !own.contains n).zip (free.filter fun n => !own.contains n)

/-- The numbers for a context that enters a core from its save area. -/
def State.rekeyFor (s : State) (c : Nat) (v : SavedCtx) : Rekey :=
  let x := s.core c
  { core := c, frag := if v.core = c then 0 else x.nextFrag, cmd := if v.core = c then 0 else x.nextCmd,
    blocks := assign x.freeBlocks (v.blocks.map fun b => b.slot),
    waves := assign x.freeWaves (v.waves.map fun w => w.slot) }

/-- Whether a core has the room that a context needs to enter it from its save area (R245; DEDUCED, log 24). -/
def State.entryFits (s : State) (c : Nat) (v : SavedCtx) : Bool :=
  let x := s.core c
  x.enabled && !s.dieGated (dieOf c) && !s.inChange c
    && x.ctxs.any (fun k => !k.used) && !(x.ctxs.any fun k => k.used && k.ctxid == v.ctxid)
    && decide (v.blocks.length ≤ x.freeBlocks.length) && decide (v.waves.length ≤ x.freeWaves.length)
    && decide (x.fragCount + v.frags.length ≤ 256)
    && decide (x.backedSum + (v.blocks.map fun b => b.backed).sum ≤ 96)
    && decide (x.commitSum + (v.blocks.map fun b => b.commit).sum ≤ 96)

/-- Whether a context can be made active on a core: no other is, its binding entries and its armed entries have
room, and its paused task has its Kiln. Without room in the matching table or the ring it waits (DESIGN CHOICE,
log 68). -/
def State.turnFits (s : State) (c : Nat) (v : SavedCtx) : Bool :=
  let x := s.core c
  x.enabled && !s.dieGated (dieOf c) && !s.inChange c && x.active.isNone
    && decide (x.binds.length + v.binds.length ≤ 32)
    && (v.kiln.task.isNone || (x.kiln.task.isNone && x.kiln.reserved.isNone))
    && decide ((s.die (dieOf c)).arms.length + v.arms.length ≤ 256)
    && decide ((s.cluster (clusterOf c)).ring.length + v.recs.length ≤ 256)

/-- Whether a core has the room that a context needs, resident there or not. -/
def State.restoreFits (s : State) (c : Nat) (v : SavedCtx) (resident : Bool) : Bool :=
  s.turnFits c v && (resident || s.entryFits c v)

/-- Binding entries enter the free entries in their order. -/
def fillBinds (m : Map BindEnt) (l : List BindEnt) : Map BindEnt :=
  l.foldl (fun m e =>
    match (List.range 32).find? fun k => (Map.find m k).isNone with
    | some k => Map.put m k e
    | none => m) m

/-- A core with a context in one of its slots. -/
def Core.withSlot (x : Core) (v : SavedCtx) : Core :=
  let most (l : List Nat) : Nat := l.foldl max 0
  { x with
    ctxs := updAt x.ctxs v.slotIdx fun _ => { used := true, root := v.root, tfp := v.tfp, ctxid := v.ctxid },
    nextFrag := max x.nextFrag (most (v.frags.map fun f => f.id + 1)),
    nextCmd := max x.nextCmd (most ((v.cmds.map fun q => q.id + 1) ++ (v.recs.map fun r => r.id + 1)
      ++ (v.blocks.flatMap fun b => b.lands.map fun l => max l.cmd (l.fault.getD 0) + 1)
      ++ v.kiln.task.toList.map fun t => t.task.id + 1)) }

/-- A core with a saved context active again. -/
def Core.restored (x : Core) (v : SavedCtx) : Core :=
  let x := { x with
    active := some v.slotIdx, shadows := x.shadows.filter fun u => u.slotIdx != v.slotIdx,
    blocks := x.blocks ++ v.blocks, waves := x.waves ++ v.waves,
    held := x.held ++ v.held, binds := fillBinds x.binds v.binds, trapQueue := x.trapQueue ++ v.queue,
    cmds := x.cmds ++ v.cmds,
    kiln := { v.kiln with reserved := x.kiln.reserved,
                          task := if v.kiln.task.isSome then v.kiln.task else x.kiln.task } }
  let x := v.frags.foldl (fun x f => x.enqueue f) x
  v.issued.foldl (fun x e => x.noteRst e.1 e.2) x

/-- Other tasks that use the activations of a restored task name it anew. -/
def KTask.renameLeader (t : KTask) (old : HRec) (k : Rekey) : KTask :=
  { t with leader := t.leader.map fun r => if r.same old then k.hrec r else r }

/-- The records of a context that tasks elsewhere may name: those of its tasks, in its own Kiln and away. -/
def State.tasksOf (s : State) (v : SavedCtx) : List HRec :=
  (v.kiln.task.toList.map fun t => t.task) ++ v.away.filterMap fun d => (s.kiln d).task.map fun t => t.task

def State.renameLeaders (s : State) (v : SavedCtx) (k : Rekey) : State :=
    let olds := s.tasksOf v
    let kiln (x : Kiln) : Kiln := { x with task := x.task.map fun t => olds.foldl (fun t r => t.renameLeader r k) t }
    let ctx (u : SavedCtx) : SavedCtx := { u with kiln := kiln u.kiln }
    { s with
      cores := s.cores.map fun e => (e.1, { e.2 with kiln := kiln e.2.kiln, shadows := e.2.shadows.map ctx }),
      saved := s.saved.map ctx }

/-- Commands of the context that went on at a Bellows answer to its new core. -/
def CollCmd.rekeyed (q : CollCmd) (v : SavedCtx) (k : Rekey) : CollCmd :=
  if q.core = v.core ∧ q.ctxid = v.ctxid ∧ (v.blocks.any fun b => b.slot == q.block) ∧ !q.inFault then
    { q with core := k.core, id := q.id + k.cmd, block := k.block q.block, wave := k.slot q.wave }
  else q

/-- The arrival of such a command that waits at a die does too. -/
def MatchLand.rekeyed (m : MatchLand) (v : SavedCtx) (k : Rekey) : MatchLand :=
  if m.arrives ∧ m.ent.core = v.core ∧ m.ent.ctxid = v.ctxid ∧ (v.blocks.any fun b => b.slot == m.ent.block)
      ∧ !m.inFault then
    { m with ent := k.arm m.ent, id := m.id + k.cmd }
  else m

def State.rekeyComms (s : State) (v : SavedCtx) (k : Rekey) : State :=
  let comm (m : Comm) : Comm := { m with queue := m.queue.map fun q => q.rekeyed v k,
                                         closing := m.closing.map fun q => q.rekeyed v k }
  { s with dies := s.dies.map fun d =>
      (d.1, { d.2 with comms := d.2.comms.map (fun e => (e.1, comm e.2)),
                       landing := d.2.landing.map fun m => m.rekeyed v k }) }

/-- The cores at which tasks of a context stay know it by its new numbers. -/
def State.rekeyAway (s : State) (v : SavedCtx) (k : Rekey) : State :=
  v.away.foldl (fun s d => s.updTask d fun t => { k.task t with away := true }) s

/-- A context comes from its save area into a free slot of a core: its numbers there are settled, and what it finds in
the caches of its new core is what stands at the homes. The answer has the context under these numbers. -/
def State.enterCore (s : State) (c slot : Nat) (v : SavedCtx) : State × SavedCtx :=
  let k := s.rekeyFor c v
  let u := k.saved v slot
  let s := if v.core = c then s else s.flushHome c fun _ _ => true
  let s := (((s.renameLeaders v k).rekeyComms v k).rekeyAway v k).updCore c fun x =>
    let y := x.withSlot u
    { y with allocs := x.allocs ++ u.allocs, nextCmd := max y.nextCmd (k.cmd + (s.core v.core).nextCmd) }
  ({ s with drawReqs := s.drawReqs ++ u.draws }, { u with allocs := [], draws := [] })

/-- What waited for the confirmation of blocks that have been confirmed meanwhile. -/
def State.releaseConfirmed (s : State) (c : Nat) (v : SavedCtx) : State :=
  (v.blocks.filter fun b => !b.tent).foldl (fun s b => s.released c b.slot) s

/-- A context of a core becomes the active one, as it was saved. -/
def State.makeActive (s : State) (c : Nat) (v : SavedCtx) : State :=
  let s := (s.updCore c fun x => x.restored v).markAway v.away false
  let s := s.updCluster (clusterOf c) fun x => { x with ring := x.ring ++ v.recs }
  let s := s.updDie (dieOf c) fun d => { d with arms := d.arms ++ v.arms }
  let s := { s with joins := s.joins ++ v.joins }
  let s := v.faults.foldl (fun s e => s.takeFault c e) s
  s.releaseConfirmed c v

/-- A context enters a slot of a core and is active there: from a shadow, or from its save area. -/
def State.enterContext (s : State) (c slot : Nat) (v : SavedCtx) : State :=
  if (s.core c).shadows.any fun u => u.slotIdx == slot then s.makeActive c v
  else
    let r := s.enterCore c slot v
    r.1.makeActive c r.2

/-- A context enters a slot of a core as a shadow, beside the active one: it becomes active when that one has been
drained (R244). -/
def State.enterShadow (s : State) (c slot : Nat) (v : SavedCtx) : State :=
  let r := s.enterCore c slot v
  (r.1.updCore c fun x => { x with shadows := x.shadows ++ [r.2] }).releaseConfirmed c r.2

/-- A restore has been carried out: it is reported, and its request is gone. -/
def State.reportRestore (s : State) (c : Nat) (ctxid : BitVec 16) : State :=
  { s with restoreReqs := s.restoreReqs.erase (ctxid, c), eventQ := s.eventQ ++ [⟨4, ctxid, ccid c, 0⟩] }

/-- CONTEXT_RESTORE: a requested context becomes active on a core, from a shadow there or from its save area; of several
with one identifier, saved from different cores, the first that was saved (DESIGN CHOICE, log 97). Beside an active
context it comes into the pool as a shadow, and its request stands. -/
def State.contextRestore (s : State) (c : Nat) (ctxid : BitVec 16) : State :=
  if !s.restoreReqs.contains (ctxid, c) then s
  else
    match (s.core c).shadows.find? fun v => v.ctxid == ctxid with
    | some v =>
      if s.restoreFits c v true then (s.enterContext c v.slotIdx v).reportRestore c ctxid else s
    | none =>
      match s.saved.find? (fun v => v.ctxid == ctxid), (s.core c).ctxs.findIdx? fun k => !k.used with
      | some v, some slot =>
        let t := { s with saved := s.saved.erase v }
        if s.restoreFits c v false then (t.enterContext c slot v).reportRestore c ctxid
        else if (s.core c).active.isSome && s.entryFits c v then t.enterShadow c slot v
        else s
      | _, _ => s

def execContextRestore (core ctx : Nat) (s : State) : Host.Outcome State Fault Refusal :=
  if coreCount ≤ core then .fault .noSuchUnit else .next (s.contextRestore core (BitVec.ofNat 16 ctx))

/-- The core that a CCID names, if it exists (R154). Bits [5:2] are reserved and ignored (R8). -/
def ccidCore (v : Nat) : Option Nat :=
  if 40 ≤ bitsOf v 6 6 then none
  else some (160 * bitsOf v 12 3 + 4 * bitsOf v 6 6 + bitsOf v 0 2)

/-- RESTORE_WRITE: bits [15:0] name the context and bits [46:32] the core (R396). -/
def State.restoreWrite (s : State) (v : DWord) : State :=
  match ccidCore (bitsOf v.toNat 32 15) with
  | none => s
  | some c =>
    let r := (v.extractLsb' 0 16, c)
    if s.restoreReqs.contains r then s else { s with restoreReqs := s.restoreReqs ++ [r] }

def execRestoreWrite (value : DWord) (s : State) : Host.Outcome State Fault Refusal := .next (s.restoreWrite value)

/-- DRAIN_COMPLETE: the drained context is saved and reported; a resident context that a restore names is
switched to. -/
def State.drainComplete (s : State) (c k : Nat) : State :=
  if !s.drained c k then s
  else
    let s := s.saveContext c k
    match s.restorePending c with
    | some v => if v.slotIdx = k then s else s.contextRestore c v.ctxid
    | none => s

def execDrainComplete (core slot : Nat) (s : State) : Host.Outcome State Fault Refusal :=
  if coreCount ≤ core then .fault .noSuchUnit else .next (s.drainComplete core slot)

/-! ## CONTEXT_STREAM_OUT (R244) -/

/-- The place of a context's save area; 0 where it has none, or where the table cannot be read. -/
def State.saveArea (s : State) (ctxid : BitVec 16) : Nat :=
  (s.homeQuad (s.host.savetab.toNat + 8 * ctxid.toNat)).getD 0

/-- A shadow context that is to stream out leaves its core: dirty bytes go to their homes, its pins go, its requests
at the Stoker wait, and its granules and slots are free (DEDUCED, log 24). -/
def State.streamOut (s : State) (c k : Nat) : State :=
  match (s.core c).shadows.find? fun v => v.slotIdx == k with
  | none => s
  | some v =>
    if !v.stream || s.saveArea v.ctxid == 0 then s
    else
      let s := v.blocks.foldl (fun s b => s.dropPins c b) (s.flushHome c fun _ _ => true)
      let inBlock (b : Nat) : Bool := v.blocks.any fun y => y.slot == b
      let draws (q : DrawReq) : Bool := q.core == c && v.waves.any fun w => w.slot == q.wave
      let v' := { v with stream := false, blocks := v.blocks.map (fun b => { b with pins := [] }),
                         allocs := (s.core c).allocs.filter inBlock, draws := s.drawReqs.filter draws }
      let s := s.updCore c fun x =>
        Core.freeSlot { x with shadows := x.shadows.filter (fun u => u.slotIdx != k),
                               allocs := x.allocs.filter fun b => !inBlock b } k
      { s with saved := s.saved ++ [v'], eventQ := s.eventQ ++ [⟨3, v.ctxid, ccid c, 0⟩],
               drawReqs := s.drawReqs.filter fun q => !draws q }

def execContextStreamOut (core ctx : Nat) (s : State) : Host.Outcome State Fault Refusal :=
  if coreCount ≤ core then .fault .noSuchUnit else .next (s.streamOut core ctx)

/-! ## Translation invalidations (R154, R155) -/

def execXinvWrite (core : Nat) (value : DWord) (s : State) : Host.Outcome State Fault Refusal :=
  if coreCount ≤ core then .fault .noSuchUnit else .next (s.xinvPush core value)

/-- XINV_COMPLETE: the invalidation in progress has reached the caches that it names. An access after it walks again, so
that no entry of the die's cache, which answers the core's misses, is left either (R155; DEDUCED, log 80). -/
def State.xinvComplete (s : State) (c : Nat) : State :=
  match (s.core c).xinv with
  | [] => s
  | v :: r =>
    (s.updCore c fun x => { x with xinv := r, tlb := xinvLeaves v x.tlb }).updDie (dieOf c) fun d =>
      { d with tlb := xinvLeaves v d.tlb }

def execXinvComplete (core : Nat) (s : State) : Host.Outcome State Fault Refusal :=
  if coreCount ≤ core then .fault .noSuchUnit else .next (s.xinvComplete core)

def execIinvWrite (core : Nat) (value : Word) (s : State) : Host.Outcome State Fault Refusal :=
  if coreCount ≤ core then .fault .noSuchUnit else .next (s.iinv core value.toNat)

end Sys2Proof.Machine
end

