-- ==== Sys2Proof/Machine/Auto.lean ====
section
/-! DEFINITION. The steps that units of the module may take of their own accord, in the order in
which an empty agenda tries them (DESIGN CHOICE, log 1). A step whose condition does not hold has no effect. -/

namespace Sys2Proof.Machine

/-- The steps that concern one outstanding operation of a wave. -/
def opSteps (c w : Nat) (o : Op) : List Instr :=
  match o.status with
  | .waiting =>
    [.loadReturn c w o.num, .storeAccept c w o.num, .collierAtomic c w o.num,
     .barrierUpdate c w o.num, .collierLink c w o.num, .collierUnlink c w o.num,
     .heldOperationProceed c w o.num, .faultBufferEntry c w o.num]
  | .sent => [.rmoPerform c w o.num none, .rmoResponse c w o.num]
  | .failing .. => [.failureRetry c w o.num]
  | .inFault => [.faultBufferEntry c w o.num]
  | .failed .. => []
  | .done => []

/-- The steps of a core. -/
def coreSteps (c : Nat) (x : Core) : List Instr :=
  x.waves.flatMap (fun w =>
      (w.ops.flatMap fun o => opSteps c w.slot o)
        ++ [.horizonResolution c w.slot, .heldLineDrain c w.slot, .trapEntry c w.slot])
    ++ (x.frags.map fun f => Instr.waitphWake c f.id)
    ++ (List.range x.pend.length).flatMap (fun k =>
      [.sfuComplete c k, .crossLaneComplete c k, .scratchpadLoadResult c k])
    ++ (x.cmds.map fun k => Instr.barrowLanding c k.id)
    ++ [.wloadLatch c, .kilnBoundary c, .kilnTaskComplete c, .allotmentGrant c, .xinvComplete c]
    ++ (x.reqs.map fun r => Instr.preemptionDrain c r.slot) ++ (x.draining.map fun k => Instr.drainComplete c k)
    ++ (x.shadows.map fun v => Instr.contextStreamOut c v.slotIdx)
    ++ (x.blocks.map fun b => Instr.blockEnd c b.slot)
    ++ (x.streams.flatMap fun t => [Instr.remoteStorePerform (.own c t.1), .remoteAck c t.1, .remoteAckTimer c t.1]
        ++ t.2.acks.map fun a => Instr.acknowledgementArrival c t.1 a)

/-- The steps of a cluster's Hearth. -/
def clusterSteps (k : Nat) (x : Cluster) : List Instr :=
  (List.range x.ring.length).flatMap fun p =>
    [Instr.groupRegistration k p, .hearthGateCheck k p]
      ++ (List.range 4).map fun j => Instr.hearthDispatch k p j

/-- The steps of a die's Bellows. -/
def dieSteps (d : Nat) (x : Die) : List Instr :=
  Instr.bellowsChunk d :: x.comms.flatMap fun c =>
    [Instr.commOpenApply d c.1, .commCloseApply d c.1, .bellowsHeaderExchange d c.1 [],
     .bellowsStepComplete d c.1 []]

/-- Every step that a unit may take of its own accord. -/
def State.unitSteps (s : State) : List Instr :=
  s.cores.flatMap (fun e => coreSteps e.1 e.2)
    ++ s.clusters.flatMap (fun e => clusterSteps e.1 e.2)
    ++ s.dies.flatMap (fun e => dieSteps e.1 e.2)
    ++ [.shapeNotification, .fetchwDraw, .groupDispatch, .stokerTake]
    ++ (s.launches.map fun l => Instr.launchEnd l.id)
    ++ ((s.placementCore s.offerOrder).toList.map fun c => Instr.blockPlacement c)
    ++ (s.restoreReqs.map fun r => Instr.contextRestore r.2 r.1.toNat)
    ++ [.eventRecordWrite]

end Sys2Proof.Machine
end

