-- ==== Sys2Proof/Machine/Errors.lean ====
section
/-! DEFINITION. Errors of the arrays, and lines and translations that a cache drops of its own accord (R75,
R76, R99, R105, R107, R108, R110, R115, R127, R130, R153, R402). -/

namespace Sys2Proof.Machine

def State.updCnt (s : State) (c : Nat) (f : CoreCnt → CoreCnt) : State :=
  s.updCore c fun x => { x with cnt := f x.cnt }

/-! ## Registers (R75, R76) -/

/-- Whether a part is one of the wave's registers, or of the trap window that it holds (R92). `p0` has no storage
(R74). -/
def Wave.hasPart (w : Wave) (p : RegPart) : Bool :=
  match p with
  | .vec r l _ => decide (r < w.budget) && decide (l < 64)
  | .uni r => decide (r < 128)
  | .addr r _ => decide (r < 16)
  | .pred k g => decide (0 < k) && decide (k < 8) && decide (g < 8)
  | .winVec r l _ => w.win.isSome && decide (r < 32) && decide (l < 64)
  | .winUni r => w.win.isSome && decide (r < 32)
  | .winAddr r _ => w.win.isSome && decide (r < 4)
  | .winPred k g => w.win.isSome && decide (0 < k) && decide (k < 8) && decide (g < 8)

/-- The poison bits of a vector element with one more half poisoned. -/
def poisonVec (m : Map (BitVec 2)) (r l : Nat) (up : Bool) : Map (BitVec 2) :=
  Map.put m (64 * r + l) (Map.get m (64 * r + l) 0 ||| if up then 2#2 else 1#2)

def Wave.updWin (w : Wave) (f : Window → Window) : Wave := { w with win := w.win.map f }

/-- The poison bit of a part is set. -/
def Wave.poison (w : Wave) (p : RegPart) : Wave :=
  match p with
  | .vec r l up => { w with vPoison := poisonVec w.vPoison r l up }
  | .uni r => { w with sPoison := listSet w.sPoison r true }
  | .addr r up => { w with aPoison := listSet w.aPoison (2 * r + up.toNat) true }
  | .pred k g => { w with pPoison := listSet w.pPoison (8 * k + g) true }
  | .winVec r l up => w.updWin fun n => { n with vPoison := poisonVec n.vPoison r l up }
  | .winUni r => w.updWin fun n => { n with sPoison := listSet n.sPoison r true }
  | .winAddr r up => w.updWin fun n => { n with aPoison := listSet n.aPoison (2 * r + up.toNat) true }
  | .winPred k g => w.updWin fun n => { n with pPoison := listSet n.pPoison (8 * k + g) true }

/-- RF_UNCORRECTABLE_ERROR: the part is poisoned and the error counted, in a wave of a shadow context too (R76, R244). -/
def State.rfError (s : State) (c w : Nat) (p : RegPart) : State :=
  match (s.core c).anyWave? w with
  | none => s
  | some y =>
    if !y.hasPart p then s
    else (s.updCore c fun x => x.mapWaves fun y => if y.slot = w then y.poison p else y).updCnt c fun k =>
      { k with rfPoison := satInc k.rfPoison }

def execRfUncorrectableError (core wave : Nat) (part : RegPart) (s : State) : Host.Outcome State Fault Refusal :=
  if coreCount ≤ core then .fault .noSuchUnit else .next (s.rfError core wave part)

/-- An error in one bit of a register is corrected and counted. -/
def State.rfCorrected (s : State) (c : Nat) : State :=
  s.updCnt c fun k => { k with rfCorrected := satInc k.rfCorrected }

/-- BACKGROUND_SCRUB: what the scrub finds acts as a read would find it. -/
def execBackgroundScrub (core : Nat) (finding : ScrubFinding) (s : State) : Host.Outcome State Fault Refusal :=
  if coreCount ≤ core then .fault .noSuchUnit
  else .next (match finding with
    | .corrected => s.rfCorrected core
    | .uncorrectable wave part => s.rfError core wave part)

/-! ## Scratchpad (R99) -/

/-- SPAD_UNCORRECTABLE_ERROR: a word of a block's scratchpad is poisoned, and the error counted. -/
def State.spadError (s : State) (c b n : Nat) : State :=
  match (s.core c).anyBlock? b with
  | none => s
  | some y =>
    if !y.spadOk (4 * n) 4 then s
    else (s.updCore c fun x => x.updAnyBlock b fun y => { y with spadPoison := listSet y.spadPoison n true }).updCnt c
      fun k => { k with spadPoison := satInc k.spadPoison }

/-- The same in a word of a block's accumulator region. -/
def State.accError (s : State) (c b n : Nat) : State :=
  match (s.core c).anyBlock? b with
  | none => s
  | some y =>
    if y.accBound < 4 * n + 4 then s
    else (s.updCore c fun x => x.updAnyBlock b fun y => { y with accPoison := listSet y.accPoison n true }).updCnt c
      fun k => { k with spadPoison := satInc k.spadPoison }

def execSpadUncorrectableError (core slot word : Nat) (s : State) : Host.Outcome State Fault Refusal :=
  if coreCount ≤ core then .fault .noSuchUnit else .next (s.spadError core slot word)

/-! ## Lines of the data caches (R105, R108, R130) -/

def inLine (line : Nat) (k : Nat) (_ : CByte) : Bool := k / 128 == line

/-- What a cache holds of a line. -/
def lineHeld (m : Map CByte) (line : Nat) : Map CByte := m.filter fun e => inLine line e.1 e.2

/-- The poison bits of the units that hold some keys are set: 32-byte sectors of the fast tier, 64-byte
lines of an expander. -/
def State.poisonHome (s : State) (keys : List Nat) : State :=
  let add (l : List Nat) (n : Nat) : List Nat := listSet l n true
  keys.foldl (fun s k =>
    if placeClass k = 1 then { s with capPoison := add s.capPoison (k / 64) }
    else { s with secPoison := add s.secPoison (k / 32) }) s

/-- The dirty bytes of a line that is lost go to their homes, poisoned. Behind a port that is down no byte is
written, but the poison is set. -/
def State.loseDirty (s : State) (held : Map CByte) : State :=
  let dirty := held.filter fun e => e.2.dirty
  let s := s.writeHome (dirty.map fun e => (s.placeOf e.1, e.2.val))
  s.poisonHome (dirty.map fun e => e.1)

/-- Sectors of an L1 line that held data written by the core are lost: what of them is in the caches goes, what is dirty
in the L2 below goes home, and they are poisoned there (R108). -/
def State.loseSectors (s : State) (c : Nat) (sectors : List Nat) : State :=
  let gone (k : Nat) (_ : CByte) : Bool := sectors.contains (k / 32)
  let s := (s.l1WriteBack c gone).updCore c fun x => { x with l1 := dropBytes x.l1 gone }
  let below := (s.die (dieOf c)).l2.filter fun e => sectors.contains (e.1 / 32)
  let s := s.updDie (dieOf c) fun x => { x with l2 := dropBytes x.l2 gone }
  ((s.loseDirty below).poisonHome (sectors.map fun n => 32 * n)).updCnt c
    fun k => { k with cachePoison := satInc k.cachePoison }

/-- An uncorrectable error in an ordinary line of an L1. A clean line is dropped, and the access that meets the error
fetches it again as a transient failure; of a line with data written by the core, the sectors written are
lost, in the L2 below as well. -/
def State.l1LineError (s : State) (c line : Nat) : State :=
  let sectors := ((lineHeld (s.core c).l1 line).filter fun e => e.2.dirty).map fun e => e.1 / 32
  let s := (s.l1WriteBack c (inLine line)).updCore c fun x => { x with l1 := dropBytes x.l1 (inLine line) }
  if sectors.isEmpty then s.updCnt c fun k =>
    { k with cacheRefetch := satInc k.cacheRefetch, transient := satInc k.transient }
  else s.loseSectors c sectors

/-- The bytes that a held store keeps of a line. -/
def HeldStore.inLine (h : HeldStore) (line : Nat) : List (Nat × Byte) :=
  h.bytes.filter fun e => e.1 / 128 == line && decide (placeClass e.1 < 2)

/-- The waves with held lines of a number (R107). -/
def Core.holders (x : Core) (line : Nat) : List Nat :=
  ((x.held.filter fun h => !(h.inLine line).isEmpty).map fun h => h.wave).eraseDups

/-- A held store without its bytes of a line; what is left of it is two stores where the line was in its middle. -/
def HeldStore.without (h : HeldStore) (line : Nat) : List HeldStore :=
  let part (bs : List (Nat × Byte)) (at_ : Nat) : List HeldStore :=
    if bs.isEmpty then [] else [{ h with bytes := bs, va := h.va + BitVec.ofNat 64 at_ }]
  let low := h.bytes.takeWhile fun e => decide (e.1 / 128 < line)
  let high := h.bytes.filter fun e => decide (line < e.1 / 128)
  part low 0 ++ part high (h.bytes.length - high.length)

/-- An uncorrectable error in the held line of a wave: the sectors that its stores have written are lost (R107, R108;
DEDUCED, log 93). -/
def State.heldError (s : State) (c line w : Nat) : State :=
  let mine := (s.core c).held.filter fun h => h.wave == w && !(h.inLine line).isEmpty
  let sectors := (mine.flatMap fun h => (h.inLine line).map fun e => e.1 / 32).eraseDups
  let s := s.updCore c fun x => { x with held := x.held.flatMap fun h =>
    if h.wave == w && !(h.inLine line).isEmpty then h.without line else [h] }
  s.loseSectors c sectors

/-- An uncorrectable error in an L1: in a line of the number given, or in one that is held for a wave (R108). -/
def State.l1Error (s : State) (c line : Nat) : State :=
  let x := s.core c
  let lines := (if (lineHeld x.l1 line).isEmpty then [] else [none]) ++ (x.holders line).map some
  match lines[Config.errorLine s.tick % lines.length]? with
  | none => s
  | some none => s.l1LineError c line
  | some (some w) => s.heldError c line w

/-- The same in an L2, counted on its die. The access that meets the error of a clean line is a transient of a core;
`c` names one of the die (R108; DESIGN CHOICE, log 79). -/
def State.l2Error (s : State) (d line c : Nat) : State :=
  let held := lineHeld (s.die d).l2 line
  if held.isEmpty then s
  else
    let s := s.updDie d fun x => { x with l2 := dropBytes x.l2 (inLine line) }
    if held.any fun e => e.2.dirty then
      (s.loseDirty held).updDie d fun x =>
        { x with cnt := { x.cnt with cachePoison := satInc x.cnt.cachePoison } }
    else (s.updDie d fun x =>
      { x with cnt := { x.cnt with cacheRefetch := satInc x.cnt.cacheRefetch } }).updCnt c fun k =>
        { k with transient := satInc k.transient }

/-- Whether a cache is one of the module. -/
def cacheExists (u : CacheUnit) : Bool :=
  match u with
  | .l1 c => decide (c < coreCount)
  | .l2 d => decide (d < 8)
  | .l0 c => decide (c < coreCount)
  | .cl k => decide (k < 320)

/-- A line of an L0 whose parity is wrong is fetched again: at once where it is pinned, else by the next fetch
(R95, R111). -/
def State.l0Error (s : State) (c line : Nat) : State :=
  match Map.find (s.core c).l0 line with
  | none => s
  | some l =>
    let bs := match Map.find (s.cluster (clusterOf c)).icache line with
      | some k => k.data
      | none => s.lineBytes (dieOf c) 0 line
    s.updCore c fun x =>
      { x with l0 := if l.pins = 0 then Map.del x.l0 line else Map.put x.l0 line { l with data := bs } }

/-- The same for a line of a cluster's cache, for which the rules name no other outcome (DESIGN CHOICE, log 79). -/
def State.clError (s : State) (k line : Nat) : State :=
  match Map.find (s.cluster k).icache line with
  | none => s
  | some l =>
    let bs := s.lineBytes (k / 40) 0 line
    s.updCluster k fun x =>
      { x with icache := if l.pins = 0 then Map.del x.icache line else Map.put x.icache line { l with data := bs } }

/-- The core whose access meets an error in the L2 of a die: a free value (log 79). -/
def State.meets (s : State) (d : Nat) : Nat := 160 * d + Config.errorCore s.tick % 160

/-- CACHE_UNCORRECTABLE_ERROR (R95, R108). -/
def execCacheUncorrectableError (unit : CacheUnit) (line : Nat) (s : State) : Host.Outcome State Fault Refusal :=
  if !cacheExists unit then .fault .noSuchUnit
  else .next (match unit with
    | .l1 c => s.l1Error c line
    | .l2 d => s.l2Error d line (s.meets d)
    | .l0 c => s.l0Error c line
    | .cl k => s.clError k line)

/-- A line of an instruction cache goes unless it is pinned (R111). -/
def dropILine (m : Map ILine) (line : Nat) : Map ILine := m.filter fun e => e.1 != line || e.2.pins != 0

/-- CACHE_EVICTION: dirty bytes go to the next level, and the line is dropped. Dirty bytes whose home cannot
be written stay. A held line is never evicted (R107 item 3). -/
def State.evict (s : State) (u : CacheUnit) (line : Nat) : State :=
  match u with
  | .l1 c =>
    let dirty := (lineHeld (s.core c).l1 line).filter fun e => e.2.dirty
    let q (k : Nat) (_ : CByte) : Bool := dirty.any fun e => e.1 == k
    ((s.writeBack c 0 q).l1WriteBack c q).updCore c fun x => { x with l1 := dropBytes x.l1 (inLine line) }
  | .l2 d =>
    (s.l2WriteBack d (inLine line)).updDie d fun x =>
      { x with l2 := dropBytes x.l2 fun k b => inLine line k b && !b.dirty }
  | .l0 c => s.updCore c fun x => { x with l0 := dropILine x.l0 line }
  | .cl k => s.updCluster k fun x => { x with icache := dropILine x.icache line }

def execCacheEviction (unit : CacheUnit) (line : Nat) (s : State) : Host.Outcome State Fault Refusal :=
  if !cacheExists unit then .fault .noSuchUnit else .next (s.evict unit line)

/-! ## The fast tier and the expanders (R115, R402) -/

def State.updMemCnt (s : State) (p : Nat) (f : DieCnt → Nat → DieCnt) : State :=
  s.updDie (bitsOf (placeOff p) 37 3) fun x => { x with cnt := f x.cnt (bitsOf (placeOff p) 8 1) }

/-- A correctable error of a fast-tier sector is corrected and counted by its controller (DEDUCED, log 27). -/
def State.memCorrected (s : State) (p : Nat) : State :=
  if placeClass p ≠ 0 then s
  else s.updMemCnt p fun k i => { k with memCorrected := updAt k.memCorrected i satInc }

/-- A second uncorrectable result poisons the sector, and is counted. -/
def State.memUncorrectable (s : State) (p : Nat) : State :=
  if placeClass p ≠ 0 ∨ s.secPoison.contains (placeKey p / 32) then s
  else (s.poisonHome [placeKey p]).updMemCnt p fun k i => { k with memPoison := updAt k.memPoison i satInc }

/-- An expander returns a line poisoned from now on. -/
def State.expanderPoisoned (s : State) (p : Nat) : State :=
  if placeClass p ≠ 1 then s else s.poisonHome [placeKey p]

/-! ## TRANSLATION_CACHE_DROP (R127, R153) -/

/-- A translation of a page of a context is dropped; `ctx` is the place of the context's level-0 table. -/
def tlbDrop (l : List TlbEnt) (root page : Nat) : List TlbEnt := l.filter fun e => !(e.root == root && e.page == page)

def execTranslationCacheDrop (unit : TlbUnit) (ctx page : Nat) (s : State) : Host.Outcome State Fault Refusal :=
  match unit with
  | .core c =>
    if coreCount ≤ c then .fault .noSuchUnit
    else .next (s.updCore c fun x => { x with tlb := tlbDrop x.tlb ctx page })
  | .die d =>
    if 8 ≤ d then .fault .noSuchUnit
    else .next (s.updDie d fun x => { x with tlb := tlbDrop x.tlb ctx page })

end Sys2Proof.Machine
end

