-- ==== Sys2Proof/Machine/Fabric.lean ====
section
/-! DEFINITION. The keys of the Flue links, and the ports of the capacity tier (R163, R164, R178, R228,
R402, R403, R409, R410). -/

namespace Sys2Proof.Machine

/-! ## The directions of a Flue port (R163, R164, R177, R178) -/

/-- The key of a direction of a port: the sending one is even, the receiving one odd. -/
def flueKey (port : Nat) (receiving : Bool) : Nat := 2 * port + receiving.toNat

def State.dir (s : State) (port : Nat) (receiving : Bool) : FlueDir :=
  Map.get s.flue (flueKey port receiving) FlueDir.reset

def State.updDir (s : State) (port : Nat) (receiving : Bool) (f : FlueDir → FlueDir) : State :=
  { s with flue := Map.put s.flue (flueKey port receiving) (f (s.dir port receiving)) }

/-- A step that concerns a port; the module has 16 (R404). -/
def onPort (port : Nat) (t : State) : Host.Outcome State Fault Refusal :=
  if 16 ≤ port then .fault .noSuchUnit else .next t

/-- States of a key slot. -/
def keyEmpty : BitVec 2 := 0
def keyStandby : BitVec 2 := 1
def keyLive : BitVec 2 := 2
def keyDrain : BitVec 2 := 3

/-- KEY_LOAD: the Staram fills a slot; its counters are 0 and it stands by. -/
def KeySlot.loaded (key : BitVec 256) (salt : Word) (id : Byte) : KeySlot :=
  { key := key, salt := salt, invctr := 0, rxctr := 0, keyid := id, state := keyStandby }

def FlueDir.load (d : FlueDir) (slot : Nat) (k : KeySlot) : FlueDir :=
  { d with slots := updAt d.slots slot fun _ => k, keyAsked := false }

def execKeyLoad (port : Nat) (receiving : Bool) (slot : Nat) (key : BitVec 256) (salt : Word) (id : Byte)
    (s : State) : Host.Outcome State Fault Refusal :=
  if 2 ≤ slot then .fault .noSuchUnit
  else onPort port (s.updDir port receiving fun d => d.load slot (KeySlot.loaded key salt id))

/-- KEY_SWITCH_MARKER: the slot that stands by becomes LIVE, and the LIVE one DRAIN. Of two that stand by, the lower
one does (DESIGN CHOICE, log 77). -/
def FlueDir.switch (d : FlueDir) : FlueDir :=
  match d.slots.findIdx? fun k => k.state == keyStandby with
  | none => d
  | some i =>
    let drain (k : KeySlot) : KeySlot := if k.state = keyLive then { k with state := keyDrain } else k
    { d with slots := updAt (d.slots.map drain) i fun k => { k with state := keyLive } }

def execKeySwitchMarker (port : Nat) (receiving : Bool) (s : State) : Host.Outcome State Fault Refusal :=
  onPort port (s.updDir port receiving FlueDir.switch)

/-- No flit under a slot from before the marker remains to be replayed: it is EMPTY (R164 item 3). -/
def FlueDir.drained (d : FlueDir) : FlueDir :=
  let empty (k : KeySlot) : KeySlot := if k.state = keyDrain then { k with state := keyEmpty } else k
  { d with slots := d.slots.map empty }

/-! ## Invocation counters (R164, R178) -/

/-- Where the port asks for a key, and where it stops (R164). -/
def keyAskAt : Nat := 2 ^ 48 - 2 ^ 32
def keyStopAt : Nat := 2 ^ 48

/-- The LIVE slot's INVCTR takes a value; at a threshold the port asks for a key, or stalls. -/
def FlueDir.countTo (d : FlueDir) (n : Nat) : FlueDir :=
  let set (k : KeySlot) : KeySlot :=
    if k.state = keyLive then { k with invctr := BitVec.ofNat 64 n } else k
  let d := { d with slots := d.slots.map set }
  if n = keyAskAt then { d with keyAsked := true }
  else if n = keyStopAt ∧ !(d.slots.any fun k => k.state == keyStandby) then
    { d with keyStall := satInc d.keyStall }
  else d

def FlueDir.liveSlot (d : FlueDir) : Option KeySlot := d.slots.find? fun k => k.state == keyLive

/-- A flit is sent; at the end of its counter a slot sends none, nor does a port that is out of its plane. -/
def FlueDir.sent (d : FlueDir) : FlueDir :=
  match d.liveSlot with
  | none => d
  | some k => if d.removed || decide (keyStopAt ≤ k.invctr.toNat) then d else d.countTo (k.invctr.toNat + 1)

/-- INVCTR_THRESHOLD: the counter of the LIVE slot reaches its next threshold. -/
def FlueDir.threshold (d : FlueDir) : FlueDir :=
  match d.liveSlot with
  | none => d
  | some k =>
    if k.invctr.toNat < keyAskAt then d.countTo keyAskAt
    else if k.invctr.toNat < keyStopAt then d.countTo keyStopAt else d

def execInvctrThreshold (port : Nat) (s : State) : Host.Outcome State Fault Refusal :=
  onPort port (s.updDir port false FlueDir.threshold)

/-! ## Received flits (R178, R409, R410) -/

/-- FLIT_RECEIVE: a receiver takes flits under every slot that holds a key, on either side of the marker (R164 item 3).
A duplicate is discarded without a count; a flit that fails authentication is asked for again, and one that fails it
again is dropped. -/
def FlueDir.receive (d : FlueDir) (f : Flit) : FlueDir :=
  match d.slots[f.slot]? with
  | none => d
  | some k =>
    if d.removed || k.state == keyEmpty || decide (f.counter ≤ k.rxctr.toNat) then d
    else if !f.authentic then
      if f.resent then { d with flitDrop := satInc d.flitDrop } else { d with authRetry := satInc d.authRetry }
    else
      { d with slots := updAt d.slots f.slot fun k => { k with rxctr := BitVec.ofNat 64 f.counter } }

def execFlitReceive (port : Nat) (flit : Flit) (s : State) : Host.Outcome State Fault Refusal :=
  onPort port (s.updDir port true fun d => d.receive flit)

/-- LINK_RETRAIN: both directions reset their slots and counters of invocations; the keys agreed afresh are
loaded by KEY_LOAD. -/
def FlueDir.retrained (d : FlueDir) : FlueDir :=
  { d with slots := FlueDir.reset.slots, keyAsked := false }

def State.retrain (s : State) (port : Nat) : State :=
  (s.updDir port false FlueDir.retrained).updDir port true FlueDir.retrained

def execLinkRetrain (port : Nat) (s : State) : Host.Outcome State Fault Refusal := onPort port (s.retrain port)

/-! ## The ports of the capacity tier (R402, R403) -/

/-- Whether an operation has met its first failure with E_TIER_LINK. -/
def State.opLostTier (s : State) (c w : Nat) (n : HNum) : Bool :=
  match ((s.core c).wave? w).bind fun y => y.op? n with
  | some o => match o.status with
    | .failing code _ => code == eTierLink
    | _ => false
  | none => false

/-- An operation that is outstanding to the port meets its first failure. -/
def State.loseOp (s : State) (c w : Nat) (n : HNum) : State :=
  match (opAttempts c w n).find? fun f => (f s).opLostTier c w n with
  | some f => f s
  | none => s

/-- A Barrow command whose unit is outstanding to the port meets its first failure. `up` is the state with
the port up. -/
def State.loseCmd (s up : State) (c id : Nat) : State :=
  let retried (t : State) : Bool := (t.core c).cmds.any fun k => k.id == id && k.retried
  let t := s.barrowLanding c id
  if retried t && !retried s && !retried (up.barrowLanding c id) then t else s

/-- CXL_PORT_FAIL: the port is down, and every access outstanding to it meets its first failure. -/
def State.portFail (s : State) (p : Nat) : State :=
  let t := { s with cxlUp := updAt s.cxlUp p fun _ => false }
  let t := s.cores.foldl (fun t e => e.2.waves.foldl (fun t w =>
    (w.ops.filter fun o => o.status == .waiting && !o.retried).foldl (fun t o => t.loseOp e.1 w.slot o.num) t) t) t
  s.cores.foldl (fun t e => e.2.cmds.foldl (fun t k => t.loseCmd s e.1 k.id) t) t

def execCxlPortFail (port : Nat) (s : State) : Host.Outcome State Fault Refusal :=
  if 4 ≤ port then .fault .noSuchUnit else .next (s.portFail port)

/-- CXL_RETRAIN: the port is up again; accesses that have failed stay failed. -/
def execCxlRetrain (port : Nat) (s : State) : Host.Outcome State Fault Refusal :=
  if 4 ≤ port then .fault .noSuchUnit else .next { s with cxlUp := updAt s.cxlUp port fun _ => true }

end Sys2Proof.Machine
end

