-- ==== Sys2Proof/Machine/Host.lean ====
section
/-! DEFINITION. The host link: the registers of BAR0, the event ring, and the aperture of BAR2 (R154, R395
to R399, R401). -/

namespace Sys2Proof.Machine

/-! ## BAR0 (R396) -/

/-- The registers of BAR0. -/
inductive Bar0 where
  | sqport (q : Nat)
  | sqfree (q : Nat)
  | spclr
  | savetab
  | ctxtab
  | preempt
  | restore
  | evbase
  | evlog
  | evhead
  | evtail
  | nodeid
  | hto
  | fto
  | ctext (p : Nat)
  | ctto (p : Nat)
  | aper (k : Nat)
  deriving DecidableEq, Repr

/-- The registers at fixed offsets, with their widths. -/
def bar0Fixed : List (Nat × Nat × Bar0) :=
  [(0x10100, 4, .spclr), (0x10200, 8, .savetab), (0x10208, 8, .ctxtab), (0x10300, 8, .preempt),
   (0x10308, 8, .restore), (0x10400, 8, .evbase), (0x10408, 4, .evlog), (0x10410, 4, .evhead),
   (0x10418, 4, .evtail), (0x10500, 4, .nodeid), (0x10508, 4, .hto), (0x10510, 4, .fto)]

/-- Every register of BAR0, with its offset and width. -/
def bar0Map : List (Nat × Nat × Bar0) :=
  (List.range 16).map (fun q => (0x1000 * q, 128, Bar0.sqport q))
    ++ (List.range 16).map (fun q => (0x10000 + 8 * q, 4, Bar0.sqfree q)) ++ bar0Fixed
    ++ (List.range 4).flatMap (fun p => [(0x10600 + 16 * p, 8, Bar0.ctext p), (0x10608 + 16 * p, 4, Bar0.ctto p)])
    ++ (List.range 16).map fun k => (0x20000 + 8 * k, 8, Bar0.aper k)

/-- The register in whose bytes an access lies, if any. -/
def bar0At (off width : Nat) : Option (Nat × Nat × Bar0) :=
  bar0Map.find? fun e => decide (off < e.1 + e.2.1) && decide (e.1 < off + width)

/-- Writing 1 to bit [0] of SPCLR clears every shape predictor entry (R158). -/
def State.spclr (s : State) (v : Word) : State := if v.getLsbD 0 then { s with predictor := [] } else s

/-- A value that a register of a range takes; any other value is ignored (DEDUCED, log 26). -/
def inRange (v : DWord) (lo hi : Nat) (old : Word) : Word :=
  if lo ≤ v.toNat ∧ v.toNat ≤ hi then v.extractLsb' 0 32 else old

/-- The fields of the registers that a write sets and that change nothing else. EVHEAD is an index modulo 2^EVLOG: where the
host changes EVLOG, it is reduced at once, and a ring that was full counts as full until EVTAIL is written (R396; DESIGN
CHOICE, log 94). -/
def HostRegs.set (h : HostRegs) (r : Bar0) (v : DWord) : HostRegs :=
  match r with
  | .savetab => { h with savetab := v }
  | .ctxtab => { h with ctxtab := v }
  | .evbase => { h with evbase := v &&& ~~~ 0x3F#64 }
  | .evlog =>
    let n := inRange v 4 16 h.evlog
    { h with evlog := n, evhead := BitVec.ofNat 32 (h.evhead.toNat % 2 ^ n.toNat) }
  | .evtail => { h with evtail := v.extractLsb' 0 32, evFull := false }
  | .nodeid => if h.nodeSet then h else { h with nodeid := v.extractLsb' 0 12, nodeSet := true }
  | .hto => { h with hto := inRange v 1 4000 h.hto }
  | .fto => { h with fto := inRange v 1 1000 h.fto }
  | .ctext p => { h with ctext := updAt h.ctext p fun _ => v &&& ~~~ 0xFFFF#64 }
  | .ctto p => { h with ctto := updAt h.ctto p fun old => inRange v 1 4000 old }
  | .aper k => { h with aper := updAt h.aper k fun _ => v &&& 0x0FFFFFFFC0000001#64 }
  | _ => h

/-- A write to BAR0, of 4 or 8 bytes or of another width. A record is posted by HOST_POST; what is
read-only ignores the write. -/
def State.bar0Write (s : State) (off width : Nat) (v : DWord) : State :=
  match bar0At off width with
  | none => s
  | some (o, w, r) =>
    if off ≠ o ∨ width ≠ w ∨ w = 128 then s.logUr
    else
      match r with
      | .spclr => s.spclr (v.extractLsb' 0 32)
      | .preempt => s.preemptWrite v
      | .restore => s.restoreWrite v
      | _ => { s with host := s.host.set r v }

/-- Free records of a stoke queue: none until the queues are open (R426). -/
def State.sqfree (s : State) (q : Nat) : Nat := if s.up then 512 - (s.stokeQ.getD q []).length else 0

/-- What a register reads as; one that is write-only reads as zero. -/
def State.bar0Value (s : State) (r : Bar0) : Nat :=
  match r with
  | .sqfree q => s.sqfree q
  | .savetab => s.host.savetab.toNat
  | .ctxtab => s.host.ctxtab.toNat
  | .evbase => s.host.evbase.toNat
  | .evlog => s.host.evlog.toNat
  | .evhead => s.host.evhead.toNat
  | .evtail => s.host.evtail.toNat
  | .nodeid => s.host.nodeid.toNat
  | .hto => s.host.hto.toNat
  | .fto => s.host.fto.toNat
  | .ctext p => (s.host.ctext.getD p 0).toNat
  | .ctto p => (s.host.ctto.getD p 0).toNat
  | .aper k => (s.host.aper.getD k 0).toNat
  | _ => 0

/-- A read of BAR0. -/
def State.bar0Read (s : State) (off width : Nat) : State :=
  match bar0At off width with
  | none => { s with hostReply := List.replicate width 0 }
  | some (o, w, r) =>
    if off ≠ o ∨ width ≠ w then { s.logUr with hostReply := List.replicate width 0xFF }
    else { s with hostReply := toBytes w (s.bar0Value r) }

/-- REGISTER_WRITE: BAR0, core control space, or the AtomicOp Requester Enable bit. -/
def execRegisterWrite (target : RegTarget) (value : DWord) (s : State) : Host.Outcome State Fault Refusal :=
  match target with
  | .bar0 off width => .next (s.bar0Write off width value)
  | .coreCtl core off width =>
    if coreCount ≤ core then .fault .noSuchUnit
    else .next (if (width == 4 || width == 8) && off % width == 0 then
        s.ctlWrite core off (toBytes width value.toNat)
      else s)
  | .atomicEnable => .next { s with host := { s.host with atomicReq := value.getLsbD 0 } }

def execSpclrWrite (value : Word) (s : State) : Host.Outcome State Fault Refusal := .next (s.spclr value)

/-! ## EVENT_RECORD_WRITE (R397) -/

/-- The 16 bytes of an event record. -/
def Event.bytes (e : Event) : List Byte :=
  toBytes 2 e.kind ++ toBytes 2 e.ctxid.toNat ++ toBytes 4 e.ccid ++ toBytes 2 e.entry ++ List.replicate 6 0

/-- The records that the event ring holds: 2^EVLOG. -/
def HostRegs.ringSize (h : HostRegs) : Nat := 2 ^ h.evlog.toNat

/-- The oldest record that is held goes into the ring; MSI-X vector 0 is raised if the ring was empty. The ring is full
once EVHEAD comes round to EVTAIL, until the host writes EVTAIL (R131; DEDUCED, log 26). -/
def State.eventRecordWrite (s : State) : State :=
  match s.eventQ with
  | [] => s
  | e :: r =>
    if !s.linkUp || s.host.evFull then s
    else
      let h := s.host
      let empty := h.evhead.toNat % h.ringSize == h.evtail.toNat % h.ringSize
      let head := (h.evhead.toNat + 1) % h.ringSize
      { s with
        eventQ := r,
        hostOut := s.hostOut ++ cellsFrom (h.evbase.toNat + 16 * h.evhead.toNat) e.bytes,
        host := { h with evhead := BitVec.ofNat 32 head, evFull := head == h.evtail.toNat % h.ringSize },
        msix := if empty then s.msix ++ [0] else s.msix }

def execEventRecordWrite (s : State) : Host.Outcome State Fault Refusal := .next s.eventRecordWrite

/-! ## The aperture (R200, R398, R399) -/

/-- The place that an access of n bytes through BAR2 reaches, if its entry and its place admit it. -/
def State.aperture (s : State) (off n : Nat) : Option Nat :=
  let k := off / 2 ^ 30
  let e := s.host.aper.getD k 0
  let o := off % 2 ^ 30
  let p := bitsOf e.toNat 30 30 * 2 ^ 30 + o
  if decide (16 ≤ k) || !e.getLsbD 0 || n == 0 || decide (2 ^ 30 < o + n) then none
  else if decide (4 ≤ placeClass p) || (s.placeFault p).isSome || (s.placeFault (p + n - 1)).isSome then none
  else some p

/-- The home of an access to a scratchpad window. -/
def State.windowHome (s : State) (p n : Nat) : Option Home :=
  match s.homeOfPlace p n with
  | .ok h => some h
  | .error _ => none

/-- Whether a place lies in the window of a tentative block: the access is held until the block is confirmed
or trimmed (R200 item 4). -/
def State.inTentative (s : State) (p : Nat) : Bool :=
  placeClass p == 2 &&
    match placeCore (placeOff p) with
    | none => false
    | some c => match (s.core c).anyBlock? (bitsOf (placeOff p) 31 3) with
      | some b => b.tent
      | none => false

/-- The lines of some places are discarded from the L2 of every die, their dirty bytes first written home. -/
def State.l2Discard (s : State) (lines : List Nat) : State :=
  s.dies.foldl (fun s e =>
    let s := s.l2WriteBack e.1 fun k _ => lines.contains (k / 128)
    s.updDie e.1 fun x => { x with l2 := dropBytes x.l2 fun k b => lines.contains (k / 128) && !b.dirty }) s

/-- A host write, performed at the home of its place; one to the window of a tentative block waits for its
confirmation (R200). -/
def State.hostWrite (s : State) (off : Nat) (bs : List Byte) : State :=
  match s.aperture off bs.length with
  | none => s
  | some p =>
    match placeClass p with
    | 2 =>
      match s.windowHome p bs.length with
      | some h => if s.inTentative p then s.intoWindow h (.write bs) else s.homeWrite h bs
      | none => s
    | 3 =>
      let o := bitsOf (placeOff p) 0 20
      if (bs.length == 4 || bs.length == 8) && o % bs.length == 0 then
        s.ctlWrite ((placeCore (placeOff p)).getD 0) o bs
      else s
    | _ => (s.l2Discard ((cellsFrom p bs).map fun c => placeKey c.1 / 128)).writeHome (cellsFrom p bs)

def execHostApertureWrite (off : Nat) (bytes : List Byte) (s : State) : Host.Outcome State Fault Refusal :=
  .next (s.hostWrite off bytes)

/-- What a host read returns; none for Unsupported Request, and for bytes that cannot be read (DEDUCED, log 26). -/
def State.hostBytes (s : State) (off n : Nat) : Option (List Byte) :=
  match s.aperture off n with
  | none => none
  | some p =>
    match placeClass p with
    | 2 =>
      match s.windowHome p n with
      | some h => if (s.homeFault h n).isSome then none else some (s.homeRead h n)
      | none => none
    | 3 =>
      let o := bitsOf (placeOff p) 0 20
      if (n == 4 || n == 8) && o % n == 0 then
        some ((List.range n).map fun k => s.ctlByte ((placeCore (placeOff p)).getD 0) (o + k))
      else none
    | _ =>
      if (List.range n).any fun k => (s.homeReadFault (p + k)).isSome then none
      else some ((List.range n).map fun k => s.homeByte (p + k))

/-- A host read: its answer, or no bytes for one that is refused. -/
def State.hostRead (s : State) (off n : Nat) : State :=
  match s.aperture off n with
  | some p => if s.inTentative p then s else { s with hostReply := (s.hostBytes off n).getD [] }
  | none => { s with hostReply := [] }

def execHostApertureRead (off len : Nat) (s : State) : Host.Outcome State Fault Refusal :=
  .next (s.hostRead off len)

end Sys2Proof.Machine
end

