-- ==== Sys2Proof/Machine/PairOps.lean ====
section
/-! DEFINITION. Pair words: two compact operations in one word (R21, R266, R267). -/

namespace Sys2Proof.Machine

/-- The special-function and conversion set (R266). -/
def copSpecial (c : BitVec 5) : Bool := decide (23 ≤ c.toNat) && decide (c.toNat ≤ 28)

/-- The COPs whose result a later step writes (R20, R286). -/
def copSfu (c : BitVec 5) : Bool := decide (25 ≤ c.toNat) && decide (c.toNat ≤ 28)

/-- E_PAIR (R267): shared banks, two uniform operands, or two operations of the special set. -/
def pairFault (l r : Compact) : Bool :=
  (compactRegs l).any (fun a => (compactRegs r).any fun b => a % 4 == b % 4)
    || (l.bu && r.bu) || (copSpecial l.cop && copSpecial r.cop)

/-- The result of a half in a lane, as the full word of its operation has it (R266). -/
def compactLane (x : Ctx) (h : Compact) (l : Nat) : LaneRes :=
  let o := compactVX h
  let a := x.v h.a.toNat l
  let b := bInt x o l
  let f (r : Nat × BitVec 6) : LaneRes := onF32 r
  let p (k : Nat → Nat → Nat × BitVec 6) : LaneRes := onPacked fun e => k (elem16 a e) (elem16 b e)
  match h.cop.toNat with
  | 0 => plain b
  | 1 => plain (a + b)
  | 2 => plain (a - b)
  | 3 => plain (a * b)
  | 4 => plain (minS a b)
  | 5 => plain (maxS a b)
  | 6 => plain (a &&& b)
  | 7 => plain (a ||| b)
  | 8 => plain (a ^^^ b)
  | 9 => plain (shlWord a b)
  | 10 => plain (shrWord a b)
  | 11 => plain (sraWord a b)
  | 12 => f (addCode fp32 0 a.toNat b.toNat)
  | 13 => f (subCode fp32 0 a.toNat b.toNat)
  | 14 => f (mulCode fp32 0 a.toNat b.toNat)
  | 15 => f (fMinMax fp32 false a.toNat b.toNat)
  | 16 => f (fMinMax fp32 true a.toNat b.toNat)
  | 17 => p (addCode fp16 0)
  | 18 => p (mulCode fp16 0)
  | 19 => p (addCode bf16 0)
  | 20 => p (mulCode bf16 0)
  | 21 => f (fSign fp32 false b.toNat)
  | 22 => f (fSign fp32 true b.toNat)
  | 23 => f (convert (numFmt 14) (numFmt 1) 0 false b.toNat)
  | 24 => f (convert (numFmt 1) (numFmt 14) 0 false b.toNat)
  | 25 => f (fRcp fp32 b.toNat)
  | 26 => f (sfuRsq b.toNat)
  | 27 => f (sfuExp2 b.toNat)
  | 28 => f (sfuLog2 b.toNat)
  | 29 => plain (minU a b)
  | 30 => plain (maxU a b)
  | _ => plain (~~~b)

/-- The effect of one half, its sources read in `src`: written at once, or kept for its own step. -/
def compactEffect (src x : Ctx) (h : Compact) (m : LaneMask) : Ctx :=
  if copSfu h.cop then x.pendLanes .sfu h.d.toNat m (compactLane src h)
  else x.setLanes h.d.toNat m (compactLane src h)

/-- Both halves read their sources before either writes (R21); they execute in every lane of the
fragment, unguarded (R249). -/
def execPairWord (sw : Bool) (l r : Compact) (s : State) : Host.Outcome State Fault Refusal :=
  match s.ctx? with
  | none => .fault .noFragment
  | some x =>
    let m := x.frag.mask
    if !(compactRegs l ++ compactRegs r).all x.regOk then .next (s.raise x (illegal 4))
    else if pairFault l r then .next (s.raise x ⟨ePair, 0, 0⟩)
    else if x.anyPoison m (compactSrcs l ++ compactSrcs r) then
      .next (s.raise x ⟨ePoisonConsumed, 0, 0⟩)
    else .next (s.save ((compactEffect x (compactEffect x x l m) r m).done sw))

end Sys2Proof.Machine
end

