-- ==== Sys2Proof/Machine/Special.lean ====
section
/-! DEFINITION. The special registers: what each reads as, what may be written, and RDSR and WRSR (R77 to
R93, R391, R420). -/

namespace Sys2Proof.Machine

/-! ## The lane map (R85 to R87, R420) -/

/-- The logical lanes of the first pass: G of R420. -/
def passLanes (good : List Nat) : Nat := min 64 good.length

/-- The physical lane of a logical lane. -/
def physLane (good : List Nat) (l : Nat) : Nat :=
  let n := passLanes good
  if n ≤ l then good.getD (l - n) 0
  else if good.contains l then l
  else
    let moved := (List.range l).filter fun k => !good.contains k
    (good.filter fun p => decide (n ≤ p)).getD moved.length 0

def remapped (good : List Nat) (l : Nat) : Bool := physLane good l != l

/-- %lmap of a logical lane. -/
def lmapLane (good : List Nat) (l : Nat) : Nat :=
  (if passLanes good ≤ l then 256 else 0) + (if remapped good l then 128 else 0) + physLane good l

/-- %lmap selector 64. -/
def lmapSum (good : List Nat) : Nat :=
  let n := passLanes good
  256 * ((List.range n).filter fun l => decide (64 ≤ physLane good l)).length
    + (if n < 64 then 128 else 0) + good.length

def lmapRead (good : List Nat) (sel : Nat) : Nat := if sel = 64 then lmapSum good else lmapLane good sel

def passesOf (good : List Nat) : Nat := if passLanes good < 64 then 2 else 1

/-- %coretime: the figures of selector 0, and the masks of remapped lanes. -/
def coretimeRead (good : List Nat) (sel : Nat) : Nat :=
  if sel = 0 then
    let p := passesOf good
    let lo := 4 + 4 * (p - 1)
    let any := (List.range 64).any (remapped good)
    let all := (List.range 64).all (remapped good)
    p * 2 ^ 24 + 6 * p * 2 ^ 16 + (lo + any.toNat) * 2 ^ 12 + (lo + all.toNat) * 2 ^ 8 + p
  else
    (List.range 32).foldl (fun m k => if remapped good (32 * (sel - 1) + k) then m + 2 ^ k else m) 0

/-! ## The work identifier (R34, R79) -/

/-- The width of a field of %wid, and how many fields there are. -/
def Block.widWidth (b : Block) (k : Nat) : Nat := bitsOf (recNat b.record 8 8) (6 * k) 6
def Block.widFields (b : Block) : Nat := bitsOf (recNat b.record 8 8) 36 3

def Block.widShift (b : Block) (k : Nat) : Nat := ((List.range k).map b.widWidth).sum

/-- %wid of a thread: lane 0 of its wave, and its lane in field 0. -/
def Wave.threadWid (w : Wave) (l : Nat) : DWord := w.wid + BitVec.ofNat 64 l

def widRead (w : Wave) (b : Block) (sel l : Nat) : Nat :=
  let v := (w.threadWid l).toNat
  if sel = 6 then bitsOf v 0 32
  else if sel = 7 then bitsOf v 32 32
  else if sel < b.widFields then bitsOf v (b.widShift sel) (b.widWidth sel)
  else 0

/-! ## Which accesses are allowed (R77, R78) -/

/-- The last selector of a register, by number; none for a reserved number. -/
def lastSel (num : Nat) : Option Nat :=
  match num with
  | 0x00 => some 7
  | 0x01 => some 0
  | 0x02 => some 0
  | 0x03 => some 0
  | 0x04 => some 0
  | 0x05 => some 1
  | 0x06 => some 64
  | 0x07 => some 2
  | 0x08 => some 2
  | 0x09 => some 0
  | 0x0A => some 1
  | 0x0B => some 31
  | 0x0C => some 31
  | 0x0D => some 7
  | 0x0E => some 7
  | _ => none

/-- Whether a program or a handler may read, or write, a register. -/
def srAllowed (handler write : Bool) (num sel : Nat) : Bool :=
  (match lastSel num with
    | some n => decide (sel ≤ n) && !(num == 0x0E && sel == 0)
    | none => false)
    && (if 0x0B ≤ num then handler
        else !write || num == 2 || (num == 1 && !handler) || (num == 0x0A && handler))

/-! ## Reading (R78 to R92) -/

/-- %clk of a core. -/
def State.clk (s : State) (c : Nat) : DWord :=
  (s.core c).clkOffset + (Config.coreCycles c s.tick - Config.coreCycles c (s.die (dieOf c)).since)

/-- %pcw of a block. -/
def pcwRead (b : Block) (sel : Nat) : Nat :=
  if sel = 0 then bitsOf b.pcw 0 23
  else b.slot * 1024 + b.req.toNat * 512 + b.full.toNat * 256 + b.backed

/-- What a register that is the same in every lane reads as. -/
def State.srWord (s : State) (x : Ctx) (num sel : Nat) : Word :=
  let w := x.wave
  match num with
  | 0x01 => BitVec.ofNat 32 w.lpart
  | 0x02 => w.fpflags.zeroExtend 32
  | 0x03 => BitVec.ofNat 32 (w.shp.toNat * 65536 + w.hzn.toNat)
  | 0x04 => w.hzn ++ w.seq
  | 0x05 => BitVec.ofNat 32 (pcwRead x.block sel)
  | 0x06 => BitVec.ofNat 32 (lmapRead x.core.good sel)
  | 0x07 => BitVec.ofNat 32 (coretimeRead x.core.good sel)
  | 0x08 =>
    match sel with
    | 0 => (s.clk x.c).extractLsb' 0 32
    | 1 => (s.clk x.c).extractLsb' 32 32
    | _ => w.clkLatch
  | 0x09 => if x.frag.handler then w.trapcause else 0
  | 0x0A => w.tfp.extractLsb' (32 * sel) 32
  | 0x0C => w.getS false sel
  | 0x0D => (w.getA false (sel / 2)).extractLsb' (32 * (sel % 2)) 32
  | _ => 0

/-- What a register reads as in a lane. -/
def State.srRead (s : State) (x : Ctx) (num sel l : Nat) : Word :=
  match num with
  | 0x00 => BitVec.ofNat 32 (widRead x.wave x.block sel l)
  | 0x0B => x.wave.getV false sel l
  | 0x0E => if (x.wave.getP false sel).getLsbD l then 1 else 0
  | _ => s.srWord x num sel

/-- The poison that the read copies (R92). -/
def srPoison (x : Ctx) (num sel l : Nat) : BitVec 2 :=
  match num with
  | 0x0B => x.wave.poisonV false sel l
  | 0x0C => if x.wave.poisonS false sel then 3 else 0
  | _ => 0

/-- Whether the read consumes poison: of %xa and %xp no bit is copied (R76, R92). -/
def srConsumes (x : Ctx) (m : LaneMask) (num sel : Nat) : Bool :=
  match num with
  | 0x0D => x.wave.poisonA false (sel / 2) (sel % 2 == 1)
  | 0x0E => (lanesOf m).any fun l => x.wave.poisonP false sel (l / 8)
  | _ => false

/-- Whether an access waits: %fpflags for the flags of earlier words, %xv for a result owed (R63, R93). -/
def Ctx.srWaits (x : Ctx) (num sel : Nat) : Bool := srOwed x.core.pend x.wave.slot num sel

/-- An RDSR that waits counts in LDC, and is written once nothing that it waits for is pending (R174, R391). -/
def Ctx.pendSr (x : Ctx) (o : SR) (m : LaneMask) : Ctx :=
  let r : SrRead := { num := o.num.toNat, sel := o.sel.toNat, uk := o.uk, dest := o.reg.toNat, lanes := m,
                      flags := x.wave.fpflags }
  let p : Pend := { kind := .sr, wave := x.wave.slot, frags := [x.frag.id], handler := x.frag.handler,
                    regs := [], preds := [], flags := 0, sr := some r }
  { x with core := { x.core with pend := x.core.pend ++ [p] } }

/-- The checks that RDSR and WRSR share. -/
def Ctx.srTrap (x : Ctx) (write : Bool) (num sel : Nat) : Option Cause :=
  if !srAllowed x.frag.handler write num sel then some (illegal 6)
  else if num = 0x0B && decide (x.wave.budget ≤ sel) then some (illegal 4)
  else none

/-- The vector register that the word names. -/
def srRegs (o : SR) : List Nat := if o.uk then [] else [o.reg.toNat]

/-- Write the values read, lane by lane, with the poison that they carry. -/
def Ctx.setVPoison (x : Ctx) (d : Nat) (vals : List (Nat × Word × BitVec 2)) : Ctx :=
  let h := x.frag.handler
  let y : Ctx := { x with wave := vals.foldl (fun (w : Wave) e => w.putV h d e.1 e.2.1 e.2.2) x.wave }
  y.fold d (foldLanes (vals.map fun e => (e.1, e.2.1)))

/-- With no active lane the word has no effect and raises no trap that a selector gives, SUB 4 for an %xv beyond the budget
among them: R78 says the one, and R271 has SUB 4 for a register whatever the guard (DESIGN CHOICE, log 10). -/
def execRdsr (g : Ctl) (o : SR) (s : State) : Host.Outcome State Fault Refusal :=
  let num := o.num.toNat
  let sel := o.sel.toNat
  issueVector s g (srRegs o) [] fun x m =>
    if m == 0 then s.save (x.done g.sw)
    else
      match x.srTrap false num sel with
      | some t => s.raise x t
      | none =>
        if x.srWaits num sel then
          if 63 ≤ x.core.countOf x.frag .ld then s else s.save ((x.pendSr o m).done g.sw)
        else if srConsumes x m num sel then s.raise x ⟨ePoisonConsumed, 0, 0⟩
        else
          let y := if num = 8 ∧ sel = 0 then
              { x with wave := { x.wave with clkLatch := (s.clk x.c).extractLsb' 32 32 } }
            else x
          let low := (lowLane m).getD 0
          let y := if o.uk then
              let v := s.srRead x num sel low
              ({ y with wave := y.wave.putS x.frag.handler o.reg.toNat v (srPoison x num sel low != 0) }).fold
                (256 + o.reg.toNat) v
            else y.setVPoison o.reg.toNat
              ((lanesOf m).map fun l => (l, s.srRead x num sel l, srPoison x num sel l))
          s.save (y.done g.sw)

/-! ## Writing (R50, R78, R83, R91, R92) -/

/-- The field of %lpart in a written value; bits [31:7] are reserved and ignored (R8, R82). -/
def lpartField (v : Word) : Nat := (v.extractLsb' 0 7).toNat

/-- Why a value may not be written. %lpart of a diverged wave gives E_LPART_DIVERGED whatever the value: R50 and R271 give
no order of the two checks (DESIGN CHOICE, log 10). -/
def Ctx.srValueTrap (x : Ctx) (num sel : Nat) (v : Word) : Option Cause :=
  match num with
  | 0x01 =>
    if 1 < (x.core.fragsOf x.wave.slot).length then some ⟨eLpartDiverged, 0, 0⟩
    else if [4, 8, 16, 32, 64].contains (lpartField v) then none
    else some (illegal 7)
  | 0x0A => if sel = 0 ∧ v.extractLsb' 0 7 ≠ 0 then some (illegal 8) else none
  | _ => none

/-- Replace the lower or the upper half of a 64-bit value. -/
def putHalf (a : DWord) (upper : Bool) (v : Word) : DWord :=
  if upper then v ++ a.extractLsb' 0 32 else a.extractLsb' 32 32 ++ v

/-- Write half of an address register of the interrupted wave. -/
def Wave.putAHalf (w : Wave) (r : Nat) (upper : Bool) (v : Word) : Wave :=
  { w with a := Map.putD w.a r (putHalf (w.getA false r) upper v) 0,
           aPoison := w.aPoison.filter fun j => j != 2 * r + upper.toNat }

/-- A special register of a wave after a write: the value in each lane, and that of the lowest active
lane. -/
def Wave.srWrite (w : Wave) (num sel : Nat) (m : LaneMask) (val : Nat → Word) (v : Word) : Wave :=
  match num with
  | 0x01 => { w with lpart := lpartField v }
  | 0x02 => { w with fpflags := v.extractLsb' 0 6 }
  | 0x0A => { w with tfp := putHalf w.tfp (sel == 1) v }
  | 0x0B => (lanesOf m).foldl (fun w l => w.putV false sel l (val l) 0) w
  | 0x0C => w.putS false sel v false
  | 0x0D => w.putAHalf (sel / 2) (sel % 2 == 1) v
  | 0x0E => w.putP false sel m (maskOf fun l => (val l).getLsbD 0)
  | _ => w

/-- Whether WRSR takes the value of each active lane. -/
def perLane (num : Nat) : Bool := num == 0x0B || num == 0x0E

/-- With no active lane the word has no effect, and raises no trap of its selector or its value (DESIGN CHOICE, log 10). -/
def execWrsr (g : Ctl) (o : SR) (s : State) : Host.Outcome State Fault Refusal :=
  let num := o.num.toNat
  let sel := o.sel.toNat
  issueVector s g (srRegs o) [] fun x m =>
    if m == 0 then s.save (x.done g.sw)
    else
      match x.srTrap true num sel with
      | some t => s.raise x t
      | none =>
        let low := (lowLane m).getD 0
        let val (l : Nat) : Word := if o.uk then x.s o.reg.toNat else x.v o.reg.toNat l
        let src := if o.uk then Src.s o.reg.toNat else .v o.reg.toNat
        if x.anyPoison (if perLane num then m else laneBit low) [src] then s.raise x ⟨ePoisonConsumed, 0, 0⟩
        else
          match x.srValueTrap num sel (val low) with
          | some t => s.raise x t
          | none =>
            if x.srWaits num sel then s
            else s.save ({ x with wave := x.wave.srWrite num sel m val (val low) }.done g.sw)

end Sys2Proof.Machine
end

