-- ==== Sys2Proof/Machine/Staram.lean ====
section
/-! DEFINITION. The Staram: its requests, changes at a context boundary, measurements, lane retirement,
gating, counters, reports, identity and bring-up (R85 to R89, R411 to R426). -/

namespace Sys2Proof.Machine

def State.updStaram (s : State) (f : Staram → Staram) : State := { s with staram := f s.staram }

/-! ## Answers and reports (R411, R421) -/

/-- A request completes with an answer, and MSI-X vector 1 is raised. -/
def State.answer (s : State) (r : Response) : State :=
  { s.updStaram (fun m => { m with response := r }) with msix := s.msix ++ [1] }

/-- A report enters the queue of 64. A full queue drops its oldest, which the new report counts with those
that the dropped one counted. -/
def Staram.addReport (m : Staram) (r : Report) : Staram :=
  match m.reports with
  | e :: rest =>
    if 64 ≤ m.reports.length then { m with reports := rest ++ [(e.1 + 1, r)] }
    else { m with reports := m.reports ++ [(0, r)] }
  | [] => { m with reports := [(0, r)] }

def State.report (s : State) (r : Report) : State :=
  { s.updStaram (fun m => m.addReport r) with msix := s.msix ++ [1] }

def statusDone : Response := .status 0
def statusBusy : Response := .status 1
def statusRefused : Response := .status 2
def statusInvalid : Response := .status 3

/-! ## Points and ceilings (R413, R414) -/

def Staram.pointOf (m : Staram) (d : Nat) : Nat := Map.get m.point d 150
def Staram.setPointOf (m : Staram) (d : Nat) : Nat := Map.get m.setPoint d 800
def Staram.ceilingOf (m : Staram) (k : Nat) : Nat := Map.get m.ceiling k 1100

/-- The clock of a core: the lower of its die's point and its cluster's ceiling, once that is in force. -/
def Staram.clockOf (m : Staram) (c : Nat) : Nat :=
  min (m.pointOf (dieOf c)) (Map.get m.inForce (clusterOf c) 1100)

/-- The supply of a die at a frequency, in mV: the values of R2 at its points, between them the die's fused curve. -/
def supplyAt (d mhz : Nat) : Nat :=
  if mhz = 150 then 420 else if mhz = 800 then 700 else if mhz = 1100 then 850
  else max 420 (min 850 (Config.curve d mhz))

/-- The point that a die comes to once the changes under way are made. -/
def Staram.targetOf (m : Staram) (d : Nat) : Nat :=
  m.jobs.foldl (fun p j => match j.change with
    | .point e mhz => if e = d then mhz else p
    | _ => p) (m.pointOf d)

/-- Whether a frequency is a step of the points. -/
def isStep (mhz : Nat) : Bool := decide (150 ≤ mhz) && decide (mhz ≤ 1100) && mhz % 25 == 0

def coresOfDie (d : Nat) : List Nat := (List.range 160).map fun k => 160 * d + k
def coresOfCluster (k : Nat) : List Nat := (List.range 4).map fun j => 4 * k + j

/-! ## Good lanes (R86, R419) -/

def Staram.badLanes (m : Staram) (c : Nat) : List Nat := Map.get m.fused c [] ++ Map.get m.retired c []

/-- The good physical lanes of a core. -/
def Staram.goodLanes (m : Staram) (c : Nat) : List Nat :=
  (List.range 66).filter fun l => !(m.badLanes c).contains l

/-- Whether a core may host waves. -/
def Staram.coreEnabled (m : Staram) (c : Nat) : Bool :=
  decide (32 ≤ (m.goodLanes c).length) && !m.deadClusters.contains (clusterOf c)

/-- The lane map of a core as the Staram writes it. -/
def State.writeLanes (s : State) (c : Nat) : State :=
  s.updCore c fun x => { x with good := s.staram.goodLanes c, enabled := s.staram.coreEnabled c }

/-! ## Changes at a context boundary (R88, R415, R419) -/

/-- The pre-emption of every active context on the cores of the change that comes next is requested. -/
def State.startJob (s : State) : State :=
  match s.staram.jobs with
  | [] => s
  | j :: _ => j.cores.foldl (fun s c =>
      match (s.core c).active with
      | some k => s.updCore c fun x => x.addReq ⟨k, false, none, true, false⟩
      | none => s) s

/-- A change is under way, behind those that came before it. That a request completes with makes the Staram busy. -/
def State.addJob (s : State) (j : Job) : State :=
  let s := if j.asked then s.updStaram fun m => { m with busy := true } else s
  let first := s.staram.jobs.isEmpty
  let s := s.updStaram fun m => { m with jobs := m.jobs ++ [j] }
  if first then s.startJob else s

/-- Whether a key lies in the region of a die. -/
def inRegion (d key : Nat) : Bool := placeClass key == 0 && bitsOf (placeOff key) 37 3 == d

/-- The stores of a core that wait in held lines, in its shadow contexts too. -/
def Core.allHeld (x : Core) : List HeldStore := x.held ++ x.shadows.flatMap fun v => v.held

/-- Whether an access to the region of a die that has been translated is still to be performed there: a held store, a
remote store or a remote operation on its way, of this module or of another one (R422 item 3). -/
def State.regionBusy (s : State) (d : Nat) : Bool :=
  let of (p : Nat) : Bool := s.isOwn p && inRegion d (placeKey p)
  let held (l : List HeldStore) : Bool := l.any fun h => h.bytes.any fun b => inRegion d (placeKey b.1)
  let lane (op : Nat) (a : LaneAcc) : Bool := of a.cmp.toNat || (op == 1 && of a.data.toNat)
  (s.cores.any fun e =>
    held e.2.allHeld
      || (e.2.streams.any fun t => t.2.queue.any fun q => !q.performed && of q.place)
      || e.2.waves.any fun w => w.ops.any fun o => o.status == .sent && match o.work with
        | .rmo op _ _ => o.lanes.any (lane op)
        | _ => false)
    || (s.saved.any fun v => held v.held)
    || s.rmoIn.any fun r => r.code == 0 && (r.lanes.drop r.answers.length).any (lane r.op)

/-- Whether the change that comes next may be made: no context is active on its cores, and what a gate waits for is
over. -/
def State.jobReady (s : State) : Bool :=
  match s.staram.jobs with
  | [] => false
  | j :: _ => (j.cores.all fun c => (s.core c).active.isNone) && match j.change with
    | .gate d => !s.regionBusy d
    | _ => true

/-- Another core for a context: one that stays enabled and has room for it, else any that stays enabled. A core whose
change to disabled is still to come is none. -/
def State.coreFor (s : State) (c : Nat) (v : SavedCtx) : Option Nat :=
  let others := (List.range coreCount).filter fun d =>
    d != c && (s.core d).enabled && s.staram.coreEnabled d && !s.dieGated (dieOf d)
  match others.find? fun d => s.restoreFits d v false with
  | some d => some d
  | none => others.head?

/-- A restore that waits for a core which has been disabled goes to another one. -/
def State.reroute (s : State) (c : Nat) (r : BitVec 16 × Nat) : BitVec 16 × Nat :=
  if r.2 = c then
    match ((s.core c).shadows ++ s.saved).find? fun v => v.ctxid == r.1 with
    | some v => (r.1, (s.coreFor c v).getD c)
    | none => r
  else r

/-- The contexts of a core that has been disabled stream out, and are to be restored on other cores. -/
def State.evacuate (s : State) (c : Nat) : State :=
  let s := { s with restoreReqs := s.restoreReqs.map (s.reroute c) }
  let s := (s.core c).shadows.foldl (fun (s : State) v =>
    match s.coreFor c v with
    | some d => { s with restoreReqs := s.restoreReqs ++ [(v.ctxid, d)] }
    | none => s) s
  s.updCore c fun x => { x with shadows := x.shadows.map fun v => { v with stream := true, resume := false } }

/-! ### The power-off of a die (R116, R422) -/

/-- Every line of a region leaves the caches, its dirty bytes written to the region; what the die's own
caches hold of other regions goes home. -/
def State.emptyRegion (s : State) (d : Nat) : State :=
  let mine (e : Nat) (k : Nat) (_ : CByte) : Bool := inRegion d k || e == d
  let s := s.cores.foldl (fun s e => s.l1WriteBack e.1 (mine (dieOf e.1))) s
  let s := s.cores.foldl (fun s e => s.updCore e.1 fun x => { x with l1 := dropBytes x.l1 (mine (dieOf e.1)) }) s
  s.dies.foldl (fun s e => (s.l2WriteBack e.1 (mine e.1)).updDie e.1 fun x =>
    { x with l2 := dropBytes x.l2 fun k b => mine e.1 k b && !b.dirty }) s

/-- The instruction lines of a region leave the caches, pinned or not. -/
def State.emptyLines (s : State) (d : Nat) : State :=
  let leaves (m : Map ILine) : Map ILine := m.filter fun e => !inRegion d (128 * e.1)
  let rec_ (p : PinRec) : PinRec := { p with lines := p.lines.filter fun n => !inRegion d (128 * n) }
  let block (b : Block) : Block := { b with pins := (b.pins.map rec_).filter fun p => !p.lines.isEmpty }
  { s with
    cores := s.cores.map fun e => (e.1, Core.mapBlocks { e.2 with l0 := leaves e.2.l0 } block),
    clusters := s.clusters.map fun e => (e.1, { e.2 with icache := leaves e.2.icache }) }

/-- A core without power: its caches are empty. -/
def Core.unpowered (x : Core) : Core := { x with l1 := [], l0 := [], tlb := [], kiln := Kiln.reset }

/-- Both directions of the two Flue ports of a die are changed. -/
def State.updPorts (s : State) (d : Nat) (f : Nat → FlueDir → FlueDir) : State :=
  (List.range 4).foldl (fun s k => s.updDir (2 * d + k / 2) (k % 2 == 1) (f (4 * d + k))) s

def State.powerOff (s : State) (d : Nat) : State :=
  let s := s.updPorts d fun _ x => { x with removed := true }
  let s := s.updDie d fun x => { x with off := true, l2 := [], tlb := [] }
  let core (e : Nat × Core) : Nat × Core := (e.1, if dieOf e.1 = d then e.2.unpowered else e.2)
  let cluster (e : Nat × Cluster) : Nat × Cluster := (e.1, if e.1 / 40 = d then { e.2 with icache := [] } else e.2)
  { s with cores := s.cores.map core, clusters := s.clusters.map cluster }

/-! ### Making a change -/

/-- Whether a change is made in two steps: the supply rises before the frequency and falls after it (R415 item 2). -/
def Change.twice (k : Change) : Bool :=
  match k with
  | .point .. => true
  | _ => false

/-- The first step towards a point. -/
def Staram.halfPoint (m : Staram) (d mhz : Nat) : Staram :=
  if m.pointOf d < mhz then { m with supply := Map.put m.supply d (supplyAt d mhz) }
  else { m with point := Map.put m.point d mhz }

/-- A die at a point, with its supply. -/
def Staram.atPoint (m : Staram) (d mhz : Nat) : Staram :=
  { m with point := Map.put m.point d mhz, supply := Map.put m.supply d (supplyAt d mhz) }

/-- What a change, or its second step, makes of the module. -/
def State.applyChange (s : State) (j : Job) : State :=
  match j.change with
  | .point d mhz => s.updStaram fun m => m.atPoint d mhz
  | .ceiling k => s.updStaram fun m => { m with inForce := Map.put m.inForce k (m.ceilingOf k) }
  | .lanes =>
    j.cores.foldl (fun s c =>
      let was := (s.core c).enabled
      let s := s.writeLanes c
      if was && !(s.core c).enabled then (s.report (.disabled c)).evacuate c else s) s
  | .gate d => ((s.emptyRegion d).emptyLines d).powerOff d

/-- The contexts that a change had pre-empted are restored; one that cannot enter yet is requested. -/
def State.resumeCore (s : State) (c : Nat) : State :=
  match (s.core c).shadows.find? fun v => v.resume with
  | none => s
  | some v =>
    let s := s.updCore c fun x => { x with shadows := x.shadows.map fun u => { u with resume := false } }
    let s := { s with restoreReqs := s.restoreReqs ++ [(v.ctxid, c)] }
    s.contextRestore c v.ctxid

/-- The change that comes next is made, in its one step or its second, and the one behind it starts. -/
def State.finishJob (s : State) (j : Job) (rest : List Job) : State :=
  let s := (s.applyChange j).updStaram fun m => { m with jobs := rest }
  (j.cores.foldl (fun s c => s.resumeCore c) s).startJob

/-! ## OP_SET and CAP_SET (R412, R413, R415, R416) -/

/-- A die is brought to a point. A gated die only keeps the point for its wake. -/
def State.setDiePoint (s : State) (d mhz : Nat) (asked : Bool) : State :=
  if s.dieGated d then s
  else s.addJob { cores := coresOfDie d, change := .point d mhz, half := false, asked := asked }

/-- A request that has asked for changes completes with the last of them; one that needs none completes at once. -/
def State.answerLater (s : State) : State := if s.staram.busy then s else s.answer statusDone

/-- OP_SET: the dies of the mask change one at a time, in increasing die number. -/
def State.opSet (s : State) (mask : BitVec 8) (mhz : Nat) : State :=
  if !isStep mhz then s.answer statusInvalid
  else
    let ds := (List.range 8).filter fun d => mask.getLsbD d
    (ds.foldl (fun s d =>
      (s.updStaram fun m => { m with setPoint := Map.put m.setPoint d mhz,
                                     lowered := m.lowered.filter fun e => e != d }).setDiePoint d mhz true) s).answerLater

def State.powered (s : State) : List Nat := (List.range 8).filter fun d => !s.dieGated d

/-- The power that the living dies draw at 150 MHz: R2 gives it for eight dies and for one. -/
def floorWatts (dies : Nat) : Nat := if dies = 8 then 380 else if dies = 1 then 70 else Config.floorWatts dies

def State.capSet (s : State) (w : Nat) : State :=
  if w ≠ 0 ∧ w < floorWatts s.powered.length then s.answer statusRefused
  else (s.updStaram fun m => { m with cap := w }).answer statusDone

/-! ## POWER_MEASUREMENT (R416) -/

/-- A die is lowered by one step, and reported; at 150 MHz it stays. -/
def State.stepDown (s : State) (d : Nat) : State :=
  let p := s.staram.targetOf d
  if s.dieGated d ∨ p < 175 then s
  else ((s.updStaram fun m => { m with lowered := d :: m.lowered }).setDiePoint d (p - 25) false).report
    (.powerStep d (p - 25))

/-- The powered die with the highest frequency, the lowest-numbered among equals. -/
def State.fastest (s : State) : Option Nat :=
  s.powered.foldl (fun best d =>
    match best with
    | none => some d
    | some e => if s.staram.targetOf e < s.staram.targetOf d then some d else some e) none

/-- The die lowered last is raised by one step, never above its OP_SET point. -/
def State.stepUp (s : State) : State :=
  match s.staram.lowered with
  | [] => s
  | d :: r =>
    let p := s.staram.targetOf d
    let s := s.updStaram fun m => { m with lowered := r }
    if s.dieGated d ∨ s.staram.setPointOf d < p + 25 then s
    else (s.setDiePoint d (p + 25) false).report (.powerStep d (p + 25))

/-- Whether the average of the last ten measurements, or of those that there are, is above a share of the cap in
hundredths. -/
def Staram.above (m : Staram) (share : Nat) : Bool := decide (share * m.cap * m.history.length < 100 * m.history.sum)

/-- One measurement, every 1 ms: the power of each die and of the module, and the hottest junction of each die. The
10 ms average is that of the last ten. -/
def State.measure (s : State) (powers : List Nat) (watts : Nat) (junctions : List Int) : State :=
  let s := s.updStaram fun m =>
    let m := { m with ms := m.ms + 1, powers := powers, junctions := junctions, history := (watts :: m.history).take 10 }
    { m with calm := if m.cap == 0 || decide (100 * m.history.sum < 95 * m.cap * m.history.length) then m.calm + 1
                     else 0 }
  let s := if s.staram.cap != 0 && s.staram.above 100 then
      match s.fastest with
      | some d => s.stepDown d
      | none => s
    else s
  let hot (d : Nat) : Bool := decide (105 < junctions.getD d 0)
  let s := ((List.range 8).filter hot).foldl (fun s d => s.stepDown d) s
  if 100 ≤ s.staram.calm ∧ (junctions.all fun j => decide (j < 100)) then s.stepUp else s

/-- Whether the Staram's firmware runs (R424, R426). -/
def State.firmwareRuns (s : State) : Bool := s.staram.stage != 0 || s.up

def execPowerMeasurement (powers : List Nat) (watts : Nat) (junctions : List Int) (s : State) :
    Host.Outcome State Fault Refusal :=
  .next (if s.firmwareRuns then s.measure powers watts junctions else s)

/-! ## AGEING_CHECK (R417) -/

/-- A new ceiling of a cluster is recorded, reported and applied. -/
def State.lowerCeiling (s : State) (k mhz : Nat) : State :=
  ((s.updStaram fun m => { m with ceiling := Map.put m.ceiling k mhz }).report (.ceiling k mhz)).addJob
    { cores := coresOfDie (k / 40), change := .ceiling k, half := false, asked := false }

/-- A cluster is retired: its cores are disabled at a context boundary. -/
def State.retireCluster (s : State) (k : Nat) : State :=
  if s.staram.deadClusters.contains k then s
  else ((s.updStaram fun m => { m with deadClusters := m.deadClusters ++ [k] }).report (.clusterDisabled k)).addJob
    { cores := coresOfCluster k, change := .lanes, half := false, asked := false }

/-- Whether the compute dies that are not gated have power: from step 2 of bring-up on (R426). -/
def State.diesPowered (s : State) : Bool := decide (5 ≤ s.staram.stage) || s.up

/-- The comparison of a cluster's ring-oscillator count with its fused birth count. A comparison with another count is
no step of the module, whose fuses hold one for each cluster. -/
def State.ageing (s : State) (k birth now : Nat) : State :=
  if birth ≠ Config.birthCount k ∨ birth = 0 ∨ s.dieGated (k / 40) then s
  else
    let mhz := 1100 - 25 * (100 * (birth - now) / birth)
    let s := if mhz < s.staram.ceilingOf k then s.lowerCeiling k mhz else s
    if birth ≤ 5 * (birth - now) then s.retireCluster k else s

def execAgeingCheck (cluster birth now : Nat) (s : State) : Host.Outcome State Fault Refusal :=
  if 320 ≤ cluster then .fault .noSuchUnit else .next (if s.diesPowered then s.ageing cluster birth now else s)

/-! ## LANE_RETIRE and SHADOW_LATCH_TRIP (R418, R419) -/

/-- A physical lane is retired: it joins the retired set, and the lane map is rewritten at a context
boundary. -/
def State.retireLane (s : State) (c l : Nat) (asked : Bool) : State :=
  ((s.updStaram fun m => { m with retired := Map.put m.retired c (Map.get m.retired c [] ++ [l]) }).report
    (.laneRetired c l)).addJob { cores := [c], change := .lanes, half := false, asked := asked }

/-- LANE_RETIRE: the core is named in the CCID layout of R154. -/
def State.laneRetire (s : State) (core l : Nat) : State :=
  match ccidCore core with
  | none => s.answer statusInvalid
  | some c =>
    if 66 ≤ l then s.answer statusInvalid
    else if (s.staram.badLanes c).contains l then s.answer statusRefused
    else s.retireLane c l true

/-- The trips of the last second, with one more. -/
def tripsNow (ms : Nat) (l : List Nat) : List Nat := (l.filter fun t => decide (ms < t + 1000)) ++ [ms]

/-- A trip of one lane: eight within a second retire it. -/
def State.laneTrip (s : State) (c l : Nat) : State :=
  let key := 128 * c + l
  let ts := tripsNow s.staram.ms (Map.get s.staram.laneTrips key [])
  if 8 ≤ ts.length ∧ !(s.staram.badLanes c).contains l then
    (s.updStaram fun m => { m with laneTrips := Map.del m.laneTrips key }).retireLane c l false
  else s.updStaram fun m => { m with laneTrips := Map.put m.laneTrips key ts }

/-- A trip of a cluster's shared paths: 64 within a second lower its ceiling by one step. -/
def State.clusterTrip (s : State) (k : Nat) : State :=
  let ts := tripsNow s.staram.ms (s.cluster k).trips
  if 64 ≤ ts.length then
    (s.updCluster k fun x => { x with trips := [] }).lowerCeiling k (s.staram.ceilingOf k - 25)
  else s.updCluster k fun x => { x with trips := ts }

/-- The replayed cycle counts twice in %clk, and once for its cluster. -/
def State.trip (s : State) (c : Nat) (lane : Option Nat) : State :=
  let s := s.updCore c fun x => { x with clkOffset := x.clkOffset + 1 }
  let s := s.updCluster (clusterOf c) fun x => { x with shadowReplay := satInc x.shadowReplay }
  match lane with
  | some l => s.laneTrip c l
  | none => s.clusterTrip (clusterOf c)

def execShadowLatchTrip (core : Nat) (lane : Option Nat) (s : State) : Host.Outcome State Fault Refusal :=
  if coreCount ≤ core ∨ 66 ≤ lane.getD 0 then .fault .noSuchUnit else .next (s.trip core lane)

/-! ## DIE_GATE and DIE_WAKE (R116, R422) -/

/-- Whether a context is resident on some core of a die. -/
def State.residentOn (s : State) (d : Nat) : Bool :=
  s.cores.any fun e => dieOf e.1 == d && e.2.ctxs.any fun k => k.used

/-- Why a gate is refused. -/
def State.gateRefused (s : State) (d : Nat) : Bool :=
  s.powered == [d] || s.residentOn d || ((s.die d).comms.any fun e => e.2.isOpen) || !(s.die d).arms.isEmpty

/-- DIE_GATE: the die's cores take no block and its region fails every translation from now on; the rest is a change
that waits for what has been translated. -/
def State.gate (s : State) (d : Nat) : State :=
  if 8 ≤ d then s.answer statusInvalid
  else if s.dieGated d then s.answer statusDone
  else if s.gateRefused d then s.answer statusRefused
  else (s.updDie d fun x => { x with gated := true }).addJob
    { cores := [], change := .gate d, half := false, asked := true }

/-- Every sector of a die's region is written to zero, with clear poison. -/
def State.zeroRegion (s : State) (d : Nat) : State :=
  { s with mem := s.mem.filter fun e => !inRegion d e.1,
           secPoison := s.secPoison.filter fun n => !inRegion d (32 * n) }

/-- The lane maps of the cores of a die as the store has them: cores that it names, and those in use. -/
def State.writeDieLanes (s : State) (d : Nat) : State :=
  let named := s.cores.map (fun e => e.1) ++ s.staram.fused.map (fun e => e.1) ++ s.staram.retired.map (fun e => e.1)
    ++ s.staram.deadClusters.flatMap coresOfCluster
  ((named.filter fun c => dieOf c == d).eraseDups).foldl (fun s c => s.writeLanes c) s

/-- A die is powered: its %clk counts from 0, its region reads zero, and its lane maps are written. -/
def State.powerOn (s : State) (d mhz : Nat) : State :=
  let s := s.updDie d fun x => { x with gated := false, off := false, since := s.tick }
  let core (e : Nat × Core) : Nat × Core := (e.1, if dieOf e.1 = d then { e.2 with clkOffset := 0 } else e.2)
  let s := { s with cores := s.cores.map core }
  ((s.zeroRegion d).writeDieLanes d).updStaram fun m => m.atPoint d mhz

/-- The direction of a port under a key agreed afresh, which both ends have switched to (R409). -/
def FlueDir.agreed (n tick : Nat) (d : FlueDir) : FlueDir :=
  let k := KeySlot.loaded (Config.agreedKey n tick) (Config.agreedSalt n tick) (Config.agreedId n tick)
  (d.retrained.load 0 k).switch

/-- The Flue ports of a die are in their planes, have trained, and have agreed their keys. -/
def State.joinPorts (s : State) (d : Nat) : State :=
  s.updPorts d fun n x => FlueDir.agreed n s.tick { x with removed := false }

def State.wake (s : State) (d : Nat) : State :=
  if 8 ≤ d then s.answer statusInvalid
  else if !s.dieGated d then s.answer statusDone
  else ((s.powerOn d (s.staram.setPointOf d)).joinPorts d).answer statusDone

/-! ## COUNTERS_READ, TELEMETRY_READ and REPORT_READ (R177, R412, R421) -/

def CoreCnt.values (k : CoreCnt) : List Word :=
  [k.transient, k.rfCorrected, k.rfPoison, k.spadCorrected, k.spadPoison, k.cacheRefetch, k.cachePoison,
   k.barrierErrLost, k.landingDrop, k.damperDemote]

def Cluster.values (x : Cluster) : List Word := [x.prefetchDrop, x.pinRefused, x.shadowReplay]
def FlueDir.values (d : FlueDir) : List Word := [d.keyStall, d.authRetry, d.flitDrop]

/-- The counters that a die keeps for a unit class. -/
def DieCnt.values (k : DieCnt) (u : CounterUnit) : List Word :=
  match u with
  | .controller => (k.memCorrected.zip k.memPoison).flatMap fun e => [e.1, e.2]
  | .collier => [k.barrierErrLost, k.wakeDrop]
  | .bellows => [k.releaseDrop]
  | _ => [k.cacheRefetch, k.cachePoison, k.matchRefused, k.mcastPartial]

def DieCnt.clear (k : DieCnt) (u : CounterUnit) : DieCnt :=
  match u with
  | .controller => { k with memCorrected := [0, 0], memPoison := [0, 0] }
  | .collier => { k with barrierErrLost := 0, wakeDrop := 0 }
  | .bellows => { k with releaseDrop := 0 }
  | _ => { k with cacheRefetch := 0, cachePoison := 0, matchRefused := 0, mcastPartial := 0 }

/-- The counters of every unit of a class, unit by unit. -/
def State.counters (s : State) (u : CounterUnit) : List Word :=
  match u with
  | .core => (List.range coreCount).flatMap fun c => (s.core c).cnt.values
  | .cluster => (List.range 320).flatMap fun k => (s.cluster k).values
  | .stoker => [s.stoker.launchReject, s.stoker.stokeOverflow, s.stoker.launchErr]
  | .port => (List.range 32).flatMap fun k => (Map.get s.flue k FlueDir.reset).values
  | u => (List.range 8).flatMap fun d => (s.die d).cnt.values u

def State.clearCounters (s : State) (u : CounterUnit) : State :=
  match u with
  | .core => { s with cores := s.cores.map fun e => (e.1, { e.2 with cnt := CoreCnt.zero }) }
  | .cluster =>
    let zero (x : Cluster) : Cluster := { x with prefetchDrop := 0, pinRefused := 0, shadowReplay := 0 }
    { s with clusters := s.clusters.map fun e => (e.1, zero e.2) }
  | .stoker => { s with stoker := ⟨0, 0, 0⟩ }
  | .port =>
    let zero (d : FlueDir) : FlueDir := { d with keyStall := 0, authRetry := 0, flitDrop := 0 }
    { s with flue := s.flue.map fun e => (e.1, zero e.2) }
  | u => { s with dies := s.dies.map fun e => (e.1, { e.2 with cnt := e.2.cnt.clear u }) }

/-- COUNTERS_READ: read, and cleared in the same step where the flag is set. -/
def State.countersRead (s : State) (u : CounterUnit) (clear : Bool) : State :=
  (if clear then s.clearCounters u else s).answer (.counters (s.counters u))

def State.telemetry (s : State) : Response :=
  .telemetry s.staram.powers s.staram.junctions ((List.range 8).map s.staram.pointOf)
    ((List.range 320).map s.staram.ceilingOf)

/-- REPORT_READ: the oldest report is returned and removed. -/
def State.reportRead (s : State) : State :=
  match s.staram.reports with
  | [] => s.answer (.report none)
  | e :: r => (s.updStaram fun m => { m with reports := r }).answer (.report (some e))

/-! ## FW_UPDATE and identity (R424, R425) -/

/-- FW_UPDATE: a chunk of the inactive slot; the first after a reset begins the image anew (DEDUCED, log 25). -/
def State.fwUpdate (s : State) (chunk : List Byte) : State :=
  (s.updStaram fun m =>
    { m with fresh := true,
             slots := updAt m.slots (1 - m.activeSlot) fun old => if m.fresh then old ++ chunk else chunk }).answer
    statusDone

/-! ## Serving requests (R411, R412, R424) -/

/-- A request is carried out: it completes, or its changes are under way. -/
def State.handle (s : State) (r : Request) : State :=
  match r with
  | .opSet mask mhz => s.opSet mask mhz
  | .capSet w => s.capSet w
  | .dieGate d => s.gate d
  | .dieWake d => s.wake d
  | .countersRead u clear => s.countersRead u clear
  | .telemetryRead => s.answer s.telemetry
  | .laneRetire c l => s.laneRetire c l
  | .fwUpdate bs => s.fwUpdate bs
  | .reportRead => s.reportRead
  | .invalid => s.answer statusInvalid

/-- A request arrives. The Staram serves them one at a time, in order, once its firmware runs: those that come
meanwhile wait, as many as it has room for, and more are answered as busy. In recovery it accepts only FW_UPDATE
(DESIGN CHOICE, log 74). -/
def State.request (s : State) (r : Request) : State :=
  let m := s.staram
  if m.recovery then
    match r with
    | .fwUpdate bs => s.fwUpdate bs
    | _ => s.answer statusRefused
  else if !s.firmwareRuns then s
  else if !m.busy then s.handle r
  else if m.queue.length < Config.requestRoom then s.updStaram fun m => { m with queue := m.queue ++ [r] }
  else s.answer statusBusy

/-- The requests that wait are served, up to one whose changes take time. -/
def State.serveQueue (s : State) (fuel : Nat) : State :=
  match fuel with
  | 0 => s
  | fuel + 1 =>
    match s.staram.queue with
    | [] => s
    | r :: rest =>
      if s.staram.busy then s
      else ((s.updStaram fun m => { m with queue := rest }).handle r).serveQueue fuel

/-- The request whose last change has been made completes, and the next ones are served. -/
def State.completeJob (s : State) (j : Job) : State :=
  if !j.asked || s.staram.jobs.any fun k => k.asked then s
  else
    let s := (s.updStaram fun m => { m with busy := false }).answer statusDone
    s.serveQueue s.staram.queue.length

/-- The next step of the change that comes next. -/
def State.runJob (s : State) : State :=
  match s.staram.jobs with
  | [] => s
  | j :: rest =>
    if !s.jobReady then s
    else
      match j.half, j.change with
      | false, .point d mhz =>
        s.updStaram fun m => { m.halfPoint d mhz with jobs := { j with half := true } :: rest }
      | _, _ => (s.finishJob j rest).completeJob j

def execOpSet (mask : BitVec 8) (mhz : Nat) (s : State) : Host.Outcome State Fault Refusal :=
  .next (s.request (.opSet mask mhz))
def execCapSet (watts : Nat) (s : State) : Host.Outcome State Fault Refusal := .next (s.request (.capSet watts))
def execDieGate (die : Nat) (s : State) : Host.Outcome State Fault Refusal := .next (s.request (.dieGate die))
def execDieWake (die : Nat) (s : State) : Host.Outcome State Fault Refusal := .next (s.request (.dieWake die))
def execCountersRead (unit : CounterUnit) (clear : Bool) (s : State) : Host.Outcome State Fault Refusal :=
  .next (s.request (.countersRead unit clear))
def execTelemetryRead (s : State) : Host.Outcome State Fault Refusal := .next (s.request .telemetryRead)
def execLaneRetire (core lane : Nat) (s : State) : Host.Outcome State Fault Refusal :=
  .next (s.request (.laneRetire core lane))
def execFwUpdate (chunk : List Byte) (s : State) : Host.Outcome State Fault Refusal :=
  .next (s.request (.fwUpdate chunk))
def execReportRead (s : State) : Host.Outcome State Fault Refusal := .next (s.request .reportRead)

/-! ## Images (R424) -/

/-- Whether an image passes: its signature over its digest, that digest over its body, and its security version. -/
def imageOk (image : List Byte) : Bool :=
  Config.signatureOk image && sha512 (Config.imageBody image) == Config.imageDigest image
    && decide (Config.minimumVersion ≤ Config.imageVersion image)

/-- The microcode images of the Stoker, the Hearths, the Bellows and the memory controllers, as reports number them. -/
def microUnits : List Nat := [2, 3, 4, 5]

/-! ## Identity (R425) -/

/-- The measurement blocks, each with the security version that it carries. -/
def State.measurements (s : State) : List (BitVec 512 × Nat) :=
  let image := s.staram.slots.getD s.staram.activeSlot []
  [(sha512 Config.bootRom, 0), (sha512 image, Config.imageVersion image),
   (sha512 (microUnits.flatMap Config.microcode), 0), (sha512 (Config.fuseBytes s.staram.fused), Config.minimumVersion),
   (sha512 (Config.fieldBytes s.staram.retired s.staram.ceiling), 0)]

/-- The bytes that the identity key signs for some measurement blocks. -/
def measured (bs : List (BitVec 512 × Nat)) : List Byte :=
  bs.flatMap fun e => toBytes 64 e.1.toNat ++ toBytes 8 e.2

/-- A request for the module's identity is served at any time once the firmware runs, whatever other requests the
Staram serves; in recovery it is refused (R424, R425). -/
def State.identity (s : State) (r : Response) : State :=
  if s.staram.recovery then s.answer statusRefused else if !s.firmwareRuns then s else s.answer r

def execGetDigests (s : State) : Host.Outcome State Fault Refusal :=
  .next (s.identity (.digests [sha512 Config.certificates]))

def execGetCertificate (s : State) : Host.Outcome State Fault Refusal :=
  .next (s.identity (.certificate Config.certificates))

/-- A challenge is answered with a signature that includes the nonce. -/
def execChallenge (nonce : List Byte) (s : State) : Host.Outcome State Fault Refusal :=
  .next (s.identity (.signed nonce [] (Config.signature nonce [])))

def execGetMeasurements (nonce : List Byte) (s : State) : Host.Outcome State Fault Refusal :=
  .next (s.identity (.signed nonce s.measurements (Config.signature nonce (measured s.measurements))))

/-! ## POWER_UP (R424, R426) -/

/-- The firmware slots in the order in which the boot ROM tries them: the newly written one first (DEDUCED, log 25). -/
def Staram.bootOrder (m : Staram) : List Nat :=
  let first := if m.fresh then 1 - m.activeSlot else m.activeSlot
  [first, 1 - first]

def Staram.slotOk (m : Staram) (k : Nat) : Bool := imageOk (m.slots.getD k [])

/-- What outlives a reset in the Staram: fuses, its non-volatile store, and the firmware slots. -/
def Staram.kept (m : Staram) : Staram :=
  { Staram.reset with fused := m.fused, retired := m.retired, deadClusters := m.deadClusters, ceiling := m.ceiling,
                      activeSlot := m.activeSlot, slots := m.slots }

/-- The module with everything that a reset clears. The expanders keep their data, and what has left the
module stays (DEDUCED, log 25). -/
def State.cleared (s : State) : State :=
  { State.reset with
    agenda := s.agenda, tick := s.tick, hostOut := s.hostOut, msix := s.msix,
    mem := s.mem.filter fun e => placeClass e.1 == 1, capPoison := s.capPoison, staram := s.staram.kept }

/-- The module stays in recovery: the host link comes up, and the queues stay closed. -/
def State.recover (s : State) : State :=
  { s.updStaram fun m => { m with recovery := true } with linkUp := true }

/-- Steps 2 to 5: the dies are powered at 150 MHz, the lane maps and ceilings apply, the fast tier is written, and the
host link comes up, with the ports of the capacity tier as system software sets them up. -/
def State.powerDies (s : State) : State :=
  let s := (List.range 8).foldl (fun s d => s.powerOn d 150) s
  { s.updStaram fun m => { m with inForce := m.ceiling, stage := 5 } with
    linkUp := true, cxlUp := [true, true, true, true] }

/-- Step 1: the boot ROM verifies the firmware, slot by slot, and the firmware verifies the microcode. Each image that
is refused is reported. With no good slot, or with microcode refused, the module stays in recovery (DESIGN CHOICE,
log 74). -/
def State.powerUp (s : State) : State :=
  let order := s.staram.bootOrder
  let s := s.cleared
  let refused := order.takeWhile fun k => !s.staram.slotOk k
  let good := order.find? s.staram.slotOk
  let s := refused.foldl (fun s k => s.report (.bringUpRefused k)) s
  match good with
  | none => s.recover
  | some k =>
    let s := s.updStaram fun m => { m with activeSlot := k, stage := 1 }
    let bad := microUnits.filter fun u => !imageOk (Config.microcode u)
    if bad.isEmpty then s.powerDies else (bad.foldl (fun s u => s.report (.bringUpRefused u)) s).recover

def execPowerUp (s : State) : Host.Outcome State Fault Refusal := .next s.powerUp

/-- The point to which bring-up raises the dies: 800 MHz, or the highest within the cap. The module draws 2.2 kW at
800 MHz (R2); what it draws between the points of R2 is open (DEDUCED, log 25). -/
def State.firstPoint (s : State) : Nat :=
  if s.staram.cap = 0 ∨ 2200 ≤ s.staram.cap then 800 else min 775 (150 + 25 * Config.capSteps s.staram.cap)

/-- The next of the steps 6 to 8: the Flue links agree their keys; the dies are raised; the queues open. -/
def State.bringUp (s : State) : State :=
  let stage (s : State) (n : Nat) : State := s.updStaram fun m => { m with stage := n }
  match s.staram.stage with
  | 5 => stage ((List.range 8).foldl (fun s d => if s.dieGated d then s else s.joinPorts d) s) 6
  | 6 => stage ((List.range 8).foldl (fun s d => s.setDiePoint d s.firstPoint false) s) 7
  | 7 => if s.staram.jobs.isEmpty then { stage s 8 with up := true } else s
  | _ => s

/-! ## Happenings without a row of the table -/

/-- A happening at a core, a die or a port that the module does not have has no effect. -/
def State.incident (s : State) (i : Incident) : State :=
  match i with
  | .rfCorrected c => if c < coreCount then s.rfCorrected c else s
  | .spadCorrected c =>
    if c < coreCount then s.updCnt c fun k => { k with spadCorrected := satInc k.spadCorrected } else s
  | .memCorrected p => s.memCorrected p
  | .memUncorrectable p => s.memUncorrectable p
  | .expanderPoisoned p => s.expanderPoisoned p
  | .flitSent p => if p < 16 then s.updDir p false FlueDir.sent else s
  | .keyDrained p r => if p < 16 then s.updDir p r FlueDir.drained else s
  | .staramJob => s.runJob
  | .bringUp => s.bringUp
  | .staramInvalid => s.request .invalid
  | .rmoRequest node seq op lanes => s.rmoRequest node seq op lanes
  | .rmoServe node seq => s.rmoServe node seq
  | .messageLand d => if d < dieCount then s.messageLand d else s
  | .flueCredit d i n =>
    if d < dieCount then s.updDie d fun x => { x with credit := match n with
      | some n => Map.put x.credit i n
      | none => Map.del x.credit i }
    else s
  | .accUncorrectable c k w => if c < coreCount then s.accError c k w else s
  | .bar0Read off width => s.bar0Read off width

end Sys2Proof.Machine
end

