-- ==== Sys2Proof/Machine/Dispatch.lean ====
section
/-! DEFINITION. The meaning of every instruction: one arm for each constructor of `Instr`. -/

namespace Sys2Proof.Machine

open Sys2Proof

def exec (i : Instr) (s : State) : Host.Outcome State Fault Refusal :=
  match i with
  | .umov g o => Sys2Proof.Machine.execUmov g o s
  | .umovi g o => Sys2Proof.Machine.execUmovi g o s
  | .uadd g o => Sys2Proof.Machine.execUadd g o s
  | .usub g o => Sys2Proof.Machine.execUsub g o s
  | .umul g o => Sys2Proof.Machine.execUmul g o s
  | .umulh g o => Sys2Proof.Machine.execUmulh g o s
  | .uand g o => Sys2Proof.Machine.execUand g o s
  | .uor g o => Sys2Proof.Machine.execUor g o s
  | .uxor g o => Sys2Proof.Machine.execUxor g o s
  | .ushl g o => Sys2Proof.Machine.execUshl g o s
  | .ushr g o => Sys2Proof.Machine.execUshr g o s
  | .usra g o => Sys2Proof.Machine.execUsra g o s
  | .umin g o => Sys2Proof.Machine.execUmin g o s
  | .umax g o => Sys2Proof.Machine.execUmax g o s
  | .ucmp g o => Sys2Proof.Machine.execUcmp g o s
  | .usel g o => Sys2Proof.Machine.execUsel g o s
  | .addpc g o => Sys2Proof.Machine.execAddpc g o s
  | .aadd g o => Sys2Proof.Machine.execAadd g o s
  | .aset g o => Sys2Proof.Machine.execAset g o s
  | .acpy g o => Sys2Proof.Machine.execAcpy g o s
  | .aget g o => Sys2Proof.Machine.execAget g o s
  | .rdhz g o => Sys2Proof.Machine.execRdhz g o s
  | .mov g o => Sys2Proof.Machine.execMov g o s
  | .movi g o => Sys2Proof.Machine.execMovi g o s
  | .iadd g o => Sys2Proof.Machine.execIadd g o s
  | .isub g o => Sys2Proof.Machine.execIsub g o s
  | .imul g o => Sys2Proof.Machine.execImul g o s
  | .imulh g o => Sys2Proof.Machine.execImulh g o s
  | .imulhu g o => Sys2Proof.Machine.execImulhu g o s
  | .imad g o => Sys2Proof.Machine.execImad g o s
  | .imin g o => Sys2Proof.Machine.execImin g o s
  | .imax g o => Sys2Proof.Machine.execImax g o s
  | .iminu g o => Sys2Proof.Machine.execIminu g o s
  | .imaxu g o => Sys2Proof.Machine.execImaxu g o s
  | .iabs g o => Sys2Proof.Machine.execIabs g o s
  | .ineg g o => Sys2Proof.Machine.execIneg g o s
  | .and g o => Sys2Proof.Machine.execAnd g o s
  | .or g o => Sys2Proof.Machine.execOr g o s
  | .xor g o => Sys2Proof.Machine.execXor g o s
  | .not g o => Sys2Proof.Machine.execNot g o s
  | .ishl g o => Sys2Proof.Machine.execIshl g o s
  | .ishr g o => Sys2Proof.Machine.execIshr g o s
  | .isra g o => Sys2Proof.Machine.execIsra g o s
  | .irol g o => Sys2Proof.Machine.execIrol g o s
  | .popc g o => Sys2Proof.Machine.execPopc g o s
  | .clz g o => Sys2Proof.Machine.execClz g o s
  | .brev g o => Sys2Proof.Machine.execBrev g o s
  | .bfe g o => Sys2Proof.Machine.execBfe g o s
  | .bfi g o => Sys2Proof.Machine.execBfi g o s
  | .sel g o => Sys2Proof.Machine.execSel g o s
  | .icmp g o => Sys2Proof.Machine.execIcmp g o s
  | .idot4 g o => Sys2Proof.Machine.execIdot4 g o s
  | .idot2 g o => Sys2Proof.Machine.execIdot2 g o s
  | .plop g o => Sys2Proof.Machine.execPlop g o s
  | .fadd g o => Sys2Proof.Machine.execFadd g o s
  | .fsub g o => Sys2Proof.Machine.execFsub g o s
  | .fmul g o => Sys2Proof.Machine.execFmul g o s
  | .ffma g o => Sys2Proof.Machine.execFfma g o s
  | .fmin g o => Sys2Proof.Machine.execFmin g o s
  | .fmax g o => Sys2Proof.Machine.execFmax g o s
  | .fabs g o => Sys2Proof.Machine.execFabs g o s
  | .fneg g o => Sys2Proof.Machine.execFneg g o s
  | .fcmp g o => Sys2Proof.Machine.execFcmp g o s
  | .fclass g o => Sys2Proof.Machine.execFclass g o s
  | .frnd g o => Sys2Proof.Machine.execFrnd g o s
  | .faddF64 g o => Sys2Proof.Machine.execFaddF64 g o s
  | .fsubF64 g o => Sys2Proof.Machine.execFsubF64 g o s
  | .fmulF64 g o => Sys2Proof.Machine.execFmulF64 g o s
  | .ffmaF64 g o => Sys2Proof.Machine.execFfmaF64 g o s
  | .fminF64 g o => Sys2Proof.Machine.execFminF64 g o s
  | .fmaxF64 g o => Sys2Proof.Machine.execFmaxF64 g o s
  | .fabsF64 g o => Sys2Proof.Machine.execFabsF64 g o s
  | .fnegF64 g o => Sys2Proof.Machine.execFnegF64 g o s
  | .fcmpF64 g o => Sys2Proof.Machine.execFcmpF64 g o s
  | .fclassF64 g o => Sys2Proof.Machine.execFclassF64 g o s
  | .frndF64 g o => Sys2Proof.Machine.execFrndF64 g o s
  | .faddF16 g o => Sys2Proof.Machine.execFaddF16 g o s
  | .fsubF16 g o => Sys2Proof.Machine.execFsubF16 g o s
  | .fmulF16 g o => Sys2Proof.Machine.execFmulF16 g o s
  | .ffmaF16 g o => Sys2Proof.Machine.execFfmaF16 g o s
  | .fminF16 g o => Sys2Proof.Machine.execFminF16 g o s
  | .fmaxF16 g o => Sys2Proof.Machine.execFmaxF16 g o s
  | .fabsF16 g o => Sys2Proof.Machine.execFabsF16 g o s
  | .fnegF16 g o => Sys2Proof.Machine.execFnegF16 g o s
  | .fcmpF16 g o => Sys2Proof.Machine.execFcmpF16 g o s
  | .fclassF16 g o => Sys2Proof.Machine.execFclassF16 g o s
  | .frndF16 g o => Sys2Proof.Machine.execFrndF16 g o s
  | .faddBf16 g o => Sys2Proof.Machine.execFaddBf16 g o s
  | .fsubBf16 g o => Sys2Proof.Machine.execFsubBf16 g o s
  | .fmulBf16 g o => Sys2Proof.Machine.execFmulBf16 g o s
  | .ffmaBf16 g o => Sys2Proof.Machine.execFfmaBf16 g o s
  | .fminBf16 g o => Sys2Proof.Machine.execFminBf16 g o s
  | .fmaxBf16 g o => Sys2Proof.Machine.execFmaxBf16 g o s
  | .fabsBf16 g o => Sys2Proof.Machine.execFabsBf16 g o s
  | .fnegBf16 g o => Sys2Proof.Machine.execFnegBf16 g o s
  | .fcmpBf16 g o => Sys2Proof.Machine.execFcmpBf16 g o s
  | .fclassBf16 g o => Sys2Proof.Machine.execFclassBf16 g o s
  | .frndBf16 g o => Sys2Proof.Machine.execFrndBf16 g o s
  | .cvt g o => Sys2Proof.Machine.execCvt g o s
  | .pack g o => Sys2Proof.Machine.execPack g o s
  | .rcp g o => Sys2Proof.Machine.execRcp g o s
  | .rsq g o => Sys2Proof.Machine.execRsq g o s
  | .sqrt g o => Sys2Proof.Machine.execSqrt g o s
  | .exp2 g o => Sys2Proof.Machine.execExp2 g o s
  | .log2 g o => Sys2Proof.Machine.execLog2 g o s
  | .sin g o => Sys2Proof.Machine.execSin g o s
  | .cos g o => Sys2Proof.Machine.execCos g o s
  | .tanh g o => Sys2Proof.Machine.execTanh g o s
  | .rcpF64 g o => Sys2Proof.Machine.execRcpF64 g o s
  | .sqrtF64 g o => Sys2Proof.Machine.execSqrtF64 g o s
  | .shflIdx g o => Sys2Proof.Machine.execShflIdx g o s
  | .shflUp g o => Sys2Proof.Machine.execShflUp g o s
  | .shflDown g o => Sys2Proof.Machine.execShflDown g o s
  | .shflXor g o => Sys2Proof.Machine.execShflXor g o s
  | .voteAny g o => Sys2Proof.Machine.execVoteAny g o s
  | .voteAll g o => Sys2Proof.Machine.execVoteAll g o s
  | .voteBallot g o => Sys2Proof.Machine.execVoteBallot g o s
  | .voteEq g o => Sys2Proof.Machine.execVoteEq g o s
  | .redl g o => Sys2Proof.Machine.execRedl g o s
  | .scanl g o => Sys2Proof.Machine.execScanl g o s
  | .pairWord sw l r => Sys2Proof.Machine.execPairWord sw l r s
  | .ld g o => Sys2Proof.Machine.execLd g o s
  | .st g o => Sys2Proof.Machine.execSt g o s
  | .lds g o => Sys2Proof.Machine.execLds g o s
  | .sts g o => Sys2Proof.Machine.execSts g o s
  | .gather g o => Sys2Proof.Machine.execGather g o s
  | .scatter g o => Sys2Proof.Machine.execScatter g o s
  | .uld g o => Sys2Proof.Machine.execUld g o s
  | .atom g o => Sys2Proof.Machine.execAtom g o s
  | .atomn g o => Sys2Proof.Machine.execAtomn g o s
  | .cas g o => Sys2Proof.Machine.execCas g o s
  | .atoms g o => Sys2Proof.Machine.execAtoms g o s
  | .cass g o => Sys2Proof.Machine.execCass g o s
  | .fence g o => Sys2Proof.Machine.execFence g o s
  | .bind g o => Sys2Proof.Machine.execBind g o s
  | .unbind g o => Sys2Proof.Machine.execUnbind g o s
  | .acq g o => Sys2Proof.Machine.execAcq g o s
  | .rel g o => Sys2Proof.Machine.execRel g o s
  | .binit g o => Sys2Proof.Machine.execBinit g o s
  | .arrive g o => Sys2Proof.Machine.execArrive g o s
  | .waitph g o => Sys2Proof.Machine.execWaitph g o s
  | .tryph g o => Sys2Proof.Machine.execTryph g o s
  | .qwait g o => Sys2Proof.Machine.execQwait g o s
  | .wake g o => Sys2Proof.Machine.execWake g o s
  | .waithz g o => Sys2Proof.Machine.execWaithz g o s
  | .cpy g o => Sys2Proof.Machine.execCpy g o s
  | .cpy2 g o => Sys2Proof.Machine.execCpy2 g o s
  | .cpyt g o => Sys2Proof.Machine.execCpyt g o s
  | .cpyg g o => Sys2Proof.Machine.execCpyg g o s
  | .tierp g o => Sys2Proof.Machine.execTierp g o s
  | .tiere g o => Sys2Proof.Machine.execTiere g o s
  | .wload g o => Sys2Proof.Machine.execWload g o s
  | .mtask g o => Sys2Proof.Machine.execMtask g o s
  | .qcfg g o => Sys2Proof.Machine.execQcfg g o s
  | .commOpen g o => Sys2Proof.Machine.execCommOpen g o s
  | .commClose g o => Sys2Proof.Machine.execCommClose g o s
  | .collRs g o => Sys2Proof.Machine.execCollRs g o s
  | .collAg g o => Sys2Proof.Machine.execCollAg g o s
  | .collAr g o => Sys2Proof.Machine.execCollAr g o s
  | .collBc g o => Sys2Proof.Machine.execCollBc g o s
  | .collBar g o => Sys2Proof.Machine.execCollBar g o s
  | .collSend g o => Sys2Proof.Machine.execCollSend g o s
  | .collRecv g o => Sys2Proof.Machine.execCollRecv g o s
  | .rmoCas4 g o => Sys2Proof.Machine.execRmoCas4 g o s
  | .rmoEnq g o => Sys2Proof.Machine.execRmoEnq g o s
  | .rmoChase g o => Sys2Proof.Machine.execRmoChase g o s
  | .rst g o => Sys2Proof.Machine.execRst g o s
  | .rflush g o => Sys2Proof.Machine.execRflush g o s
  | .matchArm g o => Sys2Proof.Machine.execMatchArm g o s
  | .bra g o => Sys2Proof.Machine.execBra g o s
  | .brc g o => Sys2Proof.Machine.execBrc g o s
  | .brx g o => Sys2Proof.Machine.execBrx g o s
  | .call g o => Sys2Proof.Machine.execCall g o s
  | .ret g o => Sys2Proof.Machine.execRet g o s
  | .bhz g o => Sys2Proof.Machine.execBhz g o s
  | .rcv g o => Sys2Proof.Machine.execRcv g o s
  | .exit g o => Sys2Proof.Machine.execExit g o s
  | .yield g o => Sys2Proof.Machine.execYield g o s
  | .nop g o => Sys2Proof.Machine.execNop g o s
  | .prefi g o => Sys2Proof.Machine.execPrefi g o s
  | .pin g o => Sys2Proof.Machine.execPin g o s
  | .unpin g o => Sys2Proof.Machine.execUnpin g o s
  | .launch g o => Sys2Proof.Machine.execLaunch g o s
  | .fetchw g o => Sys2Proof.Machine.execFetchw g o s
  | .alloc g o => Sys2Proof.Machine.execAlloc g o s
  | .freea g o => Sys2Proof.Machine.execFreea g o s
  | .shape g o => Sys2Proof.Machine.execShape g o s
  | .trap g o => Sys2Proof.Machine.execTrap g o s
  | .rte g o => Sys2Proof.Machine.execRte g o s
  | .rdsr g o => Sys2Proof.Machine.execRdsr g o s
  | .wrsr g o => Sys2Proof.Machine.execWrsr g o s
  | .clauseHeader h => Sys2Proof.Machine.execClauseHeader h s
  | .loadReturn core wave num => Sys2Proof.Machine.execLoadReturn core wave num s
  | .storeAccept core wave num => Sys2Proof.Machine.execStoreAccept core wave num s
  | .collierAtomic core wave num => Sys2Proof.Machine.execCollierAtomic core wave num s
  | .barrierUpdate core wave num => Sys2Proof.Machine.execBarrierUpdate core wave num s
  | .collierLink core wave num => Sys2Proof.Machine.execCollierLink core wave num s
  | .collierUnlink core wave num => Sys2Proof.Machine.execCollierUnlink core wave num s
  | .heldOperationProceed core wave num => Sys2Proof.Machine.execHeldOperationProceed core wave num s
  | .faultBufferEntry core wave num => Sys2Proof.Machine.execFaultBufferEntry core wave num s
  | .rmoPerform core wave num remote => Sys2Proof.Machine.execRmoPerform core wave num remote s
  | .rmoResponse core wave num => Sys2Proof.Machine.execRmoResponse core wave num s
  | .failureRetry core wave num => Sys2Proof.Machine.execFailureRetry core wave num s
  | .horizonResolution core wave => Sys2Proof.Machine.execHorizonResolution core wave s
  | .heldLineDrain core wave => Sys2Proof.Machine.execHeldLineDrain core wave s
  | .trapEntry core wave => Sys2Proof.Machine.execTrapEntry core wave s
  | .waitphWake core frag => Sys2Proof.Machine.execWaitphWake core frag s
  | .sfuComplete core pos => Sys2Proof.Machine.execSfuComplete core pos s
  | .crossLaneComplete core pos => Sys2Proof.Machine.execCrossLaneComplete core pos s
  | .scratchpadLoadResult core pos => Sys2Proof.Machine.execScratchpadLoadResult core pos s
  | .barrowLanding core cmd => Sys2Proof.Machine.execBarrowLanding core cmd s
  | .wloadLatch core => Sys2Proof.Machine.execWloadLatch core s
  | .kilnBoundary core => Sys2Proof.Machine.execKilnBoundary core s
  | .kilnTaskComplete core => Sys2Proof.Machine.execKilnTaskComplete core s
  | .allotmentGrant core => Sys2Proof.Machine.execAllotmentGrant core s
  | .xinvComplete core => Sys2Proof.Machine.execXinvComplete core s
  | .preemptionDrain core slot => Sys2Proof.Machine.execPreemptionDrain core slot s
  | .drainComplete core slot => Sys2Proof.Machine.execDrainComplete core slot s
  | .blockEnd core slot => Sys2Proof.Machine.execBlockEnd core slot s
  | .remoteStorePerform src => Sys2Proof.Machine.execRemoteStorePerform src s
  | .remoteAck core stream => Sys2Proof.Machine.execRemoteAck core stream s
  | .remoteAckTimer core stream => Sys2Proof.Machine.execRemoteAckTimer core stream s
  | .acknowledgementArrival core stream count => Sys2Proof.Machine.execAcknowledgementArrival core stream count s
  | .groupRegistration cluster pos => Sys2Proof.Machine.execGroupRegistration cluster pos s
  | .hearthGateCheck cluster pos => Sys2Proof.Machine.execHearthGateCheck cluster pos s
  | .hearthDispatch cluster pos kiln => Sys2Proof.Machine.execHearthDispatch cluster pos kiln s
  | .bellowsChunk die => Sys2Proof.Machine.execBellowsChunk die s
  | .commOpenApply die comm => Sys2Proof.Machine.execCommOpenApply die comm s
  | .commCloseApply die comm => Sys2Proof.Machine.execCommCloseApply die comm s
  | .bellowsHeaderExchange die comm others => Sys2Proof.Machine.execBellowsHeaderExchange die comm others s
  | .bellowsStepComplete die comm others => Sys2Proof.Machine.execBellowsStepComplete die comm others s
  | .launchEnd launch => Sys2Proof.Machine.execLaunchEnd launch s
  | .blockPlacement core => Sys2Proof.Machine.execBlockPlacement core s
  | .contextStreamOut core ctx => Sys2Proof.Machine.execContextStreamOut core ctx s
  | .contextRestore core ctx => Sys2Proof.Machine.execContextRestore core ctx s
  | .hostPost queue record => Sys2Proof.Machine.execHostPost queue record s
  | .stokerTake => Sys2Proof.Machine.execStokerTake s
  | .priorityPreemptionRequest launch core slot => Sys2Proof.Machine.execPriorityPreemptionRequest launch core slot s
  | .shapeNotification => Sys2Proof.Machine.execShapeNotification s
  | .shapeTimeout launch => Sys2Proof.Machine.execShapeTimeout launch s
  | .fetchwDraw => Sys2Proof.Machine.execFetchwDraw s
  | .groupDispatch => Sys2Proof.Machine.execGroupDispatch s
  | .hearthGateReread cluster pos => Sys2Proof.Machine.execHearthGateReread cluster pos s
  | .faultStatusWrite core entry status => Sys2Proof.Machine.execFaultStatusWrite core entry status s
  | .xinvWrite core value => Sys2Proof.Machine.execXinvWrite core value s
  | .iinvWrite core value => Sys2Proof.Machine.execIinvWrite core value s
  | .registerWrite target value => Sys2Proof.Machine.execRegisterWrite target value s
  | .spclrWrite value => Sys2Proof.Machine.execSpclrWrite value s
  | .preemptWrite value => Sys2Proof.Machine.execPreemptWrite value s
  | .restoreWrite value => Sys2Proof.Machine.execRestoreWrite value s
  | .eventRecordWrite => Sys2Proof.Machine.execEventRecordWrite s
  | .hostApertureWrite off bytes => Sys2Proof.Machine.execHostApertureWrite off bytes s
  | .hostApertureRead off len => Sys2Proof.Machine.execHostApertureRead off len s
  | .hostCompletion core wave num answer => Sys2Proof.Machine.execHostCompletion core wave num answer s
  | .hostCompletionTimeout core wave num => Sys2Proof.Machine.execHostCompletionTimeout core wave num s
  | .bellowsTimeout die comm => Sys2Proof.Machine.execBellowsTimeout die comm s
  | .multicastAck core stream bitmap members => Sys2Proof.Machine.execMulticastAck core stream bitmap members s
  | .messageArrival die node tag data => Sys2Proof.Machine.execMessageArrival die node tag data s
  | .flueTimeout core wave num => Sys2Proof.Machine.execFlueTimeout core wave num s
  | .flitReceive port flit => Sys2Proof.Machine.execFlitReceive port flit s
  | .keySwitchMarker port receiving => Sys2Proof.Machine.execKeySwitchMarker port receiving s
  | .keyLoad port receiving slot key salt id => Sys2Proof.Machine.execKeyLoad port receiving slot key salt id s
  | .invctrThreshold port => Sys2Proof.Machine.execInvctrThreshold port s
  | .linkRetrain port => Sys2Proof.Machine.execLinkRetrain port s
  | .cxlPortFail port => Sys2Proof.Machine.execCxlPortFail port s
  | .cxlRetrain port => Sys2Proof.Machine.execCxlRetrain port s
  | .rfUncorrectableError core wave part => Sys2Proof.Machine.execRfUncorrectableError core wave part s
  | .backgroundScrub core finding => Sys2Proof.Machine.execBackgroundScrub core finding s
  | .spadUncorrectableError core slot word => Sys2Proof.Machine.execSpadUncorrectableError core slot word s
  | .cacheUncorrectableError unit line => Sys2Proof.Machine.execCacheUncorrectableError unit line s
  | .opSet mask mhz => Sys2Proof.Machine.execOpSet mask mhz s
  | .capSet watts => Sys2Proof.Machine.execCapSet watts s
  | .dieGate die => Sys2Proof.Machine.execDieGate die s
  | .dieWake die => Sys2Proof.Machine.execDieWake die s
  | .countersRead unit clear => Sys2Proof.Machine.execCountersRead unit clear s
  | .telemetryRead => Sys2Proof.Machine.execTelemetryRead s
  | .laneRetire core lane => Sys2Proof.Machine.execLaneRetire core lane s
  | .fwUpdate chunk => Sys2Proof.Machine.execFwUpdate chunk s
  | .reportRead => Sys2Proof.Machine.execReportRead s
  | .powerMeasurement powers watts junctions => Sys2Proof.Machine.execPowerMeasurement powers watts junctions s
  | .ageingCheck cluster birth now => Sys2Proof.Machine.execAgeingCheck cluster birth now s
  | .shadowLatchTrip core lane => Sys2Proof.Machine.execShadowLatchTrip core lane s
  | .getDigests => Sys2Proof.Machine.execGetDigests s
  | .getCertificate => Sys2Proof.Machine.execGetCertificate s
  | .challenge nonce => Sys2Proof.Machine.execChallenge nonce s
  | .getMeasurements nonce => Sys2Proof.Machine.execGetMeasurements nonce s
  | .powerUp => Sys2Proof.Machine.execPowerUp s
  | .cacheEviction unit line => Sys2Proof.Machine.execCacheEviction unit line s
  | .translationCacheDrop unit ctx page => Sys2Proof.Machine.execTranslationCacheDrop unit ctx page s
  | .waveTermination core wave => Sys2Proof.Machine.execWaveTermination core wave s
  | .hostLinkDown => Sys2Proof.Machine.execHostLinkDown s

end Sys2Proof.Machine
end

