-- ==== Sys2Proof/Machine/Upkeep.lean ====
section
/-! DEFINITION. What holds at the end of every activity: no cache holds more lines than it has room for (R1, R95). -/

namespace Sys2Proof.Machine

/-! ## The sizes of the caches (R95; DESIGN CHOICE, log 73) -/

def l1Lines : Nat := 512
def l2Lines : Nat := 524288
def l0Lines : Nat := 128
def clusterLines : Nat := 2048

/-- The different numbers of a rising list. -/
def distinct (l : List Nat) : List Nat :=
  match l with
  | [] => []
  | a :: r =>
    match distinct r with
    | [] => [a]
    | b :: t => if a = b then b :: t else a :: b :: t

/-- The 128-byte lines of which a map of cached bytes holds some. -/
def byteLines (m : Map CByte) : List Nat := distinct (m.map fun e => e.1 / 128)

/-- The line that leaves a full cache: some one of those that may. -/
def pickLine (ls : List Nat) (n : Nat) : Nat := ls.getD (Config.victim n % ls.length) 0

/-- The lines that the L1 of a core holds, with those that hold stores (R107). -/
def Core.l1Used (x : Core) : Nat := (byteLines x.l1).length + (heldLines x.held).length

/-- A line leaves the L1 of a core; what is dirty in it goes to the L2. -/
def State.evictL1 (s : State) (c n : Nat) : State :=
  let q (k : Nat) (_ : CByte) : Bool := k / 128 == n
  (s.l1WriteBack c q).updCore c fun x => { x with l1 := dropBytes x.l1 q }

def State.fitL1 (s : State) (c fuel : Nat) : State :=
  match fuel with
  | 0 => s
  | fuel + 1 =>
    if (s.core c).l1Used ≤ l1Lines then s
    else State.fitL1 (s.evictL1 c (pickLine (byteLines (s.core c).l1) (s.tick + fuel))) c fuel

/-- The lines that may leave the L2 of a die: those of which nothing dirty waits for a port that is down (R403). -/
def State.l2Victims (s : State) (d : Nat) : List Nat :=
  let m := (s.die d).l2
  let stuck := byteLines (m.filter fun e => e.2.dirty && !s.homeWritable e.1)
  (byteLines m).filter fun n => !stuck.contains n

/-- A line leaves the L2 of a die; what is dirty in it goes to its home. -/
def State.evictL2 (s : State) (d n : Nat) : State :=
  let q (k : Nat) (_ : CByte) : Bool := k / 128 == n
  (s.l2WriteBack d q).updDie d fun x => { x with l2 := dropBytes x.l2 fun k b => q k b && !b.dirty }

def State.fitL2 (s : State) (d fuel : Nat) : State :=
  match fuel with
  | 0 => s
  | fuel + 1 =>
    if (byteLines (s.die d).l2).length ≤ l2Lines then s
    else State.fitL2 (s.evictL2 d (pickLine (s.l2Victims d) (s.tick + fuel))) d fuel

/-- A map of instruction lines with at most so many of them: pinned lines stay (R111). -/
def fitLines (m : Map ILine) (room n fuel : Nat) : Map ILine :=
  match fuel with
  | 0 => m
  | fuel + 1 =>
    if m.length ≤ room then m
    else
      let ls := (m.filter fun e => e.2.pins == 0).map fun e => e.1
      if ls.isEmpty then m else fitLines (Map.del m (pickLine ls (n + fuel))) room n fuel

/-- Every cache is within its size. -/
def State.fitCaches (s : State) : State :=
  let s := s.cores.foldl (fun s e => s.fitL1 e.1 (byteLines e.2.l1).length) s
  let s := s.dies.foldl (fun s e => s.fitL2 e.1 (byteLines (s.die e.1).l2).length) s
  { s with
    cores := s.cores.map fun e => (e.1, { e.2 with l0 := fitLines e.2.l0 l0Lines s.tick e.2.l0.length }),
    clusters := s.clusters.map fun e =>
      (e.1, { e.2 with icache := fitLines e.2.icache clusterLines s.tick e.2.icache.length }) }

end Sys2Proof.Machine
end

