-- ==== Sys2Proof/Machine/Sched.lean ====
section
/-! DEFINITION. Which fragment a slot's choice takes, and what moves next (R41, R52, R222 to R226,
R271, R381; DESIGN CHOICE, log 1). -/

namespace Sys2Proof.Machine

/-! ## One word of one fragment -/

/-- The word being issued is the one given, by the fragment given. -/
def State.withCur (s : State) (c f : Nat) (word : DWord) : State := { s with cur := some (c, f, word) }

/-- Whether a word traps with SUB 1 before its fields are looked at: its class is not admitted, it
must stand last and does not, or it is an RTE outside a trap window (R271 item 1, R390). -/
def misplaced (f : Frag) (word : DWord) : Bool :=
  match f.loc with
  | .header _ => false
  | .word _ cls _ _ =>
    !cls.admits (Cls.ofWord word) || (wordEndsClause word && !f.loc.isLast)
      || (!word.getLsbD 62 && word.extractLsb' 54 8 == 0xF7#8 && !f.handler)

/-- What a fetched word does: its checks, and then the meaning of its instruction. -/
def State.runWord (s : State) (c : Nat) (f : Frag) (word : DWord) :
    Host.Outcome State Fault Refusal :=
  let s := s.withCur c f.id word
  match s.ctx? with
  | none => .next s
  | some x =>
    match f.loc with
    | .header _ =>
      match decodeHeader word with
      | .ok i => exec i s
      | .error r => .next (s.raise x (illegal (BitVec.ofNat 8 r.sub)))
    | .word .. =>
      if misplaced f word then .next (s.raise x (illegal 1))
      else
        match decode word with
        | .ok i => exec i s
        | .error r => .next (s.raise x (illegal (BitVec.ofNat 8 r.sub)))

/-- Whether the word leaves its fragment where it stands: a queue, a counter or its own rule holds
it (R131, R174, R223). -/
def State.heldWord (s : State) (c : Nat) (f : Frag) (word : DWord) : Bool :=
  match s.runWord c f word with
  | .next t => (t.core c).frag? f.id == some f && decide ((t.core c).trapQueue = (s.core c).trapQueue)
  | _ => false

/-- The wave and the block of a fragment. -/
def Core.home? (x : Core) (f : Frag) : Option (Wave × Block) :=
  match x.wave? f.wave with
  | none => none
  | some w =>
    match x.block? w.block with
    | none => none
    | some b => some (w, b)

/-- Whether a fragment may go on at all. -/
def Core.goes (x : Core) (f : Frag) : Bool :=
  match x.home? f with
  | none => false
  | some (w, b) => x.mayGo w b f

/-- The word a fragment stands at, if it can be fetched. -/
def State.nextWord (s : State) (c : Nat) (f : Frag) : Except (BitVec 16) DWord :=
  match (s.core c).home? f with
  | none => .error 0
  | some (_, b) => s.fetchWord c ((s.core c).rootOf b.ctx) f.loc.addr

/-! ## Fetching a header, and fetches that fail (R110, R246, R248) -/

/-- Whether a fragment has a fetch to make that is no issue: a header, or a word whose fetch fails. -/
def State.needsFetch (s : State) (c : Nat) (f : Frag) : Bool :=
  (s.core c).goes f && match f.loc with
    | .header _ => true
    | .word .. => match s.nextWord c f with
      | .ok _ => false
      | .error _ => true

/-- A fragment fetches the header it stands at; a fetch that fails traps precisely, with 0 as the word that no rule
gives (R233; DESIGN CHOICE, log 72). A drained context starts no new clause (R242). -/
def State.fetchStep (s : State) (c fid : Nat) : Host.Outcome State Fault Refusal :=
  match (s.core c).frag? fid with
  | none => .next s
  | some f =>
    if !s.needsFetch c f then .next s
    else
      match s.nextWord c f with
      | .ok word =>
        match (s.core c).home? f with
        | none => .next s
        | some (_, b) => (s.fetchKeep c ((s.core c).rootOf b.ctx) f.loc.addr).runWord c f word
      | .error e =>
        let t := s.withCur c fid 0
        match t.ctx? with
        | none => .next s
        | some x => .next (t.raise x ⟨eFetch, e.extractLsb' 0 8, f.loc.addr⟩)

/-! ## Slots (R222, R226) -/

/-- The slot that takes words of a class. -/
def Slot.ofWord (w : DWord) : Slot := if Cls.ofWord w = .uniform then .uniform else .vector

/-- Whether a clause of a class holds a slot. -/
def Slot.heldBy (k : Slot) (c : Cls) : Bool :=
  match c with
  | .mixed => true
  | .uniform => k == .uniform
  | _ => k == .vector

def Frag.clause (f : Frag) : Cls :=
  match f.loc with
  | .header _ => .vector
  | .word _ c _ _ => c

/-- Whether some fragment other than f holds a slot: it is inside a clause, and neither parked nor
stopped. -/
def Core.slotHeld (x : Core) (f : Nat) (k : Slot) : Bool :=
  x.frags.any fun g => g.id != f && g.holds && k.heldBy g.clause && x.goes g

/-- Whether a fragment may go on with its clause: no other fragment holds a slot that the clause
holds (R226; DEDUCED, log 17). -/
def Core.slotsFree (x : Core) (f : Frag) : Bool :=
  !(Slot.vector.heldBy f.clause && x.slotHeld f.id .vector)
    && !(Slot.uniform.heldBy f.clause && x.slotHeld f.id .uniform)

/-- Whether a fragment is ready for a slot (R223). -/
def State.ready (s : State) (c : Nat) (k : Slot) (f : Frag) : Bool :=
  match f.loc with
  | .header _ => false
  | .word .. =>
    (s.core c).goes f && match (s.core c).home? f, s.nextWord c f with
      | some (w, _), .ok word =>
        Slot.ofWord word == k && (s.core c).wordFree w f word && !s.heldWord c f word
      | _, _ => false

/-! ## Ranks (R41, R224, R225) -/

/-- The input-ring barrier of a stage: its offset, 0xFFFF for none (R30). -/
def Block.ringOff (b : Block) (stage : Nat) : Nat := recNat b.record (84 + 2 * stage) 2

/-- The fill of a stage's ring, as a fraction (R41). -/
def Block.ringFill (b : Block) (stage : Nat) : Nat × Nat :=
  if b.ringOff stage = 0xFFFF then (0, 1)
  else
    let bar := Bar.ofBytes (b.spadRead (b.ringOff stage) 16)
    if bar.btgt = 0 then (0, 1) else (bar.btgt - bar.bpend, bar.btgt)

/-- Whether a fragment waits in WAITPH. -/
def Frag.inWaitph (f : Frag) : Bool :=
  match f.park with
  | .waitph .. => true
  | _ => false

/-- Whether every wave of a stage is parked in WAITPH (R41). -/
def Core.stageBlocked (x : Core) (b : Block) (stage : Nat) : Bool :=
  (x.waves.filter fun w => w.block == b.slot && w.stage == stage && !w.ended).all fun w =>
    (x.fragsOf w.slot).all Frag.inWaitph

/-- The favoured stage of a block (R224). -/
def Core.favoured (x : Core) (b : Block) : Option Nat :=
  let stages := (List.range 4).filter fun k =>
    (x.waves.any fun w => w.block == b.slot && w.stage == k && !w.ended) && !x.stageBlocked b k
  stages.foldl (fun best k =>
    match best with
    | none => some k
    | some j =>
      let fj := b.ringFill j
      let fk := b.ringFill k
      if fj.1 * fk.2 < fk.1 * fj.2 then some k else some j) none

/-- Whether a block declares pipeline stages (R30). -/
def Block.staged (b : Block) : Bool := bitsOf (recNat b.record 73 1) 0 1 = 1

/-- The rank of a fragment among those ready (R224). -/
def State.rank (s : State) (c : Nat) (f : Frag) : Nat :=
  let x := s.core c
  let sibling := x.frags.any fun g =>
    g.id != f.id && g.wave == f.wave && (s.ready c .vector g || s.ready c .uniform g)
  if f.skip = 64 then 3
  else if f.damper.dem && sibling then 0
  else
    match x.home? f with
    | none => 1
    | some (w, b) => if !b.staged || x.favoured b == some w.stage then 2 else 1

/-- The ready queue from a slot's scan pointer on. -/
def Core.scan (x : Core) (k : Slot) : List Frag :=
  let p := match k with
    | .vector => x.vptr
    | .uniform => x.uptr
  x.frags.drop p ++ x.frags.take p

/-- The fragment that a slot's choice takes: the first of highest rank among those that are ready
and may use their clause's slots. The vector slot passes over a fragment that has yielded while
another is ready (R224, R226, R381). -/
def State.choose (s : State) (c : Nat) (k : Slot) : Option Frag :=
  let x := s.core c
  let all := (x.scan k).filter fun f => s.ready c k f && x.slotsFree f
  let fresh := all.filter fun f => !f.yielded
  let cands := if k = .vector && !fresh.isEmpty then fresh else all
  match (cands.map fun f => s.rank c f).max? with
  | none => none
  | some r => cands.find? fun f => s.rank c f == r

/-- SKIP after a choice (R225), and the end of a YIELD's effect. -/
def State.afterChoice (s : State) (c : Nat) (k : Slot) (chosen : Frag) (f : Frag) : Frag :=
  let other := match k with
    | .vector => Slot.uniform
    | .uniform => Slot.vector
  let skip :=
    if f.id = chosen.id then 0
    else if s.ready c k f then min (f.skip + 1) 64
    else if s.ready c other f then f.skip
    else 0
  { f with skip := skip, yielded := f.yielded && k != .vector }

/-- The position just after a fragment in the queue. -/
def Core.posAfter (x : Core) (f : Nat) : Nat :=
  match x.frags.findIdx? fun g => g.id == f with
  | none => 0
  | some i => if i + 1 = x.frags.length then 0 else i + 1

/-- One issue choice of one slot: the chosen fragment issues its word (R222 to R226). -/
def State.issueStep (s : State) (c : Nat) (k : Slot) : Host.Outcome State Fault Refusal :=
  match s.choose c k with
  | none => .next s
  | some f =>
    match (s.core c).home? f, s.nextWord c f with
    | some (_, b), .ok word =>
      let t := s.fetchKeep c ((s.core c).rootOf b.ctx) f.loc.addr
      let x := t.core c
      let x := { x with frags := x.frags.map fun g => s.afterChoice c k f g }
      let x := match k with
        | .vector => { x with vptr := x.posAfter f.id }
        | .uniform => { x with uptr := x.posAfter f.id }
      (t.setCore c x).runWord c f word
    | _, _ => .next s

/-! ## What moves next (DESIGN CHOICE, log 1) -/

/-- A step of a unit or of the outside. An instruction word moves only when a fragment issues it. -/
def State.eventStep (s : State) (i : Instr) : Host.Outcome State Fault Refusal :=
  if (encode i).isSome then .next s else exec i s

/-- The first step of the list that changes the state. -/
def State.firstUnit (s : State) (l : List Instr) : Option State :=
  match l with
  | [] => none
  | i :: r =>
    match s.eventStep i with
    | .next t => if t = s then s.firstUnit r else some t
    | _ => s.firstUnit r

/-- The happenings that units bring about of their own accord: changes, bring-up, messages that land, RMOs served. -/
def State.unitIncidents (s : State) : List Incident :=
  [.staramJob, .bringUp] ++ (s.dies.filter fun e => !e.2.landing.isEmpty).map (fun e => Incident.messageLand e.1)
    ++ s.rmoIn.map fun r => Incident.rmoServe r.node r.seq

/-- The first of them that changes the state. -/
def State.firstIncident (s : State) (l : List Incident) : Option State :=
  match l with
  | [] => none
  | i :: r => if s.incident i = s then s.firstIncident r else some (s.incident i)

/-- The first fetch that some fragment has to make. -/
def State.firstFetch (s : State) : Option (Nat × Nat) :=
  (s.cores.flatMap fun e => (e.2.frags.filter fun f => s.needsFetch e.1 f).map fun f =>
    (e.1, f.id)).head?

/-- The issue choices that can take a fragment, by core and slot. -/
def State.choices (s : State) : List (Nat × Slot) :=
  (s.cores.flatMap fun e => [(e.1, Slot.vector), (e.1, Slot.uniform)]).filter fun p =>
    (s.choose p.1 p.2).isSome

/-- With an empty agenda, a change of the Staram or a step of bring-up comes first, then a fetch, then a step of a
unit, then an issue choice, by turns over the cores and slots. -/
def State.autoStep (s : State) : Host.Outcome State Fault Refusal :=
  match s.firstIncident s.unitIncidents, s.firstFetch with
    | some t, _ => .next t
    | none, some (c, f) => s.fetchStep c f
    | none, none =>
      match s.firstUnit s.unitSteps with
      | some t => .next t
      | none =>
        match s.choices with
        | [] => .next s
        | p :: r =>
          let q := (p :: r).getD (s.turn % (r.length + 1)) p
          ({ s with turn := s.turn + 1 }).issueStep q.1 q.2

/-- The activity that an agenda's head names, or the machine's own choice. -/
def State.act (s : State) : Host.Outcome State Fault Refusal :=
  match s.agenda with
  | [] => s.autoStep
  | .event i :: r => ({ s with agenda := r }).eventStep i
  | .incident i :: r => .next (({ s with agenda := r }).incident i)
  | .header c f :: r => ({ s with agenda := r }).fetchStep c f
  | .issue c k :: r => ({ s with agenda := r }).issueStep c k

/-! ## The end of an activity (R131, R225, R226) -/

/-- Whether the queue that a word adds to is full: a word without an active lane adds nothing (R297). -/
def State.queueFull (s : State) (x : Ctx) (i : Instr) : Bool :=
  let comm (g : Ctl) (o : ED) : Bool :=
    x.active g != 0 && decide (32 ≤ (s.comm (dieOf x.c) o.comm.toNat).queue.length)
  match i with
  | .mtask g _ => x.active g != 0 && (decide (256 ≤ (s.cluster (clusterOf x.c)).ring.length)
      || decide (64 ≤ (s.ringOf x.c x.block.slot).length))
  | .commOpen g o => comm g o
  | .collRs g o => comm g o
  | .collAg g o => comm g o
  | .collAr g o => comm g o
  | .collBc g o => comm g o
  | .collBar g o => comm g o
  | .collSend g o => comm g o
  | .collRecv g o => comm g o
  | .rst g o => !x.core.streamRoom o.stream.toNat (lanesOf (x.active g)).length
  | _ => false

/-- Whether a full queue holds a fragment: it is parked (R131). -/
def State.queueParks (s : State) (c : Nat) (f : Frag) : Bool :=
  match s.nextWord c f with
  | .error _ => false
  | .ok word =>
    match (s.withCur c f.id word).ctx?, decode word with
    | some x, .ok i => x.core.wordFree x.wave f word && s.queueFull x i
    | _, _ => false

/-- A fragment that parks, for any cause, holds its clause's slots no more (R226 item 3); what of it is ready for
neither slot has no SKIP (R225). -/
def State.restFrag (s : State) (c : Nat) (f : Frag) : Frag :=
  { f with
    holds := f.holds && (s.core c).goes f && !s.queueParks c f,
    skip := if f.skip != 0 && !(s.ready c .vector f || s.ready c .uniform f) then 0 else f.skip }

def State.restFrags (s : State) : State :=
  { s with cores := s.cores.map fun e => (e.1, { e.2 with frags := e.2.frags.map (s.restFrag e.1) }) }

/-- The end of an activity: caches are within their sizes, landings that wait have been tried, gates have been checked,
no word is being issued, and one more activity is counted. -/
def State.tidy (s : State) : State :=
  let s := ({ s with cur := none } : State).fitCaches.pumpLands.checkGates.restFrags
  { s with tick := s.tick + 1 }

/-- One activity of the machine. Stores that it has issued to EV pages are performed with it (R427 item 2). -/
def State.advance (s : State) : Host.Outcome State Fault Refusal :=
  match s.act with
  | .next t => .next t.issuedStores.tidy
  | .fault r => .fault r
  | .refused r => .refused r

end Sys2Proof.Machine
end

