-- ==== Sys2Proof/Machine/Load.lean ====
section
/-! DEFINITION. The load of one instruction word for the next step: a placed block of one wave whose
one fragment stands at the word, with the page tables through which it is fetched (DESIGN CHOICE, log 7). -/

namespace Sys2Proof.Machine

/-- The place of the level-0 table, of the level-1 table, and of the clause header. -/
def loadRoot : Nat := 0x10000
def loadTable : Nat := 0x20000
def loadCode : Nat := 0x30000

/-- A header of a mixed clause of one word, with no waits (R247). -/
def loadHeader : DWord := 0xFA1FFFFF80000000

/-- A launch record of one wave with 256 registers, 8 granules of registers and 1 of scratchpad. -/
def loadRecord : List Byte :=
  toBytes 8 loadCode ++ toBytes 8 6 ++ List.replicate 40 0 ++ toBytes 4 0x108 ++ toBytes 2 9
    ++ toBytes 2 9 ++ toBytes 8 0 ++ [1, 0] ++ toBytes 2 0 ++ toBytes 6 0 ++ toBytes 2 256
    ++ List.replicate 44 0

/-- The memory that the fetch of a word needs: page tables that map the first 4 TiB of addresses on
the same places, readable, writable and executable, and the clause. -/
def loadMemory (m : Memory) (w : DWord) : Memory :=
  let m := Memory.write m loadRoot (toBytes 8 (loadTable + 1))
  let m := Memory.write m loadTable (toBytes 8 0x1F)
  Memory.write (Memory.write m loadCode (toBytes 8 loadHeader.toNat)) (loadCode + 8) (toBytes 8 w.toNat)

/-- Core 0 with the fragment that stands at the word. -/
def loadCore : Core :=
  { Core.reset with
    ctxs := [{ used := true, root := BitVec.ofNat 64 loadRoot, tfp := 0, ctxid := 1 },
             CtxSlot.empty, CtxSlot.empty],
    active := some 0,
    blocks := [Block.placed 0 0 0 0 [] loadRecord false 0],
    waves := [Wave.start 0 0 0 256 0 false 0],
    frags := [{ id := 0, wave := 0, mask := BitVec.allOnes 64,
                loc := .word (BitVec.ofNat 64 loadCode) .mixed 0 0, waits := none, stack := [],
                park := .none, marked := false, damper := Damper.reset, skip := 0,
                yielded := false, holds := false, handler := false }],
    nextFrag := 1 }

/-- The module with the word loaded so that the next activity issues it. -/
def State.loadWord (s : State) (w : DWord) : State :=
  { s with
    agenda := [.issue 0 (Slot.ofWord w)], up := true, host := { s.host with nodeid := 0 },
    mem := loadMemory s.mem w, cores := Map.put s.cores 0 loadCore,
    dies := Map.put s.dies 0 Die.reset, clusters := Map.put s.clusters 0 Cluster.reset }

end Sys2Proof.Machine
end

