-- ==== Sys2Proof/Machine/Step.lean ====
section
/-! DEFINITION. One step of the machine: one activity of the module. -/

namespace Sys2Proof.Machine

/-- The activity that the agenda names, or the machine's own choice (DESIGN CHOICE, log 1). -/
def step (s : State) : Host.Outcome State Fault Refusal := s.advance

/-- The state with an instruction word stored where the next step fetches it, and everything else
that its fetch needs: a placed block, its wave and fragment, and page tables (DESIGN CHOICE, log 7). -/
def State.withFetchWord (s : State) (_nbits w : Nat) : State := s.loadWord (BitVec.ofNat 64 w)

end Sys2Proof.Machine
end

