-- ==== Sys2Proof/Safety.lean ====
section
/-! DEFINITION. What every step keeps: the canonical form of the module's memory. -/

namespace Sys2Proof.Machine

/-- The invariant of a state: its memory is in canonical form. -/
def State.Inv (s : State) : Prop := s.mem.wf = true

/-- A step that goes on, whatever it does, keeps the invariant. -/
def stepSafe (s : State) : Prop := ∀ t, s.Inv → step s = .next t → t.Inv

end Sys2Proof.Machine
end

