-- ==== Sys2Proof/WellFormed.lean ====
section
/-! DEFINITION. Which instructions are well formed: those whose fields obey the rules that
R252, R269, R270 and R271 items 2 and 3 decide from the encoding alone. -/

namespace Sys2Proof

/-- No reserved field, no value that is not allowed, no misaligned register pair. -/
abbrev Instr.WellFormed (i : Instr) : Prop := i.fieldFault = none

/-- The instruction has a word of its own: every row of the opcode map, pair words and headers. -/
abbrev Instr.HasWord (i : Instr) : Prop := (encode i).isSome = true

end Sys2Proof
end

