-- ==== Sys2Proof/Certificates/Slice0/Obligations.lean ====
section
/-! DEFINITION. The statements for the provers. Each obligation is a proposition about the model, with the
rule of spec/ that it comes from in its docstring; the definitions before them say what a group of
instructions names, reads and writes. -/

open Sys2Proof Sys2Proof.Machine

namespace Sys2Proof.Claim

set_option Elab.async false

/-! ## Hypotheses on the word being issued -/

/-- The word of a context may take effect: its vector registers lie within the budget, and neither its
guard nor its sources, where it reads them, hold poison (R40, R76, R295). -/
structure Ready (s : State) (x : Ctx) (g : Ctl) (regs : List Nat) (srcs : List Src) : Prop where
  ctx : s.ctx? = some x
  budget : ∀ r ∈ regs, x.regOk r = true
  guard : x.guardPoison g x.frag.mask = false
  clean : x.anyPoison (x.active g) srcs = false

/-- The same for a uniform word whose guard holds in the lowest lane of its fragment (R48). -/
structure UniReady (s : State) (x : Ctx) (g : Ctl) (l : Nat) (srcs : List Src) : Prop where
  ctx : s.ctx? = some x
  lane : lowLane x.frag.mask = some l
  holds : (x.guardMask g).getLsbD l = true
  guard : x.guardPoison g (laneBit l) = false
  clean : x.anyPoison (laneBit l) srcs = false

/-! ## Uniform words (R277, R331) -/

/-- What a uniform word reads and writes: an s-register, or an address register. -/
inductive UniDest where
  | s (d : Nat) (val : Ctx → Word)
  | a (d : Nat) (val : Ctx → DWord)

structure UniRule where
  g : Ctl
  srcs : List Src
  dest : UniDest

/-- A word that makes an s-register from A and B. -/
def uni2 (g : Ctl) (o : UN) (f : Word → Word → Word) : UniRule :=
  ⟨g, .s o.a.toNat :: uBSrcs o, .s o.d.toNat fun x => f (x.s o.a.toNat) (uB x o)⟩

/-- The low 6 bits of a shift count. -/
def count6 (b : Word) : Nat := b.toNat % 64

def leftBy (a b : Word) : Word := if 32 ≤ count6 b then 0 else a <<< count6 b
def rightBy (a b : Word) : Word := if 32 ≤ count6 b then 0 else a >>> count6 b
def signedRightBy (a b : Word) : Word := a.sshiftRight (min (count6 b) 31)

/-- Bits [63:32] of the product of two integers. -/
def high32 (v : Int) : Word := BitVec.ofInt 32 (v / 2 ^ 32)

/-- A comparison under a condition code of R270: EQ, NE, LT, LE, GT, GE, LTU, LEU, GTU, GEU. -/
def compares (cc : Nat) (a b : Word) : Bool :=
  match cc with
  | 0 => decide (a = b)
  | 1 => decide (a ≠ b)
  | 2 => decide (a.toInt < b.toInt)
  | 3 => decide (a.toInt ≤ b.toInt)
  | 4 => decide (b.toInt < a.toInt)
  | 5 => decide (b.toInt ≤ a.toInt)
  | 6 => decide (a.toNat < b.toNat)
  | 7 => decide (a.toNat ≤ b.toNat)
  | 8 => decide (b.toNat < a.toNat)
  | _ => decide (b.toNat ≤ a.toNat)

/-- What each uniform word reads, and where it puts what (R277, R331). -/
def uniRule : Instr → Option UniRule
  | .umov g o => some ⟨g, uBSrcs o, .s o.d.toNat fun x => uB x o⟩
  | .umovi g o => some ⟨g, [], .s o.d.toNat fun _ => o.imm32⟩
  | .uadd g o => some (uni2 g o fun a b => a + b)
  | .usub g o => some (uni2 g o fun a b => a - b)
  | .umul g o => some (uni2 g o fun a b => a * b)
  | .umulh g o => some (uni2 g o fun a b =>
      if o.bk ≠ 2 ∧ o.mode.getLsbD 0 then high32 ((a.toNat : Int) * b.toNat) else high32 (a.toInt * b.toInt))
  | .uand g o => some (uni2 g o fun a b => a &&& b)
  | .uor g o => some (uni2 g o fun a b => a ||| b)
  | .uxor g o => some (uni2 g o fun a b => a ^^^ b)
  | .ushl g o => some (uni2 g o leftBy)
  | .ushr g o => some (uni2 g o rightBy)
  | .usra g o => some (uni2 g o signedRightBy)
  | .umin g o => some (uni2 g o fun a b =>
      if o.bk ≠ 2 ∧ o.mode.getLsbD 0 then (if a.toNat ≤ b.toNat then a else b)
      else if a.toInt ≤ b.toInt then a else b)
  | .umax g o => some (uni2 g o fun a b =>
      if o.bk ≠ 2 ∧ o.mode.getLsbD 0 then (if a.toNat ≤ b.toNat then b else a)
      else if a.toInt ≤ b.toInt then b else a)
  | .ucmp g o => some (uni2 g o fun a b => if compares o.mode.toNat a b then 1 else 0)
  | .usel g o => some ⟨g, [.s o.a.toNat, .s o.b.toNat, .s o.c.toNat],
      .s o.d.toNat fun x => if x.s o.c.toNat = 0 then x.s o.b.toNat else x.s o.a.toNat⟩
  | .addpc g o => some ⟨g, [], .a (aCode o.d) fun x => x.frag.loc.base + o.imm32.signExtend 64⟩
  | .aadd g o => some ⟨g, .a (aCode o.a) :: uBSrcs o,
      .a (aCode o.d) fun x => x.a (aCode o.a) + (uB x o).signExtend 64⟩
  | .aset g o => some ⟨g, [.s o.a.toNat, .s o.b.toNat],
      .a (aCode o.d) fun x => x.s o.b.toNat ++ x.s o.a.toNat⟩
  | .acpy g o => some ⟨g, [.a (aCode o.a)], .a (aCode o.d) fun x => x.a (aCode o.a)⟩
  | .aget g o => some ⟨g, [.aHalf (aCode o.a) (o.mode.getLsbD 0)],
      .s o.d.toNat fun x => if o.mode.getLsbD 0 then (x.a (aCode o.a)).extractLsb' 32 32
        else (x.a (aCode o.a)).extractLsb' 0 32⟩
  | .rdhz g o => some ⟨g, [], .s o.d.toNat fun x => x.wave.hzn ++ x.wave.seq⟩
  | _ => none

/-- A context after the write of a uniform word. -/
def UniDest.write (d : UniDest) (x : Ctx) : Ctx :=
  match d with
  | .s d val => x.setS d (val x)
  | .a d val => x.setA d (val x)

/-! ## Lane words (R275 to R284) -/

/-- What a lane word names, reads and writes: in each active lane a value and its flags. -/
structure LaneRule where
  g : Ctl
  d : Nat
  regs : List Nat
  srcs : List Src
  val : Ctx → Nat → LaneRes

/-- Source B alone; A and B; A, B and C. -/
def lane1 (g : Ctl) (o : VX) (f : Word → LaneRes) : LaneRule :=
  ⟨g, o.d.toNat, o.d.toNat :: bRegs o, bSrcs o, fun x l => f (bInt x o l)⟩

def lane2 (g : Ctl) (o : VX) (f : Word → Word → LaneRes) : LaneRule :=
  ⟨g, o.d.toNat, o.d.toNat :: o.a.toNat :: bRegs o, .v o.a.toNat :: bSrcs o,
    fun x l => f (x.v o.a.toNat l) (bInt x o l)⟩

def lane3 (g : Ctl) (o : VX) (f : Word → Word → Word → LaneRes) : LaneRule :=
  ⟨g, o.d.toNat, o.d.toNat :: o.a.toNat :: o.c.toNat :: bRegs o,
    .v o.a.toNat :: .v o.c.toNat :: bSrcs o,
    fun x l => f (x.v o.a.toNat l) (bInt x o l) (x.v o.c.toNat l)⟩

/-- An exact result that wraps, or with SAT is clamped to INT32, raising SAT where the clamp changes it. -/
def wrapOrClamp (sat : Bool) (v : Int) : LaneRes :=
  if sat = false then (BitVec.ofInt 32 v, 0)
  else if v < -2 ^ 31 then (BitVec.ofInt 32 (-2 ^ 31), flSAT)
  else if 2 ^ 31 - 1 < v then (BitVec.ofInt 32 (2 ^ 31 - 1), flSAT)
  else (BitVec.ofInt 32 v, 0)

/-- Element j of a word of signed elements of some bits. -/
def signedElem (w : Word) (bits j : Nat) : Int := (w.extractLsb' (bits * j) bits).toInt

/-- What each integer and logical word makes of a lane (R275, R276). -/
def intRule : Instr → Option LaneRule
  | .mov g o => some (lane1 g o fun b => (b, 0))
  | .movi g o => some ⟨g, o.d.toNat, [o.d.toNat], [], fun _ _ => (o.imm, 0)⟩
  | .iadd g o => some (lane2 g o fun a b => wrapOrClamp o.sat (a.toInt + b.toInt))
  | .isub g o => some (lane2 g o fun a b => wrapOrClamp o.sat (a.toInt - b.toInt))
  | .imul g o => some (lane2 g o fun a b => wrapOrClamp o.sat (a.toInt * b.toInt))
  | .imulh g o => some (lane2 g o fun a b => (high32 (a.toInt * b.toInt), 0))
  | .imulhu g o => some (lane2 g o fun a b => (high32 ((a.toNat : Int) * b.toNat), 0))
  | .imad g o => some (lane3 g o fun a b c => (a * b + c, 0))
  | .imin g o => some (lane2 g o fun a b => (if a.toInt ≤ b.toInt then a else b, 0))
  | .imax g o => some (lane2 g o fun a b => (if a.toInt ≤ b.toInt then b else a, 0))
  | .iminu g o => some (lane2 g o fun a b => (if a.toNat ≤ b.toNat then a else b, 0))
  | .imaxu g o => some (lane2 g o fun a b => (if a.toNat ≤ b.toNat then b else a, 0))
  | .iabs g o => some (lane1 g o fun b => wrapOrClamp o.sat |b.toInt|)
  | .ineg g o => some (lane1 g o fun b => wrapOrClamp o.sat (-b.toInt))
  | .and g o => some (lane2 g o fun a b => (a &&& b, 0))
  | .or g o => some (lane2 g o fun a b => (a ||| b, 0))
  | .xor g o => some (lane2 g o fun a b => (a ^^^ b, 0))
  | .not g o => some (lane1 g o fun b => (~~~b, 0))
  | .ishl g o => some (lane2 g o fun a b => (leftBy a b, 0))
  | .ishr g o => some (lane2 g o fun a b => (rightBy a b, 0))
  | .isra g o => some (lane2 g o fun a b => (signedRightBy a b, 0))
  | .irol g o => some (lane2 g o fun a b => (a.rotateLeft (b.toNat % 32), 0))
  | .popc g o => some (lane1 g o fun b =>
      (BitVec.ofNat 32 ((List.range 32).countP fun i => b.getLsbD i), 0))
  | .clz g o => some (lane1 g o fun b =>
      (BitVec.ofNat 32 (((List.range 32).find? fun k => b.getLsbD (31 - k)).getD 32), 0))
  | .brev g o => some (lane1 g o fun b => (b.reverse, 0))
  | .bfe g o => some (lane3 g o fun a b c =>
      (BitVec.ofNat 32 (a.toNat / 2 ^ (b.toNat % 32) % 2 ^ min (c.toNat % 64) 32), 0))
  | .bfi g o => some (lane3 g o fun a b c =>
      let at_ := b.toNat % 32
      let field : Word := BitVec.ofNat 32 (2 ^ min (b.toNat / 256 % 64) 32 - 1) <<< at_
      ((a <<< at_) &&& field ||| c &&& ~~~field, 0))
  | .sel g o => some ⟨g, o.d.toNat, o.d.toNat :: o.a.toNat :: bRegs o,
      .v o.a.toNat :: .p (o.c.toNat % 8) :: bSrcs o,
      fun x l => (if (x.p (o.c.toNat % 8)).getLsbD l = o.c.getLsbD 3 then bInt x o l else x.v o.a.toNat l, 0)⟩
  | .idot4 g o => some (lane3 g o fun a b c => wrapOrClamp o.sat
      (c.toInt + signedElem a 8 0 * signedElem b 8 0 + signedElem a 8 1 * signedElem b 8 1
        + signedElem a 8 2 * signedElem b 8 2 + signedElem a 8 3 * signedElem b 8 3))
  | .idot2 g o => some (lane3 g o fun a b c => wrapOrClamp o.sat
      (c.toInt + signedElem a 16 0 * signedElem b 16 0 + signedElem a 16 1 * signedElem b 16 1))
  | _ => none

/-- An FP32 word with A and B; with B alone; with A, B and C, on codes. -/
def f32x2 (g : Ctl) (o : VX) (f : Nat → Nat → Nat × BitVec 6) : LaneRule :=
  ⟨g, o.d.toNat, o.d.toNat :: o.a.toNat :: bRegs o, .v o.a.toNat :: bSrcs o,
    fun x l => onF32 (f (x.v o.a.toNat l).toNat (bF32 x o l).toNat)⟩

def f32x1 (g : Ctl) (o : VX) (f : Nat → Nat × BitVec 6) : LaneRule :=
  ⟨g, o.d.toNat, o.d.toNat :: bRegs o, bSrcs o, fun x l => onF32 (f (bF32 x o l).toNat)⟩

def f32x3 (g : Ctl) (o : VX) (f : Nat → Nat → Nat → Nat × BitVec 6) : LaneRule :=
  ⟨g, o.d.toNat, o.d.toNat :: o.a.toNat :: o.c.toNat :: bRegs o,
    .v o.a.toNat :: .v o.c.toNat :: bSrcs o,
    fun x l => onF32 (f (x.v o.a.toNat l).toNat (bF32 x o l).toNat (x.v o.c.toNat l).toNat)⟩

/-- A packed word: element 0 in bits [15:0], element 1 in bits [31:16], each by itself (R57, R278). -/
def bothHalves (f : Nat → Nat × BitVec 6) : LaneRes :=
  (BitVec.ofNat 16 (f 1).1 ++ BitVec.ofNat 16 (f 0).1, (f 0).2 ||| (f 1).2)

def half (w : Word) (e : Nat) : Nat := (w.extractLsb' (16 * e) 16).toNat

def pkx2 (g : Ctl) (o : VX) (f : Nat → Nat → Nat × BitVec 6) : LaneRule :=
  ⟨g, o.d.toNat, o.d.toNat :: o.a.toNat :: bRegs o, .v o.a.toNat :: bSrcs o,
    fun x l => bothHalves fun e => f (half (x.v o.a.toNat l) e) (half (bPacked x o l) e)⟩

def pkx1 (g : Ctl) (o : VX) (f : Nat → Nat × BitVec 6) : LaneRule :=
  ⟨g, o.d.toNat, o.d.toNat :: bRegs o, bSrcs o,
    fun x l => bothHalves fun e => f (half (bPacked x o l) e)⟩

def pkx3 (g : Ctl) (o : VX) (f : Nat → Nat → Nat → Nat × BitVec 6) : LaneRule :=
  ⟨g, o.d.toNat, o.d.toNat :: o.a.toNat :: o.c.toNat :: bRegs o,
    .v o.a.toNat :: .v o.c.toNat :: bSrcs o,
    fun x l => bothHalves fun e =>
      f (half (x.v o.a.toNat l) e) (half (bPacked x o l) e) (half (x.v o.c.toNat l) e)⟩

/-- The sum, difference, product and fused product-sum of two or three codes of a format, rounded once
under a mode (R61, R279). -/
def sum (f : FFmt) (rm : BitVec 2) (a b : Nat) : Nat × BitVec 6 := fAdd f rm (f.value a) (f.value b)
def diff (f : FFmt) (rm : BitVec 2) (a b : Nat) : Nat × BitVec 6 := fAdd f rm (f.value a) (f.value b).neg
def prod (f : FFmt) (rm : BitVec 2) (a b : Nat) : Nat × BitVec 6 := fMul f rm (f.value a) (f.value b)
def prodSum (f : FFmt) (rm : BitVec 2) (a b c : Nat) : Nat × BitVec 6 :=
  fFma f rm (f.value a) (f.value b) (f.value c)

/-- What each floating-point word of 32 or 2 × 16 bits makes of a lane (R278 to R281). -/
def floatRule : Instr → Option LaneRule
  | .fadd g o => some (f32x2 g o (sum fp32 o.rm))
  | .fsub g o => some (f32x2 g o (diff fp32 o.rm))
  | .fmul g o => some (f32x2 g o (prod fp32 o.rm))
  | .ffma g o => some (f32x3 g o (prodSum fp32 o.rm))
  | .fmin g o => some (f32x2 g o (fMinMax fp32 false))
  | .fmax g o => some (f32x2 g o (fMinMax fp32 true))
  | .fabs g o => some (f32x1 g o (fSign fp32 false))
  | .fneg g o => some (f32x1 g o (fSign fp32 true))
  | .fclass g o => some (f32x1 g o fun b => (fClass fp32 b, 0))
  | .frnd g o => some (f32x1 g o (fRnd fp32 o.rm))
  | .faddF16 g o => some (pkx2 g o (sum fp16 o.rm))
  | .fsubF16 g o => some (pkx2 g o (diff fp16 o.rm))
  | .fmulF16 g o => some (pkx2 g o (prod fp16 o.rm))
  | .ffmaF16 g o => some (pkx3 g o (prodSum fp16 o.rm))
  | .fminF16 g o => some (pkx2 g o (fMinMax fp16 false))
  | .fmaxF16 g o => some (pkx2 g o (fMinMax fp16 true))
  | .fabsF16 g o => some (pkx1 g o (fSign fp16 false))
  | .fnegF16 g o => some (pkx1 g o (fSign fp16 true))
  | .fclassF16 g o => some (pkx1 g o fun b => (fClass fp16 b, 0))
  | .frndF16 g o => some (pkx1 g o (fRnd fp16 o.rm))
  | .faddBf16 g o => some (pkx2 g o (sum bf16 o.rm))
  | .fsubBf16 g o => some (pkx2 g o (diff bf16 o.rm))
  | .fmulBf16 g o => some (pkx2 g o (prod bf16 o.rm))
  | .ffmaBf16 g o => some (pkx3 g o (prodSum bf16 o.rm))
  | .fminBf16 g o => some (pkx2 g o (fMinMax bf16 false))
  | .fmaxBf16 g o => some (pkx2 g o (fMinMax bf16 true))
  | .fabsBf16 g o => some (pkx1 g o (fSign bf16 false))
  | .fnegBf16 g o => some (pkx1 g o (fSign bf16 true))
  | .fclassBf16 g o => some (pkx1 g o fun b => (fClass bf16 b, 0))
  | .frndBf16 g o => some (pkx1 g o (fRnd bf16 o.rm))
  | .fclassF64 g o => some ⟨g, o.d.toNat, o.d.toNat :: bPairRegs o, bPairSrcs o,
      fun x l => (BitVec.ofNat 32 (fClass fp64 (bF64 x o l).toNat), 0)⟩
  | _ => none

/-- What a lane word of FP64 pairs makes of a lane: the code of the pair at D, and its flags. -/
structure PairRule where
  g : Ctl
  d : Nat
  regs : List Nat
  srcs : List Src
  val : Ctx → Nat → Nat × BitVec 6

def f64x2 (g : Ctl) (o : VX) (f : Nat → Nat → Nat × BitVec 6) : PairRule :=
  ⟨g, o.d.toNat, pairRegs o.d ++ pairRegs o.a ++ bPairRegs o, pairSrcs o.a ++ bPairSrcs o,
    fun x l => f (x.vPair o.a.toNat l).toNat (bF64 x o l).toNat⟩

def f64x1 (g : Ctl) (o : VX) (f : Nat → Nat × BitVec 6) : PairRule :=
  ⟨g, o.d.toNat, pairRegs o.d ++ bPairRegs o, bPairSrcs o, fun x l => f (bF64 x o l).toNat⟩

/-- What each FP64 word makes of a lane (R278 to R281). -/
def float64Rule : Instr → Option PairRule
  | .faddF64 g o => some (f64x2 g o (sum fp64 o.rm))
  | .fsubF64 g o => some (f64x2 g o (diff fp64 o.rm))
  | .fmulF64 g o => some (f64x2 g o (prod fp64 o.rm))
  | .ffmaF64 g o => some ⟨g, o.d.toNat, pairRegs o.d ++ pairRegs o.a ++ pairRegs o.c ++ bPairRegs o,
      pairSrcs o.a ++ pairSrcs o.c ++ bPairSrcs o,
      fun x l => prodSum fp64 o.rm (x.vPair o.a.toNat l).toNat (bF64 x o l).toNat (x.vPair o.c.toNat l).toNat⟩
  | .fminF64 g o => some (f64x2 g o (fMinMax fp64 false))
  | .fmaxF64 g o => some (f64x2 g o (fMinMax fp64 true))
  | .fabsF64 g o => some (f64x1 g o (fSign fp64 false))
  | .fnegF64 g o => some (f64x1 g o (fSign fp64 true))
  | .frndF64 g o => some (f64x1 g o (fRnd fp64 o.rm))
  | _ => none

/-- What a lane word with a predicate result makes of a lane (R275, R276, R282). -/
structure PredRule where
  g : Ctl
  d : Nat
  regs : List Nat
  srcs : List Src
  val : Ctx → Nat → Bool × BitVec 6

/-- FCMP of a packed format compares the elements that MOD[4] names. -/
def pkCompare (g : Ctl) (o : VX) (f : FFmt) : PredRule :=
  ⟨g, o.d.toNat, o.a.toNat :: bRegs o, pkCmpSrcs o, fun x l =>
    fCmp f (o.mode.toNat % 16) (half (x.v o.a.toNat l) (o.mode.getLsbD 4).toNat)
      (half (bPacked x o l) (o.mode.getLsbD 4).toNat)⟩

def predRule : Instr → Option PredRule
  | .icmp g o => some ⟨g, o.d.toNat, o.a.toNat :: bRegs o, .v o.a.toNat :: bSrcs o,
      fun x l => (compares o.mode.toNat (x.v o.a.toNat l) (bInt x o l), 0)⟩
  | .plop g o => some ⟨g, o.d.toNat, [], [.p o.a.toNat, .p o.b.toNat], fun x l =>
      (o.mode.getLsbD (2 * ((x.p o.a.toNat).getLsbD l).toNat + ((x.p o.b.toNat).getLsbD l).toNat), 0)⟩
  | .fcmp g o => some ⟨g, o.d.toNat, o.a.toNat :: bRegs o, .v o.a.toNat :: bSrcs o,
      fun x l => fCmp fp32 o.mode.toNat (x.v o.a.toNat l).toNat (bF32 x o l).toNat⟩
  | .fcmpF64 g o => some ⟨g, o.d.toNat, pairRegs o.a ++ bPairRegs o, pairSrcs o.a ++ bPairSrcs o,
      fun x l => fCmp fp64 o.mode.toNat (x.vPair o.a.toNat l).toNat (bF64 x o l).toNat⟩
  | .fcmpF16 g o => some (pkCompare g o fp16)
  | .fcmpBf16 g o => some (pkCompare g o bf16)
  | _ => none

end Sys2Proof.Claim

namespace Sys2Proof.Claim

/-! ## What a compute word changes, and what it does not -/

/-- Of everything outside the issuing wave nothing changes: no memory, no cache, no other core; on its own core
no other wave, fragment or block. -/
structure Outside (s t : State) (x y : Ctx) : Prop where
  state : t = { s with cores := t.cores }
  cores : ∀ c, c ≠ x.c → t.core c = s.core c
  after : t.ctx? = some y
  sameCore : y.c = x.c
  waves : ∀ w, w ≠ x.wave.slot → y.core.wave? w = x.core.wave? w
  frags : ∀ f, f ≠ x.frag.id → y.core.frag? f = x.core.frag? f
  blocks : ∀ b, y.core.block? b = x.core.block? b
  block : y.block = x.block

/-- Nothing of the core but its waves and its fragments changes. -/
def coreKept (x y : Ctx) : Prop :=
  { y.core with waves := x.core.waves, frags := x.core.frags, blocks := x.core.blocks } = x.core

/-- The fragment has moved past its word; only its damper state may hold another value. -/
def moved (x y : Ctx) (sw : Bool) : Prop := y.frag = { x.frag.past sw with damper := y.frag.damper }

/-- Of the wave only registers of the kinds that may be written, and %fpflags, hold other values: its numbers,
its lane tiles, its operations, its trap and its other special registers stay. -/
def waveKept (x y : Ctx) : Prop :=
  y.wave = { x.wave with
    v := y.wave.v, s := y.wave.s, a := y.wave.a, p := y.wave.p, vPoison := y.wave.vPoison,
    sPoison := y.wave.sPoison, aPoison := y.wave.aPoison, pPoison := y.wave.pPoison,
    win := y.wave.win, fpflags := y.wave.fpflags }

/-- %fpflags after flags have been raised: a floating-point word of a handler raises none, saturating integer
arithmetic raises SAT there too (R63, R83). -/
def flagsAfter (x : Ctx) (int : Bool) (f : BitVec 6) : BitVec 6 :=
  if x.frag.handler && !int then x.wave.fpflags else x.wave.fpflags ||| f

/-- The OR of the flags of the active lanes (R63). -/
def allFlags (m : LaneMask) (f : Nat → BitVec 6) : BitVec 6 := (lanesOf m).foldl (fun a l => a ||| f l) 0

/-- A lane word has its effect: register D holds the results in the active lanes, with the poison that they
leave, and everything else is as before. -/
structure LaneEffect (s t : State) (x y : Ctx) (g : Ctl) (int : Bool) (d : Nat) (val : Nat → LaneRes)
    (pois : Nat → BitVec 2) : Prop where
  outside : Outside s t x y
  core : coreKept x y
  frag : moved x y g.sw
  wave : waveKept x y
  v : ∀ r l, l < 64 → y.v r l = if r = d ∧ (x.active g).getLsbD l then (val l).1 else x.v r l
  poison : ∀ r l, l < 64 → y.wave.poisonV x.frag.handler r l
    = if r = d ∧ (x.active g).getLsbD l then pois l else x.wave.poisonV x.frag.handler r l
  s : ∀ r, y.s r = x.s r
  a : ∀ r, y.a r = x.a r
  p : ∀ k, y.p k = x.p k
  flags : y.wave.fpflags = flagsAfter x int (allFlags (x.active g) fun l => (val l).2)

/-- The same for a word of FP64 pairs. -/
structure PairEffect (s t : State) (x y : Ctx) (g : Ctl) (d : Nat) (val : Nat → Nat × BitVec 6) :
    Prop where
  outside : Outside s t x y
  core : coreKept x y
  frag : moved x y g.sw
  wave : waveKept x y
  lower : ∀ l, l < 64 → (x.active g).getLsbD l → y.v d l = BitVec.ofNat 32 (val l).1
  upper : ∀ l, l < 64 → (x.active g).getLsbD l → y.v (d + 1) l = BitVec.ofNat 32 ((val l).1 / 2 ^ 32)
  v : ∀ r l, l < 64 → ¬ ((r = d ∨ r = d + 1) ∧ (x.active g).getLsbD l) → y.v r l = x.v r l
  s : ∀ r, y.s r = x.s r
  a : ∀ r, y.a r = x.a r
  p : ∀ k, y.p k = x.p k
  flags : y.wave.fpflags = flagsAfter x false (allFlags (x.active g) fun l => (val l).2)

/-- The same for a predicate: a write to p0 is discarded. -/
structure PredEffect (s t : State) (x y : Ctx) (g : Ctl) (d : Nat) (val : Nat → Bool × BitVec 6) :
    Prop where
  outside : Outside s t x y
  core : coreKept x y
  frag : moved x y g.sw
  wave : waveKept x y
  p : ∀ k l, l < 64 → (y.p k).getLsbD l
    = if k = d ∧ k ≠ 0 ∧ (x.active g).getLsbD l then (val l).1 else (x.p k).getLsbD l
  v : ∀ r l, y.v r l = x.v r l
  s : ∀ r, y.s r = x.s r
  a : ∀ r, y.a r = x.a r
  flags : y.wave.fpflags = flagsAfter x false (allFlags (x.active g) fun l => (val l).2)

/-- The same for a uniform word: one s-register or one address register. -/
structure UniEffect (s t : State) (x y : Ctx) (g : Ctl) (dest : UniDest) : Prop where
  outside : Outside s t x y
  core : coreKept x y
  frag : moved x y g.sw
  wave : waveKept x y
  s : ∀ r, y.s r = match dest with
    | .s d val => if r = d then val x else x.s r
    | .a _ _ => x.s r
  a : ∀ r, y.a r = match dest with
    | .s _ _ => x.a r
    | .a d val => if r = d then val x else x.a r
  v : ∀ r l, y.v r l = x.v r l
  p : ∀ k, y.p k = x.p k
  flags : y.wave.fpflags = x.wave.fpflags

/-- A word whose result is kept for its own step: one pending result at the end of the core's list, and no
register changes yet. With no active lane there is no result. -/
structure PendEffect (s t : State) (x y : Ctx) (g : Ctl) (p : Pend) : Prop where
  outside : Outside s t x y
  core : { y.core with waves := x.core.waves, frags := x.core.frags, blocks := x.core.blocks }
    = if x.active g = 0 then x.core else { x.core with pend := x.core.pend ++ [p] }
  frag : moved x y g.sw
  wave : y.wave = x.wave

/-- The pending result of a lane word: a value for each active lane of register D. -/
def lanePend (x : Ctx) (g : Ctl) (kind : PendKind) (d : Nat) (val : Nat → LaneRes) : Pend :=
  { kind := kind, wave := x.wave.slot, frags := [x.frag.id], handler := x.frag.handler,
    regs := (lanesOf (x.active g)).map fun l => (d, l, (val l).1), preds := [],
    flags := allFlags (x.active g) fun l => (val l).2, sr := none }

/-- The pending result of a pair word. -/
def pairPend (x : Ctx) (g : Ctl) (kind : PendKind) (d : Nat) (val : Nat → Nat × BitVec 6) : Pend :=
  { kind := kind, wave := x.wave.slot, frags := [x.frag.id], handler := x.frag.handler,
    regs := ((lanesOf (x.active g)).map fun l => (d, l, BitVec.ofNat 32 (val l).1))
      ++ (lanesOf (x.active g)).map fun l => (d + 1, l, BitVec.ofNat 32 ((val l).1 / 2 ^ 32)),
    preds := [], flags := allFlags (x.active g) fun l => (val l).2, sr := none }

/-! ## Conversions (R283, R284) -/

/-- The code of a source element of CVT converted to its target (R64, R283). -/
def converted (x : Ctx) (o : VX) (l : Nat) : Nat × BitVec 6 :=
  convert (numFmt o.t2) (numFmt o.t) o.rm o.sat (cvtElem x o l)

/-- Whether a conversion goes from an integer format to an integer format (R54): it is no floating-point instruction. -/
def bothIntegers (o : VX) : Bool :=
  let int (t : BitVec 4) : Bool := decide (6 ≤ t.toNat ∧ t.toNat ≤ 11 ∨ 14 ≤ t.toNat)
  int o.t2 && int o.t

def cvtNames (o : VX) : List Nat := (if o.t = 0 then pairRegs o.d else [o.d.toNat]) ++ cvtRegs o

/-- The converted code of a source word of PACK. -/
def packed (o : VX) (w : Word) : Nat × BitVec 6 := convert (numFmt o.t2) (numFmt o.t) o.rm o.sat w.toNat

/-- PACK to 16-bit elements fills the register; to 8-bit elements it fills the half that MOD[0] names (R284). -/
def packVal (x : Ctx) (o : VX) (l : Nat) : LaneRes :=
  let a := packed o (x.v o.a.toNat l)
  let b := packed o (bCvt x o l)
  let old := x.v o.d.toNat l
  let w : Word :=
    if fmtBits o.t = 16 then BitVec.ofNat 16 b.1 ++ BitVec.ofNat 16 a.1
    else if o.mode.getLsbD 0 then (BitVec.ofNat 8 b.1 ++ BitVec.ofNat 8 a.1) ++ old.extractLsb' 0 16
    else old.extractLsb' 16 16 ++ (BitVec.ofNat 8 b.1 ++ BitVec.ofNat 8 a.1)
  (w, a.2 ||| b.2)

/-- The poison that a lane of D keeps after PACK: that of the half it does not write (R76). -/
def packPoison (x : Ctx) (o : VX) (l : Nat) : BitVec 2 :=
  if fmtBits o.t = 16 then 0
  else x.wave.poisonV x.frag.handler o.d.toNat l &&& (if o.mode.getLsbD 0 then 1 else 2)

/-! ## Special functions (R285, R286) -/

def sfuLane (g : Ctl) (o : VX) (f : Nat → Nat × BitVec 6) : LaneRule := f32x1 g o f

def sfuRule : Instr → Option LaneRule
  | .rcp g o => some (f32x1 g o (fRcp fp32))
  | .rsq g o => some (f32x1 g o sfuRsq)
  | .sqrt g o => some (f32x1 g o (fSqrt fp32))
  | .exp2 g o => some (f32x1 g o sfuExp2)
  | .log2 g o => some (f32x1 g o sfuLog2)
  | .sin g o => some (f32x1 g o (sfuTrig false))
  | .cos g o => some (f32x1 g o (sfuTrig true))
  | .tanh g o => some (f32x1 g o sfuTanh)
  | _ => none

def sfu64Rule : Instr → Option PairRule
  | .rcpF64 g o => some (f64x1 g o (fRcp fp64))
  | .sqrtF64 g o => some (f64x1 g o (fSqrt fp64))
  | _ => none

/-! ## Cross-lane words (R287 to R292) -/

/-- T(l): the active lanes whose tile base is that of lane l. -/
def tileOf (m : LaneMask) (s l : Nat) : List Nat :=
  (lanesOf m).filter fun j => decide (j - j % s = l - l % s)

/-- The lane that a shuffle names for lane l (R288): none where the rule names none. -/
def shuffled (mode : ShflMode) (s l t : Nat) : Option Nat :=
  let base := l - l % s
  match mode with
  | .idx => some (base + t % s)
  | .up => if base + t ≤ l then some (l - t) else none
  | .down => if l + t < base + s then some (l + t) else none
  | .xor => some (base + ((l - base) ^^^ (t % s)))

/-- The value that lane l reads: that of the named lane where it is active, else its own. -/
def shuffleFrom (mode : ShflMode) (m : LaneMask) (s l t : Nat) : Nat :=
  match shuffled mode s l t with
  | some j => if m.getLsbD j then j else l
  | none => l

def shflMode : Instr → Option (ShflMode × Ctl × VX)
  | .shflIdx g o => some (.idx, g, o)
  | .shflUp g o => some (.up, g, o)
  | .shflDown g o => some (.down, g, o)
  | .shflXor g o => some (.xor, g, o)
  | _ => none

/-- The lane that a shuffle reads for each lane. -/
def shflLane (x : Ctx) (g : Ctl) (o : VX) (mode : ShflMode) (l : Nat) : Nat :=
  shuffleFrom mode (x.active g) x.wave.lpart l (bInt x o l).toNat

/-- A vote with a predicate result: what it names, what it reads, and its verdict in a lane (R289). -/
def votePredRule : Instr → Option PredRule
  | .voteAny g o => some ⟨g, o.d.toNat, [], [.p o.a.toNat], fun x l =>
      ((tileOf (x.active g) x.wave.lpart l).any fun j => (x.p o.a.toNat).getLsbD j, 0)⟩
  | .voteAll g o => some ⟨g, o.d.toNat, [], [.p o.a.toNat], fun x l =>
      ((tileOf (x.active g) x.wave.lpart l).all fun j => (x.p o.a.toNat).getLsbD j, 0)⟩
  | .voteEq g o => some ⟨g, o.d.toNat, [o.a.toNat], [.v o.a.toNat], fun x l =>
      ((tileOf (x.active g) x.wave.lpart l).all fun j => x.v o.a.toNat j == x.v o.a.toNat l, 0)⟩
  | _ => none

/-- The pending result of a vote: the predicate's lanes that are written, and their values. -/
def votePend (x : Ctx) (r : PredRule) : Pend :=
  { kind := .cross, wave := x.wave.slot, frags := [x.frag.id], handler := x.frag.handler, regs := [],
    preds := [(r.d, x.active r.g, maskOf fun l => (x.active r.g).getLsbD l && (r.val x l).1)], flags := 0,
    sr := none }

/-- The bits of a ballot of lane l: the active lanes of its tile where the predicate holds. -/
def ballot (x : Ctx) (g : Ctl) (o : VX) (l : Nat) : Nat × BitVec 6 :=
  ((maskOf fun j => (tileOf (x.active g) x.wave.lpart l).contains j
    && (x.p o.a.toNat).getLsbD j).toNat, 0)

/-- The results of REDL and SCANL as codes of type T, with their flags: pairs where T is FP64. -/
def codesPend (x : Ctx) (o : VX) (vals : List (Nat × Nat)) (flags : BitVec 6) : Pend :=
  { kind := .cross, wave := x.wave.slot, frags := [x.frag.id], handler := x.frag.handler,
    regs := (vals.map fun r => (o.d.toNat, r.1, BitVec.ofNat 32 r.2))
      ++ (if o.t = 0 then vals.map fun r => (o.d.toNat + 1, r.1, BitVec.ofNat 32 (r.2 / 2 ^ 32)) else []),
    preds := [], flags := flags, sr := none }

/-- The value and flags of a tile's reduction, by the tree over its active lanes in lane order (R290). -/
def tileSum (x : Ctx) (g : Ctl) (o : VX) (l : Nat) : Nat × BitVec 6 :=
  (reduceTile x o (x.active g) (tileBase x.wave.lpart l)).getD (0, 0)

/-- The flags of the reductions of every tile that holds an active lane. -/
def redFlags (x : Ctx) (g : Ctl) (o : VX) : BitVec 6 := allFlags (x.active g) fun l => (tileSum x g o l).2

/-- The bases of the tiles that hold an active lane, and the scans of those tiles (R291). -/
def scans (x : Ctx) (g : Ctl) (o : VX) : List (List (Nat × Nat) × BitVec 6) :=
  (activeTiles x.wave.lpart (x.active g)).map fun b => scanTile x o (x.active g) b

end Sys2Proof.Claim

/-! ## Compute words -/

/-- Each uniform word whose guard holds in the fragment's lowest lane completes: it writes its one destination
with the value of R277 or R331, once, and nothing else changes (R48, R74, R277). -/
def Sys2Proof.Claim.UniformWordsComplete : Prop :=
  ∀ (i : Instr) (r : Claim.UniRule) (s : State) (x : Ctx) (l : Nat),
    Claim.uniRule i = some r → Claim.UniReady s x r.g l r.srcs →
    ∃ t y, exec i s = .next t ∧ Claim.UniEffect s t x y r.g r.dest

/-- A uniform word whose guard is false in the fragment's lowest lane writes nothing: its fragment moves past it
(R48, R297). -/
def Sys2Proof.Claim.UniformWordsSkip : Prop :=
  ∀ (i : Instr) (r : Claim.UniRule) (s : State) (x : Ctx) (l : Nat),
    Claim.uniRule i = some r → s.ctx? = some x → lowLane x.frag.mask = some l →
    (x.guardMask r.g).getLsbD l = false → x.guardPoison r.g (laneBit l) = false →
    exec i s = .next (s.save (x.done r.g.sw))

/-- Each integer and logical vector word completes: in every active lane it writes the value of R275 and R276,
no other register, lane or memory byte changes, and SAT is raised exactly where a clamp changes a result
(R63, R74, R275, R276). -/
def Obligations.IntegerWords : Prop :=
  ∀ (i : Instr) (r : Claim.LaneRule) (s : State) (x : Ctx),
    Claim.intRule i = some r → Claim.Ready s x r.g r.regs r.srcs →
    ∃ t y, exec i s = .next t ∧ Claim.LaneEffect s t x y r.g true r.d (r.val x) fun _ => 0

/-- Each FP32 and packed 16-bit floating-point word completes, with the value and flags of R278 to R281 in every
active lane, and nothing else changes. -/
def Sys2Proof.Claim.FloatWordsComplete : Prop :=
  ∀ (i : Instr) (r : Claim.LaneRule) (s : State) (x : Ctx),
    Claim.floatRule i = some r → Claim.Ready s x r.g r.regs r.srcs →
    ∃ t y, exec i s = .next t ∧ Claim.LaneEffect s t x y r.g false r.d (r.val x) fun _ => 0

/-- Each FP64 word completes: the even register takes bits [31:0] of the result and the odd one bits [63:32]
(R15, R57, R278 to R281). -/
def Obligations.Float64Words : Prop :=
  ∀ (i : Instr) (r : Claim.PairRule) (s : State) (x : Ctx),
    Claim.float64Rule i = some r → Claim.Ready s x r.g r.regs r.srcs →
    ∃ t y, exec i s = .next t ∧ Claim.PairEffect s t x y r.g r.d (r.val x)

/-- Each word with a predicate result completes: ICMP, PLOP and FCMP write their predicate in the active lanes,
and a write to p0 is discarded (R14, R74, R276, R282). -/
def Obligations.PredicateWords : Prop :=
  ∀ (i : Instr) (r : Claim.PredRule) (s : State) (x : Ctx),
    Claim.predRule i = some r → Claim.Ready s x r.g r.regs r.srcs →
    ∃ t y, exec i s = .next t ∧ Claim.PredEffect s t x y r.g r.d (r.val x)

/-- CVT completes with the conversion of R64 of its source element, as a pair where the target is FP64; in a handler one from
integers to integers raises its flags, and any other one raises none (R63, R83, R283). -/
def Sys2Proof.Claim.CvtCompletes : Prop :=
  ∀ (g : Ctl) (o : VX) (s : State) (x : Ctx), Claim.Ready s x g (Claim.cvtNames o) (cvtSrcs o) →
    ∃ t y, exec (.cvt g o) s = .next t ∧
      (o.t = 0 → Claim.PairEffect s t x y g o.d.toNat (Claim.converted x o)) ∧
      (o.t ≠ 0 → Claim.LaneEffect s t x y g (Claim.bothIntegers o) o.d.toNat
        (fun l => (placeNarrow o.t (Claim.converted x o l).1, (Claim.converted x o l).2)) fun _ => 0)

/-- PACK completes: two converted elements fill D, or the half of D that MOD[0] names; its flags are raised as those of CVT
(R63, R83, R284). -/
def Sys2Proof.Claim.PackCompletes : Prop :=
  ∀ (g : Ctl) (o : VX) (s : State) (x : Ctx),
    Claim.Ready s x g (o.d.toNat :: o.a.toNat :: bRegs o) (.v o.a.toNat :: bSrcs o) →
    ∃ t y, exec (.pack g o) s = .next t ∧
      Claim.LaneEffect s t x y g (Claim.bothIntegers o) o.d.toNat (Claim.packVal x o) (Claim.packPoison x o)

/-- Each special function completes: its result is captured at issue and is pending, and no register has
changed yet (R285, R286). -/
def Obligations.SpecialFunctionWords : Prop :=
  ∀ (i : Instr) (s : State) (x : Ctx),
    (∀ r, Claim.sfuRule i = some r → Claim.Ready s x r.g r.regs r.srcs →
      ∃ t y, exec i s = .next t ∧
        Claim.PendEffect s t x y r.g (Claim.lanePend x r.g .sfu r.d (r.val x))) ∧
    (∀ r, Claim.sfu64Rule i = some r → Claim.Ready s x r.g r.regs r.srcs →
      ∃ t y, exec i s = .next t ∧
        Claim.PendEffect s t x y r.g (Claim.pairPend x r.g .sfu r.d (r.val x)))

/-- Each shuffle completes: the value that each active lane reads is captured at issue and is pending. The
source is consumed in the lanes that are read (R76, R287, R288). -/
def Sys2Proof.Claim.ShufflesIssue : Prop :=
  ∀ (i : Instr) (mode : ShflMode) (g : Ctl) (o : VX) (s : State) (x : Ctx),
    Claim.shflMode i = some (mode, g, o) →
    Claim.Ready s x g (o.d.toNat :: o.a.toNat :: bRegs o) (bSrcs o) →
    (∀ l, (x.active g).getLsbD l →
      x.wave.poisonV x.frag.handler o.a.toNat (Claim.shflLane x g o mode l) = 0) →
    ∃ t y, exec i s = .next t ∧ Claim.PendEffect s t x y g
      (Claim.lanePend x g .cross o.d.toNat fun l => (x.v o.a.toNat (Claim.shflLane x g o mode l), 0))

/-- Each vote completes: its verdict over the active lanes of each tile is pending (R287, R289). -/
def Sys2Proof.Claim.VotesIssue : Prop :=
  ∀ (s : State) (x : Ctx),
    (∀ i r, Claim.votePredRule i = some r → Claim.Ready s x r.g r.regs r.srcs →
      ∃ t y, exec i s = .next t ∧ Claim.PendEffect s t x y r.g (Claim.votePend x r)) ∧
    (∀ g (o : VX), Claim.Ready s x g (pairRegs o.d) [.p o.a.toNat] →
      ∃ t y, exec (.voteBallot g o) s = .next t ∧
        Claim.PendEffect s t x y g (Claim.pairPend x g .cross o.d.toNat (Claim.ballot x g o)))

/-- REDL and SCANL complete: the reduction or scan of each tile is pending, with its flags (R290 to R292). -/
def Sys2Proof.Claim.ReductionsIssue : Prop :=
  ∀ (g : Ctl) (o : VX) (s : State) (x : Ctx), Claim.Ready s x g (redRegs o) (redSrcs o) →
    (∃ t y, exec (.redl g o) s = .next t ∧ Claim.PendEffect s t x y g
      (Claim.codesPend x o ((lanesOf (x.active g)).map fun l => (l, (Claim.tileSum x g o l).1))
        (Claim.redFlags x g o))) ∧
    (∃ t y, exec (.scanl g o) s = .next t ∧ Claim.PendEffect s t x y g
      (Claim.codesPend x o ((Claim.scans x g o).flatMap fun r => r.1)
        ((Claim.scans x g o).foldl (fun a r => a ||| r.2) 0)))

namespace Sys2Proof.Claim

/-! ## Pair words (R266, R267) -/

/-- What a half makes of a lane, by the table of R266. -/
def halfRule (x : Ctx) (h : Compact) (l : Nat) : LaneRes :=
  let a := x.v h.a.toNat l
  let b := if h.bu then x.s (h.b.extractLsb' 0 7).toNat else x.v h.b.toNat l
  let f (r : Nat × BitVec 6) : LaneRes := (BitVec.ofNat 32 r.1, r.2)
  match h.cop.toNat with
  | 0 => (b, 0)
  | 1 => (a + b, 0)
  | 2 => (a - b, 0)
  | 3 => (a * b, 0)
  | 4 => (if a.toInt ≤ b.toInt then a else b, 0)
  | 5 => (if a.toInt ≤ b.toInt then b else a, 0)
  | 6 => (a &&& b, 0)
  | 7 => (a ||| b, 0)
  | 8 => (a ^^^ b, 0)
  | 9 => (leftBy a b, 0)
  | 10 => (rightBy a b, 0)
  | 11 => (signedRightBy a b, 0)
  | 12 => f (sum fp32 0 a.toNat b.toNat)
  | 13 => f (diff fp32 0 a.toNat b.toNat)
  | 14 => f (prod fp32 0 a.toNat b.toNat)
  | 15 => f (fMinMax fp32 false a.toNat b.toNat)
  | 16 => f (fMinMax fp32 true a.toNat b.toNat)
  | 17 => bothHalves fun e => sum fp16 0 (half a e) (half b e)
  | 18 => bothHalves fun e => prod fp16 0 (half a e) (half b e)
  | 19 => bothHalves fun e => sum bf16 0 (half a e) (half b e)
  | 20 => bothHalves fun e => prod bf16 0 (half a e) (half b e)
  | 21 => f (fSign fp32 false b.toNat)
  | 22 => f (fSign fp32 true b.toNat)
  | 23 => f (convert (numFmt 14) (numFmt 1) 0 false b.toNat)
  | 24 => f (convert (numFmt 1) (numFmt 14) 0 false b.toNat)
  | 25 => f (fRcp fp32 b.toNat)
  | 26 => f (sfuRsq b.toNat)
  | 27 => f (sfuExp2 b.toNat)
  | 28 => f (sfuLog2 b.toNat)
  | 29 => (if a.toNat ≤ b.toNat then a else b, 0)
  | 30 => (if a.toNat ≤ b.toNat then b else a, 0)
  | _ => (~~~b, 0)

/-- The halves whose results a later step writes: RCP, RSQ, EXP2 and LOG2. -/
def later (h : Compact) : Bool := decide (25 ≤ h.cop.toNat ∧ h.cop.toNat ≤ 28)

/-- The pending results of the halves of a pair word. -/
def halfPend (x : Ctx) (h : Compact) : List Pend :=
  if later h ∧ x.frag.mask ≠ 0 then
    [{ kind := .sfu, wave := x.wave.slot, frags := [x.frag.id], handler := x.frag.handler,
       regs := (lanesOf x.frag.mask).map fun l => (h.d.toNat, l, (halfRule x h l).1), preds := [],
       flags := allFlags x.frag.mask fun l => (halfRule x h l).2, sr := none }]
  else []

def halfFlags (x : Ctx) (h : Compact) : BitVec 6 :=
  if later h then 0 else allFlags x.frag.mask fun l => (halfRule x h l).2

/-! ## Words that take a horizon number (R173, R174, R195, R237) -/

/-- What a word that takes a number names, reads and captures. `kind` is the code of R234, `commits` says
that the word commits a store, an atomic or an arrival. `core` is its core after it, `needs` what its operands must
satisfy besides. -/
structure OpRule where
  g : Ctl
  regs : List Nat
  srcs : List Src
  count : Count
  kind : Nat
  commits : Bool
  lanes : Ctx → List LaneAcc
  work : Ctx → Work
  regions : Ctx → List (DWord × Nat) := fun _ => []
  core : Ctx → Core := fun x => x.core
  needs : State → Ctx → Prop := fun _ _ => True

/-- The operation that the word leaves, with its operands as they are at issue. -/
def OpRule.op (r : OpRule) (x : Ctx) : Op :=
  { num := x.wave.seq, handler := x.frag.handler, frags := [x.frag.id], count := r.count,
    counted := decide (r.count ≠ .none), kind := r.kind, pc := x.frag.loc.addr, fmask := x.frag.mask,
    lanes := r.lanes x, work := r.work x, regions := r.regions x, retried := false, status := .waiting,
    escaped := false, stall := false, results := [], reach := [], answer := none, mark := none, behind := false }

/-- A fragment whose demotion is over (R179). -/
def undemoted (f : Frag) : Frag :=
  if f.damper.dem then { f with damper := { f.damper with dem := false, drun := 0 } } else f

/-- A context whose fragment has committed a store: where a sibling of it is demoted, the demotion of every
fragment of the wave is over; its own alone stays (R53, R179). -/
def committed (x : Ctx) : Ctx :=
  if ∃ f ∈ x.core.frags, f.wave = x.wave.slot ∧ f.id ≠ x.frag.id ∧ f.damper.dem = true then
    { x with
      core := { x.core with frags := x.core.frags.map fun f => if f.wave = x.wave.slot then undemoted f else f },
      frag := undemoted x.frag }
  else x

/-- The wave with one more operation: SEQ moves on, but not for a handler (R235). -/
def numberedWave (x : Ctx) (o : Op) : Wave :=
  { x.wave with seq := if x.frag.handler then x.wave.seq else x.wave.seq + 1, ops := x.wave.ops ++ [o] }

/-- The context after such a word. -/
def OpRule.after (r : OpRule) (x : Ctx) : Ctx :=
  let y := { x with wave := numberedWave x (r.op x), core := r.core x }
  let y := if r.commits then committed y else y
  { y with frag := y.frag.past r.g.sw }

/-- The lanes of a word, with what each of them accesses. -/
def lanes (x : Ctx) (g : Ctl) (ea : Nat → DWord) (data : Nat → BitVec 128) (cmp : Nat → DWord) : List LaneAcc :=
  (lanesOf (x.active g)).map fun l => { lane := l, ea := ea l, data := data l, cmp := cmp l }

def atomicOp (g : Ctl) (o : MA) (ret cas : Bool) : OpRule :=
  { g := g, regs := maRegs o ret cas, srcs := maSrcs o cas, count := if ret then .ld else .st,
    kind := if ret then 1 else 4, commits := true,
    lanes := fun x => lanes x g (maEA x o) (fun l => (datum x o.w64 o.s l).zeroExtend 128)
      fun l => datum x o.w64 o.k l
    work := fun _ => .atomic false (if ret then some o.d.toNat else none) cas o.aop o.w64 o.ord
    regions := fun x => if o.ord = 0 then [] else
      x.core.regionsOf x.block.slot (.glob (match lowLane (x.active g) with
        | some l => maEA x o l
        | none => 0)) }

/-- No older open operation of the wave holds back a word that is performed at its issue: no acquire and no FENCE,
and, but for a WAITPH that waits, none that accesses one of the given bytes (R189 to R191, R322). -/
def clear (x : Ctx) (rs : List (Nat × Nat)) : Prop :=
  ∀ p ∈ x.wave.ops, p.unresolved = true → p.handler = x.frag.handler →
    p.acquires = false ∧ (p.settles = true → ∀ a ∈ p.ranges, ∀ b ∈ rs, a.1 + a.2 ≤ b.1 ∨ b.1 + b.2 ≤ a.1)

/-- The n bytes at a scratchpad offset, as the ranges of operations name them. -/
def spadAt (off n : Nat) : List (Nat × Nat) := [(2 ^ 64 + off, n)]

/-- The n bytes at each active lane's scratchpad offset. -/
def spadLanes (x : Ctx) (g : Ctl) (ea : Nat → DWord) (n : Nat) : List (Nat × Nat) :=
  (lanesOf (x.active g)).map fun l => (2 ^ 64 + (ea l).toNat, n)

def remoteOp (g : Ctl) (o : ER) (op size : Nat) (commits : Bool) : OpRule :=
  { g := g, regs := o.reg.toNat :: erRegs o, srcs := erSrcs o ++ locSrcs o.desc, count := .ld, kind := 8,
    commits := commits, lanes := fun x => lanes x g (erEA x o) (fun _ => 0) fun _ => 0
    work := fun x => .rmo op o.reg.toNat (erDesc x o)
    needs := fun _ x => ∀ l, (x.active g).getLsbD l → x.block.spadOk (erDesc x o + size * l) size = true }

def commCmd (g : Ctl) (o : ED) (op : Nat) : OpRule :=
  { g := g, regs := [], srcs := locSrcs o.desc ++ auxSrcs o ++ locSrcs o.bar, count := .eng, kind := 6,
    commits := false, lanes := fun _ => []
    work := fun x => .comm o.comm.toNat op o.pri (locOf x o.desc) (locOf x o.bar) (auxOf x o)
    needs := fun s x => x.barTrap (locOf x o.bar) = none ∧ x.locTrap (locOf x o.desc) 32 = none ∧
      clear x [] ∧ (s.comm (dieOf x.c) o.comm.toNat).queue.length < 32 }

/-- A word on a sync object: the object is aligned, in bounds and, where it is read, not poisoned. -/
def objectOp (g : Ctl) (o : MB) (srcs : List Src) (count : Count) (kind : Nat) (commits : Bool)
    (align size : Nat) (reads : Bool) (work : Ctx → Work) (regions : Ctx → List (DWord × Nat))
    (needs : State → Ctx → Prop) : OpRule :=
  { g := g, regs := [], srcs := mbSrcs o ++ srcs, count := count, kind := kind, commits := commits,
    lanes := fun _ => [], work := work, regions := regions
    needs := fun s x => x.objTrap (mbObj x o) align size reads = none ∧ needs s x }

def always (_ : State) (_ : Ctx) : Prop := True

/-- The words that take a number at issue and reach memory, an object or an engine by a later step. -/
def opRule : Instr → Option OpRule
  | .ld g o => some
    { g := g, regs := dataRegs o.d.toNat o.sz.toNat ++ mgIdxRegs o, srcs := mgSrcs o, count := .ld, kind := 0,
      commits := false, lanes := fun x => lanes x g (mgEA x o) (fun _ => 0) fun _ => 0
      work := fun _ => .load o.d.toNat o.sz.toNat o.sx }
  | .gather g o => some
    { g := g, regs := dataRegs o.d.toNat o.sz.toNat ++ [o.idx.toNat, o.idx.toNat + 1],
      srcs := [.v o.idx.toNat, .v (o.idx.toNat + 1)], count := .ld, kind := 0, commits := false
      lanes := fun x => lanes x g (pairEA x o) (fun _ => 0) fun _ => 0
      work := fun _ => .load o.d.toNat o.sz.toNat o.sx }
  | .st g o => some
    { g := g, regs := dataRegs o.d.toNat o.sz.toNat ++ mgIdxRegs o,
      srcs := mgSrcs o ++ storeSrcs o.d.toNat o.sz.toNat, count := .st, kind := 2, commits := true
      lanes := fun x => lanes x g (mgEA x o) (storeData x o.d.toNat o.sz.toNat) fun _ => 0
      work := fun _ => .store o.sz.toNat }
  | .scatter g o => some
    { g := g, regs := dataRegs o.d.toNat o.sz.toNat ++ [o.idx.toNat, o.idx.toNat + 1],
      srcs := [.v o.idx.toNat, .v (o.idx.toNat + 1)] ++ storeSrcs o.d.toNat o.sz.toNat, count := .st, kind := 2,
      commits := true, lanes := fun x => lanes x g (pairEA x o) (storeData x o.d.toNat o.sz.toNat) fun _ => 0
      work := fun _ => .store o.sz.toNat }
  | .uld g o => some
    { g := g, regs := [], srcs := mgSrcs o, count := .ld, kind := 0, commits := false
      lanes := fun x => [{ lane := 0, ea := mgEA x o 0, data := 0, cmp := 0 }]
      work := fun _ => .uload o.d o.sz.toNat }
  | .atom g o => some (atomicOp g o true false)
  | .atomn g o => some (atomicOp g o false false)
  | .cas g o => some (atomicOp g o true true)
  | .fence g _ => some
    { g := g, regs := [], srcs := [], count := .none, kind := 5, commits := false, lanes := fun _ => []
      work := fun _ => .fence }
  | .binit g o => some (objectOp g o (if mbBit o 28 then [.s (mbS o 21), .s (mbS o 14)] else []) .st 4 true 16 16
      false (fun x => .binit (mbObj x o) (binitTargets x o).1 (binitTargets x o).2) (fun _ => [])
      fun _ x => ∃ va, mbObj x o = .glob va)
  | .arrive g o => some (objectOp g o [] .none 9 true 16 16 true
      (fun x => .arrive (mbObj x o) ((o.low.extractLsb' 3 8).toNat + 1)
        (if mbBit o 28 then some (o.low.extractLsb' 12 16) else none) (mbBit o 11))
      (fun x => x.core.regionsOf x.block.slot (mbObj x o))
      fun _ x => numbered (mbObj x o) (x.core.regionsOf x.block.slot (mbObj x o)) = true)
  | .rel g o =>
    let low (x : Ctx) : Nat := (lowLane (x.active g)).getD 0
    some { objectOp g o [] .none 5 true 8 8 (mbPair o).isNone
      (fun x => .rel (mbObj x o) ((mbPair o).map fun r => x.vPair r (low x)) (mbBit o 11))
      (fun x => x.core.regionsOf x.block.slot (mbObj x o))
      (fun _ x => spadOnly (mbObj x o) (x.core.regionsOf x.block.slot (mbObj x o)) (mbBit o 11) = false ∧
        x.anyPoison (laneBit (low x)) ((pairOf (mbPair o)).map Src.v) = false) with regs := pairOf (mbPair o) }
  | .qwait g o => some (objectOp g o [.a (o.low.extractLsb' 25 4).toNat] .none 9 false 16 16 false
      (fun x => .qwait (mbObj x o).addr (x.a (o.low.extractLsb' 25 4).toNat &&& ~~~ 15#64)) (fun _ => []) always)
  | .wake g o => some (objectOp g o (phaseSrcs o) .none 9 true 16 16 false
      (fun x => .wake (mbObj x o).addr (if mbBit o 28 then (x.s (mbS o 21)).toNat else (o.low.extractLsb' 12 16).toNat))
      (fun _ => []) always)
  | .launch g o => some
    { g := g, regs := [], srcs := [.a o.a.toNat], count := .none, kind := 10, commits := false, lanes := fun _ => []
      work := fun x => .launch (x.a o.a.toNat &&& ~~~ 127#64) (o.low.extractLsb' 42 4).toNat }
  | .shape g o =>
    let r := (o.low.extractLsb' 42 4).toNat
    some
    { g := g, regs := [], srcs := [.a o.a.toNat, .a r], count := .none, kind := 5, commits := true, lanes := fun _ => []
      work := fun x => .shape (x.a o.a.toNat) (x.a r)
      regions := fun x => x.core.regionsOf x.block.slot (.glob (x.a o.a.toNat))
      needs := fun _ x => (x.a o.a.toNat).toNat % 8 = 0 }
  | .rst g o => some
    { g := g, regs := datumRegs o.w64 o.reg ++ erRegs o, srcs := erSrcs o ++ (datumRegs o.w64 o.reg).map Src.v,
      count := .st, kind := 7, commits := true
      lanes := fun x => lanes x g (erEA x o) (fun l => (datum x o.w64 o.reg l).zeroExtend 128) fun _ => 0
      work := fun _ => .rst o.stream.toNat o.w64 o.fl
      core := fun x =>
        let st := x.core.stream o.stream.toNat
        x.core.setStream o.stream.toNat
          { st with issued := st.issued.filter (x.core.toSend o.stream.toNat) ++ [(x.wave.slot, x.wave.seq)] }
      needs := fun _ x => x.core.streamRoom o.stream.toNat (lanesOf (x.active g)).length = true }
  | .rmoCas4 g o => some (remoteOp g o 0 80 true)
  | .rmoEnq g o => some (remoteOp g o 1 16 true)
  | .rmoChase g o => some (remoteOp g o 2 32 false)
  | .matchArm g o => some
    { g := g, regs := [], srcs := locSrcs o.desc ++ auxSrcs o ++ locSrcs o.bar, count := .eng, kind := 11,
      commits := false, lanes := fun _ => []
      work := fun x => .matchArm (locOf x o.desc) (locOf x o.bar).addr (auxOf x o)
      needs := fun _ x => x.barTrap (locOf x o.bar) = none ∧ x.locTrap (locOf x o.desc) 32 = none ∧ clear x [] }
  | .collRs g o => some (commCmd g o 0)
  | .collAg g o => some (commCmd g o 1)
  | .collAr g o => some (commCmd g o 2)
  | .collBc g o => some (commCmd g o 3)
  | .collBar g o => some (commCmd g o 4)
  | .collSend g o => some (commCmd g o 5)
  | .collRecv g o => some (commCmd g o 6)
  | .commOpen g o => some (commCmd g o 7)
  | _ => none

/-- Whether the word that a rule is for may go on: R271's checks, at least one active lane, and the rule's own
needs. -/
structure OpReady (s : State) (x : Ctx) (r : OpRule) : Prop where
  ready : Ready s x r.g r.regs r.srcs
  some : x.active r.g ≠ 0
  needs : r.needs s x

/-! ## Words of a fragment -/

/-- A fragment-level word may take effect: it is issued, at least one lane is active, and neither its guard nor
its sources are poisoned. -/
structure FragReady (s : State) (x : Ctx) (g : Ctl) (srcs : List Src) : Prop where
  ctx : s.ctx? = some x
  some : x.active g ≠ 0
  guard : x.guardPoison g x.frag.mask = false
  clean : x.anyPoison (x.active g) srcs = false

/-- The fragment goes on at a header. -/
def jumped (x : Ctx) (sw : Bool) (target : DWord) (d : Damper) : Frag :=
  { x.frag with loc := .header target, waits := none, skip := 0, yielded := false, holds := false,
                park := if sw then .switch else .none, marked := false, damper := d }

/-- The damper after a backward branch at an address has been taken, and whether it demotes (R179). -/
def dampened (d : Damper) (here : DWord) : Damper × Bool :=
  if here ≠ d.dpc then ({ d with dpc := here, drun := 0, dacc := 0 }, false)
  else
    let run := if 0 < d.drun ∧ d.dacc = d.dsig then min (d.drun + 1) 32 else 1
    ({ d with drun := run, dsig := d.dacc, dacc := 0, dem := d.dem || decide (run = 32) },
      decide (run = 32) && !d.dem)

/-- The context after a transfer of the whole fragment; BRA, BRC, BRX and BHZ count for the damper where
they go backward, CALL and RET do not (R377). -/
def transferred (x : Ctx) (sw : Bool) (target : DWord) (counts : Bool) : Ctx :=
  let back := counts && decide (target.toNat ≤ x.frag.loc.base.toNat)
  let r := dampened x.frag.damper x.frag.loc.addr
  { x with
    frag := jumped x sw target (if back then r.1 else x.frag.damper)
    core := if back && r.2 then
        { x.core with cnt := { x.core.cnt with damperDemote := satInc x.core.cnt.damperDemote } }
      else x.core }

/-- The context after a word that only moves on. -/
def stepped (x : Ctx) (sw : Bool) : Ctx := { x with frag := x.frag.past sw }

/-- The target of a branch with an offset: the header of the clause, and eight bytes for each unit of OFF. -/
def offTarget (x : Ctx) (o : CB) : DWord := x.frag.loc.base + 8 * o.off.signExtend 64

/-- The target in an address register. -/
def regTo (x : Ctx) (o : CR) : DWord := x.a o.a.toNat &&& ~~~ 7#64

/-- The lanes that take a BRC. -/
def brcLanes (x : Ctx) (g : Ctl) (o : CB) : LaneMask :=
  x.active g &&& (if o.pn then ~~~ (x.p o.p.toNat) else x.p o.p.toNat)

end Sys2Proof.Claim

/-- A pair word completes: both halves read their sources before either writes, each writes its own D in every
lane of the fragment, and a special function's result is pending (R21, R249, R266). -/
def Sys2Proof.Claim.PairWordCompletes : Prop :=
  ∀ (sw : Bool) (l r : Compact) (s : State) (x : Ctx), s.ctx? = some x →
    (∀ k ∈ compactRegs l ++ compactRegs r, x.regOk k = true) → pairFault l r = false →
    x.anyPoison x.frag.mask (compactSrcs l ++ compactSrcs r) = false →
    ∃ t y, exec (.pairWord sw l r) s = .next t ∧ Claim.Outside s t x y ∧ Claim.moved x y sw ∧
      Claim.waveKept x y ∧
      { y.core with waves := x.core.waves, frags := x.core.frags, blocks := x.core.blocks }
        = { x.core with pend := x.core.pend ++ Claim.halfPend x l ++ Claim.halfPend x r } ∧
      (∀ k j, j < 64 → y.v k j =
        if x.frag.mask.getLsbD j ∧ k = r.d.toNat ∧ Claim.later r = false then (Claim.halfRule x r j).1
        else if x.frag.mask.getLsbD j ∧ k = l.d.toNat ∧ Claim.later l = false then (Claim.halfRule x l j).1
        else x.v k j) ∧
      (∀ k, y.s k = x.s k ∧ y.a k = x.a k ∧ y.p k = x.p k) ∧
      y.wave.fpflags = Claim.flagsAfter x false (Claim.halfFlags x l ||| Claim.halfFlags x r)

/-- A pair word whose halves share a bank, or both name a uniform operand, or both lie in the special set, traps
with E_PAIR (R267). -/
def Sys2Proof.Claim.PairConflictsTrap : Prop :=
  ∀ (sw : Bool) (l r : Compact) (s : State) (x : Ctx), s.ctx? = some x →
    (∀ k ∈ compactRegs l ++ compactRegs r, x.regOk k = true) →
    ((∃ a ∈ compactRegs l, ∃ b ∈ compactRegs r, a % 4 = b % 4) ∨ (l.bu = true ∧ r.bu = true) ∨
      (23 ≤ l.cop.toNat ∧ l.cop.toNat ≤ 28 ∧ 23 ≤ r.cop.toNat ∧ r.cop.toNat ≤ 28)) →
    exec (.pairWord sw l r) s = .next (s.raise x ⟨ePair, 0, 0⟩)

/-- Every word that takes a horizon number completes: its operation enters the wave's window with its operands as
they are at issue, SEQ moves on by one, its fragment moves past it, and nothing else changes but the demotion that a
store ends (R81, R173, R179, R195, R234, R235, R237). -/
def Obligations.NumberedWords : Prop :=
  ∀ (i : Instr) (r : Claim.OpRule) (s : State) (x : Ctx),
    Claim.opRule i = some r → Claim.OpReady s x r → x.opRoom r.count = true →
    exec i s = .next (s.save (r.after x))

/-- Without room in its count or in the wave's window, such a word waits: nothing changes (R174, R195, R223). -/
def Sys2Proof.Claim.NumberedWordsWait : Prop :=
  ∀ (i : Instr) (r : Claim.OpRule) (s : State) (x : Ctx),
    Claim.opRule i = some r → Claim.OpReady s x r → x.opRoom r.count = false → exec i s = .next s

/-- With no active lane such a word has no effect: its fragment moves past it, and no object and no operand is
looked at (R297). -/
def Sys2Proof.Claim.EmptyActiveWords : Prop :=
  ∀ (i : Instr) (r : Claim.OpRule) (s : State) (x : Ctx),
    Claim.opRule i = some r → s.ctx? = some x → (∀ k ∈ r.regs, x.regOk k = true) →
    x.guardPoison r.g x.frag.mask = false → x.active r.g = 0 →
    exec i s = .next (s.save (Claim.stepped x r.g.sw))

/-- A vector word that names a register at or above the wave's budget traps with E_ILLEGAL and SUB 4, whatever its
guard (R40, R271). -/
def Sys2Proof.Claim.BudgetTraps : Prop :=
  ∀ (i : Instr) (s : State) (x : Ctx) (k : Nat), s.ctx? = some x → x.frag.handler = false →
    x.wave.budget ≤ k →
    ((∃ r, (Claim.intRule i = some r ∨ Claim.floatRule i = some r ∨ Claim.sfuRule i = some r) ∧ k ∈ r.regs) ∨
      (∃ r, (Claim.float64Rule i = some r ∨ Claim.sfu64Rule i = some r) ∧ k ∈ r.regs) ∨
      (∃ r, (Claim.predRule i = some r ∨ Claim.votePredRule i = some r) ∧ k ∈ r.regs) ∨
      (∃ r, Claim.opRule i = some r ∧ k ∈ r.regs)) →
    exec i s = .next (s.raise x (illegal 4))

/-- A word that consumes poison in an active lane, or whose guard does, traps with E_POISON_CONSUMED (R76). -/
def Sys2Proof.Claim.PoisonTraps : Prop :=
  ∀ (i : Instr) (s : State) (x : Ctx), s.ctx? = some x →
    (∀ r, (Claim.intRule i = some r ∨ Claim.floatRule i = some r ∨ Claim.sfuRule i = some r) →
      (∀ k ∈ r.regs, x.regOk k = true) →
      (x.guardPoison r.g x.frag.mask = true ∨ x.anyPoison (x.active r.g) r.srcs = true) →
      exec i s = .next (s.raise x ⟨ePoisonConsumed, 0, 0⟩)) ∧
    (∀ r, Claim.opRule i = some r → (∀ k ∈ r.regs, x.regOk k = true) →
      (x.guardPoison r.g x.frag.mask = true ∨ x.anyPoison (x.active r.g) r.srcs = true) →
      exec i s = .next (s.raise x ⟨ePoisonConsumed, 0, 0⟩))

/-! ## Scratchpad words (R99, R100, R309, R314) -/

/-- LDS completes: the bytes at each active lane's offset are captured at issue and are pending for the registers
from D on (R305, R309). -/
def Sys2Proof.Claim.ScratchpadLoadCompletes : Prop :=
  ∀ (g : Ctl) (o : MG) (s : State) (x : Ctx),
    Claim.Ready s x g (dataRegs o.d.toNat o.sz.toNat ++ mgIdxRegs o) (mgSrcs o) →
    (∀ l, (x.active g).getLsbD l → x.block.spadOk (mgEA x o l).toNat (2 ^ o.sz.toNat) = true) →
    (∀ l, (x.active g).getLsbD l → x.block.spadBad (mgEA x o l).toNat (2 ^ o.sz.toNat) = false) →
    x.core.countOf x.frag .ld < 63 → Claim.clear x (Claim.spadLanes x g (mgEA x o) (2 ^ o.sz.toNat)) →
    x.active g ≠ 0 →
    ∃ t y, exec (.lds g o) s = .next t ∧ Claim.PendEffect s t x y g
      { kind := .spad, wave := x.wave.slot, frags := [x.frag.id], handler := x.frag.handler, preds := [], flags := 0,
        sr := none,
        regs := (lanesOf (x.active g)).flatMap fun l => laneWords o.d.toNat l
          (loadWords o.sz.toNat o.sx (Memory.read x.block.spad (mgEA x o l).toNat (2 ^ o.sz.toNat))) }

/-- STS completes: each active lane's bytes are stored in increasing lane order, every other scratchpad byte of the
block reads as before, and no register changes (R301, R306, R309). -/
def Sys2Proof.Claim.ScratchpadStoreCompletes : Prop :=
  ∀ (g : Ctl) (o : MG) (s : State) (x : Ctx),
    Claim.Ready s x g (dataRegs o.d.toNat o.sz.toNat ++ mgIdxRegs o) (mgSrcs o ++ storeSrcs o.d.toNat o.sz.toNat) →
    (∀ l, (x.active g).getLsbD l → x.block.spadOk (mgEA x o l).toNat (2 ^ o.sz.toNat) = true) →
    x.core.countOf x.frag .st < 63 → Claim.clear x (Claim.spadLanes x g (mgEA x o) (2 ^ o.sz.toNat)) →
    x.active g ≠ 0 →
    ∃ b : Block,
      exec (.sts g o) s = .next (s.save (Claim.stepped (Claim.committed { x with block := b }) g.sw)) ∧
      b = { x.block with spad := b.spad, spadPoison := b.spadPoison } ∧
      (∀ a, (∀ l, (x.active g).getLsbD l → ¬ ((mgEA x o l).toNat ≤ a ∧ a < (mgEA x o l).toNat + 2 ^ o.sz.toNat)) →
        Memory.get b.spad a = Memory.get x.block.spad a) ∧
      (∀ l k, (x.active g).getLsbD l → k < 2 ^ o.sz.toNat →
        (∀ j, l < j → (x.active g).getLsbD j →
          ¬ ((mgEA x o j).toNat ≤ (mgEA x o l).toNat + k ∧
            (mgEA x o l).toNat + k < (mgEA x o j).toNat + 2 ^ o.sz.toNat)) →
        Memory.get b.spad ((mgEA x o l).toNat + k)
          = BitVec.ofNat 8 ((storeData x o.d.toNat o.sz.toNat l).toNat / 256 ^ k))

/-- An access of the scratchpad beyond the block's backed region traps at issue with E_SPAD_BOUNDS and the offset of
the lowest lane that misses it (R100, R303). -/
def Sys2Proof.Claim.ScratchpadBoundsTrap : Prop :=
  ∀ (g : Ctl) (o : MG) (s : State) (x : Ctx) (l : Nat),
    (x.active g).getLsbD l = true → x.block.spadOk (mgEA x o l).toNat (2 ^ o.sz.toNat) = false →
    (∀ j, j < l → (x.active g).getLsbD j → x.block.spadOk (mgEA x o j).toNat (2 ^ o.sz.toNat) = true) →
    (Claim.Ready s x g (dataRegs o.d.toNat o.sz.toNat ++ mgIdxRegs o) (mgSrcs o) →
      exec (.lds g o) s = .next (s.raise x ⟨eSpadBounds, 0, mgEA x o l⟩)) ∧
    (Claim.Ready s x g (dataRegs o.d.toNat o.sz.toNat ++ mgIdxRegs o)
        (mgSrcs o ++ storeSrcs o.d.toNat o.sz.toNat) →
      exec (.sts g o) s = .next (s.raise x ⟨eSpadBounds, 0, mgEA x o l⟩))

namespace Sys2Proof.Claim

/-- Whether a word is ATOMS or CASS. -/
def spadAtomic : Instr → Option (Ctl × MA × Bool)
  | .atoms g o => some (g, o, false)
  | .cass g o => some (g, o, true)
  | _ => none

/-- What an atomic writes over a datum (R310): none where a comparison fails. -/
def atomicResult (cas : Bool) (aop : BitVec 4) (w64 : Bool) (old x k : DWord) : Option DWord :=
  if cas then (if old = k then some x else none)
  else some (match aop.toNat, w64 with
    | 0, true => old + x
    | 0, false => ((old + x).extractLsb' 0 32).zeroExtend 64
    | 1, true => if x.toInt < old.toInt then x else old
    | 1, false => if (x.extractLsb' 0 32).toInt < (old.extractLsb' 0 32).toInt then x else old
    | 2, true => if old.toInt < x.toInt then x else old
    | 2, false => if (old.extractLsb' 0 32).toInt < (x.extractLsb' 0 32).toInt then x else old
    | 3, _ => if x.toNat < old.toNat then x else old
    | 4, _ => if old.toNat < x.toNat then x else old
    | 5, _ => old &&& x
    | 6, _ => old ||| x
    | 7, _ => old ^^^ x
    | 8, _ => x
    | _, true => BitVec.ofNat 64 (sum fp64 0 old.toNat x.toNat).1
    | _, false => BitVec.ofNat 64 (sum fp32 0 old.toNat x.toNat).1)

/-- The steps of a scratchpad atomic, in increasing lane order: each reads what the ones before it left. -/
def atomicRun (cas : Bool) (o : MA) (x : Ctx) : List Nat → Block → Block × List (Nat × DWord)
  | [], b => (b, [])
  | l :: r, b =>
    let n := if o.w64 then 8 else 4
    let a := (maEA x o l).toNat
    let old : DWord := BitVec.ofNat 64 (leNat (Memory.read b.spad a n))
    let b := match atomicResult cas o.aop o.w64 old (datum x o.w64 o.s l) (datum x o.w64 o.k l) with
      | some v => b.spadWrite a (toBytes n v.toNat)
      | none => b
    let q := atomicRun cas o x r b
    (q.1, (l, old) :: q.2)

/-- The rule of ATOMS and CASS whose ordering component uses bound regions. -/
def boundAtomic (g : Ctl) (o : MA) (cas : Bool) : OpRule :=
  { atomicOp g o true cas with
    work := fun _ => .atomic true (some o.d.toNat) cas o.aop o.w64 o.ord
    regions := fun x => maRegions x o (x.active g) true }

end Sys2Proof.Claim

/-- ATOMS and CASS on an object that no binding names complete: the active lanes step in increasing order, each
datum found is pending for the lane's D, and no other byte of the block changes (R301, R310, R314). -/
def Sys2Proof.Claim.ScratchpadAtomicsComplete : Prop :=
  ∀ (i : Instr) (g : Ctl) (o : MA) (cas : Bool) (s : State) (x : Ctx),
    Claim.spadAtomic i = some (g, o, cas) → Claim.Ready s x g (maRegs o true cas) (maSrcs o cas) →
    (∀ l, (x.active g).getLsbD l → x.block.spadOk (maEA x o l).toNat (if o.w64 then 8 else 4) = true) →
    (∀ l, (x.active g).getLsbD l → x.block.spadBad (maEA x o l).toNat (if o.w64 then 8 else 4) = false) →
    x.active g ≠ 0 → Claim.clear x (Claim.spadLanes x g (maEA x o) (if o.w64 then 8 else 4)) →
    maRegions x o (x.active g) true = [] →
    x.core.countOf x.frag .ld < 63 →
    let r := Claim.atomicRun cas o x (lanesOf (x.active g)) x.block
    exec i s = .next (s.save (Claim.stepped (Claim.committed { x with
      block := r.1,
      core := { x.core with pend := x.core.pend ++ [
        { kind := .spad, wave := x.wave.slot, frags := [x.frag.id], handler := x.frag.handler, preds := [], flags := 0,
          sr := none, regs := datumWrites o.w64 o.d.toNat r.2 }] } }) g.sw))

/-- ATOMS and CASS whose ordering component names an object that a binding names complete as words that take a number:
their operation, a load of LDC, enters the window with the regions of the entries (R174, R298, R312, R314). -/
def Sys2Proof.Claim.BoundScratchpadAtomicsIssue : Prop :=
  ∀ (i : Instr) (g : Ctl) (o : MA) (cas : Bool) (s : State) (x : Ctx),
    Claim.spadAtomic i = some (g, o, cas) → Claim.OpReady s x (Claim.boundAtomic g o cas) →
    (∀ l, (x.active g).getLsbD l → x.block.spadOk (maEA x o l).toNat (if o.w64 then 8 else 4) = true) →
    (∀ l, (x.active g).getLsbD l → x.block.spadBad (maEA x o l).toNat (if o.w64 then 8 else 4) = false) →
    Claim.clear x (Claim.spadLanes x g (maEA x o) (if o.w64 then 8 else 4)) →
    maRegions x o (x.active g) true ≠ [] → x.opRoom .ld = true →
    exec i s = .next (s.save ((Claim.boundAtomic g o cas).after x))

/-- What one step of an atomic writes, for every AOP, at both widths (R310). -/
def Sys2Proof.Claim.AtomicValues : Prop :=
  ∀ (cas : Bool) (aop : BitVec 4) (w64 : Bool) (old x k : DWord),
    (w64 = false → old.toNat < 2 ^ 32 ∧ x.toNat < 2 ^ 32 ∧ k.toNat < 2 ^ 32) →
    atomNew cas aop w64 old x k = Claim.atomicResult cas aop w64 old x k

namespace Sys2Proof.Claim

/-- An object word may take effect: the fragment is ready and its object raises none of the traps of R303. -/
structure ObjReady (s : State) (x : Ctx) (g : Ctl) (o : MB) (regs : List Nat) (srcs : List Src)
    (align size : Nat) (reads : Bool) : Prop where
  frag : FragReady s x g (mbSrcs o ++ srcs)
  budget : ∀ r ∈ regs, x.regOk r = true
  object : x.objTrap (mbObj x o) align size reads = none

/-- The regions that bindings of the block name for an object of a word. -/
def bound (x : Ctx) (o : MB) : List (DWord × Nat) := x.core.regionsOf x.block.slot (mbObj x o)

/-- The rule of ACQ and TRYPH, whose operation is tried at once. -/
def acqRule (g : Ctl) (o : MB) : OpRule :=
  { objectOp g o [] .none 5 false 8 8 true
      (fun x => .acq (mbObj x o) (mbPair o) (mbBit o 11) (x.active g)) (fun x => bound x o) always with
    regs := pairOf (mbPair o) }

def tryRule (g : Ctl) (o : MB) : OpRule :=
  objectOp g o (phaseSrcs o) .none 9 false 16 16 true
    (fun x => .tryph (mbObj x o) (mbPhase x o) (o.low.extractLsb' 9 3).toNat (x.active g)) (fun x => bound x o) always

/-- A release of a scratchpad object that no binding names, tried at once. -/
def relRule (g : Ctl) (o : MB) : OpRule :=
  let low (x : Ctx) : Nat := (lowLane (x.active g)).getD 0
  { objectOp g o [] .none 5 true 8 8 (mbPair o).isNone
      (fun x => .rel (mbObj x o) ((mbPair o).map fun r => x.vPair r (low x)) (mbBit o 11)) (fun x => bound x o)
      (fun _ x => x.anyPoison (laneBit (low x)) ((pairOf (mbPair o)).map Src.v) = false) with
    regs := pairOf (mbPair o) }

/-- The wait of a WAITPH whose object takes a number. -/
def waitRule (g : Ctl) (o : MB) : OpRule :=
  objectOp g o (phaseSrcs o) .none 9 false 16 16 true (fun x => .waitph (mbObj x o) (mbPhase x o))
    (fun x => bound x o) always

/-- A fragment parked past its word. -/
def parked (x : Ctx) (sw : Bool) (p : Park) : Ctx :=
  { x with frag := { x.frag.past false with park := p, marked := sw, holds := false } }

/-- The bytes of a fresh barrier (R165). -/
def freshBar (a b : Nat) : Bar := { atgt := a, apend := a, bpend := b, btgt := b, phase := 0, err := 0 }

/-- A context with another block, fragment or wave. -/
def withBlock (x : Ctx) (b : Block) : Ctx := { x with block := b }
def withFrag (x : Ctx) (f : Frag) : Ctx := { x with frag := f }
def withWave (x : Ctx) (w : Wave) : Ctx := { x with wave := w }

end Sys2Proof.Claim

/-! ## Sync words, barriers and bindings -/

/-- ACQ completes: its operation takes a number and is tried at once (R195, R197, R298, R322). -/
def Sys2Proof.Claim.AcqCompletes : Prop :=
  ∀ (g : Ctl) (o : MB) (s : State) (x : Ctx), Claim.OpReady s x (Claim.acqRule g o) → x.opRoom .none = true →
    exec (.acq g o) s = .next ((s.save ((Claim.acqRule g o).after x)).attempt x.c x.wave.slot x.wave.seq
      fun s k => s.tryAcq x.c k)

/-- REL of a scratchpad object that no binding names, and without ALL, completes at issue: its operation takes a
number and is tried at once (R188, R298, R321). -/
def Sys2Proof.Claim.ScratchpadRelCompletes : Prop :=
  ∀ (g : Ctl) (o : MB) (s : State) (x : Ctx) (off : Nat), Claim.OpReady s x (Claim.relRule g o) →
    x.opRoom .none = true → mbObj x o = .spad off → Claim.bound x o = [] → mbBit o 11 = false →
    exec (.rel g o) s = .next ((s.save ((Claim.relRule g o).after x)).attempt x.c x.wave.slot x.wave.seq
      fun s k => s.tryRel x.c k)

/-- An acquire that is tried and whose object can be read resolves. Where it names a pair, the pair holds the object's word, as
it stands at its home once the core's own stores to its line have gone there, in the lanes that were active; no other register
changes. It discards: of the bound pages, page by page, the bytes in the L1 where the page's scope is not CORE, and those in the
L2 of the die from scope MODULE up; with ALL every byte by its own scope. A dirty byte whose home cannot be written stays: that
is the model's choice (log 43), and no rule says it. No byte at a home changes but those that a dirty byte of these caches is
written back to (R181, R189, R191, R192, R197, R322). -/
def Sys2Proof.Claim.AcquireReads : Prop :=
  ∀ (s : State) (c : Nat) (k : OpCtx) (obj : Obj) (pair : Option Nat) (all : Bool) (m : LaneMask) (ps : List Piece)
    (h : Home),
    k.o.work = .acq obj pair all m → s.mayAttempt c k = true → k.o.handler = false →
    s.opPages c k = .go ps → s.tryObj c k obj .read 8 = .go h →
    s.opCtx? c k.w.slot k.o.num = some k →
    let word := (s.flushObj c h).homeWord h
    let t := s.tryAcq c k
    let l1 := (t.core c).l1
    let l2 := (t.die (dieOf c)).l2
    (∃ w, (t.core c).wave? k.w.slot = some w ∧
      (∀ r, pair = some r →
        (∀ l, m.getLsbD l → l < 64 → w.getV false r l = word.extractLsb' 0 32 ∧
          w.getV false (r + 1) l = word.extractLsb' 32 32) ∧
        (∀ q l, l < 64 → ¬ ((q = r ∨ q = r + 1) ∧ m.getLsbD l) → w.getV false q l = k.w.getV false q l)) ∧
      (pair = none → w.v = k.w.v ∧ w.vPoison = k.w.vPoison) ∧
      w.s = k.w.s ∧ w.a = k.w.a ∧ w.p = k.w.p ∧ w.seq = k.w.seq ∧ w.hzn = k.w.hzn ∧ w.fpflags = k.w.fpflags ∧
      (∃ o, w.op? k.o.num = some o ∧ o.status = .done ∧ o.counted = false)) ∧
    (∀ p ∈ ps, p.x.attr.scope ≠ 0 → ∀ e ∈ l1, p.hasLine e.1 = false) ∧
    (∀ p ∈ ps, 3 ≤ p.x.attr.scope.toNat → ∀ e ∈ l2, p.hasLine e.1 = true →
      e.2.dirty = true ∧ s.homeWritable e.1 = false) ∧
    (all = true → (∀ e ∈ l1, e.2.scope = 0) ∧
      ∀ e ∈ l2, 3 ≤ e.2.scope.toNat → e.2.dirty = true ∧ s.homeWritable e.1 = false) ∧
    (∀ a, (∀ e ∈ (s.core c).l1 ++ (s.die (dieOf c)).l2, e.2.dirty = true → placeKey e.1 ≠ a) →
      Memory.get t.mem a = Memory.get s.mem a)

/-- BINIT of a scratchpad object completes at issue: its 16 bytes are those of a fresh barrier, and nothing else of the state
changes (R165, R298, R323). While an older open operation of the wave reaches its bytes, or an older acquire or FENCE is open,
it waits: R323 performs it at issue and R168 orders only updates of one object, so the wait is the model's reading (log 28 and
log 40, DEDUCED) of R189 and R191. -/
def Sys2Proof.Claim.ScratchpadBinitCompletes : Prop :=
  ∀ (g : Ctl) (o : MB) (s : State) (x : Ctx) (off : Nat),
    Claim.ObjReady s x g o [] (if mbBit o 28 then [.s (mbS o 21), .s (mbS o 14)] else []) 16 16 false →
    (mbObj x o = .spad off → Claim.clear x (Claim.spadAt off 16) →
      exec (.binit g o) s = .next (s.save (Claim.stepped (Claim.committed (Claim.withBlock x
        (x.block.spadWrite off (Claim.freshBar (binitTargets x o).1.toNat (binitTargets x o).2.toNat).toBytes))) g.sw))) ∧
    (mbObj x o = .spad off → ¬ Claim.clear x (Claim.spadAt off 16) → exec (.binit g o) s = .next s)

/-- ARRIVE on a scratchpad object that no binding names completes at issue, once no older open operation of the wave holds it
back (log 28 and log 40, DEDUCED, as for BINIT): one update of the barrier with its arrivals, and E_BARRIER_TARGET where the
expected target is another. With ALL it waits until nothing older of the wave is open and its writes to the host have completed, and
first writes back as FENCE does (R166, R188, R197, R298, R318, R324, R400). -/
def Sys2Proof.Claim.ScratchpadArriveCompletes : Prop :=
  ∀ (g : Ctl) (o : MB) (s : State) (x : Ctx) (off : Nat), Claim.ObjReady s x g o [] [] 16 16 true →
    mbObj x o = .spad off → Claim.bound x o = [] → Claim.clear x (Claim.spadAt off 16) →
    (mbBit o 11 = true → (x.frag.handler = true ∨ x.wave.shp = false ∧ x.wave.hzn = x.wave.seq) ∧
      x.wave.hostOwed = false ∧ s.releaseFault x.c [] true = none) →
    let t := s.save (Claim.stepped (Claim.committed x) g.sw)
    ∃ code, exec (.arrive g o) s = .next ((if mbBit o 11 then t.release x.c [] true else t).barUpdate
        (.spad x.c x.block.slot off) ((o.low.extractLsb' 3 8).toNat + 1) 0 code) ∧
      (code = eBarrierTarget ↔ mbBit o 28 = true ∧
        (o.low.extractLsb' 12 16).toNat ≠ recNat (Memory.read x.block.spad off 16) 0 2) ∧
      (code = 0 ∨ code = eBarrierTarget)

/-- The update U(a, n, code) of a barrier: the first error stays, an overrun is an error, a barrier whose two counts
reach 0 starts its next phase with its targets, and the targets never change (R166). -/
def Sys2Proof.Claim.BarrierUpdateRule : Prop :=
  ∀ (b : Bar) (a n : Nat) (code : BitVec 16),
    let u := b.update a n code
    u.1.atgt = b.atgt ∧ u.1.btgt = b.btgt ∧
    (b.apend ≤ a ∧ b.bpend ≤ n →
      u.1.phase = (b.phase + 1) % 65536 ∧ u.1.apend = b.atgt ∧ u.1.bpend = b.btgt) ∧
    (¬ (b.apend ≤ a ∧ b.bpend ≤ n) →
      u.1.phase = b.phase ∧ u.1.apend = b.apend - a ∧ u.1.bpend = b.bpend - n) ∧
    (b.err ≠ 0 → u.1.err = b.err) ∧
    (b.err = 0 → code ≠ 0 → u.1.err = code.toNat) ∧
    (b.err = 0 → code = 0 → b.apend < a ∨ b.bpend < n → u.1.err = eBarrierOverrun.toNat) ∧
    (b.err = 0 → code = 0 → a ≤ b.apend → n ≤ b.bpend → u.1.err = 0)

/-- WAITPH on an object that takes no number completes, once no older open operation of the wave holds it back: while the
phase is the awaited one its fragment parks, and otherwise it goes on after the discards of the join (R169, R192, R325). -/
def Sys2Proof.Claim.WaitphCompletes : Prop :=
  ∀ (g : Ctl) (o : MB) (s : State) (x : Ctx), Claim.ObjReady s x g o [] (phaseSrcs o) 16 16 true →
    numbered (mbObj x o) (Claim.bound x o) = false → Claim.clear x [(mbObj x o).range 16] →
    let h := ownHome x.c x.block.slot (mbObj x o)
    (s.phaseAt h = (mbPhase x o).toNat → exec (.waitph g o) s
      = .next (s.save (Claim.parked x g.sw (.waitph (mbObj x o) (mbPhase x o) none)))) ∧
    (s.phaseAt h ≠ (mbPhase x o).toNat → exec (.waitph g o) s = .next ((s.save (Claim.stepped x g.sw)).join x.c h))

/-- WAITPH on an object that takes a number completes: its read is tried at once; where that read does not end its
operation its fragment parks (R169, R298, R325). -/
def Sys2Proof.Claim.NumberedWaitphCompletes : Prop :=
  ∀ (g : Ctl) (o : MB) (s : State) (x : Ctx), Claim.OpReady s x (Claim.waitRule g o) → x.opRoom .none = true →
    numbered (mbObj x o) (Claim.bound x o) = true →
    let y := (Claim.waitRule g o).after x
    let tried (y : Ctx) : State := (s.save y).attempt x.c x.wave.slot x.wave.seq fun s k => s.tryWaitph x.c k
    ((tried y).opOver x.c x.wave.slot x.wave.seq = true → exec (.waitph g o) s = .next (tried y)) ∧
    ((tried y).opOver x.c x.wave.slot x.wave.seq = false → exec (.waitph g o) s = .next (tried
      (Claim.withFrag y (Claim.parked x g.sw (.waitph (mbObj x o) (mbPhase x o) (some x.wave.seq))).frag)))

/-- TRYPH completes: on an object that takes no number, once no older open operation of the wave holds it back, its predicate
is true in every active lane when the phase has passed, and false otherwise; on another its operation is tried at once (R192,
R298, R326). -/
def Sys2Proof.Claim.TryphCompletes : Prop :=
  ∀ (g : Ctl) (o : MB) (s : State) (x : Ctx), Claim.ObjReady s x g o [] (phaseSrcs o) 16 16 true →
    (numbered (mbObj x o) (Claim.bound x o) = false → Claim.clear x [(mbObj x o).range 16] →
      s.phaseAt (ownHome x.c x.block.slot (mbObj x o)) = (mbPhase x o).toNat →
      ∃ t y, exec (.tryph g o) s = .next t ∧
        Claim.PredEffect s t x y g (o.low.extractLsb' 9 3).toNat fun _ => (false, 0)) ∧
    (numbered (mbObj x o) (Claim.bound x o) = false → Claim.clear x [(mbObj x o).range 16] →
      s.phaseAt (ownHome x.c x.block.slot (mbObj x o)) ≠ (mbPhase x o).toNat →
      ∃ t y, exec (.tryph g o) s = .next (t.join x.c (ownHome x.c x.block.slot (mbObj x o))) ∧
        Claim.PredEffect s t x y g (o.low.extractLsb' 9 3).toNat fun _ => (true, 0)) ∧
    (numbered (mbObj x o) (Claim.bound x o) = true → x.opRoom .none = true →
      exec (.tryph g o) s = .next ((s.save ((Claim.tryRule g o).after x)).attempt x.c x.wave.slot x.wave.seq
        fun s k => s.tryTryph x.c k))

/-- WAITHZ completes, and takes no number: while HZN has not reached SEQ, its fragment parks on the horizon barrier of its
wave with SEQ as it is at issue. Where HZN has reached SEQ the barrier receives its one arrival at once, which ends its phase,
and the fragment goes on past its word. Both where no fragment of the wave is parked there for a number that HZN has reached
already (R170, R171, R329). -/
def Sys2Proof.Claim.WaithzCompletes : Prop :=
  ∀ (g : Ctl) (o : MB) (s : State) (x : Ctx), Claim.FragReady s x g [] →
    (∀ f ∈ x.core.frags, f.wave = x.wave.slot → ∀ n, f.park = .waithz n →
      n ≠ x.wave.hzn ∧ (n - x.wave.hzn).toNat ≤ (x.wave.seq - x.wave.hzn).toNat) →
    (x.wave.hzn ≠ x.wave.seq →
      exec (.waithz g o) s = .next (s.save (Claim.parked x g.sw (.waithz x.wave.seq)))) ∧
    (x.wave.hzn = x.wave.seq → ∃ t y, exec (.waithz g o) s = .next t ∧ t = { s with cores := t.cores } ∧
      (∀ c, c ≠ x.c → t.core c = s.core c) ∧ t.ctx? = some y ∧
      y.wave = { x.wave with hzPhase := x.wave.hzPhase + 1 } ∧
      y.frag = { x.frag.past g.sw with holds := false } ∧ y.block = x.block)

/-- BIND completes: a valid entry with its region, its object and its block enters the lowest free place of the table,
or none where the block has that entry already; a full table traps with E_BIND_FULL (R156, R319). -/
def Sys2Proof.Claim.BindCompletes : Prop :=
  ∀ (g : Ctl) (o : MB) (s : State) (x : Ctx),
    Claim.ObjReady s x g o [] [.a (o.low.extractLsb' 25 4).toNat] 8 8 false →
    let e := bindEntry x o (mbObj x o)
    e.base = x.a (o.low.extractLsb' 25 4).toNat &&& ~~~ 63#64 ∧ e.len = (o.low.extractLsb' 3 22).toNat + 1 ∧
    e.slot = x.block.slot ∧ e.obj = ((mbObj x o).ident).getD 0 ∧
    ((∃ k ∈ x.core.binds, k.2.sameAs e = true) →
      exec (.bind g o) s = .next (s.save (Claim.stepped x g.sw))) ∧
    (∀ i, (∀ k ∈ x.core.binds, k.2.sameAs e = false) → i < 32 → Map.find x.core.binds i = none →
      (∀ j, j < i → Map.find x.core.binds j ≠ none) →
      exec (.bind g o) s = .next (s.save (Claim.stepped
        { x with core := { x.core with binds := Map.put x.core.binds i e } } g.sw))) ∧
    ((∀ k ∈ x.core.binds, k.2.sameAs e = false) → (∀ j, j < 32 → Map.find x.core.binds j ≠ none) →
      exec (.bind g o) s = .next (s.raise x ⟨eBindFull, 0, 0⟩))

/-- UNBIND frees every entry of the wave's block whose base, length and object a BIND with the same operands would
write, and no other; it takes no number, is performed at issue, and later releases and acquires do not use what it
freed (R320). -/
def Obligations.UnbindFrees : Prop :=
  ∀ (g : Ctl) (o : MB) (s : State) (x : Ctx),
    Claim.ObjReady s x g o [] [.a (o.low.extractLsb' 25 4).toNat] 8 8 false →
    let e := bindEntry x o (mbObj x o)
    ∃ y : Ctx, exec (.unbind g o) s = .next (s.save y) ∧
      y = Claim.stepped { x with core := { x.core with binds := y.core.binds } } g.sw ∧
      (∀ k, k ∈ y.core.binds ↔ k ∈ x.core.binds ∧
        ¬ (k.2.slot = x.block.slot ∧ k.2.base = e.base ∧ k.2.len = e.len ∧ k.2.obj = e.obj)) ∧
      (∀ obj id, Obj.ident obj = some id → id = e.obj → (e.base, e.len) ∉ y.core.regionsOf x.block.slot obj)

/-! ## Branches and reconvergence -/

/-- BRA transfers the whole fragment to its target: it pushes nothing and never divides the fragment. A word of BRA
with a bit of TOKEN, P, PN or LINK set is no BRA (R373). -/
def Obligations.BranchAlways : Prop :=
  (∀ (g : Ctl) (o : CB) (s : State) (x : Ctx), Claim.FragReady s x g [] →
    exec (.bra g o) s = .next (s.save (Claim.transferred x g.sw (Claim.offTarget x o) true)) ∧
    (Claim.transferred x g.sw (Claim.offTarget x o) true).frag.mask = x.frag.mask ∧
    (Claim.transferred x g.sw (Claim.offTarget x o) true).frag.stack = x.frag.stack ∧
    (Claim.transferred x g.sw (Claim.offTarget x o) true).frag.loc = .header (Claim.offTarget x o)) ∧
  (∀ (w : DWord) (g : Ctl) (o : CB), decode w = .ok (.bra g o) →
    o.token = 0 ∧ o.p = 0 ∧ o.pn = false ∧ o.link = 0)

/-- CALL, RET and BHZ complete: CALL writes the header after its clause to its link register and transfers the fragment,
RET transfers it to its register's address, and BHZ to its target when the wave has no open operation (R330, R372,
R376). -/
def Obligations.TransferWords : Prop :=
  ∀ (g : Ctl) (s : State) (x : Ctx),
    (∀ o : CB, Claim.FragReady s x g [] →
      exec (.call g o) s = .next (s.save (Claim.transferred (x.setA o.link.toNat x.frag.loc.next.addr) g.sw
        (Claim.offTarget x o) false)) ∧
      (x.setA o.link.toNat x.frag.loc.next.addr).a o.link.toNat = x.frag.loc.next.addr) ∧
    (∀ o : CR, Claim.FragReady s x g [.a o.a.toNat] →
      exec (.ret g o) s = .next (s.save (Claim.transferred x g.sw (Claim.regTo x o) false))) ∧
    (∀ o : CB, Claim.FragReady s x g [] → x.wave.seq = x.wave.hzn →
      exec (.bhz g o) s = .next (s.save (Claim.transferred x g.sw (Claim.offTarget x o) true))) ∧
    (∀ o : CB, Claim.FragReady s x g [] → x.wave.seq ≠ x.wave.hzn →
      exec (.bhz g o) s = .next (s.save (Claim.stepped x g.sw)))

namespace Sys2Proof.Claim

/-- A conditional branch: the lanes that take it, its target, its token. -/
structure BranchRule where
  g : Ctl
  take : Ctx → LaneMask
  target : Ctx → DWord
  token : BitVec 8
  clean : Ctx → Bool

def branchRule : Instr → Option BranchRule
  | .brc g o => some ⟨g, fun x => brcLanes x g o, fun x => offTarget x o, o.token,
      fun x => !x.srcPoison x.frag.mask (.p o.p.toNat)⟩
  | .brx g o => some ⟨g, fun x => x.active g, fun x => regTo x o, o.low.extractLsb' 12 8,
      fun x => !x.srcPoison (x.active g) (.a o.a.toNat)⟩
  | _ => none

/-- The fragment keeps some lanes, with one more stack entry. -/
def kept (f : Frag) (m : LaneMask) (e : DivEntry) (st : List DivEntry) : Frag :=
  { f with mask := m, stack := st ++ [e] }

end Sys2Proof.Claim

/-- BRC and BRX complete where no lane or every lane takes the branch: the fragment goes on whole, and pushes nothing
(R44, R374, R375). -/
def Sys2Proof.Claim.UniformBranchesComplete : Prop :=
  ∀ (i : Instr) (r : Claim.BranchRule) (s : State) (x : Ctx), Claim.branchRule i = some r → s.ctx? = some x →
    x.guardPoison r.g x.frag.mask = false → r.clean x = true →
    (r.take x = 0 → exec i s = .next (s.save (Claim.stepped x r.g.sw))) ∧
    (r.take x ≠ 0 → x.frag.mask &&& ~~~ r.take x = 0 →
      exec i s = .next (s.save (Claim.transferred x r.g.sw (r.target x) true)))

/-- A branch that divides a fragment with a full stack of 16 entries traps with E_DIVERGE_DEPTH (R43). -/
def Sys2Proof.Claim.DeepBranchesTrap : Prop :=
  ∀ (i : Instr) (r : Claim.BranchRule) (s : State) (x : Ctx), Claim.branchRule i = some r → s.ctx? = some x →
    x.guardPoison r.g x.frag.mask = false → r.clean x = true →
    r.take x ≠ 0 → x.frag.mask &&& ~~~ r.take x ≠ 0 → 16 ≤ x.frag.stack.length →
    exec i s = .next (s.raise x ⟨eDivergeDepth, 0, 0⟩)

/-- A branch that divides its fragment: the fewer lanes, those that take it on a tie, detach as a new fragment where the
wave may have one more, and both push TOKEN; else the fragment keeps the fewer lanes and pushes DEFER with the others
(R44, R46, R174). -/
def Sys2Proof.Claim.DividingBranchesComplete : Prop :=
  ∀ (i : Instr) (r : Claim.BranchRule) (s : State) (x : Ctx), Claim.branchRule i = some r → s.ctx? = some x →
    x.guardPoison r.g x.frag.mask = false → r.clean x = true →
    r.take x ≠ 0 → x.frag.mask &&& ~~~ r.take x ≠ 0 → x.frag.stack.length < 16 →
    let take := r.take x
    let stay := x.frag.mask &&& ~~~ take
    let there := Claim.transferred x r.g.sw (r.target x) true
    let here := Claim.stepped x r.g.sw
    let token := DivEntry.token r.token
    ((lanesOf take).length ≤ (lanesOf stay).length → x.canDetach = true →
      exec i s = .next (s.setCore x.c ((((Claim.withFrag here (Claim.kept here.frag stay token x.frag.stack)).saved.newFrag
        x.wave.slot take (.header (r.target x)) (x.frag.stack ++ [token]) false).shareCounts
          x.frag.id x.core.nextFrag).mergeParked x.wave.slot))) ∧
    ((lanesOf stay).length < (lanesOf take).length → x.canDetach = true →
      exec i s = .next (s.setCore x.c ((((Claim.withFrag there (Claim.kept there.frag take token x.frag.stack)).saved.newFrag
        x.wave.slot stay x.frag.loc.next (x.frag.stack ++ [token]) false).shareCounts
          x.frag.id x.core.nextFrag).mergeParked x.wave.slot))) ∧
    ((lanesOf take).length ≤ (lanesOf stay).length → x.canDetach = false →
      exec i s = .next (s.setCore x.c ((Claim.withFrag there (Claim.kept there.frag take
        (.defer r.token stay x.frag.loc.next) x.frag.stack)).saved.mergeParked x.wave.slot))) ∧
    ((lanesOf stay).length < (lanesOf take).length → x.canDetach = false →
      exec i s = .next (s.setCore x.c ((Claim.withFrag here (Claim.kept here.frag stay
        (.defer r.token take (.header (r.target x))) x.frag.stack)).saved.mergeParked x.wave.slot)))

/-- RCV completes: with TOKEN of its token on top it parks, and merges when no sibling is missing; with DEFER it goes on
with the deferred lanes and leaves DONE; with DONE it unites the lanes; with another top it only moves on (R45, R378). -/
def Sys2Proof.Claim.RcvCompletes : Prop :=
  ∀ (g : Ctl) (o : CN) (s : State) (x : Ctx), Claim.FragReady s x g [] →
    let t : BitVec 8 := o.low.extractLsb' 12 8
    let next := Claim.stepped x g.sw
    let rest := x.frag.stack.dropLast
    let merged (y : Ctx) : State := s.setCore x.c (y.saved.mergeParked x.wave.slot)
    (x.frag.stack.getLast? = some (.token t) → exec (.rcv g o) s = .next (merged (Claim.withFrag x
      { x.frag with park := .rcv t, marked := g.sw, waits := none, skip := 0, yielded := false, holds := false }))) ∧
    (∀ m pc, x.frag.stack.getLast? = some (.defer t m pc) → exec (.rcv g o) s = .next (merged (Claim.withFrag next
      { next.frag with stack := rest ++ [.done t x.frag.mask x.frag.loc.next], mask := m, loc := pc, holds := false }))) ∧
    (∀ m pc, x.frag.stack.getLast? = some (.done t m pc) → exec (.rcv g o) s = .next (merged (Claim.withFrag next
      { next.frag with stack := rest, mask := x.frag.mask ||| m }))) ∧
    ((x.frag.stack.getLast? = none ∨ (∃ u, u ≠ t ∧ (x.frag.stack.getLast? = some (.token u) ∨
        ∃ m pc, x.frag.stack.getLast? = some (.defer u m pc) ∨ x.frag.stack.getLast? = some (.done u m pc)))) →
      exec (.rcv g o) s = .next (s.save next))

/-- EXIT completes: its active lanes leave the fragment; where they are the last, the topmost waiting path goes on, and
without one the fragment ends (R47, R380). -/
def Sys2Proof.Claim.ExitCompletes : Prop :=
  ∀ (g : Ctl) (o : CN) (s : State) (x : Ctx), Claim.FragReady s x g [] →
    let next := Claim.stepped x g.sw
    (x.frag.mask &&& ~~~ x.active g ≠ 0 → exec (.exit g o) s = .next (s.save (Claim.withFrag next
      { next.frag with mask := x.frag.mask &&& ~~~ x.active g }))) ∧
    (∀ st m pc, x.frag.mask &&& ~~~ x.active g = 0 → popPath x.frag.stack = some (st, m, pc) →
      exec (.exit g o) s = .next (s.setCore x.c ((Claim.withFrag next
        { next.frag with stack := st, mask := m, loc := pc, holds := false }).saved.mergeParked x.wave.slot))) ∧
    (x.frag.mask &&& ~~~ x.active g = 0 → popPath x.frag.stack = none → x.frag.handler = false →
      exec (.exit g o) s = .next ((s.setCore x.c ((x.core.dequeue x.frag.id).mergeParked x.wave.slot)).endIfEmpty
        x.c x.wave.slot)) ∧
    (x.frag.mask &&& ~~~ x.active g = 0 → popPath x.frag.stack = none → x.frag.handler = true →
      x.wave.handlerBusy = false → exec (.exit g o) s = .next (s.endHandled x.c x.wave.slot))

/-- NOP only moves on; YIELD also marks its fragment as having yielded, and releases the slots of its clause; a valid
clause header places its fragment at the clause's first word, with the header's waits (R18, R246, R247, R381). -/
def Obligations.PlainControlWords : Prop :=
  ∀ (s : State) (x : Ctx),
    (∀ g o, Claim.FragReady s x g [] → exec (.nop g o) s = .next (s.save (Claim.stepped x g.sw))) ∧
    (∀ g o, Claim.FragReady s x g [] → exec (.yield g o) s = .next (s.save (Claim.withFrag x
      { x.frag.past g.sw with yielded := true, holds := false }))) ∧
    (∀ (h : Header) (a : DWord) (cls : Cls), s.ctx? = some x → x.frag.loc = .header a → h.fault = none →
      Cls.ofCode h.cls = some cls → exec (.clauseHeader h) s = .next (s.save (Claim.withFrag x
        { x.frag with loc := .word a cls h.count.toNat 0,
                      waits := some ⟨h.ldw.toNat, h.stw.toNat, h.engw.toNat, h.hzw.toNat⟩ })))

/-! ## Traps -/

/-- A precise trap of a word outside a handler: the wave holds its cause, the word's place, the word and its mask until
the trap is entered, the fragment stands where it stood, and the wave joins the end of the list of waves that trapped;
nothing else changes (R230, R231). -/
def Sys2Proof.Claim.PreciseTraps : Prop :=
  ∀ (s : State) (x : Ctx) (t : Cause), s.ctx? = some x → x.frag.handler = false →
    ∃ y : Ctx, (s.raise x t).ctx? = some y ∧ s.raise x t = { s with cores := (s.raise x t).cores } ∧
      (∀ c, c ≠ x.c → (s.raise x t).core c = s.core c) ∧
      y.wave = { x.wave with
        trap := some { code := t.code, sub := t.sub, addr := t.addr, pc := x.frag.loc.addr, word := x.word,
                       fmask := x.frag.mask, frag := x.frag.id } } ∧
      y.frag = { x.frag with holds := false } ∧ y.block = x.block ∧
      y.core = { x.core with
        waves := y.core.waves, frags := y.core.frags, trapQueue := x.core.trapQueue ++ [x.wave.slot] } ∧
      (∀ w, w ≠ x.wave.slot → y.core.wave? w = x.core.wave? w) ∧
      (∀ f, f ≠ x.frag.id → y.core.frag? f = x.core.frag? f)

/-- TRAP completes: it traps precisely with E_TRAP, and its immediate is the sub-code (R389). -/
def Sys2Proof.Claim.TrapCompletes : Prop :=
  ∀ (g : Ctl) (o : CN) (s : State) (x : Ctx), Claim.FragReady s x g [] →
    exec (.trap g o) s = .next (s.raise x ⟨eTrap, o.low.extractLsb' 42 8, 0⟩)

/-- A trap of a word of a handler kills the interrupted wave: it has no operation, no trap and no trap window left, its
launch records E_TRAP_NESTED if it has recorded nothing, and LAUNCH_ERR counts the cause (R235). -/
def Sys2Proof.Claim.NestedTrapsKill : Prop :=
  ∀ (s : State) (x : Ctx) (t : Cause) (l : Launch), s.ctx? = some x → x.frag.handler = true →
    x.block.launch = l.id → s.launches.find? (fun k => k.id == l.id) = some l → l.err = 0 →
    (∃ w, ((s.raise x t).core x.c).wave? x.wave.slot = some w ∧ w.ended = true ∧ w.ops = [] ∧ w.win = none ∧
      w.trap = none ∧ w.hzn = x.wave.seq) ∧
    (∃ k, (s.raise x t).launches.find? (fun k => k.id == l.id) = some k ∧ k.err = eTrapNested) ∧
    (s.raise x t).stoker.launchErr = satInc s.stoker.launchErr

/-- Trap entry completes when the wave's operations are at rest, a trap window is free and its frame, which does not lie in
core control space, can be used: the wave has a fresh window, %trapcause holds the code and its sub-code, no trap waits any
more, and a fragment of the handler with all lanes stands at the header that the frame's first word names, which for a frame in
the host's memory is what the host has answered; its 15 words there are posted writes (log 39). Bytes 8 to 127 of a frame in
cached memory are in the core's L1 as R233 lays them out (R92, R231 to R233, R400). -/
def Sys2Proof.Claim.TrapEntryCompletes : Prop :=
  ∀ (s : State) (c w : Nat) (wv : Wave) (e : Entry) (b : Block) (f : FrameAt), c < coreCount →
    (s.core c).wave? w = some wv → wv.entry = some e → (s.core c).block? wv.block = some b →
    wv.ended = false → (s.waveDrains c wv = false ∨ wv.winHeld = true) → (s.core c).active = some b.ctx →
    s.entryReady c wv = true → wv.frameFail = false →
    (wv.winHeld = true ∨ (s.core c).windowsUsed + s.aheadOf c w < 4) →
    s.frameAt c ((s.core c).ctxSlot b.ctx).root.toNat wv.block wv.frameHandler wv.tfp = .ok f →
    (∀ p ∈ f.rest, placeClass p.x.place ≠ 3) →
    ∃ t, exec (.trapEntry c w) s = .next t ∧
      (t.core c).wave? w = some { wv with
        win := some { v := [], s := [], a := [], p := [], precise := e.precise, frag := e.frag, vPoison := [],
                      sPoison := [], aPoison := [], pPoison := [] },
        winHeld := false, frameFail := false, frameRetry := false, handlerRetry := false, frameAsked := false,
        frameHandler := none, hostWrites := wv.hostWrites + (if placeClass f.handler.x.place = 6 then 15 else 0),
        trap := none, drainTrap := false, trapEarly := false,
        trapcause := BitVec.ofNat 32 (e.sub.toNat * 65536 + e.code.toNat) } ∧
      (t.core c).trapQueue = (s.core c).trapQueue.filter (fun j => j ≠ w) ∧
      (∃ h ∈ (t.core c).frags, h.wave = w ∧ h.handler = true ∧ h.mask = BitVec.allOnes 64 ∧ h.stack = [] ∧
        h.park = .none ∧ h.loc = .header (BitVec.ofNat 64 (leNat (if placeClass f.handler.x.place = 6 then (wv.frameHandler.getD []).take 8
          else s.pieceRead c f.handler)))) ∧
      ∀ y, s.translate (some c) (dieOf c) ((s.core c).ctxSlot b.ctx).root.toNat .write (wv.tfp + 8) = .ok y →
        y.attr.inL1 = true → (∀ i, i < 120 → placeClass (y.place + i) < 2) →
        ∀ i, i < 120 → ∃ v, Map.find (t.core c).l1 (placeKey (y.place + i)) = some v ∧ v.dirty = true ∧
          v.val = (frameBytes wv ((s.core c).ctxSlot b.ctx).ctxid e ((s.core c).inWaithz e.frag)).getD i 0

/-- Where trap entry does not start a handler: while the operations of the window are not at rest, or no trap window is free,
nothing changes; without a frame, and after system software or a retry has failed its access, the wave is killed (R92, R129,
R231, R232). -/
def Sys2Proof.Claim.TrapEntryWaits : Prop :=
  ∀ (s : State) (c w : Nat) (wv : Wave) (e : Entry) (b : Block), c < coreCount →
    (s.core c).wave? w = some wv → wv.entry = some e → (s.core c).block? wv.block = some b →
    wv.ended = false → (s.waveDrains c wv = false ∨ wv.winHeld = true) → (s.core c).active = some b.ctx →
    (s.entryReady c wv = false → exec (.trapEntry c w) s = .next s) ∧
    (s.entryReady c wv = true → wv.winHeld = false → 4 ≤ (s.core c).windowsUsed + s.aheadOf c w →
      exec (.trapEntry c w) s = .next s) ∧
    (s.entryReady c wv = true → (wv.winHeld = true ∨ (s.core c).windowsUsed + s.aheadOf c w < 4) →
      (wv.tfp = 0 ∨ wv.frameFail = true) → exec (.trapEntry c w) s = .next (s.noFrame c w))

/-- The trap frame: where the hardware puts the code, the sub-code, HZN, SEQ, the place, the address, the wave slot, the
context, the fragment's mask and the word. For a horizon failure bit i of OPEN, DONE, FAIL and ESC stands for the operation
numbered HNUM + i that is in the window, has resolved, has failed, or is an EV store that has been performed, and KINDS holds
its kind; for a precise trap these fields are 0 (R233, R234). -/
def Sys2Proof.Claim.TrapFrameLayout : Prop :=
  ∀ (w : Wave) (ctxid : BitVec 16) (e : Entry) (z : Bool), w.slot < 256 →
    let f := List.replicate 8 0 ++ frameBytes w ctxid e z
    let bit (i : Nat) (o : Op) : Prop := o ∈ w.ops ∧ o.handler = false ∧ (o.num - w.hzn).toNat = i ∧
      i < (w.seq - w.hzn).toNat
    (e.precise = true → recNat f 40 64 = 0) ∧
    (e.precise = false → ∀ i, i < 64 →
      ((recNat f 40 8).testBit i = true ↔ ∃ o, bit i o) ∧
      ((recNat f 48 8).testBit i = true ↔ ∃ o, bit i o ∧ o.status = .done) ∧
      ((recNat f 56 8).testBit i = true ↔ ∃ o, bit i o ∧ ∃ code a, o.status = .failed code a) ∧
      ((recNat f 64 8).testBit i = true ↔ ∃ o, bit i o ∧ o.escaped = true) ∧
      (∀ o, bit i o → (∀ p, bit i p → p = o) → o.kind < 16 → recNat f (72 + i / 2) 1 / 16 ^ (i % 2) % 16 = o.kind) ∧
      ((¬ ∃ o, bit i o) → recNat f (72 + i / 2) 1 / 16 ^ (i % 2) % 16 = 0)) ∧
    f.length = 128 ∧ recNat f 8 2 = e.code.toNat ∧ recNat f 10 1 = e.sub.toNat ∧
    recNat f 11 1 = e.precise.toNat + 2 * w.drainTrap.toNat + 4 * z.toNat ∧
    recNat f 12 2 = w.hzn.toNat ∧ recNat f 14 2 = w.seq.toNat ∧ recNat f 16 8 = e.pc.toNat ∧
    recNat f 24 8 = e.addr.toNat ∧ recNat f 32 1 = w.slot ∧ recNat f 34 2 = ctxid.toNat ∧
    recNat f 104 8 = e.fmask.toNat ∧ recNat f 120 8 = e.word.toNat

/-- What RTE makes of an operation of the window under its mask bit: a failed one starts again as it was issued, one that is
held waits on, an abandoned one of either counts as resolved, and what has been performed stays (R236). -/
def Sys2Proof.Claim.replayed (k : Op) (bit : Bool) : Op :=
  match k.status, bit with
  | .failed _ _, true => { k with
      status := .waiting, retried := false, stall := false, results := [], reach := [], answer := none, mark := none, behind := false }
  | .failed _ _, false => { k with status := .done, counted := false }
  | .waiting, true => { k with stall := false }
  | .waiting, false => { k with status := .done, counted := false }
  | _, _ => k

/-- How a fragment of the interrupted wave resumes: where it stood, with the SKIP that it had. The one that a precise trap
stopped moves past its word, unless bit 0 of the mask replays it; a header is fetched again. One that is parked in WAITHZ for
a number that HZN has reached goes on (R236, R238). -/
def Sys2Proof.Claim.resumed (win : Window) (bit0 : Bool) (z : Wave) (f : Frag) : Frag :=
  let skip := win.precise && !bit0 && f.id == win.frag && match f.loc with
    | .word .. => true
    | .header _ => false
  let free := match f.park with
    | .waithz n => z.reached n
    | _ => false
  { f with loc := if skip then f.loc.next else f.loc, waits := if skip then none else f.waits,
           park := if free then (if f.marked then .switch else .none) else f.park, marked := f.marked && !free }

/-- RTE completes once no special-function result from before the trap and no operation of its handler is pending. The window is
gone and %trapcause reads 0; no register of the interrupted wave and not SEQ changes. Each operation of the window is what its
mask bit makes of it, and those of the handler are gone; HZN moves from where it stood as HORIZON_RESOLUTION moves it: to SEQ
where every operation left has resolved and no store is held, and not at all where the oldest one left has not. The held lines
of abandoned stores are squashed. Fragments of the wave resume where they stood; without an abandoned engine command no byte of
memory changes (R92, R107, R199, R236 to R238). -/
def Sys2Proof.Claim.RteCompletes : Prop :=
  ∀ (g : Ctl) (o : CR) (s : State) (x : Ctx) (win : Window), Claim.FragReady s x g [.a o.a.toNat] →
    x.frag.handler = true → x.wave.win = some win → x.core.sfuOwed x.wave.slot = false →
    x.wave.handlerBusy = false →
    let bit (n : HNum) : Bool := (x.a o.a.toNat).getLsbD (n - x.wave.hzn).toNat
    let kept := (x.wave.ops.filter fun k => !k.handler).map fun k => Claim.replayed k (bit k.num)
    let held := x.core.held.filter fun h => ¬ (h.wave = x.wave.slot ∧ x.wave.inWindow h.num = true ∧ bit h.num = false)
    let z := Wave.advance (fun n => held.any fun h => h.wave == x.wave.slot && h.num == n) 65
      { x.wave with ops := kept, win := none, trapcause := 0 }
    ∃ t ph, exec (.rte g o) s = .next t ∧
      (t.core x.c).wave? x.wave.slot = some { z with hzPhase := ph } ∧ (t.core x.c).held = held ∧
      z.seq = x.wave.seq ∧ z.v = x.wave.v ∧ z.s = x.wave.s ∧ z.a = x.wave.a ∧ z.p = x.wave.p ∧
      z.fpflags = x.wave.fpflags ∧ z.tfp = x.wave.tfp ∧
      (x.wave.shp = false → x.wave.openCount ≤ 64 → (∀ k ∈ kept, k.status = .done) →
        (∀ h ∈ held, h.wave ≠ x.wave.slot) → z.hzn = x.wave.seq) ∧
      (∀ k, kept.find? (fun k => k.num == x.wave.hzn) = some k → k.status ≠ .done →
        z.hzn = x.wave.hzn ∧ z.ops = kept) ∧
      (∀ f ∈ x.core.frags, f.wave = x.wave.slot → f.handler = false → (∀ k ∈ x.core.frags, k.id = f.id → k = f) →
        (t.core x.c).frag? f.id = some (Claim.resumed win (bit x.wave.hzn) z f)) ∧
      ((∀ k ∈ x.core.frags, k.id = x.frag.id → k = x.frag) → (t.core x.c).frag? x.frag.id = none) ∧
      ((∀ k ∈ x.wave.ops, k.kind ≠ 6) → t.mem = s.mem)

/-- RTE outside a trap window is an undefined opcode: E_ILLEGAL with SUB 1 (R390). -/
def Sys2Proof.Claim.StrayRteTraps : Prop :=
  ∀ (g : Ctl) (o : CR) (s : State) (x : Ctx), s.ctx? = some x → x.frag.handler = false →
    exec (.rte g o) s = .next (s.raise x (illegal 1))

/-! ## Special registers -/

namespace Sys2Proof.Claim

/-- What RDSR and WRSR need to go on: the checks of R77 and R78. -/
structure SrReady (s : State) (x : Ctx) (g : Ctl) (o : SR) (write : Bool) : Prop where
  ready : Ready s x g (if o.uk then [] else [o.reg.toNat]) []
  some : x.active g ≠ 0
  allowed : srAllowed x.frag.handler write o.num.toNat o.sel.toNat = true
  budget : o.num.toNat = 0x0B → o.sel.toNat < x.wave.budget

end Sys2Proof.Claim

/-- RDSR completes: the destination takes what the special register reads as, in each active lane or, for an s-register,
in the lowest one, with its poison; a read of the low half of %clk keeps the high half in the clock latch, and nothing else
changes. While a flag or a result that it reads is still owed it is issued and counts as outstanding, and its register is
written later (R63, R76, R78, R89, R93, R174, R391). -/
def Sys2Proof.Claim.RdsrCompletes : Prop :=
  ∀ (g : Ctl) (o : SR) (s : State) (x : Ctx), Claim.SrReady s x g o false →
    let num := o.num.toNat
    let sel := o.sel.toNat
    let low := (lowLane (x.active g)).getD 0
    (x.srWaits num sel = true → x.core.countOf x.frag .ld < 63 → exec (.rdsr g o) s = .next (s.save (Claim.stepped
      { x with core := { x.core with pend := x.core.pend ++
        [{ kind := .sr, wave := x.wave.slot, frags := [x.frag.id], handler := x.frag.handler, regs := [], preds := [], flags := 0,
           sr := some { num := num, sel := sel, uk := o.uk, dest := o.reg.toNat, lanes := x.active g,
                        flags := x.wave.fpflags } }] } } g.sw))) ∧
    (x.srWaits num sel = false → srConsumes x (x.active g) num sel = false →
      (¬ (num = 8 ∧ sel = 0) → o.uk = false → ∃ t y, exec (.rdsr g o) s = .next t ∧
        Claim.LaneEffect s t x y g false o.reg.toNat (fun l => (s.srRead x num sel l, 0)) fun l => srPoison x num sel l) ∧
      (¬ (num = 8 ∧ sel = 0) → o.uk = true → ∃ t y, exec (.rdsr g o) s = .next t ∧
        Claim.UniEffect s t x y g (.s o.reg.toNat fun x => s.srRead x num sel low) ∧
        ∀ r, y.wave.poisonS x.frag.handler r
          = if r = o.reg.toNat then srPoison x num sel low != 0 else x.wave.poisonS x.frag.handler r) ∧
      (num = 8 ∧ sel = 0 → ∃ t y, exec (.rdsr g o) s = .next t ∧ Claim.Outside s t x y ∧ Claim.coreKept x y ∧
        Claim.moved x y g.sw ∧
        y.wave = { x.wave with
          v := y.wave.v, s := y.wave.s, vPoison := y.wave.vPoison, sPoison := y.wave.sPoison, win := y.wave.win,
          clkLatch := (s.clk x.c).extractLsb' 32 32 } ∧
        (∀ r, y.a r = x.a r) ∧ (∀ k, y.p k = x.p k) ∧
        (∀ r l, l < 64 → y.v r l = if o.uk = false ∧ r = o.reg.toNat ∧ (x.active g).getLsbD l
          then (s.clk x.c).extractLsb' 0 32 else x.v r l) ∧
        (∀ r, y.s r = if o.uk = true ∧ r = o.reg.toNat then (s.clk x.c).extractLsb' 0 32 else x.s r)))

/-- A register, or a write of one, that R77 and R78 do not allow traps with E_ILLEGAL and SUB 6, and %xv of a register at or above
the budget with SUB 4: nothing is read or written (R40, R77, R78, R92, R391). -/
def Sys2Proof.Claim.SpecialRegisterTraps : Prop :=
  ∀ (g : Ctl) (o : SR) (s : State) (x : Ctx), Claim.Ready s x g (if o.uk then [] else [o.reg.toNat]) [] →
    x.active g ≠ 0 → ∀ e ∈ [(Instr.rdsr g o, false), (Instr.wrsr g o, true)],
      (srAllowed x.frag.handler e.2 o.num.toNat o.sel.toNat = false → exec e.1 s = .next (s.raise x (illegal 6))) ∧
      (srAllowed x.frag.handler e.2 o.num.toNat o.sel.toNat = true → o.num.toNat = 0x0B → x.wave.budget ≤ o.sel.toNat →
        exec e.1 s = .next (s.raise x (illegal 4)))

/-- %wid: selector k below the number of fields returns field k zero-extended, another selector up to 5 returns 0, and
selectors 6 and 7 return its low and high half (R79). -/
def Obligations.WidReads : Prop :=
  ∀ (s : State) (x : Ctx) (sel l : Nat),
    let wid := (x.wave.threadWid l).toNat
    (sel ≤ 5 → sel < x.block.widFields → (s.srRead x 0 sel l).toNat
      = wid / 2 ^ x.block.widShift sel % 2 ^ x.block.widWidth sel % 2 ^ 32) ∧
    (sel ≤ 5 → x.block.widFields ≤ sel → s.srRead x 0 sel l = 0) ∧
    s.srRead x 0 6 l = (x.wave.threadWid l).extractLsb' 0 32 ∧
    s.srRead x 0 7 l = (x.wave.threadWid l).extractLsb' 32 32

/-- The physical lane of a logical one, by R420: a good lane of the first pass stands on itself, the others of it take the good
lanes that are left in increasing order, and those of the second pass take the good lanes from the lowest on. -/
def Sys2Proof.Claim.laneOf (good : List Nat) (l : Nat) : Nat :=
  let n := min 64 good.length
  if n ≤ l then good.getD (l - n) 0
  else if l ∈ good then l
  else (good.filter fun p => n ≤ p).getD ((List.range l).countP fun k => k ∉ good) 0

/-- What the other special registers read as: %lpart, %fpflags, %hzn, %hseq, %pcw, %lmap, %coretime, %clk, %trapcause outside a
trap window, %tfp, and the registers of the interrupted wave (R80 to R92, R420). -/
def Obligations.SpecialRegisterValues : Prop :=
  ∀ (s : State) (x : Ctx) (l : Nat),
    s.srRead x 1 0 l = BitVec.ofNat 32 x.wave.lpart ∧ s.srRead x 2 0 l = x.wave.fpflags.zeroExtend 32 ∧
    (s.srRead x 3 0 l).toNat = 65536 * x.wave.shp.toNat + x.wave.hzn.toNat ∧
    s.srRead x 4 0 l = x.wave.hzn ++ x.wave.seq ∧
    s.srRead x 5 0 l = BitVec.ofNat 32 (x.block.pcw % 2 ^ 23) ∧
    (x.block.slot < 8 → x.block.backed < 128 → (s.srRead x 5 1 l).toNat
      = 1024 * x.block.slot + 512 * x.block.req.toNat + 256 * x.block.full.toNat + x.block.backed) ∧
    (let good := x.core.good
     let n := min 64 good.length
     let moved (k : Nat) : Bool := decide (Claim.laneOf good k ≠ k)
     let passes := if n < 64 then 2 else 1
     let least := 4 + 4 * (passes - 1)
     (∀ k, k < 64 → s.srRead x 6 k l = BitVec.ofNat 32 ((if n ≤ k then 256 else 0) + (if moved k then 128 else 0)
       + Claim.laneOf good k)) ∧
     s.srRead x 6 64 l = BitVec.ofNat 32 (256 * ((List.range n).countP fun k => 64 ≤ Claim.laneOf good k)
       + (if n < 64 then 128 else 0) + good.length) ∧
     s.srRead x 7 0 l = BitVec.ofNat 32 (2 ^ 24 * passes + 2 ^ 16 * (6 * passes)
       + 2 ^ 12 * (least + (if (List.range 64).any moved then 1 else 0))
       + 2 ^ 8 * (least + (if (List.range 64).all moved then 1 else 0)) + passes) ∧
     (∀ k, k < 32 → (s.srRead x 7 1 l).getLsbD k = moved k ∧ (s.srRead x 7 2 l).getLsbD k = moved (32 + k))) ∧
    s.srRead x 8 0 l = (s.clk x.c).extractLsb' 0 32 ∧ s.srRead x 8 1 l = (s.clk x.c).extractLsb' 32 32 ∧
    s.srRead x 8 2 l = x.wave.clkLatch ∧
    (x.frag.handler = false → s.srRead x 9 0 l = 0) ∧ (x.frag.handler = true → s.srRead x 9 0 l = x.wave.trapcause) ∧
    s.srRead x 0x0A 0 l = x.wave.tfp.extractLsb' 0 32 ∧ s.srRead x 0x0A 1 l = x.wave.tfp.extractLsb' 32 32 ∧
    (∀ r, s.srRead x 0x0B r l = x.wave.getV false r l) ∧ (∀ r, s.srRead x 0x0C r l = x.wave.getS false r) ∧
    (∀ r, s.srRead x 0x0D (2 * r) l = (x.wave.getA false r).extractLsb' 0 32) ∧
    (∀ r, s.srRead x 0x0D (2 * r + 1) l = (x.wave.getA false r).extractLsb' 32 32) ∧
    (∀ k, s.srRead x 0x0E k l = if (x.wave.getP false k).getLsbD l then 1 else 0)

/-- WRSR completes: %lpart, %fpflags and %tfp take the value of the lowest active lane, and the registers of the
interrupted wave take their new values without poison; nothing else changes. While a flag or a result that it would overwrite
is still owed, it waits (R50, R63, R76, R78, R82, R83, R91, R92, R391). -/
def Sys2Proof.Claim.WrsrCompletes : Prop :=
  ∀ (g : Ctl) (o : SR) (s : State) (x : Ctx), Claim.SrReady s x g o true →
    let num := o.num.toNat
    let sel := o.sel.toNat
    let low := (lowLane (x.active g)).getD 0
    let val (l : Nat) : Word := if o.uk then x.s o.reg.toNat else x.v o.reg.toNat l
    let size := (val low).toNat % 128
    x.anyPoison (if num = 0x0B ∨ num = 0x0E then x.active g else laneBit low)
      [if o.uk then .s o.reg.toNat else .v o.reg.toNat] = false →
    (num = 1 → (x.core.fragsOf x.wave.slot).length ≤ 1 ∧ (size = 4 ∨ size = 8 ∨ size = 16 ∨ size = 32 ∨ size = 64)) →
    (num = 0x0A → sel = 0 → (val low).extractLsb' 0 7 = 0) →
    (x.srWaits num sel = true → exec (.wrsr g o) s = .next s) ∧
    (x.srWaits num sel = false →
      ∃ w : Wave, exec (.wrsr g o) s = .next (s.save (Claim.stepped { x with wave := w } g.sw)) ∧
      (num = 1 → w = { x.wave with lpart := size }) ∧
      (num = 2 → w = { x.wave with fpflags := (val low).extractLsb' 0 6 }) ∧
      (num = 0x0A → sel = 0 → w = { x.wave with tfp := x.wave.tfp.extractLsb' 32 32 ++ val low }) ∧
      (num = 0x0A → sel = 1 → w = { x.wave with tfp := val low ++ x.wave.tfp.extractLsb' 0 32 }) ∧
      (num = 0x0B → w = { x.wave with v := w.v, vPoison := w.vPoison } ∧ ∀ r l, l < 64 →
        w.getV false r l = (if r = sel ∧ (x.active g).getLsbD l then val l else x.wave.getV false r l) ∧
        w.poisonV false r l = if r = sel ∧ (x.active g).getLsbD l then 0 else x.wave.poisonV false r l) ∧
      (num = 0x0C → w = { x.wave with s := w.s, sPoison := w.sPoison } ∧ ∀ r,
        w.getS false r = (if r = sel then val low else x.wave.getS false r) ∧
        w.poisonS false r = if r = sel then false else x.wave.poisonS false r) ∧
      (num = 0x0D → w = { x.wave with a := w.a, aPoison := w.aPoison } ∧
        (∀ r, w.getA false r = if r = sel / 2 then
            (if sel % 2 = 1 then val low ++ (x.wave.getA false r).extractLsb' 0 32
              else (x.wave.getA false r).extractLsb' 32 32 ++ val low)
          else x.wave.getA false r) ∧
        ∀ r up, w.poisonA false r up
          = if 2 * r + up.toNat = sel then false else x.wave.poisonA false r up) ∧
      (num = 0x0E → w = { x.wave with p := w.p, pPoison := w.pPoison } ∧ ∀ k l, l < 64 → (w.getP false k).getLsbD l
        = if k = sel ∧ (x.active g).getLsbD l then (val l).getLsbD 0 else (x.wave.getP false k).getLsbD l))

/-! ## Engine words -/

namespace Sys2Proof.Claim

/-- A Barrow command: what it reads, and what its record says. -/
structure CmdRule where
  g : Ctl
  srcs : List Src
  kind : EngKind
  dst : Ctx → ELoc
  src : Ctx → ELoc
  desc : Ctx → ELoc
  bar : Ctx → ELoc
  aux : Ctx → Option DWord
  len : Ctx → Nat
  traps : Ctx → Option Cause

def directCmd (g : Ctl) (o : EC) (kind : EngKind) : CmdRule :=
  { g := g, srcs := locSrcs o.dst ++ [.a (o.src.extractLsb' 0 4).toNat] ++ locSrcs o.bar
      ++ (if o.len.getLsbD 10 then [.s (o.len.extractLsb' 0 7).toNat] else [])
    kind := kind, dst := fun x => locOf x o.dst, src := fun x => ecSrc x o, desc := fun _ => .bad
    bar := fun x => locOf x o.bar, aux := fun _ => none
    len := fun x => if o.len.getLsbD 10 then (x.s (o.len.extractLsb' 0 7).toNat).toNat
      else 16 * (o.len.extractLsb' 0 10).toNat
    traps := fun x => ((x.barTrap (locOf x o.bar)).or (x.locTrap (locOf x o.dst) (ecLen x o))).or
      (x.locTrap (ecSrc x o) (ecLen x o)) }

def descCmd (g : Ctl) (o : ED) (kind : EngKind) : CmdRule :=
  { g := g, srcs := locSrcs o.desc ++ auxSrcs o ++ locSrcs o.bar, kind := kind, dst := fun _ => .bad,
    src := fun _ => .bad, desc := fun x => locOf x o.desc, bar := fun x => locOf x o.bar, aux := fun x => auxOf x o,
    len := fun _ => 0, traps := fun x => (x.barTrap (locOf x o.bar)).or (x.locTrap (locOf x o.desc) 32) }

def cmdRule : Instr → Option CmdRule
  | .cpy g o => some (directCmd g o .cpy)
  | .tierp g o => some (directCmd g o .tierp)
  | .tiere g o => some (directCmd g o .tiere)
  | .cpy2 g o => some (descCmd g o .cpy2)
  | .cpyt g o => some (descCmd g o .cpyt)
  | .cpyg g o => some (descCmd g o .cpyg)
  | .wload g o => some (descCmd g o .wload)
  | _ => none

/-- The command as it enters the Barrow. -/
def CmdRule.cmd (r : CmdRule) (x : Ctx) : EngCmd :=
  { id := x.core.nextCmd, kind := r.kind, wave := x.wave.slot, block := x.block.slot, num := x.wave.seq,
    gated := !x.frag.handler, dst := r.dst x, src := r.src x, desc := r.desc x, bar := r.bar x, aux := r.aux x,
    len := r.len x, fields := none, unit := 0, buf := none, landed := 0, retried := false, err := 0,
    inFault := false, abandon := false }

/-- The wave after an engine command has been accepted: its operation has its number and has resolved as successful, so
that it counts no more; a handler's command takes no number (R173, R235, R343). -/
def engineWave (x : Ctx) : Wave :=
  if x.frag.handler then x.wave
  else
    (numberedWave x { num := x.wave.seq, handler := false, frags := [x.frag.id], count := .eng, counted := true,
                      kind := 6, pc := x.frag.loc.addr, fmask := x.frag.mask, lanes := [], work := .engine, regions := [],
                      retried := false, status := .waiting, escaped := false, stall := false, results := [],
                      reach := [], answer := none, mark := none, behind := false }).updOp x.wave.seq
      fun o => { o with status := .done, counted := false }

end Sys2Proof.Claim

/-- Every command of the Barrow completes: it is accepted at issue, its record stands at the end of the core's commands,
its number has resolved, and no register and no byte changes yet (R173, R237, R334, R343). -/
def Sys2Proof.Claim.EngineWordsComplete : Prop :=
  ∀ (i : Instr) (r : Claim.CmdRule) (s : State) (x : Ctx), Claim.cmdRule i = some r →
    Claim.FragReady s x r.g r.srcs → r.traps x = none → Claim.clear x [] → x.opRoom .eng = true →
    exec i s = .next (s.save (Claim.stepped
      { x with wave := Claim.engineWave x,
               core := { x.core with cmds := x.core.cmds ++ [r.cmd x], nextCmd := x.core.nextCmd + 1 } } r.g.sw))

/-- An engine word whose barrier is not aligned to 16 traps with E_BARRIER_ALIGN, and one whose scratchpad operand reaches
beyond the backed region traps with E_SPAD_BOUNDS (R172, R335). -/
def Sys2Proof.Claim.EngineOperandTraps : Prop :=
  ∀ (i : Instr) (r : Claim.CmdRule) (s : State) (x : Ctx), Claim.cmdRule i = some r →
    Claim.FragReady s x r.g r.srcs →
    ((r.bar x).addr.toNat % 16 ≠ 0 → exec i s = .next (s.raise x ⟨eBarrierAlign, 0, (r.bar x).addr⟩)) ∧
    (∀ o, (r.bar x).addr.toNat % 16 = 0 → r.bar x = .spad o → x.block.spadOk o 16 = false →
      exec i s = .next (s.raise x ⟨eSpadBounds, 0, BitVec.ofNat 64 o⟩))

/-- MTASK completes: its record of 64 bytes enters the cluster's ring with the quench slot that it names, and QCFG writes its
control block into the block's quench slot (R139, R346, R349). -/
def Sys2Proof.Claim.HearthWordsComplete : Prop :=
  ∀ (g : Ctl) (o : ED) (s : State) (x : Ctx) (bs : List Byte), Claim.FragReady s x g (locSrcs o.desc) →
    (x.issueRead (locOf x o.desc) 64 = .ok bs → (TaskRec.ofBytes bs).alignTrap = none → x.opRoom .eng = true →
      Claim.clear x [((locOf x o.desc).addr.toNat + 2 ^ 64, 64)] →
      (s.cluster (clusterOf x.c)).ring.length < 256 → (s.ringOf x.c x.block.slot).length < 64 →
      exec (.mtask g o) s = .next
        ((s.updCluster (clusterOf x.c) fun k => { k with ring := k.ring ++ [x.newRec bs] }).save (Claim.stepped
          { x with wave := Claim.engineWave x, core := { x.core with nextCmd := x.core.nextCmd + 1 } } g.sw))) ∧
    (x.issueRead (locOf x o.desc) 32 = .ok bs → Claim.clear x [((locOf x o.desc).addr.toNat + 2 ^ 64, 32)] →
      exec (.qcfg g o) s = .next (s.save (Claim.stepped (Claim.withBlock x
        { x.block with quench := updAt x.block.quench ((Quench.ofBytes bs).slot % 4) fun _ => bs }) g.sw)))

/-- RFLUSH and COMM.CLOSE complete when no older operation of the wave is open: RFLUSH asks for the acknowledgement of its
stream's last store, and COMM.CLOSE goes to its communicator. Neither takes a number (R337, R355, R363). -/
def Sys2Proof.Claim.DirectEngineWordsComplete : Prop :=
  ∀ (g : Ctl) (s : State) (x : Ctx), x.olderOpen = false →
    (∀ o : ER, Claim.FragReady s x g [] →
      exec (.rflush g o) s = .next (s.save (Claim.stepped
        { x with core := x.core.setStream o.stream.toNat (x.core.stream o.stream.toNat).flush } g.sw))) ∧
    (∀ o : ED, Claim.FragReady s x g (locSrcs o.bar) → x.barTrap (locOf x o.bar) = none →
      let k : CollCmd :=
        { op := 8, core := x.c, block := x.block.slot, wave := x.wave.slot,
          ctxid := (x.core.ctxSlot x.block.ctx).ctxid, root := (x.core.ctxSlot x.block.ctx).root,
          id := x.core.nextCmd, pri := false, desc := .bad, bar := locOf x o.bar, aux := none, fields := none, sent := false,
          agreed := false, chunks := 0, steps := 0, flits := 0, aside := false, retried := false, stepRetried := false,
          lines := [], message := [], refused := false, inFault := false, err := 0 }
      exec (.commClose g o) s = .next
        ((s.updComm (dieOf x.c) o.comm.toNat fun m => { m with closing := m.closing ++ [k] }).save (Claim.stepped
          { x with core := { x.core with nextCmd := x.core.nextCmd + 1 } } g.sw)))

/-! ## Work words -/

/-- FETCHW completes: the wave has a request outstanding; of a confirmed block it reaches the Stoker at once, and of a
tentative block it is kept. Blocks drawn earlier from the launch end (R51, R385). -/
def Sys2Proof.Claim.FetchwCompletes : Prop :=
  ∀ (g : Ctl) (o : CR) (s : State) (x : Ctx), Claim.FragReady s x g [.a o.a.toNat] →
    x.block.spadOk (32 * crLines o) 32 = true → x.wave.fetchw = false →
    let a := x.a o.a.toNat
    let w := { x.wave with
      fetchw := true, heldFetchw := if x.block.tent then some (a, 32 * crLines o) else none }
    let t := (s.save (Claim.stepped (Claim.withWave x w) g.sw)).endDrawnOf x.c x.wave.slot
      (s.launchNamed (x.core.ctxSlot x.block.ctx).ctxid a)
    (x.block.tent = true → exec (.fetchw g o) s = .next t) ∧
    (x.block.tent = false → exec (.fetchw g o) s
      = .next { t with drawReqs := t.drawReqs ++ [⟨x.c, (x.core.ctxSlot x.block.ctx).ctxid, x.wave.slot, a, 32 * crLines o⟩] })

/-- ALLOC completes: a block that has asked, has its full allotment or has freed granules is not changed; another one has
a request outstanding. FREEA gives back the last granules that it names, as far as they are no registers (R37, R38, R386,
R387). -/
def Sys2Proof.Claim.AllotmentWordsComplete : Prop :=
  ∀ (g : Ctl) (o : CN) (s : State) (x : Ctx), Claim.FragReady s x g [] →
    ((x.block.req = true ∨ x.block.full = true ∨ x.block.freed = true) →
      exec (.alloc g o) s = .next (s.save (Claim.stepped x g.sw))) ∧
    (x.block.req = false → x.block.full = false → x.block.freed = false →
      exec (.alloc g o) s = .next (s.save (Claim.stepped
        { x with block := { x.block with req := true },
                 core := { x.core with allocs := x.core.allocs ++ [x.block.slot] } } g.sw))) ∧
    (let k := min (o.low.extractLsb' 43 7).toNat (x.block.backed - x.block.vreg)
     let b := x.block.unbacked k
     x.block.req = false →
      (k = 0 → exec (.freea g o) s = .next (s.save (Claim.stepped x g.sw))) ∧
      (k ≠ 0 → s.namesBeyond x.c b b.spadBound b.accBound = false →
        b.backed = x.block.backed - k ∧
        exec (.freea g o) s = .next (s.save (Claim.stepped (Claim.withBlock x
          { b with commit := b.backed, freed := true }) g.sw))))

/-- PREFI, PIN and UNPIN complete at issue, whatever lines can be fetched: none of them traps for a line, no register, no
fragment but its own, and no byte of memory changes (R111, R112, R382). -/
def Sys2Proof.Claim.CodeLineWordsComplete : Prop :=
  ∀ (g : Ctl) (o : CR) (s : State) (x : Ctx), Claim.FragReady s x g [.a o.a.toNat] →
    ∀ i ∈ [Instr.prefi g o, Instr.pin g o, Instr.unpin g o], ∃ t, exec i s = .next t ∧ t.mem = s.mem ∧
      (t.core x.c).waves = (Claim.stepped x g.sw).saved.waves ∧ (t.core x.c).frags = (Claim.stepped x g.sw).saved.frags ∧
      (t.core x.c).l1 = x.core.l1 ∧ (t.core x.c).held = x.core.held ∧
      (∀ c, c ≠ x.c → (t.core c).waves = (s.core c).waves)

/-! ## Steps of loads, stores and operations -/

namespace Sys2Proof.Claim

/-- The operation of a wave that a step concerns is found, and may be attempted: it waits for nothing older (R189, R191,
R197, R200). -/
structure Attempt (s : State) (c w : Nat) (n : HNum) (k : OpCtx) : Prop where
  core : c < coreCount
  op : s.opCtx? c w n = some k
  may : s.mayAttempt c k = true

/-- The operation has come to a good end: it has resolved and counts no more, and of a handler it is gone (R228, R235). -/
def Ended (t : State) (c w : Nat) (o : Op) : Prop :=
  ∃ y, (t.core c).wave? w = some y ∧
    (o.handler = false → ∃ p, y.op? o.num = some p ∧ p.status = .done ∧ p.counted = false) ∧
    (o.handler = true → ∀ p ∈ y.ops, ¬ (p.handler = true ∧ p.num = o.num))

/-- A result of its own kind waits at a position of the core's list, with none of its kind before it. -/
structure Owed (s : State) (c pos : Nat) (kind : PendKind) (p : Pend) (w : Wave) : Prop where
  core : c < coreCount
  at_ : (s.core c).pend[pos]? = some p
  ofKind : p.kind = kind
  first : ∀ q ∈ (s.core c).pend.take pos, q.kind ≠ kind
  wave : (s.core c).wave? p.wave = some w
  keys : (p.regs.map fun r => (r.1, r.2.1)).Nodup
  lanes : ∀ r ∈ p.regs, r.2.1 < 64
  noWait : ∀ q ∈ (s.core c).pend, q.sr = none

/-- The result has been written: its registers hold its values and no others, its flags are raised, and it is gone. -/
structure Written (s t : State) (c pos : Nat) (p : Pend) (w : Wave) : Prop where
  state : t = { s with cores := t.cores }
  cores : ∀ d, d ≠ c → t.core d = s.core d
  pend : (t.core c).pend = (s.core c).pend.eraseIdx pos
  wave : ∃ y, (t.core c).wave? p.wave = some y ∧
    (∀ r ∈ p.regs, y.getV p.handler r.1 r.2.1 = r.2.2) ∧
    (∀ q l, l < 64 → (q, l) ∉ (p.regs.map fun r => (r.1, r.2.1)) → y.getV p.handler q l = w.getV p.handler q l) ∧
    (∀ q, y.getS p.handler q = w.getS p.handler q ∧ y.getA p.handler q = w.getA p.handler q) ∧
    (p.preds = [] → ∀ q, y.getP p.handler q = w.getP p.handler q) ∧
    y.fpflags = (if p.handler then w.fpflags else w.fpflags ||| p.flags) ∧ y.ops = w.ops ∧ y.seq = w.seq ∧ y.hzn = w.hzn

/-- The last result that an RDSR of %fpflags waits for: its step raises its flags, and the RDSR completes with them, in its
uniform register or in the lanes that it captured; nothing is pending any more (R63, R83, R391). -/
def WaitingReadsComplete : Prop :=
  ∀ (s : State) (c : Nat) (p q : Pend) (r : SrRead) (w : Wave), c < coreCount → (s.core c).pend = [p, q] →
    p.kind = .sfu → p.handler = false → p.sr = none → p.regs = [] → p.preds = [] →
    q.wave = p.wave → q.handler = false → q.sr = some r → r.num = 2 → (s.core c).wave? p.wave = some w →
    ∃ t y, exec (.sfuComplete c 0) s = .next t ∧ (t.core c).pend = [] ∧ (t.core c).wave? p.wave = some y ∧
      y.fpflags = w.fpflags ||| p.flags ∧
      (r.uk = true → ∀ d, y.getS false d = if d = r.dest then (r.flags ||| p.flags).zeroExtend 32 else w.getS false d) ∧
      (r.uk = false → ∀ l, l < 64 → y.getV false r.dest l
        = if r.lanes.getLsbD l then (r.flags ||| p.flags).zeroExtend 32 else w.getV false r.dest l)

end Sys2Proof.Claim

/-- SCRATCHPAD_LOAD_RESULT, SFU_COMPLETE and CROSS_LANE_COMPLETE: the oldest result of the kind, where no RDSR waits, is written
to the registers that its word named, its flags are raised, and nothing else changes (R63, R93, R286, R294, R309); an RDSR of
%fpflags that waits for the last one completes with its flags (R391). -/
def Obligations.PendingResults : Prop :=
  Claim.WaitingReadsComplete ∧ ∀ (s : State) (c pos : Nat) (p : Pend) (w : Wave),
    (Claim.Owed s c pos .spad p w → ∃ t, exec (.scratchpadLoadResult c pos) s = .next t ∧ Claim.Written s t c pos p w) ∧
    (Claim.Owed s c pos .sfu p w → ∃ t, exec (.sfuComplete c pos) s = .next t ∧ Claim.Written s t c pos p w) ∧
    (Claim.Owed s c pos .cross p w → ∃ t, exec (.crossLaneComplete c pos) s = .next t ∧ Claim.Written s t c pos p w)

/-- LOAD_RETURN: a load whose lanes all translate, none of them in host memory, writes each lane's bytes to its registers
from D on, or the one value of a ULD to its uniform code, and resolves; no home byte and no other register changes (R119,
R302, R305, R308). -/
def Sys2Proof.Claim.LoadsReturn : Prop :=
  ∀ (s : State) (c w : Nat) (n : HNum) (k : OpCtx) (pss : List (List Piece)), Claim.Attempt s c w n k →
    s.tryAll c k.root k.b.slot (k.o.reaches .read) = .go pss → anyHost pss = false →
    let bytes := s.loadBytes c k pss []
    (∀ d sz sx, k.o.work = .load d sz sx → (k.o.lanes.map fun a => a.lane).Nodup → (∀ a ∈ k.o.lanes, a.lane < 64) →
      ∃ t y, exec (.loadReturn c w n) s = .next t ∧ t.mem = s.mem ∧ Claim.Ended t c w k.o ∧
        (t.core c).wave? w = some y ∧
        (∀ i a, k.o.lanes[i]? = some a → ∀ j, j < max 1 (2 ^ sz / 4) →
          y.getV k.o.handler (d + j) a.lane = (loadWords sz sx (bytes.getD i [])).getD j 0) ∧
        (∀ q l, l < 64 → ¬ (d ≤ q ∧ q < d + max 1 (2 ^ sz / 4) ∧ ∃ a ∈ k.o.lanes, a.lane = l) →
          y.getV k.o.handler q l = k.w.getV k.o.handler q l) ∧
        (∀ q, y.getS k.o.handler q = k.w.getS k.o.handler q ∧ y.getA k.o.handler q = k.w.getA k.o.handler q ∧
          y.getP k.o.handler q = k.w.getP k.o.handler q)) ∧
    (∀ code sz, k.o.work = .uload code sz →
      ∃ t y, exec (.loadReturn c w n) s = .next t ∧ t.mem = s.mem ∧ Claim.Ended t c w k.o ∧
        (t.core c).wave? w = some y ∧
        (∀ q, y.getS k.o.handler q = if code.getLsbD 7 = false ∧ q = code.toNat
          then BitVec.ofNat 32 (leNat (bytes.headD [])) else k.w.getS k.o.handler q) ∧
        (∀ q, y.getA k.o.handler q = if code.getLsbD 7 = true ∧ q = (code.extractLsb' 0 4).toNat
          then BitVec.ofNat 64 (leNat (bytes.headD [])) else k.w.getA k.o.handler q) ∧
        (∀ q l, y.getV k.o.handler q l = k.w.getV k.o.handler q l))

/-- An access that fails lastingly: the first failure is kept for a retry, a second one is lasting; the word's registers are
not written (R228, R302). -/
def Sys2Proof.Claim.FailedAttempts : Prop :=
  ∀ (s : State) (c w : Nat) (n : HNum) (k : OpCtx) (code : BitVec 16) (a : DWord), Claim.Attempt s c w n k →
    (∃ d sz sx, k.o.work = .load d sz sx) → k.o.handler = false →
    s.tryAll c k.root k.b.slot (k.o.reaches .read) = .fail code a →
    ∃ t y p, exec (.loadReturn c w n) s = .next t ∧ t.mem = s.mem ∧ (t.core c).wave? w = some y ∧ y.op? n = some p ∧
      p.status = (if k.o.retried then .failed code a else .failing code a) ∧ y.v = k.w.v ∧ y.s = k.w.s ∧ y.a = k.w.a

/-- STORE_ACCEPT of a store that is no longer provisional, on pages that a cache holds or on a home that can be written: its bytes
go where its pages put them, lane by lane, and it resolves. One whose home cannot be written fails with the address of its lowest
failing lane, and nothing is written (R173, R301, R302, R306). -/
def Sys2Proof.Claim.StoresAreAccepted : Prop :=
  ∀ (s : State) (c w : Nat) (n : HNum) (k : OpCtx) (sz : Nat) (pss : List (List Piece)), Claim.Attempt s c w n k →
    k.o.num = n → k.o.work = .store sz → (s.core c).holdsStore w n = false → k.w.oldest k.o = true →
    s.tryAll c k.root k.b.slot (k.o.reaches .write) = .go pss →
    let kind := s.storeKind c k.root k.o
    let t := pss.foldl (fun s ps => s.keepPieces c k.root ps) (s.updOp c w n fun o => { o with kind := kind })
    let l := storeParts k.o pss (2 ^ sz)
    (t.partsFault l = none → (t.core c).heldRoom [] k.b.tent = true →
      exec (.storeAccept c w n) s = .next ((((t.writeParts c w l).updCore c fun x => x).updOp c w n fun o =>
        { o with stall := false, escaped := false }).finishOp c w n)) ∧
    (∀ e a, t.partsFault l = some (e, a) → exec (.storeAccept c w n) s = .next (t.failOp c w n e a))

/-- STORE_ACCEPT of a provisional store of a tentative block, on places below CLASS 4: its bytes enter held lines, and it resolves.
While the held lines have no room for it, it waits and its wave is stalled (R107, R131, R306). -/
def Sys2Proof.Claim.StoresAreHeld : Prop :=
  ∀ (s : State) (c w : Nat) (n : HNum) (k : OpCtx) (sz : Nat) (pss : List (List Piece)), Claim.Attempt s c w n k →
    k.o.num = n → k.o.work = .store sz → (s.core c).holdsStore w n = false → k.w.oldest k.o = false → k.b.tent = true →
    s.tryAll c k.root k.b.slot (k.o.reaches .write) = .go pss →
    (∀ e ∈ storeParts k.o pss (2 ^ sz), placeClass e.p.x.place < 4) →
    let kind := s.storeKind c k.root k.o
    let t := pss.foldl (fun s ps => s.keepPieces c k.root ps) (s.updOp c w n fun o => { o with kind := kind })
    let held := (storeParts k.o pss (2 ^ sz)).map fun e => e.p.held w n true e.ea e.bytes
    ((t.core c).heldRoom held true = true → ∃ u, exec (.storeAccept c w n) s = .next u ∧ u.mem = s.mem ∧
      (u.core c).held = held.foldl (insertHeld k.w) (t.core c).held ∧ Claim.Ended u c w k.o) ∧
    ((t.core c).heldRoom held true = false →
      exec (.storeAccept c w n) s = .next (t.updOp c w n fun o => { o with stall := true }))

/-- HELD_LINE_DRAIN: the store at HZN is no longer provisional: its held bytes go where its pages put them, in the order of
its lanes, and leave the held lines; one that has not resolved resolves, and one whose home cannot be written fails there. With
nothing held at HZN, or while SHP stands, nothing changes (R107, R302, R306). -/
def Sys2Proof.Claim.HeldLinesDrain : Prop :=
  ∀ (s : State) (c w : Nat) (y : Wave), c < coreCount → (s.core c).wave? w = some y →
    (y.shp = true ∨ (s.core c).holdsStore w y.hzn = false → exec (.heldLineDrain c w) s = .next s) ∧
    (∀ o, y.shp = false → y.op? y.hzn = some o → (s.core c).holdsStore w y.hzn = true →
      let mine := (s.core c).held.filter fun h => h.wave = w ∧ h.num = y.hzn
      let l : List StorePart := mine.map fun h => ⟨h.ea, s.heldPiece h, h.bytes.map fun e => e.2⟩
      let t := s.updCore c fun x => { x with held := x.held.filter fun h => ¬ (h.wave = w ∧ h.num = y.hzn) }
      (s.partsFault l = none → o.status = .waiting →
        exec (.heldLineDrain c w) s = .next ((t.writeParts c w l).finishOp c w o.num)) ∧
      (s.partsFault l = none → o.status ≠ .waiting → exec (.heldLineDrain c w) s = .next (t.writeParts c w l)) ∧
      (∀ e a, s.partsFault l = some (e, a) → exec (.heldLineDrain c w) s
        = .next ((t.updOp c w o.num fun o => { o with retried := o.retried && o.status != .done }).failOp c w o.num e a)))

/-- COLLIER_ATOMIC: an atomic whose lanes all translate and whose homes can be read, with no lane in host memory, writes back the
pages of its bindings where it releases, steps at its homes in increasing lane order, discards where it acquires, and resolves;
what it found goes to D (R301, R310, R311, R312). One that the host cannot take fails with E_SYS_ATOMIC_UNSUPPORTED (R313,
R401). -/
def Sys2Proof.Claim.GlobalAtomicsPerformed : Prop :=
  ∀ (s : State) (c w : Nat) (n : HNum) (k : OpCtx) (ret : Option Nat) (cas : Bool) (aop : BitVec 4) (w64 : Bool)
    (ord : BitVec 2) (pss : List (List Piece)) (ps : List Piece), Claim.Attempt s c w n k → k.o.num = n → k.w.slot = w →
    k.o.work = .atomic false ret cas aop w64 ord → k.o.answer = none → s.opPages c k = .go ps →
    (s.tryAtomicLanes c k cas aop = .go pss → anyHost pss = false →
      (ord.getLsbD 1 = true → s.releaseFault c ps false = none ∧ k.w.hostOwed = false) →
      let s0 := if ord.getLsbD 1 then s.release c ps false else s
      let size := if w64 then 8 else 4
      let t := (pss.foldl (fun s ps => s.keepPieces c k.root ps) s0).flushHome c fun key _ =>
        pss.any fun l => l.any fun p => p.hasLine key
      ∀ l, t.laneHomes size (k.o.lanes.zip pss) = .ok l → t.atomFault size l = none →
      let r := t.atomSteps cas aop w64 l (answerData size [])
      let u := if ord.getLsbD 0 then r.1.acquire c ps false else r.1
      exec (.collierAtomic c w n) s = .next ((match ret with
        | some d => u.updCore c fun x => x.putVectors w k.o.handler k.o.frags (datumWrites w64 d r.2)
        | none => u).finishOp c w n)) ∧
    (∀ e a, s.tryAtomicLanes c k cas aop = .fail e a → exec (.collierAtomic c w n) s = .next (s.failOp c w n e a)) ∧
    (∀ r q, k.o.reaches .atomic = [r] → s.tryReach c k.root k.b.slot r = .go q →
      (∃ p ∈ q, placeClass p.x.place = 6 ∧ s.hostTakes cas aop p = false) →
      exec (.collierAtomic c w n) s = .next (s.failOp c w n eSysAtomicUnsupported r.va))

/-- One lane's step of an atomic at a home reads what is there, and writes the value of R310 over it and nothing elsewhere (R310,
R311). -/
def Sys2Proof.Claim.AtomicStep : Prop :=
  ∀ (s : State) (p : Nat) (cas : Bool) (aop : BitVec 4) (w64 : Bool) (a : LaneAcc), p + 8 ≤ 2 ^ 48 →
    let n := if w64 then 8 else 4
    let r := s.atomStep (.mem p) cas aop w64 a
    r.2 = BitVec.ofNat 64 (leNat ((List.range n).map fun k => Memory.get s.mem (p + k))) ∧
    (∀ j, ¬ (p ≤ j ∧ j < p + n) → Memory.get r.1.mem j = Memory.get s.mem j) ∧
    (∀ v k, atomNew cas aop w64 r.2 (a.data.extractLsb' 0 64) a.cmp = some v → k < n → s.homeWritable (p + k) = true →
      Memory.get r.1.mem (p + k) = BitVec.ofNat 8 (v.toNat / 256 ^ k)) ∧
    (atomNew cas aop w64 r.2 (a.data.extractLsb' 0 64) a.cmp = none → r.1 = s)

/-- BARRIER_UPDATE: the core's own stores to the object's line go home first; then a BINIT of a reachable object writes a fresh
barrier, and an ARRIVE makes one update with its arrivals, and E_BARRIER_TARGET where its expected target is another; both
resolve (R165, R166, R168, R191, R323, R324). -/
def Sys2Proof.Claim.BarrierUpdatesPerformed : Prop :=
  ∀ (s : State) (c w : Nat) (n : HNum) (k : OpCtx) (obj : Obj) (h : Home), Claim.Attempt s c w n k →
    let u := s.flushObj c h
    (∀ a b, k.o.work = .binit obj a b → s.tryObj c k obj .write 16 = .go h →
      exec (.barrierUpdate c w n) s = .next ((u.homeWrite h (Claim.freshBar a.toNat b.toNat).toBytes).finishOp c w n)) ∧
    (∀ m e, k.o.work = .arrive obj m e false → k.o.regions = [] → k.w.hostOwed = false →
      s.tryObj c k obj .atomic 16 = .go h →
      exec (.barrierUpdate c w n) s = .next ((u.barUpdate h m 0 (match e with
        | some v => if v.toNat = (u.barAt h).atgt then 0 else eBarrierTarget
        | none => 0)).finishOp c w n))

/-- COLLIER_LINK on an empty queue: the core's own stores to the lines of the head and of the record go home, the record becomes
the first and the last of its queue, and its own next link is 0 (R141, R327). -/
def Sys2Proof.Claim.QueueLink : Prop :=
  ∀ (s : State) (c w : Nat) (n : HNum) (k : OpCtx) (head record : DWord) (p q : Nat), Claim.Attempt s c w n k →
    k.o.work = .qwait head record → s.tryObj c k (.glob head) .atomic 16 = .go (.mem p) →
    s.tryObj c k (.glob record) .write 16 = .go (.mem q) →
    let t := (s.flushObj c (.mem p)).flushObj c (.mem q)
    t.homeWord (.mem (p + 8)) = 0 →
    exec (.collierLink c w n) s = .next ((((t.homeWrite (.mem q) (toBytes 8 0)).homeWrite (.mem p)
      (toBytes 8 record.toNat)).homeWrite (.mem (p + 8)) (toBytes 8 record.toNat)).finishOp c w n)

/-- COLLIER_UNLINK: a wake of an empty queue, or of no record, resolves and changes no byte, but for the core's own stores to the
head's line, which have gone home; the first record of a queue leaves it, and its barrier receives one arrival; a record that
cannot be read fails the wake (R142, R143, R328). -/
def Sys2Proof.Claim.QueueUnlink : Prop :=
  ∀ (s : State) (c w : Nat) (n : HNum) (k : OpCtx) (head : DWord) (m p : Nat), Claim.Attempt s c w n k →
    k.o.work = .wake head m → k.o.results = [] → s.tryObj c k (.glob head) .atomic 16 = .go (.mem p) →
    let u := s.flushObj c (.mem p)
    let first := u.homeWord (.mem p)
    ((m = 0 ∨ first = 0) → exec (.collierUnlink c w n) s = .next (u.finishOp c w n)) ∧
    (∀ r, m = 1 → first ≠ 0 → u.colHome (colliers p) k.root .read first 16 = .ok r →
      u.heldWindow (some (c, k.b.slot)) r = false →
      let next := u.homeWord r
      let t := u.homeWrite (.mem p) (toBytes 8 next.toNat)
      exec (.collierUnlink c w n) s = .next
        (((if next = 0 then t.homeWrite (.mem (p + 8)) (toBytes 8 0) else t).wakeArrival (colliers p) k.root
          (u.homeWord (r.plus 8))).finishOp c w n)) ∧
    (∀ e, m ≠ 0 → first ≠ 0 → u.colHome (colliers p) k.root .read first 16 = .error e →
      exec (.collierUnlink c w n) s = .next (u.failOp c w n e first))

/-- WAITPH_WAKE: a fragment parked on an object that takes no number goes on once the phase has passed, after the discards of the
join; until then it stays (R169, R192). -/
def Sys2Proof.Claim.WaitphWakes : Prop :=
  ∀ (s : State) (c f : Nat) (fr : Frag) (w : Wave) (obj : Obj) (ph : BitVec 16), c < coreCount →
    (s.core c).frag? f = some fr → (s.core c).wave? fr.wave = some w → fr.park = .waitph obj ph none →
    (s.phaseAt (ownHome c w.block obj) = ph.toNat → exec (.waitphWake c f) s = .next s) ∧
    (s.phaseAt (ownHome c w.block obj) ≠ ph.toNat →
      exec (.waitphWake c f) s = .next ((s.join c (ownHome c w.block obj)).updCore c fun x => x.updFrag f fun g =>
        { g with park := if g.marked then .switch else .none, marked := false }))

/-- HELD_OPERATION_PROCEED: a fence that nothing older holds back, whose dirty bytes can all be written back, and the pages of
whose wave's stores translate (log 84), writes back and discards, and resolves (R190, R197, R318). A LAUNCH whose record has
been read enters its stoke queue while that has room, and fails with E_STOKE_FULL otherwise (R133, R383). -/
def Sys2Proof.Claim.HeldOperationsProceed : Prop :=
  ∀ (s : State) (c w : Nat) (n : HNum) (k : OpCtx), Claim.Attempt s c w n k →
    (∀ e a, k.o.work = .fence → s.opPages c k = .fail e a →
      exec (.heldOperationProceed c w n) s = .next (s.failOp c w n e a)) ∧
    (∀ rs, k.o.work = .fence → s.opPages c k = .go rs → s.releaseFault c [] true = none → k.w.hostOwed = false →
      exec (.heldOperationProceed c w n) s
        = .next ((((s.release c [] true).acquire c [] true).settleWritten c w).finishOp c w n)) ∧
    (∀ a q ps rs, k.o.work = .launch a q → s.opPages c k = .go rs → s.releaseFault c [] true = none →
      k.w.hostOwed = false → (s.release c [] true).tryReach c k.root k.b.slot ⟨a, 128, .read⟩ = .go ps →
      anyHost [ps] = false →
      let t := (s.release c [] true).settleWritten c w
      let bs := (t.loadBytes c k [ps] []).flatten
      let u := ps.foldl (fun s p => s.pieceTouch c p) (t.keepPieces c k.root ps)
      ((u.stokeQ.getD q []).length < 512 → exec (.heldOperationProceed c w n) s = .next
        (State.finishOp { u with stokeQ := updAt u.stokeQ q fun l =>
          l ++ [{ bytes := bs, ctxid := some ((u.core c).ctxSlot k.b.ctx).ctxid }] } c w n)) ∧
      (512 ≤ (u.stokeQ.getD q []).length → exec (.heldOperationProceed c w n) s = .next (u.failOp c w n eStokeFull a)))

/-- SHAPE at its home: the shape word holds PUB and the extent, and the Stoker has a notice of it (R209, R388). -/
def Sys2Proof.Claim.ShapePublished : Prop :=
  ∀ (s : State) (c w : Nat) (n : HNum) (k : OpCtx) (a t : DWord) (h : Home), Claim.Attempt s c w n k →
    k.o.work = .shape a t → k.o.regions = [] → k.w.hostOwed = false → s.tryObj c k (.glob a) .write 8 = .go h →
    let u := s.flushObj c h
    exec (.heldOperationProceed c w n) s = .next (State.finishOp
      { u.homeWrite h (toBytes 8 (2 ^ 63 + min t.toNat (2 ^ 63 - 1))) with
        notices := (u.homeWrite h (toBytes 8 (2 ^ 63 + min t.toNat (2 ^ 63 - 1)))).notices ++ [(BitVec.ofNat 64 k.root, a)] }
      c w n)

/-- HOST_COMPLETION and HOST_COMPLETION_TIMEOUT: the data of a load that waits for the host is written as LOAD_RETURN writes it,
with the lanes as they were translated; the answer to the zero-length read behind a release says how many of the wave's writes have
completed, and the release goes on; a
refused load fails with E_PLACE_UNMAPPED, a poisoned answer with E_MEM_POISON, and one that does not come with E_PLACE_OFFLINE
(R400). -/
def Sys2Proof.Claim.HostAnswers : Prop :=
  ∀ (s : State) (c w : Nat) (n : HNum) (k : OpCtx), c < coreCount → s.opCtx? c w n = some k → k.o.atHost = true →
    (∀ d sz sx bs, k.o.work = .load d sz sx → k.o.mark = none → k.o.reach.length = k.o.lanes.length →
      (∀ ps ∈ k.o.reach, s.readFault c ps = none) →
      exec (.hostCompletion c w n (.data bs)) s = .next (s.performLoad c w k k.o.reach bs)) ∧
    (∀ m bs, k.o.mark = some m → exec (.hostCompletion c w n (.data bs)) s = .next
      ((s.updWave c w fun y => { y with hostSeen := max y.hostSeen m }).updOp c w n fun o =>
        { o with status := .waiting, mark := none, behind := true })) ∧
    (∀ d sz sx, k.o.work = .load d sz sx →
      exec (.hostCompletion c w n .refused) s = .next (s.failOp c w n ePlaceUnmapped k.o.hostAddr)) ∧
    exec (.hostCompletion c w n .poisoned) s = .next (s.failOp c w n eMemPoison k.o.hostAddr) ∧
    exec (.hostCompletionTimeout c w n) s = .next (s.failOp c w n ePlaceOffline k.o.hostAddr)

/-- HOST_LINK_DOWN always completes: the link is down, and the registers of BAR0 and the stoke queues stay; where no operation and
no wave waits for the host nothing else changes (R400). -/
def Sys2Proof.Claim.HostLinkGoesDown : Prop :=
  ∀ s : State, ∃ t, exec .hostLinkDown s = .next t ∧ t.linkUp = false ∧ t.stokeQ = s.stokeQ ∧ t.host = s.host ∧
    ((∀ e ∈ s.cores, ∀ w ∈ e.2.waves, w.frameAsked = false ∧ w.hostAsk = none ∧ ∀ o ∈ w.ops, o.atHost = false) →
      t = { s with linkUp := false })

/-- FAILURE_RETRY: a failed operation waits again, and a second failure will be lasting (R228). -/
def Sys2Proof.Claim.FailuresAreRetried : Prop :=
  ∀ (s : State) (c w : Nat) (n : HNum) (y : Wave) (o : Op) (code : BitVec 16) (a : DWord), c < coreCount →
    (s.core c).wave? w = some y → y.op? n = some o → o.status = .failing code a →
    (∀ t b f, o.work ≠ .rst t b f) → (∀ op d e, o.work ≠ .rmo op d e) →
    ∃ t z, exec (.failureRetry c w n) s = .next t ∧ t.mem = s.mem ∧ (t.core c).wave? w = some z ∧
      z.op? n = some { o with retried := true, status := .waiting, results := [], mark := none } ∧ z.seq = y.seq ∧ z.hzn = y.hzn

/-- FAULT_BUFFER_ENTRY: an operation with one page that fails replayably takes the lowest free entry of the buffer, which reports
it to system software, and waits there (R128, R129, R302, R397). -/
def Sys2Proof.Claim.FaultEntries : Prop :=
  ∀ (s : State) (c w : Nat) (n : HNum) (k : OpCtx) (d : Nat) (a : LaneAcc) (f : XFail) (i : Nat), Claim.Attempt s c w n k →
    k.o.work = .load d 2 false → k.o.lanes = [a] → k.o.regions = [] → k.o.answer = none → a.ea.toNat % 4 = 0 → f.replay = true →
    s.translateLeaf (some c) (dieOf c) k.root .read a.ea = .error f →
    (∀ e ∈ (s.core c).faults, e.2.isOf w n = false) → (s.core c).faultWait = [] →
    i < 64 → Map.find (s.core c).faults i = none → (∀ j, j < i → Map.find (s.core c).faults j ≠ none) →
    let ctxid := ((s.core c).ctxSlot k.b.ctx).ctxid
    let e : FaultEnt := { va := a.ea, entry := f.entry, hnum := n, kind := 0, wave := w, level := f.level,
                          perm := f.code == eXlatePerm, ctx := ctxid.toNat, cmd := none, frame := false }
    ∃ t y p, exec (.faultBufferEntry c w n) s = .next t ∧ (t.core c).faults = Map.put (s.core c).faults i e ∧
      t.eventQ = s.eventQ ++ [⟨1, ctxid, ccid c, i⟩] ∧ (t.core c).wave? w = some y ∧ y.op? n = some p ∧ p.status = .inFault

/-- FAULT_STATUS_WRITE: 1 lets the access go on and 2 fails its operation with the entry's code; the entry is free. Another value
does nothing (R129, R154). -/
def Sys2Proof.Claim.FaultStatusWrites : Prop :=
  ∀ (s : State) (c i : Nat) (v : Byte), c < coreCount → i < 64 →
    ((∀ e, Map.find (s.core c).faults i = some e → v ≠ 1 ∧ v ≠ 2) → exec (.faultStatusWrite c i v) s = .next s) ∧
    (∀ e w o, Map.find (s.core c).faults i = some e → (s.core c).faultWait = [] → e.cmd = none → e.frame = false →
      (s.core c).wave? e.wave = some w → w.op? e.hnum = some o → o.status = .inFault → o.handler = false →
      (v = 1 → (∀ q ∈ Map.del (s.core c).faults i, q.2.isOf e.wave e.hnum = false) →
        ∃ t y, exec (.faultStatusWrite c i v) s = .next t ∧ (t.core c).faults = Map.del (s.core c).faults i ∧
          (t.core c).wave? e.wave = some y ∧ y.op? e.hnum = some { o with status := .waiting }) ∧
      (v = 2 → ∃ t y a, exec (.faultStatusWrite c i v) s = .next t ∧ Map.find (t.core c).faults i = none ∧
          (t.core c).wave? e.wave = some y ∧
          y.op? e.hnum = some { o with status := .failed (if e.perm then eXlatePerm else eXlateInvalid) a }))

/-- HORIZON_RESOLUTION: HZN moves past every oldest operation that has resolved, and past nothing else; SEQ and the registers
stay. Each fragment parked on a number that HZN has reached goes on, with one arrival on the wave's horizon barrier. A failure
that HZN reaches puts its wave at the end of the list of waves that trapped (R81, R171, R229, R231). -/
def Obligations.HorizonMoves : Prop :=
  ∀ (s : State) (c w : Nat) (y : Wave), c < coreCount → (s.core c).wave? w = some y → y.win = none → y.ended = false →
    s.waveDrains c y = false →
    let z := y.advance ((s.core c).holdsStore w) 65
    let due (f : Frag) : Prop := f.wave = w ∧ ∃ n, f.park = .waithz n ∧ z.reached n = true
    ∃ t ph, exec (.horizonResolution c w) s = .next t ∧ t = { s with cores := t.cores } ∧
      (t.core c).wave? w = some { z with hzPhase := ph } ∧
      ((∀ f ∈ (s.core c).frags, ¬ due f) → ph = y.hzPhase ∧ (t.core c).frags = (s.core c).frags) ∧
      (∀ f, (s.core c).frags = [f] → due f → ph = y.hzPhase + 1 ∧
        (t.core c).frags = [{ f with park := if f.marked then .switch else .none, marked := false }]) ∧
      z.seq = y.seq ∧ z.v = y.v ∧ z.s = y.s ∧ z.a = y.a ∧ z.p = y.p ∧
      (y.shp = true → z = y) ∧
      (∀ o, y.ops = [o] → y.shp = false → o.num = y.hzn → y.seq = y.hzn + 1 → o.handler = false → o.status = .done →
        (s.core c).holdsStore w y.hzn = false → z.hzn = y.seq ∧ z.ops = []) ∧
      (∀ o, y.op? y.hzn = some o → o.handler = false → o.status = .waiting → z = y) ∧
      (z.delivered = none → (t.core c).trapQueue = (s.core c).trapQueue) ∧
      (z.delivered ≠ none → w ∉ (s.core c).trapQueue → (t.core c).trapQueue = (s.core c).trapQueue ++ [w])

/-! ## Steps of the engines -/

/-- BARROW_LANDING, before a command's units: an abandoned command ends with E_CMD_ABANDONED; one that waits for its fault
buffer entry, for that of a landing of it, or for an older store of its wave, changes nothing; one that has failed ends with its
code. A command with a descriptor reads it first. A descriptor that the unit refuses, a tier copy between wrong classes and a
command of no bytes end there (R199, R128, R172, R336, R338, R339). -/
def Sys2Proof.Claim.CommandsBegin : Prop :=
  ∀ (s : State) (c id : Nat) (k : EngCmd), c < coreCount →
    ((s.core c).cmds.take 8).find? (fun k => k.id == id) = some k →
    (k.abandon = true → exec (.barrowLanding c id) s = .next (s.endCmd c (s.described c k) eCmdAbandoned)) ∧
    (k.abandon = false → k.inFault = true ∨ (s.core c).landStalls k = true ∨ s.engForked (k.eng c) = false →
      exec (.barrowLanding c id) s = .next s) ∧
    (k.abandon = false → k.inFault = false → (s.core c).landStalls k = false → s.engForked (k.eng c) = true →
      (k.err ≠ 0 → exec (.barrowLanding c id) s = .next (s.endCmd c k k.err)) ∧
      (∀ bs, k.err = 0 → k.isEC = false → k.fields = none → s.engRead (k.eng c) k.desc 32 = .ok bs →
        exec (.barrowLanding c id) s = .next ((s.engTouch (k.eng c) k.desc 32).keepRead c k fun k =>
          { k with fields := some bs })) ∧
      (k.err = 0 → k.isEC = true ∨ k.fields ≠ none →
        (k.refused ≠ 0 → exec (.barrowLanding c id) s = .next (s.endCmd c k k.refused)) ∧
        (k.refused = 0 → k.isTier = true → k.unit = 0 → s.tierWrong c k k.src k.dst k.len = true →
          exec (.barrowLanding c id) s = .next (s.endCmd c k eOperandBounds)) ∧
        (k.refused = 0 → k.isTier = false ∨ k.unit ≠ 0 ∨ s.tierWrong c k k.src k.dst k.len = false → k.units = 0 →
          exec (.barrowLanding c id) s = .next (s.endCmd c k 0))))

namespace Sys2Proof.Claim

/-- A command whose next unit is due: it is not abandoned, has not failed, waits for nothing, and its descriptor and classes are in
order. -/
structure UnitDue (s : State) (c id : Nat) (k : EngCmd) : Prop where
  core : c < coreCount
  cmd : ((s.core c).cmds.take 8).find? (fun k => k.id == id) = some k
  live : k.abandon = false ∧ k.inFault = false ∧ k.err = 0
  landed : (s.core c).landStalls k = false
  forked : s.engForked (k.eng c) = true
  fields : k.isEC = true ∨ k.fields ≠ none
  accepted : k.refused = 0
  classes : k.isTier = false ∨ s.tierWrong c k k.src k.dst k.len = false
  units : k.units ≠ 0

end Sys2Proof.Claim

/-- BARROW_LANDING of CPY, CPY2, CPYG, TIERP and TIERE: a unit that can be read is kept; it is written at its destination, of a tier
copy at the home port, and its bytes land, when its write may be performed, and until then nothing else changes (R193, R338,
R339, R340, R341). -/
def Sys2Proof.Claim.CopiesGoOn : Prop :=
  ∀ (s : State) (c id : Nat) (k : EngCmd) (u : CopyUnit) (bs : List Byte), Claim.UnitDue s c id k →
    k.kind ≠ .cpyt → k.kind ≠ .wload → s.cmdUnit c k = .ok u →
    (k.buf = none → k.isTier = false ∨ s.tierWrong c k u.src u.dst u.n = false → (s.readUnit c k u).2 = .ok bs →
      let t := (s.readUnit c k u).1.keepRead c k fun k => { k with buf := some bs }
      let k' : EngCmd := { k with buf := some bs, retried := false }
      (∀ ps, t.engWritable (k.eng c) .write k.isTier u.dst u.n = .ok ps → exec (.barrowLanding c id) s
        = .next ((t.engWrite (k.eng c) k.isTier u.dst ps bs).landUnit c k' u.n (pieceLines ps) (engDie c k.isTier ps))) ∧
      (t.engWritable (k.eng c) .write k.isTier u.dst u.n = .wait → exec (.barrowLanding c id) s = .next t)) ∧
    (k.buf = some bs →
      (∀ ps, s.engWritable (k.eng c) .write k.isTier u.dst u.n = .ok ps → exec (.barrowLanding c id) s
        = .next ((s.engWrite (k.eng c) k.isTier u.dst ps bs).landUnit c k u.n (pieceLines ps) (engDie c k.isTier ps))) ∧
      (s.engWritable (k.eng c) .write k.isTier u.dst u.n = .wait → exec (.barrowLanding c id) s = .next s))

/-- BARROW_LANDING of CPYT and WLOAD: a row record that can be built is written to the scratchpad and its bytes land; the bytes of a
weight load that can be read are kept until they are latched (R342, R344). -/
def Sys2Proof.Claim.RecordsAndWeights : Prop :=
  ∀ (s : State) (c id : Nat) (k : EngCmd), Claim.UnitDue s c id k →
    (∀ l bs ps, k.kind = .cpyt → s.cpytRecord c k = .ok (l, bs) → s.engWritable (k.eng c) .write false l bs.length = .ok ps →
      exec (.barrowLanding c id) s = .next ((s.engWrite (k.eng c) false l ps bs).landUnit c k bs.length [] none)) ∧
    (∀ bs, k.kind = .wload → k.buf = none → s.wloadBytes c k = .ok bs →
      exec (.barrowLanding c id) s = .next ((s.engTouch (k.eng c) (k.loc 0 true) 1).keepRead c k fun k =>
        { k with buf := some bs })) ∧
    (k.kind = .wload → k.buf ≠ none → exec (.barrowLanding c id) s = .next s)

/-- What a landed unit leaves, and what a command that ends leaves: the bytes, or the rest of the count with its code, have landed on
the command's barrier; the command stands at its next unit, or is gone (R170, R336, R338). -/
def Sys2Proof.Claim.UnitsLand : Prop :=
  ∀ (s : State) (c n : Nat) (k : EngCmd) (b : Block) (h : Home), s.blockAt c k.block = some b → b.tent = false →
    b.lands = [] → s.heldWindow (some (c, k.block)) h = false →
    (∀ (lines : List Nat) (die : Option Nat), k.retried = false → s.elocHome c k.block k.bar 16 = .ok h →
      let t := (s.noteWrites h lines die).barUpdate h 0 n 0
      (k.unit + 1 < k.units → s.landUnit c k n lines die = t.updCmd c k.id fun _ =>
        { k with unit := k.unit + 1, buf := none, landed := k.landed + n, retried := false }) ∧
      (k.units ≤ k.unit + 1 → s.landUnit c k n lines die = t.dropCmd c k.id)) ∧
    (∀ code : BitVec 16, s.elocHome c k.block k.bar 16 = .ok h → (s.core c).faults = [] → (s.core c).faultWait = [] →
      ∃ t : State, s.endCmd c k code = t.dropCmd c k.id ∧ t.mem = (s.barUpdate h 0 (k.total - k.landed) code).mem ∧
        t.barAt h = (s.barUpdate h 0 (k.total - k.landed) code).barAt h)

/-- A landing of an engine operation of a confirmed block: it updates its barrier where that can be reached; where it cannot, the
landing is dropped and counted, but a replayable failure takes the lowest free entry of the fault buffer, with KIND 4, and the
landing waits with its block (R128, R154, R172; log 87 for the KIND). -/
def Sys2Proof.Claim.LandingsWait : Prop :=
  ∀ (s : State) (c b : Nat) (y : Block) (l : Landing), s.blockAt c b = some y → y.tent = false → y.lands = [] →
    l.fault = none →
    (∀ h, s.elocHome c b l.bar 16 = .ok h → s.heldWindow (some (c, b)) h = false →
      s.land c b l = (s.noteWrites h l.lines l.die).barUpdate h l.a l.n l.code) ∧
    (∀ f, s.elocHome c b l.bar 16 = .error f → f.replay = false → s.land c b l = s.updCore c fun x =>
      { x with cnt := { x.cnt with landingDrop := satInc x.cnt.landingDrop } }) ∧
    (∀ f i, s.elocHome c b l.bar 16 = .error f → f.replay = true → (s.core c).block? b = some y →
      i < 64 → Map.find (s.core c).faults i = none → (∀ j, j < i → Map.find (s.core c).faults j ≠ none) →
      let id := (s.core c).nextCmd
      let e : FaultEnt := { va := l.bar.addr, entry := f.entry, hnum := l.num, kind := 4, wave := l.wave, level := f.level,
                            perm := f.code == eXlatePerm, ctx := ((s.core c).ctxSlot y.ctx).ctxid.toNat, cmd := some id,
                            frame := false }
      ((s.land c b l).core c).block? b = some { y with lands := [{ l with fault := some id }] } ∧
      ((s.land c b l).core c).faults = Map.put (s.core c).faults i e ∧ (s.land c b l).mem = s.mem)

/-- WLOAD_LATCH: while no task runs on the Kiln, the oldest WLOAD that has been read is latched and lands what it read; while one
runs, it waits (R344, R345). -/
def Sys2Proof.Claim.WeightsAreLatched : Prop :=
  ∀ (s : State) (c : Nat) (k : EngCmd) (bs : List Byte), c < coreCount →
    ((s.core c).cmds.take 8).find? (fun k => k.kind == .wload && k.buf.isSome) = some k → k.buf = some bs →
    k.abandon = false → k.err = 0 →
    (∀ t, (s.core c).kiln.task = some t → t.paused = false → exec (.wloadLatch c) s = .next s) ∧
    ((s.core c).landStalls k = false → (∀ t, (s.core c).kiln.task = some t → t.paused = true) → exec (.wloadLatch c) s = .next
      ((s.updCore c fun x => { x with kiln := k.latched bs x.kiln }).landUnit c k k.total [] none))

/-- A record with no gate is eligible as it enters the ring, and no other one is. HEARTH_GATE_CHECK and HEARTH_GATE_REREAD: a record
whose gate shows another phase than the one before its own becomes eligible; one whose gate shows that phase waits (R140, R215). -/
def Sys2Proof.Claim.GatesAreChecked : Prop :=
  (∀ (x : Ctx) (bs : List Byte), (x.newRec bs).eligible = true ↔ (TaskRec.ofBytes bs).gate = 0) ∧
  ∀ (s : State) (cl pos : Nat) (r : HRec), cl < clusterCount → (s.cluster cl).ring[pos]? = some r →
    r.eligible = false → r.inFault = false → r.fail = 0 → r.retried = false → s.recRuns r = true →
    ∀ e ∈ [Instr.hearthGateCheck cl pos, Instr.hearthGateReread cl pos],
      (∀ h bar, s.gateRead r = .ok (h, bar) → BitVec.ofNat 16 (recNat bar 12 2) ≠ r.task.gph - 1 →
        exec e s = .next (s.updRec r fun r => { r with eligible := true, retried := false })) ∧
      (∀ h bar, s.gateRead r = .ok (h, bar) → BitVec.ofNat 16 (recNat bar 12 2) = r.task.gph - 1 →
        exec e s = .next s)

/-- HEARTH_DISPATCH: the oldest record that may take a Kiln starts on it, or is refused there with the code of its first failed
check (R140, R216, R217). -/
def Sys2Proof.Claim.RecordsAreDispatched : Prop :=
  ∀ (s : State) (cl pos j : Nat) (r : HRec), cl < clusterCount → j < 4 → (s.cluster cl).ring[pos]? = some r →
    s.recReady r = true → s.mayTake r (4 * cl + j) = true →
    (∀ q ∈ (s.cluster cl).ring.take pos, s.recReady q = false ∨ ∀ c ∈ s.kilnsOf cl, s.mayTake q c = false) →
    (s.recCheck r (s.kiln (4 * cl + j)) = 0 → ∃ t, exec (.hearthDispatch cl pos j) s = .next t ∧
      (t.kiln (4 * cl + j)).task = some
        { task := { r with retried := false, fail := 0 }, kblock := 0, unit := 0, status := 0, lines := [], paused := false,
          stop := false, abandon := false, away := false, group := none, leader := none,
          fmt := (s.kiln (4 * cl + j)).fmt, scaled := (s.kiln (4 * cl + j)).scaled,
          planes := (s.kiln (4 * cl + j)).planes }) ∧
    (s.recCheck r (s.kiln (4 * cl + j)) ≠ 0 → exec (.hearthDispatch cl pos j) s
      = .next (s.refuseRec r (s.recCheck r (s.kiln (4 * cl + j)))))

/-- GROUP_REGISTRATION: the first member of a group of several whose cooperative fields are in order is registered under the
place of its gate and its phase; one whose fields are not is refused (R218, R219). GROUP_DISPATCH without a complete group does
nothing; with one whose Kilns are all free, and load no weights, it starts every member at once, and the next group is served
(R216, R219). Where a member fails its checks it refuses them all: R216 and R219 do not say what becomes of the others, and that
the group is refused whole is the model's choice (log 63, DESIGN CHOICE). -/
def Sys2Proof.Claim.GroupsRun : Prop :=
  ∀ s : State,
    (∀ (cl pos : Nat) (r : HRec), cl < clusterCount → (s.cluster cl).ring[pos]? = some r →
      r.eligible = true → r.registered = false → r.inFault = false → r.fail = 0 → 2 ≤ r.task.gr * r.task.gc →
      s.recRuns r = true →
      (∀ key, r.task.groupOk = true → s.gateKey r = some key →
        (∀ q ∈ s.groupRegs ++ s.groups.flatten, ¬ (q.gate = key ∧ q.phase = r.task.gph)) →
        ∃ t, exec (.groupRegistration cl pos) s = .next t ∧ t.groups = s.groups ∧
          t.groupRegs = s.groupRegs ++ [⟨key, r.task.gph, r.task.gr, r.task.gc, r.task.midx, cl, { r with registered := true }⟩]) ∧
      (r.task.groupOk = false →
        exec (.groupRegistration cl pos) s = .next (s.refuseRec r (s.recCheck r (s.kiln r.core))))) ∧
    (s.groups = [] → exec .groupDispatch s = .next s) ∧
    (∀ gs rest, s.groups = gs :: rest → (∀ g ∈ gs, s.recRuns g.task = true ∧ (s.core g.task.core).enabled = true) →
      (gs.map fun g => g.task.core).Nodup →
      (∀ g ∈ gs, (s.kiln g.task.core).free = true ∧ (s.core g.task.core).loading = false) →
      ∃ t, exec .groupDispatch s = .next t ∧ t.groups = rest ∧ t.nextGroup = s.nextGroup + 1 ∧
        ((∀ g ∈ gs, s.recCheck g.task (s.kiln g.task.core) = 0) → ∀ g ∈ gs, (t.kiln g.task.core).task = some
          { task := { g.task with retried := false, fail := 0 }, kblock := 0, unit := 0, status := 0, lines := [], paused := false,
            stop := false, abandon := false, away := false, group := some s.nextGroup, leader := leaderOf gs g,
            fmt := (s.kiln g.task.core).fmt, scaled := (s.kiln g.task.core).scaled, planes := (s.kiln g.task.core).planes }) ∧
        ((∃ g ∈ gs, s.recCheck g.task (s.kiln g.task.core) ≠ 0) → ∀ g ∈ gs, (t.kiln g.task.core).task = none))

/-- KILN_BOUNDARY: a task that stops is gone; one that is abandoned, be it in the fault buffer, or has failed lands its count
with its code, and its entries are free; one that waits in the fault buffer stays; one whose block does not run pauses; a task
by itself that runs accumulates its next k-block into the accumulator of its block, and fails with E_SPAD_POISON where that is
poisoned (R69, R99, R129, R220, R221, R348). KILN_TASK_COMPLETE: a task that has drained writes its status word, lands its
count, and frees the Kiln (R348). -/
def Sys2Proof.Claim.KilnTasksRun : Prop :=
  ∀ (s : State) (c : Nat) (k : KTask), c < coreCount → (s.kiln c).task = some k →
    let die := if k.task.task.add then none else some (dieOf k.task.core)
    let t := (s.updCore k.task.core fun x => x.dropFaults fun e => e.cmd == some k.task.id).refillFaults k.task.core
    (k.stop = true → exec (.kilnBoundary c) s = .next (s.endTask c)) ∧
    (k.stop = false → k.abandon = true →
      exec (.kilnBoundary c) s = .next ((t.endTask c).landTask k.task k.task.count eCmdAbandoned k.lines die)) ∧
    (k.stop = false → k.abandon = false → k.task.inFault = false → k.task.fail ≠ 0 →
      exec (.kilnBoundary c) s = .next ((t.endTask c).landTask k.task k.task.count k.task.fail k.lines die)) ∧
    (k.stop = false → k.abandon = false → k.task.inFault = true → exec (.kilnBoundary c) s = .next s) ∧
    (k.stop = false → k.abandon = false → k.task.inFault = false → k.task.fail = 0 →
      (k.group = none → s.recRuns k.task = false →
        exec (.kilnBoundary c) s = .next (s.updTask c fun k => { k with paused := true })) ∧
      (∀ rows b, k.paused = false → k.group = none → k.leader = none → k.away = false → s.recRuns k.task = true →
        k.kblock < k.task.task.kb → s.taskRows k = .ok rows → s.blockAt k.task.core k.task.block = some b →
        (b.accBad k.task.task.accoff k.task.task.tileBytes = true → exec (.kilnBoundary c) s
          = .next (s.updTask c fun k => { k with task := { k.task with fail := eSpadPoison } })) ∧
        (b.accBad k.task.task.accoff k.task.task.tileBytes = false →
          let u := tileUpdate { k.task.task with flags := (k.task.task.flags &&& 0xFE) + k.task.task.flags % 2 }
            (k.planes.getD (k.task.task.koff + k.kblock) Plane.zero) k.scaled rows b.acc
          exec (.kilnBoundary c) s = .next ((s.updCore k.task.core fun x => x.updBlock k.task.block fun b =>
            { b with acc := u.1 }).updTask c fun k => { k with kblock := k.kblock + 1, status := k.status ||| u.2 }))) ∧
      (k.paused = false → k.task.task.kb ≤ k.kblock → k.drained = true →
        exec (.kilnTaskComplete c) s = .next (((if k.task.task.stat = 0xFFFFFFFF then s else
          s.updCore k.task.core fun x => x.updBlock k.task.block fun b =>
            b.spadWrite k.task.task.stat (toBytes 4 k.status.toNat)).endTask c).landTask k.task k.task.count 0 k.lines die)))

/-! ## Steps of the Bellows -/

/-- COMM_OPEN_APPLY: an open whose descriptor, read once, and tables are in order opens its communicator, leaves the queue
and arrives on its barrier; on an open communicator it arrives with E_OPERAND_BOUNDS (R161, R334, R354, R355).
COMM_CLOSE_APPLY: the oldest close of an open communicator with an empty queue closes it; behind an open of the same context
it waits, and on a communicator not open to its context it arrives with E_OPERAND_BOUNDS (R355). -/
def Sys2Proof.Claim.CommunicatorsOpenAndClose : Prop :=
  ∀ (s : State) (d i : Nat) (k : CollCmd) (r : List CollCmd), d < dieCount → i < commCount →
    ((s.comm d i).queue.head? = some k → k.op = 7 → k.inFault = false → k.err = 0 →
      ((s.comm d i).isOpen = true → exec (.commOpenApply d i) s = .next (s.endOpen d i k eOperandBounds)) ∧
      (∀ s0 s2 s3 bs mem rel m, (s.comm d i).isOpen = false → k.retried = false →
        ((k.fields = none ∧ s.collRead k.core k.root.toNat k.block k.desc 32 = .ok (s0, bs)) ∨ (k.fields = some bs ∧ s0 = s)) →
        (let q : CollCmd := { k with fields := some bs }
         let s1 := s0.updHead d i fun k => { k with fields := some bs }
         q.openOk = true ∧
         s1.collRead k.core k.root.toNat k.block (.glob (BitVec.ofNat 64 (recNat bs 0 8))) (4 * recNat bs 16 2) = .ok (s2, mem) ∧
         s2.collRead k.core k.root.toNat k.block (.glob (BitVec.ofNat 64 (recNat bs 8 8))) (16 * recNat bs 20 1) = .ok (s3, rel) ∧
         s3.opened d (s3.comm d i) q mem rel = some m) →
        exec (.commOpenApply d i) s = .next ((s3.setComm d i m).endOpen d i { k with fields := some bs } 0))) ∧
    ((s.comm d i).closing = k :: r →
      ((s.comm d i).openTo k = true → (s.comm d i).queue = [] →
        exec (.commCloseApply d i) s = .next ((s.setComm d i { Comm.closed with closing := r }).collDone k 0)) ∧
      ((∃ q ∈ (s.comm d i).queue, q.op = 7 ∧ q.ctxid = k.ctxid) → exec (.commCloseApply d i) s = .next s) ∧
      ((s.comm d i).openTo k = false → (∀ q ∈ (s.comm d i).queue, ¬ (q.op = 7 ∧ q.ctxid = k.ctxid)) →
        exec (.commCloseApply d i) s = .next ((s.setComm d i { s.comm d i with closing := r }).collDone k eOperandBounds)))

/-- BELLOWS_HEADER_EXCHANGE: the command at the head of an open communicator reads its descriptor and sends its header; when
those of all its parties agree, it may run (R359). -/
def Sys2Proof.Claim.HeadersAreExchanged : Prop :=
  ∀ (s : State) (d i : Nat) (k : CollCmd) (others : List (Nat × CollHeader)), d < dieCount → i < commCount →
    (s.comm d i).queue.head? = some k → k.op ≠ 7 → k.inFault = false → k.agreed = false → (s.comm d i).openTo k = true →
    (∀ t bs, k.fields = none → k.err = 0 → k.retried = false →
      s.collRead k.core k.root.toNat k.block k.desc 32 = .ok (t, bs) →
      exec (.bellowsHeaderExchange d i others) s = .next (t.updHead d i fun k => { k with fields := some bs })) ∧
    (∀ t, k.fields ≠ none → k.sent = false → s.collOk (s.comm d i) k = true → s.sendHeader d i (s.comm d i) k false = some t →
      exec (.bellowsHeaderExchange d i others) s = .next t) ∧
    (∀ hs : List CollHeader, k.fields ≠ none → k.sent = true →
      ((s.comm d i).parties k).map (s.headerOf (s.comm d i) others) = hs.map some →
      ((s.comm d i).verdict k hs = 0 → exec (.bellowsHeaderExchange d i others) s
        = .next (s.updHead d i fun k => { k with agreed := true })) ∧
      ((s.comm d i).verdict k hs ≠ 0 → exec (.bellowsHeaderExchange d i others) s
        = .next (s.endColl d i k ((s.comm d i).verdict k hs))))

/-- BELLOWS_CHUNK: the next chunk of the communicator that is served goes to the parties of its command, and its class has
had its turn. With credit for all of it the chunk ends; where the credit runs out it is set aside at that flit. A command
that has failed ends; without a communicator to serve nothing happens (R145, R358, R361, R438; log 76). -/
def Sys2Proof.Claim.ChunksAreSent : Prop :=
  ∀ (s : State) (d i : Nat) (k : CollCmd), d < dieCount → i < commCount →
    let m := s.comm d i
    let u := s.updDie d fun x => x.turned m.hipri i
    let t := u.chunkTurn d i m k
    (s.nextComm d = none → exec (.bellowsChunk d) s = .next s) ∧
    (s.nextComm d = some i → m.queue.head? = some k →
      (k.err ≠ 0 → exec (.bellowsChunk d) s = .next (u.endColl d i k k.err)) ∧
      (∀ v sent, k.err = 0 → k.retried = false → u.turnBytes k t.parts = .ok (v, sent) →
        let w := (sent.foldl (fun s e => s.sendData d i m k e.1 e.2) v).updDie d fun x => x.spent i t.credit
        (t.whole = true → exec (.bellowsChunk d) s
          = .next (w.updHead d i fun k => { k with chunks := k.chunks + 1, flits := 0, aside := false })) ∧
        (t.whole = false → exec (.bellowsChunk d) s
          = .next (w.updHead d i fun k => { k with flits := k.flits + t.flits, aside := true }))) ∧
      (∀ v q f off n bs, k.err = 0 → k.retried = false → k.flits = 0 → k.matched = false → m.chunkMsgs k = [⟨q, off, n⟩] →
        n ≠ 0 → u.collRead k.core k.root.toNat k.block (k.src.plus (k.base q + off)) n = .ok (v, bs) →
        u.ownRank m q = some f → v.ownRank m q = some f → (v.comm f i).isOpen = true →
        exec (.bellowsChunk d) s = .next ((((v.updComm f i fun r =>
          { r with data := r.data ++ [⟨m.doneCount, m.rank, bs⟩] }).updDie d fun x => x.spent i ((u.die d).flits i)).updHead d i
            fun k => { k with chunks := k.chunks + 1, flits := 0, aside := false }))))

/-- What of a chunk goes in one turn: all of it where no bound is known, and what is for the own node in any case; of a
message to another node, after `skip` of its flits, as many flits of 224 bytes as the credit reaches (R361, R404, R438; log
76). -/
def Sys2Proof.Claim.ChunksGoByFlits : Prop :=
  ∀ (own : Nat → Bool) (p : Sends),
    (∀ ms, (turnOf own 0 none ms).parts = ms ∧ (turnOf own 0 none ms).whole = true ∧ (turnOf own 0 none ms).credit = none) ∧
    (∀ c, own p.rank = true → (turnOf own 0 c [p]).parts = [p] ∧ (turnOf own 0 c [p]).whole = true ∧
      (turnOf own 0 c [p]).credit = c) ∧
    (∀ skip c, own p.rank = false → skip < flitCount p.n →
      let t := turnOf own skip (some c) [p]
      let left := flitCount p.n - skip
      (c < left → t.parts = (if c = 0 then [] else [⟨p.rank, p.off + 224 * skip, min (p.n - 224 * skip) (224 * c)⟩]) ∧
        t.flits = c ∧ t.credit = some 0 ∧ t.whole = false) ∧
      (left ≤ c → t.parts = [⟨p.rank, p.off + 224 * skip, p.n - 224 * skip⟩] ∧
        t.flits = left ∧ t.credit = some (c - left) ∧ t.whole = true))

/-- BELLOWS_STEP_COMPLETE: a step of a peer's data whose own chunk has run writes its bytes and is complete; after the last
one the command ends. BELLOWS_TIMEOUT: a command of an open communicator that still waits for a flit ends with E_FLUE_LINK,
or with the code recorded before, or that of its faulty descriptor (R336, R358, R360, R361, R438). -/
def Sys2Proof.Claim.CollectivesRun : Prop :=
  ∀ (s : State) (d i : Nat) (k : CollCmd) (others : List (Nat × List Byte)), d < dieCount → i < commCount →
    (s.comm d i).queue.head? = some k →
    (k.agreed = true → k.inFault = false → k.err = 0 → (s.comm d i).stepCount k ≤ k.steps →
      (s.comm d i).chunkCount k ≤ k.chunks → exec (.bellowsStepComplete d i others) s = .next (s.endColl d i k 0)) ∧
    (∀ bs t lines, k.agreed = true → k.inFault = false → k.err = 0 → k.stepRetried = false →
      k.steps < (s.comm d i).stepCount k → k.destBytes (s.comm d i).nr ≠ 0 → (s.comm d i).sources k = [k.peer] →
      k.mayWrite = true → s.contribution (s.comm d i) k others k.peer = .ok bs →
      s.collWrite k.core k.root.toNat k.block (k.dst.plus ((s.comm d i).stepRange k k.steps).1)
        ((s.comm d i).stepBytes k [bs]) = .ok (t, lines) →
      exec (.bellowsStepComplete d i others) s = .next (t.stepDone d i lines)) ∧
    (k.op ≠ 7 → (s.comm d i).openTo k = true → k.inFault = false → (k.fields = none ∨ k.steps < (s.comm d i).stepCount k) →
      exec (.bellowsTimeout d i) s = .next (s.endColl d i k (if k.err ≠ 0 then k.err
        else if k.fields ≠ none ∧ s.collOk (s.comm d i) k = false then eOperandBounds else eFlueLink)))

/-- The end of a command: the queue is one shorter, DONE_COUNT is one more, and the first error code stays (R162, R356, R360). -/
def Sys2Proof.Claim.CommandsEnd : Prop :=
  ∀ (s : State) (d i : Nat) (k : CollCmd), let m := s.comm d i
    s.endColl d i k 0 = (s.setComm d i { m with
      queue := m.queue.drop 1, doneCount := m.doneCount + 1, firstErr := if m.firstErr = 0 then 0 else m.firstErr,
      heads := m.heads.filter fun h => h.num ≠ m.doneCount, data := m.data.filter fun h => h.num ≠ m.doneCount }).collDone k 0

/-- MESSAGE_ARRIVAL: a message that no armed entry matches is refused and counted; one whose length is that of the oldest entry that
it matches is written there and lands on the entry's barrier, and the entry is gone; while its destination waits, or for the retry of
a first failure, the die keeps it; a barrier that cannot be reached drops the landing, and one whose translation fails replayably
keeps it; one of another length lands E_MATCH_LENGTH (R128, R159, R160, R172, R200, R228, R368). -/
def Sys2Proof.Claim.MessagesArrive : Prop :=
  ∀ (s : State) (d node : Nat) (tag : Word) (data : List Byte), d < dieCount →
    let hit (e : MatchEnt) : Bool := e.tag == tag && (e.src == 0xFFFF || e.src.toNat == node)
    let t := s.updDie d fun x => { x with arms := x.arms.eraseP hit }
    ((s.die d).arms.find? hit = none → exec (.messageArrival d node tag data) s = .next (s.updDie d fun x =>
      { x with cnt := { x.cnt with matchRefused := satInc x.cnt.matchRefused } })) ∧
    (∀ e, (s.die d).arms.find? hit = some e → data.length = e.len →
      let u := t.updCore e.core fun x => { x with nextCmd := x.nextCmd + 1 }
      let m : MatchLand :=
        { ent := e, data := data, owed := none, lines := [], id := (t.core e.core).nextCmd, retried := false, inFault := false,
          err := 0 }
      let w := u.collWrite e.core e.root.toNat e.block (.glob e.dest) data
      (∀ v lines, w = .ok (v, lines) →
        (∀ h, v.collHome e.core e.root.toNat e.block (elocOf e.bar) = .ok h →
          exec (.messageArrival d node tag data) s = .next
            (((v.noteWrites h lines none).updateFor none h 0 e.len 0 (.landing e.core)).updDie d fun x => x)) ∧
        (∀ f, v.collHome e.core e.root.toNat e.block (elocOf e.bar) = .error f → f.replay = false →
          exec (.messageArrival d node tag data) s = .next ((v.countLandingDrop e.core).updDie d fun x => x)) ∧
        (∀ f, v.collHome e.core e.root.toNat e.block (elocOf e.bar) = .error f → f.replay = true →
          exec (.messageArrival d node tag data) s = .next ((v.takeFault e.core
            { va := e.bar, entry := f.entry, hnum := 0, kind := 4, wave := e.wave, level := f.level, perm := f.code == eXlatePerm,
              ctx := e.ctxid.toNat, cmd := some m.id, frame := false }).updDie d fun x =>
                { x with landing := x.landing ++ [{ m with lines := lines, owed := some (0, e.len, 0), inFault := true }] }))) ∧
      (w = .wait → exec (.messageArrival d node tag data) s
        = .next (u.updDie d fun x => { x with landing := x.landing ++ [m] })) ∧
      (∀ code, w = .fail code → retryable code = true → exec (.messageArrival d node tag data) s
        = .next (u.updDie d fun x => { x with landing := x.landing ++ [{ m with retried := true }] }))) ∧
    (∀ e h, (s.die d).arms.find? hit = some e → data.length ≠ e.len →
      let u := t.updCore e.core fun x => { x with nextCmd := x.nextCmd + 1 }
      u.collHome e.core e.root.toNat e.block (elocOf e.bar) = .ok h → exec (.messageArrival d node tag data) s
        = .next ((u.updateFor none h 0 e.len eMatchLength (.landing e.core)).updDie d fun x => x))

/-! ## Remote stores and operations -/

/-- REMOTE_STORE_PERFORM: the next store of a stream of another module to a home of the own node is written there, once; one
that comes before its turn waits for those before it, and one that has come already has no effect. The next store of an own
stream to the own node is written, and the stream counts it towards its acknowledgement (R146, R362, R405). -/
def Sys2Proof.Claim.RemoteStoresPerformed : Prop :=
  ∀ s : State,
    (∀ (node core stream num p : Nat) (bs : List Byte), let r := s.remoteIn node core stream
      (num < r.next → exec (.remoteStorePerform (.other node core stream num p bs)) s = .next s) ∧
      (∀ h, num = r.next → r.early = [] → s.isOwn p = true → s.placeFault p = none → s.storeWaits p bs.length = false →
        s.storeFaultAt p bs.length = none → s.homeOfPlace p bs.length = .ok h →
        exec (.remoteStorePerform (.other node core stream num p bs)) s
          = .next ((s.homeWrite h bs).checkGates.setRemoteIn { r with next := r.next + 1 })) ∧
      (r.next < num → r.early = [] → exec (.remoteStorePerform (.other node core stream num p bs)) s
        = .next (s.setRemoteIn { r with early := [(num, p, bs)] }))) ∧
    (∀ (c t i : Nat) (q : RStore) (h : Home) (w : Wave) (o : Op), c < coreCount → t < 16 →
      (((s.core c).stream t).queue.zipIdx).find? (fun e => !e.1.performed && s.isOwn e.1.place) = some (q, i) →
      (s.core c).wave? q.wave = some w → w.op? q.num = some o → o.status = .sent →
      s.storeWaits q.place q.bytes.length = false → s.storeFaultAt q.place q.bytes.length = none →
      s.homeOfPlace q.place q.bytes.length = .ok h →
      let st := (s.core c).stream t
      exec (.remoteStorePerform (.own c t)) s = .next ((s.homeWrite h q.bytes).updCore c fun x => x.setStream t
        { st with queue := updAt st.queue i (fun q => { q with performed := true }), sinceAck := st.sinceAck + 1,
                  flushDue := st.flushDue || q.flush }))

/-- REMOTE_ACK and REMOTE_ACK_TIMER: a stream that owes an acknowledgement sends one with the count of the stores performed before
the first that is not: after 64 stores or a flush, or when its timer has run; otherwise nothing changes (R175, R408). -/
def Sys2Proof.Claim.RemoteAcknowledgements : Prop :=
  ∀ (s : State) (c t : Nat), c < coreCount → t < 16 →
    let st := (s.core c).stream t
    let u := s.updCore c fun x => x.setStream t
      { st with acks := st.acks ++ [st.ackCount], sinceAck := 0, flushDue := false }
    (st.owes = true → st.flushDue = true ∨ 64 ≤ st.sinceAck → exec (.remoteAck c t) s = .next u) ∧
    (st.owes = true → st.flushDue = false → st.sinceAck < 64 → exec (.remoteAck c t) s = .next s) ∧
    (st.owes = true → exec (.remoteAckTimer c t) s = .next u) ∧
    (st.owes = false → exec (.remoteAck c t) s = .next s ∧ exec (.remoteAckTimer c t) s = .next s)

/-- ACKNOWLEDGEMENT_ARRIVAL: a count in the stream's window, before which the own node has performed its stores, retires the stores
up to it and the RSTs that they complete; an old count retires nothing (R175, R408). MULTICAST_ACK: a store that some member has
performed is performed, the missing members are kept, and what is complete is retired (R203, R407). -/
def Sys2Proof.Claim.AcknowledgementsArrive : Prop :=
  ∀ (s : State) (c t : Nat), c < coreCount → t < 16 →
    let st := (s.core c).stream t
    (∀ count : Word, (count - st.ack).toNat ≤ st.queue.length →
      (∀ q ∈ st.queue.take (count - st.ack).toNat, q.performed = true ∨ s.isOwn q.place = false) →
      exec (.acknowledgementArrival c t count) s = .next ((s.updCore c fun x => x.setStream t
        { st with ack := count, queue := st.queue.drop (count - st.ack).toNat,
                  acks := st.acks.filter fun a => a ≠ count }).retireRsts c t)) ∧
    (∀ count : Word, st.queue.length < (count - st.ack).toNat →
      exec (.acknowledgementArrival c t count) s = .next (s.updCore c fun x => x.setStream t
        { st with acks := st.acks.filter fun a => a ≠ count })) ∧
    (∀ (bitmap members : DWord) (q : RStore) (i : Nat),
      (st.queue.zipIdx).find? (fun e => !e.1.performed && isGroupPlace e.1.place) = some (q, i) →
      bitmap &&& members ≠ 0 →
      let missing := members &&& ~~~ bitmap
      let new : RStream := { st with
        queue := updAt st.queue i (fun q => { q with performed := true }), miss := st.miss ||| missing }
      let u := s.updCore c fun x => x.setStream t new
      let u := if missing = 0 then u else u.updDie (dieOf c) fun x =>
        { x with cnt := { x.cnt with mcastPartial := satInc x.cnt.mcastPartial } }
      exec (.multicastAck c t bitmap members) s = .next (u.ackTo c t new.ackCount))

/-- RMO_PERFORM: the next step of a lane at the own node is performed there: one read of a chase that goes on, or the operation whole,
whose record and status are kept; RMO_RESPONSE writes the status words to D when every lane has answered (R364, R367). FLUE_TIMEOUT: a
remote request that is not answered fails with E_FLUE_LINK (R406). -/
def Sys2Proof.Claim.RemoteOperationsRun : Prop :=
  ∀ (s : State) (c w : Nat) (n : HNum) (k : OpCtx) (op d desc : Nat), c < coreCount → s.opCtx? c w n = some k →
    k.o.work = .rmo op d desc → k.o.status = .sent →
    (∀ a r remote, k.o.lanes.find? (fun a => !k.o.results.any fun r => r.1 == a.lane) = some a →
      k.b.recordAt op desc a = .ok r → placeNode a.cmp.toNat = s.host.nodeid.toNat →
      (∀ x, s.rmoLane op a r = .ok (.done x) →
        exec (.rmoPerform c w n remote) s = .next ((x.s.updCore c fun y => y.updBlock k.b.slot fun b =>
          b.spadWrite (desc + rmoSize op * a.lane) x.record).updOp c w n fun o =>
            { o with results := o.results ++ [(a.lane, x.status.zeroExtend 64)] })) ∧
      (∀ b, s.rmoLane op a r = .ok (.more b) → exec (.rmoPerform c w n remote) s = .next (s.updOp c w n fun o =>
        { o with lanes := updFirst (fun l => l.lane == a.lane) (fun _ => b) o.lanes }))) ∧
    ((∀ a ∈ k.o.lanes, ∃ r ∈ k.o.results, r.1 = a.lane) → exec (.rmoResponse c w n) s = .next
      ((s.updCore c fun x => x.putVectors w k.o.handler k.o.frags
        (k.o.results.map fun r => (d, r.1, r.2.extractLsb' 0 32))).finishOp c w n)) ∧
    (∀ a, k.o.lanes.find? (fun a => !(k.o.results.any fun r => r.1 == a.lane) &&
        placeNode a.cmp.toNat != s.host.nodeid.toNat) = some a →
      exec (.flueTimeout c w n) s = .next (s.failOp c w n eFlueLink a.ea))

/-- RMO.CAS4 at a home: with every compare word equal all its words are written and its status has bit 8; the words found are in the
record (R365). -/
def Sys2Proof.Claim.CompareAndSwapFour : Prop :=
  ∀ (s : State) (a : Nat) (r : List Byte) (f0 : Nat), recNat r 0 1 = 1 → recNat r 1 7 = 0 → recNat r 72 8 = 0 → a % 8 = 0 →
    s.farWord a = .ok f0 → s.homeWriteFault a = none →
    (f0 = recNat r 8 8 → s.rmoCas4 a r
      = .ok ⟨s.putFar a (recNat r 40 8), splice r 8 (toBytes 8 f0), BitVec.ofNat 32 257⟩) ∧
    (f0 ≠ recNat r 8 8 → s.rmoCas4 a r = .ok ⟨s, splice r 8 (toBytes 8 f0), 0⟩)

/-! ## The Stoker, blocks, launches and drawn blocks -/

/-- HOST_POST: with the queues open and room in the queue a record of 128 bytes enters it whole, at its tail; into a full queue, or
before the queues open, it is discarded and counted. An access of another width changes no queue and is logged as an unsupported
request (R132, R396, R426). -/
def Sys2Proof.Claim.HostPosts : Prop :=
  ∀ (s : State) (q : Nat) (r : List Byte), q < 16 →
    (r.length = 128 → s.up = true → (s.stokeQ.getD q []).length < 512 → exec (.hostPost q r) s = .next
      { s with stokeQ := updAt s.stokeQ q fun l => l ++ [{ bytes := r, ctxid := none }] }) ∧
    (r.length = 128 → (s.up = false ∨ 512 ≤ (s.stokeQ.getD q []).length) → exec (.hostPost q r) s = .next
      { s with stoker := { s.stoker with stokeOverflow := satInc s.stoker.stokeOverflow } }) ∧
    (r.length ≠ 128 → exec (.hostPost q r) s = .next { s with host := { s.host with aerUr := true } })

/-- STOKER_TAKE: the head of the lowest-numbered queue that holds a record leaves it. One that fails a check of R31, or whose
context has no tables, is counted and reported with E_LAUNCH_RECORD; an unshaped one that passes becomes an active launch; with 256
launches active nothing is taken (R31, R32, R134). -/
def Sys2Proof.Claim.RecordsAreTaken : Prop :=
  ∀ (s : State) (q : Nat) (rec : QRec), s.up = true → s.headRecord = some (q, rec) → rec.ctxid = none →
    let r := rec.bytes
    let e := s.ctxEntry (recCtxid r)
    let t := { s with stokeQ := updAt s.stokeQ q fun l => l.drop 1 }
    (256 ≤ s.launches.length → exec .stokerTake s = .next s) ∧
    (s.launches.length < 256 → ((recItems r).all id = false ∨ e.1 = 0) → exec .stokerTake s = .next (t.refuseLaunch e.1 r)) ∧
    (s.launches.length < 256 → (recItems r).all id = true → e.1 ≠ 0 → recMode r = 0 →
      ∃ u l, exec .stokerTake s = .next u ∧ u.launches = s.launches ++ [l] ∧ u.stokeQ = t.stokeQ ∧ u.mem = s.mem ∧
        l.id = s.nextLaunch ∧ l.record = r ∧ l.root = e.1 ∧ l.watching = false ∧ l.cursor = 0 ∧ l.live = 0 ∧ l.err = 0)

/-- LAUNCH_END: a launch with no block unplaced or live, and that watches no shape, reports its end with its code and leaves the
table; one with a live block stays (R32, R213). -/
def Sys2Proof.Claim.LaunchesEnd : Prop :=
  ∀ (s : State) (l : Launch), s.launch? l.id = some l →
    (l.watching = false → l.live = 0 → l.offer = none → exec (.launchEnd l.id) s = .next
      { s.stokerArrive l.root (recBarrier l.record) l.err with launches := s.launches.filter fun k => k.id != l.id }) ∧
    ((l.watching = true ∨ l.live ≠ 0 ∨ l.offer.isSome = true) → exec (.launchEnd l.id) s = .next s)

/-- BLOCK_PLACEMENT: the launch whose turn it is loses its first unplaced block to the core, in the core's lowest free slot, with as
many waves as its record says; each wave starts with one fragment of all 64 lanes at the entry (R36, R205, R384). -/
def Sys2Proof.Claim.BlocksArePlaced : Prop :=
  ∀ (s : State) (c k slot : Nat) (rest : List Nat) (l : Launch) (o : Offer), c < coreCount → s.up = true →
    s.launchFor c s.offerOrder = some l → l.offer = some o → (s.core c).slotFor (recCtxid l.record) = some k →
    (s.core c).freeBlocks = slot :: rest →
    exec (.blockPlacement c) s = .next
      (let t := (s.acquire c [] true).updCore c fun x => x.place c k slot l o s.tick
       { t.setLaunch o.launch with lastOffered := updAt t.lastOffered l.queue fun _ => l.id })

/-- What a placed core holds: the block, and its waves with SEQ 1 and with registers that no one has written (R36, R80). -/
def Sys2Proof.Claim.PlacedBlocksStart : Prop :=
  ∀ (x : Core) (c k slot : Nat) (l : Launch) (o : Offer) (stamp : Nat),
    let y := x.place c k slot l o stamp
    y.blocks = x.blocks ++ [Block.placed slot l.id o.lin k o.grid l.record o.tent stamp] ∧
    (∃ ws, y.waves = x.waves ++ ws ∧ (recWaves l.record ≤ x.freeWaves.length → ws.length = recWaves l.record) ∧
      ∀ w ∈ ws, w.block = slot ∧ w.seq = 1 ∧ w.lpart = 64 ∧ w.fpflags = 0 ∧ w.v = [] ∧ w.s = [] ∧ w.a = [] ∧ w.p = [] ∧
        (w.hzn = if o.tent then 0 else 1)) ∧
    y.active = some k ∧ y.l1 = x.l1 ∧ y.tlb = x.tlb

/-- ALLOTMENT_GRANT: the oldest request of a core, of a block that is resident or of a shadow context, is met once its granules fit:
the block is backed whole, and its allotment barrier has passed one phase; until then nothing happens (R38, R207). -/
def Sys2Proof.Claim.AllotmentsAreGranted : Prop :=
  ∀ (s : State) (c k : Nat) (r : List Nat) (b : Block), c < coreCount → (s.core c).allocs = k :: r →
    (s.core c).anyBlock? k = some b →
    ((s.core c).backedSum + (recH b.record - b.backed) ≤ 96 → exec (.allotmentGrant c) s = .next
      (s.updCore c fun x => { x.updAnyBlock k fun b =>
        { b with backed := recH b.record, req := false, full := true, allotPhase := b.allotPhase + 1 } with allocs := r })) ∧
    (96 < (s.core c).backedSum + (recH b.record - b.backed) → exec (.allotmentGrant c) s = .next s)

/-- BLOCK_END: a block whose waves have all ended with every operation resolved, and whose engine operations have all landed,
leaves its core, and its launch has one live block less; otherwise it stays (R39). -/
def Sys2Proof.Claim.BlocksEnd : Prop :=
  ∀ (s : State) (c slot : Nat) (b : Block), c < coreCount → s.blockAt c slot = some b →
    ((∀ w ∈ (s.core c).waves, w.block = slot → w.ended = true ∧ w.shp = false ∧ w.hzn = w.seq) →
        s.engineWork c slot = false →
      exec (.blockEnd c slot) s = .next ((s.removeBlock c b).blocksGone b.launch 1)) ∧
    ((∃ w ∈ (s.core c).waves, w.block = slot ∧ (w.ended = false ∨ w.hzn ≠ w.seq)) → exec (.blockEnd c slot) s = .next s) ∧
    (s.engineWork c slot = true → exec (.blockEnd c slot) s = .next s)

/-- WAVE_TERMINATION: a wave that has not ended is killed: one with no operation outstanding has ended then, with no trap and no
open window, and its blocks drawn are gone; one that has ended stays as it is (R47). -/
def Sys2Proof.Claim.WavesAreTerminated : Prop :=
  ∀ (s : State) (c w : Nat) (y : Wave), c < coreCount → (s.core c).wave? w = some y →
    (y.ended = true → exec (.waveTermination c w) s = .next s) ∧
    (y.ended = false → exec (.waveTermination c w) s = .next (s.killWave c w)) ∧
    (y.ended = false → y.ops = [] → (s.core c).faultWait = [] →
      ∃ z, ((s.killWave c w).core c).wave? w = some z ∧ z.ended = true ∧ z.drawn = [] ∧ z.trap = none ∧ z.win = none)

/-- SHAPE_NOTIFICATION: the first notice is used up, but while its word lies in the window of a tentative block; where the word
is published, every launch that watches it takes its extent and watches no more; where it is not, nothing else changes (R200
item 4, R210 to R212). A launch watches a word by its context's root and its address together: that is the model's reading (log
30, DEDUCED), since R211 names an address only. SHAPE_TIMEOUT: a launch that watches still records E_SHAPE_TIMEOUT and is
trimmed to nothing (R213). -/
def Sys2Proof.Claim.ShapesAreApplied : Prop :=
  ∀ s : State,
    (s.notices = [] → exec .shapeNotification s = .next s) ∧
    (∀ root va r v, s.notices = (root, va) :: r →
      let t := { s with notices := r }
      s.shapeWord root va = .go v →
      (v.getLsbD 63 = false → exec .shapeNotification s = .next t) ∧
      (v.getLsbD 63 = true → exec .shapeNotification s = .next
        ((t.launches.filter fun l => l.watching && l.root == root && recShape l.record == va).foldl
          (fun s l => s.publish l.id v) t))) ∧
    (∀ root va r, s.notices = (root, va) :: r → s.shapeWord root va = .wait → exec .shapeNotification s = .next s) ∧
    (∀ l, s.launch? l.id = some l →
      (l.watching = false → exec (.shapeTimeout l.id) s = .next s) ∧
      (l.watching = true → exec (.shapeTimeout l.id) s = .next
        (((s.setLaunch { l with watching := false, timedOut := true }).launchFault l.id eShapeTimeout).settle ⟨l, 0⟩)))

/-- FETCHW_DRAW: the first request names no launch (status 3), a launch with no block left (status 2), or receives the first
unplaced block, with its identifier and whether it is tentative. The wave may be of a shadow context (R51, R136, R385). -/
def Sys2Proof.Claim.DrawsAreAnswered : Prop :=
  ∀ (s : State) (q : DrawReq) (r : List DrawReq) (w : Wave), s.drawReqs = q :: r →
    (s.core q.core).anyWave? q.wave = some w →
    let t := { s with drawReqs := r }
    (t.launchNamed q.ctxid q.barrier = none → exec .fetchwDraw s = .next (t.answerDraw q w 0 3)) ∧
    (∀ l, t.launchNamed q.ctxid q.barrier = some l →
      (l.offer = none → exec .fetchwDraw s = .next (t.answerDraw q w 0 2)) ∧
      (∀ o, l.offer = some o → exec .fetchwDraw s = .next
        ((t.keepDrawn q w l o).answerDraw q w (widOf l.record o.grid 0) (if o.tent then 1 else 0))))

/-! ## Contexts -/

/-- PREEMPT: a write requests the pre-emption of the named context on every core where it is active, with its STREAM bit. RESTORE: a
write is kept as a request for its context and core (R241, R245, R396); that one which names no core is ignored is the model's choice
(log 24). -/
def Sys2Proof.Claim.PreemptAndRestoreAreAsked : Prop :=
  ∀ (s : State) (v : DWord),
    (∃ t, exec (.preemptWrite v) s = .next t ∧ t = { s with cores := t.cores } ∧
      t.cores.map (fun e => e.1) = s.cores.map (fun e => e.1) ∧
      (∀ c k, (s.core c).active = some k → ((s.core c).ctxSlot k).ctxid = v.extractLsb' 0 16 →
        (∀ r ∈ (s.core c).reqs, r.slot ≠ k) →
        (t.core c).reqs = (s.core c).reqs ++ [⟨k, v.getLsbD 16, none, false, true⟩])) ∧
    (ccidCore (bitsOf v.toNat 32 15) = none → exec (.restoreWrite v) s = .next s) ∧
    (∀ c, ccidCore (bitsOf v.toNat 32 15) = some c → (v.extractLsb' 0 16, c) ∉ s.restoreReqs →
      exec (.restoreWrite v) s = .next { s with restoreReqs := s.restoreReqs ++ [(v.extractLsb' 0 16, c)] })

/-- PRIORITY_PREEMPTION_REQUEST: no block of the launch fits any core, no request stands for it, and the context in the slot is the
one that R208 chooses: its pre-emption is requested, for that launch. PREEMPTION_DRAIN: the drain of a requested active context
begins; the failures that its waves have been told of are noted as older than it, and nothing else changes (R208, R233, R242). -/
def Sys2Proof.Claim.DrainsBegin : Prop :=
  ∀ (s : State) (c k : Nat), c < coreCount →
    (∀ l, s.launch? l.id = some l → l.offer.isSome = true → (∀ e ∈ s.cores, ∀ r ∈ e.2.reqs, r.launch ≠ some l.id) →
      (∀ d, d < coreCount → s.eligible d l.record = false) →
      (∃ d, d < coreCount ∧ (s.core d).enabled = true ∧ s.dieGated (dieOf d) = false) →
      (∃ v ∈ s.victims l.queue, v.core = c ∧ v.slot = k ∧ ∀ w ∈ s.victims l.queue, w.beats v = false) →
      exec (.priorityPreemptionRequest l.id c k) s
        = .next (s.updCore c fun x => x.addReq ⟨k, false, some l.id, false, false⟩)) ∧
    ((s.core c).active = some k → (∃ r ∈ (s.core c).reqs, r.slot = k) → k ∉ (s.core c).draining →
      exec (.preemptionDrain c k) s = .next (s.updCore c fun x => { x with
        draining := k :: x.draining,
        waves := x.waves.map fun w =>
          if (x.blocks.any fun b => b.slot == w.block && b.ctx == k) && w.delivered.isSome then { w with trapEarly := true }
          else w })) ∧
    ((s.core c).active ≠ some k → exec (.preemptionDrain c k) s = .next (s.updCore c fun x => x))

/-- DRAIN_COMPLETE: a context whose drain is not complete stays; one whose drain is complete is saved: no context is active on the
core, its saved state is a shadow there, its blocks have left, and event record 2 names it (R243, R397). -/
def Sys2Proof.Claim.DrainedContextsAreSaved : Prop :=
  ∀ (s : State) (c k : Nat), c < coreCount →
    (s.drained c k = false → exec (.drainComplete c k) s = .next s) ∧
    (s.drained c k = true → (s.saveContext c k).restorePending c = none →
      exec (.drainComplete c k) s = .next (s.saveContext c k)) ∧
    (∀ y, y = (s.core c).withoutSaved (s.savedCtx c k) →
      y.active = none ∧ y.shadows = (s.core c).shadows ++ [s.savedCtx c k] ∧ (∀ b ∈ y.blocks, b.ctx ≠ k) ∧
      ∀ b ∈ (s.core c).blocks, b.ctx = k → b ∈ (s.savedCtx c k).blocks)

/-- CONTEXT_STREAM_OUT: a shadow marked for it that has a save area leaves its core for it, without pins, with its requests for
allotments and blocks, and event record 3 names it; without a save area it stays. CONTEXT_RESTORE: a shadow of the core that is
asked for and fits becomes active as it was saved, and event record 4 names it; a context in its save area enters a free slot of
a core where none is active (R244, R245, R397). Four points are the model's choice (log 24, DEDUCED): the pins are dropped, the
requests wait with the saved context, a context without a save area stays where it is, and one from its save area enters beside
an active one as a shadow; so is it that what no RESTORE asks for on that core stays. -/
def Sys2Proof.Claim.ContextsMove : Prop :=
  ∀ (s : State) (c k : Nat) (v : SavedCtx), c < coreCount →
    ((s.core c).shadows.find? (fun u => u.slotIdx == k) = some v → v.stream = true → s.saveArea v.ctxid ≠ 0 →
      let draws (q : DrawReq) : Bool := q.core == c && v.waves.any fun w => w.slot == q.wave
      let allocs := (s.core c).allocs.filter fun b => v.blocks.any fun y => y.slot == b
      ∃ t, exec (.contextStreamOut c k) s = .next t ∧
        t.saved = s.saved ++ [{ v with stream := false, blocks := v.blocks.map (fun b => { b with pins := [] }),
                                       allocs := allocs, draws := s.drawReqs.filter draws }] ∧
        t.drawReqs = s.drawReqs.filter (fun q => !draws q) ∧
        t.eventQ = s.eventQ ++ [⟨3, v.ctxid, ccid c, 0⟩] ∧ ∀ u ∈ (t.core c).shadows, u.slotIdx ≠ k) ∧
    ((s.core c).shadows.find? (fun u => u.slotIdx == k) = some v → (v.stream = false ∨ s.saveArea v.ctxid = 0) →
      exec (.contextStreamOut c k) s = .next s) ∧
    ((v.ctxid, c) ∉ s.restoreReqs → exec (.contextRestore c v.ctxid.toNat) s = .next s) ∧
    ((v.ctxid, c) ∈ s.restoreReqs → (s.core c).shadows.find? (fun u => u.ctxid == v.ctxid) = some v →
      s.restoreFits c v true = true →
      exec (.contextRestore c v.ctxid.toNat) s = .next ((s.enterContext c v.slotIdx v).reportRestore c v.ctxid)) ∧
    (∀ slot, (v.ctxid, c) ∈ s.restoreReqs → (∀ u ∈ (s.core c).shadows, u.ctxid ≠ v.ctxid) →
      s.saved.find? (fun u => u.ctxid == v.ctxid) = some v → (s.core c).ctxs.findIdx? (fun k => !k.used) = some slot →
      let t := { s with saved := s.saved.erase v }
      (s.restoreFits c v false = true → exec (.contextRestore c v.ctxid.toNat) s
        = .next ((t.enterContext c slot v).reportRestore c v.ctxid)) ∧
      ((s.core c).active.isSome = true → s.entryFits c v = true →
        exec (.contextRestore c v.ctxid.toNat) s = .next (t.enterShadow c slot v)))

/-- XINV: a write is kept behind those before it; XINV_COMPLETE: the oldest one has reached the core's translation cache and the
die's, which answers the core's misses (log 80 for one without DIE). IINV: the named lines leave the core's instruction caches
(R110, R154, R155). -/
def Sys2Proof.Claim.InvalidationsReachTheCaches : Prop :=
  ∀ (s : State) (c : Nat), c < coreCount →
    (∀ v : DWord, exec (.xinvWrite c v) s = .next (s.xinvPush c v)) ∧
    ((s.core c).xinv = [] → exec (.xinvComplete c) s = .next s) ∧
    (∀ (v : DWord) (r : List DWord), (s.core c).xinv = v :: r → ∃ t, exec (.xinvComplete c) s = .next t ∧
      t.mem = s.mem ∧ (t.core c).xinv = r ∧ (t.core c).tlb = xinvLeaves v (s.core c).tlb ∧
      (t.die (dieOf c)).tlb = xinvLeaves v (s.die (dieOf c)).tlb) ∧
    (∀ v : Word, exec (.iinvWrite c v) s = .next (s.iinv c v.toNat))

/-! ## The host and the ports -/

/-- REGISTER_WRITE: a write of its own width sets the register of BAR0 that it names; one that overlaps a register in any other
way is logged as an unsupported request and changes none; the AtomicOp Requester Enable bit takes bit 0. SPCLR: bit 0 clears the
shape predictor (R158, R396, R401). That HTO ignores a value out of its range, and that the low six bits of EVBASE are cleared,
is the model's choice (log 26, DEDUCED). -/
def Sys2Proof.Claim.RegistersAreWritten : Prop :=
  ∀ (s : State) (v : DWord),
    exec (.registerWrite (.bar0 0x10200 8) v) s = .next { s with host := { s.host with savetab := v } } ∧
    exec (.registerWrite (.bar0 0x10208 8) v) s = .next { s with host := { s.host with ctxtab := v } } ∧
    exec (.registerWrite (.bar0 0x10400 8) v) s = .next { s with host := { s.host with evbase := v &&& ~~~ 0x3F#64 } } ∧
    exec (.registerWrite (.bar0 0x10508 4) v) s = .next
      { s with host := { s.host with hto := if 1 ≤ v.toNat ∧ v.toNat ≤ 4000 then v.extractLsb' 0 32 else s.host.hto } } ∧
    exec (.registerWrite (.bar0 0x10300 8) v) s = exec (.preemptWrite v) s ∧
    exec (.registerWrite (.bar0 0x10308 8) v) s = exec (.restoreWrite v) s ∧
    exec (.registerWrite (.bar0 0x10200 4) v) s = .next { s with host := { s.host with aerUr := true } } ∧
    exec (.registerWrite .atomicEnable v) s = .next { s with host := { s.host with atomicReq := v.getLsbD 0 } } ∧
    (∀ w : Word, exec (.spclrWrite w) s = .next (if w.getLsbD 0 then { s with predictor := [] } else s))

/-- EVENT_RECORD_WRITE: while the link is up and the ring is not full, the oldest record is written at EVBASE + 16 × EVHEAD, EVHEAD
goes on by one, modulo the ring of 2^EVLOG records; vector 0 is raised if the ring was empty (R131, R396, R397). Three points are the
model's choice: the ring is full once EVHEAD comes round to EVTAIL, a record is kept while the link is down (log 26, DEDUCED), and the
indices are taken modulo the ring whenever EVLOG changes (log 94). -/
def Sys2Proof.Claim.EventsAreRecorded : Prop :=
  ∀ (s : State) (e : Event) (r : List Event), s.eventQ = e :: r →
    ((s.linkUp = false ∨ s.host.evFull = true) → exec .eventRecordWrite s = .next s) ∧
    (s.linkUp = true → s.host.evFull = false →
      let head := (s.host.evhead.toNat + 1) % 2 ^ s.host.evlog.toNat
      let tail := s.host.evtail.toNat % 2 ^ s.host.evlog.toNat
      ∃ t, exec .eventRecordWrite s = .next t ∧ t.eventQ = r ∧
      t.hostOut = s.hostOut ++ cellsFrom (s.host.evbase.toNat + 16 * s.host.evhead.toNat) e.bytes ∧
      t.host = { s.host with evhead := BitVec.ofNat 32 head, evFull := decide (head = tail) } ∧
      t.msix = (if s.host.evhead.toNat % 2 ^ s.host.evlog.toNat = tail then s.msix ++ [0] else s.msix) ∧
      t.mem = s.mem ∧ t.cores = s.cores)

/-- The aperture: a host access that no valid entry of it admits changes no byte and reads none; a write of the fast tier or of an
expander goes to its home, past the L2 of every die, and a read returns what the home holds (R398, R399). -/
def Sys2Proof.Claim.ApertureAccesses : Prop :=
  ∀ (s : State) (off : Nat) (bs : List Byte) (n : Nat),
    (s.aperture off bs.length = none → exec (.hostApertureWrite off bs) s = .next s) ∧
    (∀ p, s.aperture off bs.length = some p → placeClass p ≤ 1 → exec (.hostApertureWrite off bs) s = .next
      ((s.l2Discard ((cellsFrom p bs).map fun c => placeKey c.1 / 128)).writeHome (cellsFrom p bs))) ∧
    (s.aperture off n = none → exec (.hostApertureRead off n) s = .next { s with hostReply := [] }) ∧
    (∀ p, s.aperture off n = some p → placeClass p ≤ 1 → (∀ k, k < n → s.homeReadFault (p + k) = none) →
      exec (.hostApertureRead off n) s
        = .next { s with hostReply := (List.range n).map fun k => s.homeByte (p + k) })

/-- KEY_LOAD fills a slot that stands by; KEY_SWITCH_MARKER makes the slot that stands by LIVE and the LIVE one DRAIN;
INVCTR_THRESHOLD takes the LIVE counter to the next threshold, where the port asks for a key; LINK_RETRAIN empties the slots of both
directions (R163, R164, R178, R410). -/
def Sys2Proof.Claim.KeysAreSwitched : Prop :=
  ∀ (s : State) (p : Nat) (rx : Bool), p < 16 →
    (∀ (slot : Nat) (key : BitVec 256) (salt : Word) (id : Byte), slot < 2 →
      exec (.keyLoad p rx slot key salt id) s = .next (s.updDir p rx fun d => { d with
        slots := updAt d.slots slot fun _ =>
          { key := key, salt := salt, invctr := 0, rxctr := 0, keyid := id, state := keyStandby },
        keyAsked := false })) ∧
    (∀ a b : KeySlot, (s.dir p rx).slots = [a, b] → a.state = keyLive → b.state = keyStandby →
      exec (.keySwitchMarker p rx) s = .next (s.updDir p rx fun d =>
        { d with slots := [{ a with state := keyDrain }, { b with state := keyLive }] })) ∧
    (∀ a b : KeySlot, (s.dir p false).slots = [a, b] → a.state = keyLive → b.state ≠ keyLive → a.invctr.toNat < 2 ^ 48 - 2 ^ 32 →
      exec (.invctrThreshold p) s = .next (s.updDir p false fun d =>
        { d with slots := [{ a with invctr := BitVec.ofNat 64 (2 ^ 48 - 2 ^ 32) }, b], keyAsked := true })) ∧
    (∃ t, exec (.linkRetrain p) s = .next t ∧ ∀ r, (t.dir p r).slots = [KeySlot.reset, KeySlot.reset] ∧
      (t.dir p r).keyStall = (s.dir p r).keyStall ∧ (t.dir p r).flitDrop = (s.dir p r).flitDrop)

/-- FLIT_RECEIVE under a slot that holds a key, of a port in its plane: a flit whose counter is not above the slot's is
discarded without a count; an authentic one moves the counter on; one that is not authentic is counted and asked for again, and
dropped if it had been resent. Under an empty slot nothing is received (R164, R178, R409). -/
def Sys2Proof.Claim.FlitsAreChecked : Prop :=
  ∀ (s : State) (p : Nat) (f : Flit) (k : KeySlot), p < 16 → (s.dir p true).slots[f.slot]? = some k →
    (k.state = keyEmpty ∨ f.counter ≤ k.rxctr.toNat → exec (.flitReceive p f) s = .next (s.updDir p true fun d => d)) ∧
    ((s.dir p true).removed = false → k.state ≠ keyEmpty → k.rxctr.toNat < f.counter →
      (f.authentic = true → exec (.flitReceive p f) s = .next (s.updDir p true fun d =>
        { d with slots := updAt d.slots f.slot fun k => { k with rxctr := BitVec.ofNat 64 f.counter } })) ∧
      (f.authentic = false → f.resent = false → exec (.flitReceive p f) s
        = .next (s.updDir p true fun d => { d with authRetry := satInc d.authRetry })) ∧
      (f.authentic = false → f.resent = true → exec (.flitReceive p f) s
        = .next (s.updDir p true fun d => { d with flitDrop := satInc d.flitDrop })))

/-- CXL_PORT_FAIL: the port is down, and with no operation outstanding nothing else changes. CXL_RETRAIN: the port is up again, and
nothing else changes (R403). -/
def Sys2Proof.Claim.PortsFailAndReturn : Prop :=
  ∀ (s : State) (p : Nat), p < 4 →
    exec (.cxlRetrain p) s = .next { s with cxlUp := updAt s.cxlUp p fun _ => true } ∧
    ((∀ e ∈ s.cores, e.2.cmds = [] ∧ ∀ w ∈ e.2.waves, w.ops = []) →
      exec (.cxlPortFail p) s = .next { s with cxlUp := updAt s.cxlUp p fun _ => false })

/-! ## Errors of the arrays, and lines that leave a cache -/

/-- RF_UNCORRECTABLE_ERROR and SPAD_UNCORRECTABLE_ERROR poison the part that they name and count the error; a scrub that corrects
counts the correction; waves of shadow contexts have their registers too (R75, R76, R99, R177, R244). -/
def Sys2Proof.Claim.ErrorsArePoison : Prop :=
  ∀ (s : State) (c : Nat), c < coreCount →
    (∀ w r y, (s.core c).anyWave? w = some y → r < 128 → ∃ t, exec (.rfUncorrectableError c w (.uni r)) s = .next t ∧
      (t.core c).anyWave? w = some { y with sPoison := listSet y.sPoison r true } ∧
      ((s.core c).wave? w = some y → (t.core c).wave? w = some { y with sPoison := listSet y.sPoison r true }) ∧
      (t.core c).cnt = { (s.core c).cnt with rfPoison := satInc (s.core c).cnt.rfPoison } ∧
      exec (.backgroundScrub c (.uncorrectable w (.uni r))) s = .next t) ∧
    exec (.backgroundScrub c .corrected) s = .next (s.updCore c fun x =>
      { x with cnt := { x.cnt with rfCorrected := satInc x.cnt.rfCorrected } }) ∧
    (∀ b n y, (s.core c).block? b = some y → 4 * n + 4 ≤ y.spadBound →
      ∃ t, exec (.spadUncorrectableError c b n) s = .next t ∧
        (t.core c).block? b = some { y with spadPoison := listSet y.spadPoison n true } ∧
        (t.core c).cnt = { (s.core c).cnt with spadPoison := satInc (s.core c).cnt.spadPoison })

/-- CACHE_EVICTION and CACHE_UNCORRECTABLE_ERROR of a line of a core's L1 that holds no dirty byte: the line is gone, no home
byte changes, and an error counts one transient failure. An error in a line of an L1 or an L2 with data that a core has written:
the line is gone, with what the L2 below holds of the sectors written, these are poisoned at their homes, and CNT_CACHE_POISON
counts one. TRANSLATION_CACHE_DROP: the translation of the page is gone (R105, R108, R127, R130, R153). -/
def Sys2Proof.Claim.LinesLeaveTheCaches : Prop :=
  ∀ (s : State) (c : Nat), c < coreCount →
    (∀ line, (∀ e ∈ (s.core c).l1, e.1 / 128 = line → e.2.dirty = false) →
      (∃ t, exec (.cacheEviction (.l1 c) line) s = .next t ∧ t.mem = s.mem ∧
        (t.core c).l1 = dropBytes (s.core c).l1 (fun k _ => k / 128 == line)) ∧
      ((∃ e ∈ (s.core c).l1, e.1 / 128 = line) → (s.core c).holders line = [] → ∃ t, exec (.cacheUncorrectableError (.l1 c) line) s = .next t ∧
        t.mem = s.mem ∧ (t.core c).l1 = dropBytes (s.core c).l1 (fun k _ => k / 128 == line) ∧
        (t.core c).cnt = { (s.core c).cnt with
          cacheRefetch := satInc (s.core c).cnt.cacheRefetch, transient := satInc (s.core c).cnt.transient })) ∧
    (∀ line, (∃ e ∈ (s.core c).l1, e.1 / 128 = line ∧ e.2.dirty = true) → (s.core c).holders line = [] →
      ∃ t, exec (.cacheUncorrectableError (.l1 c) line) s = .next t ∧
        (∀ e ∈ (t.core c).l1, e.1 / 128 ≠ line) ∧
        (∀ e ∈ (s.core c).l1, e.1 / 128 = line → e.2.dirty = true →
          (placeClass e.1 ≠ 1 → e.1 / 32 ∈ t.secPoison) ∧ (placeClass e.1 = 1 → e.1 / 64 ∈ t.capPoison) ∧
          ∀ b ∈ (t.die (dieOf c)).l2, b.1 / 32 ≠ e.1 / 32) ∧
        (t.core c).cnt = { (s.core c).cnt with cachePoison := satInc (s.core c).cnt.cachePoison }) ∧
    (∀ d line, d < dieCount → (∃ e ∈ (s.die d).l2, e.1 / 128 = line ∧ e.2.dirty = true) →
      ∃ t, exec (.cacheUncorrectableError (.l2 d) line) s = .next t ∧
        (t.die d).l2 = dropBytes (s.die d).l2 (fun k _ => k / 128 == line) ∧
        (∀ e ∈ (s.die d).l2, e.1 / 128 = line → e.2.dirty = true →
          (placeClass e.1 ≠ 1 → e.1 / 32 ∈ t.secPoison) ∧ (placeClass e.1 = 1 → e.1 / 64 ∈ t.capPoison)) ∧
        (t.die d).cnt = { (s.die d).cnt with cachePoison := satInc (s.die d).cnt.cachePoison }) ∧
    (∀ root page, exec (.translationCacheDrop (.core c) root page) s = .next (s.updCore c fun x =>
      { x with tlb := x.tlb.filter fun e => !(e.root == root && e.page == page) }))

/-! ## The Staram -/

/-- OP_SET with a frequency that is no step of the points is refused with status 3. Otherwise the set points of the dies of its
mask take the frequency (R412, R413, R415). That it completes at once with status 0 where all those dies are gated, and else
when the last of its dies has changed, is the model's choice (log 25). CAP_SET below the floor is refused with status 2;
otherwise the cap is set (R416). -/
def Sys2Proof.Claim.PointsAndCaps : Prop :=
  ∀ (s : State) (mask : BitVec 8) (mhz watts : Nat), s.up = true → s.staram.recovery = false → s.staram.busy = false →
    (isStep mhz = false → exec (.opSet mask mhz) s = .next (s.answer (.status 3))) ∧
    (isStep mhz = true → ∃ t, exec (.opSet mask mhz) s = .next t ∧ t.mem = s.mem ∧
      (∀ d, d < 8 → t.staram.setPointOf d = if mask.getLsbD d then mhz else s.staram.setPointOf d) ∧
      ((∀ d, d < 8 → mask.getLsbD d = true → s.dieGated d = true) →
        t.staram.response = .status 0 ∧ t.msix = s.msix ++ [1] ∧ t.staram.busy = false) ∧
      ((∃ d, d < 8 ∧ mask.getLsbD d = true ∧ s.dieGated d = false) → t.staram.busy = true ∧ t.msix = s.msix)) ∧
    (watts ≠ 0 → watts < floorWatts s.powered.length → exec (.capSet watts) s = .next (s.answer (.status 2))) ∧
    (watts = 0 ∨ floorWatts s.powered.length ≤ watts → ∃ t, exec (.capSet watts) s = .next t ∧
      t.staram.cap = watts ∧ t.staram.response = .status 0 ∧ t.msix = s.msix ++ [1] ∧ t.cores = s.cores ∧ t.mem = s.mem)

/-- Every request in recovery but FW_UPDATE is refused with status 2 and changes nothing else (R412, R424; log 74 for the requests of
identity). -/
def Sys2Proof.Claim.RecoveryRefusesRequests : Prop :=
  ∀ (s : State) (mask : BitVec 8) (a b : Nat) (u : CounterUnit) (f : Bool) (n : List Byte), s.staram.recovery = true →
    ∀ e ∈ [Instr.opSet mask a, .capSet a, .laneRetire a b, .dieGate a, .dieWake a, .countersRead u f, .telemetryRead,
        .reportRead, .getDigests, .getCertificate, .challenge n, .getMeasurements n],
      exec e s = .next { s with staram := { s.staram with response := .status 2 }, msix := s.msix ++ [1] }

/-- POWER_MEASUREMENT: the measurement is kept, with the module powers of the last ten; where their average is from 95% of
the cap to the cap, and no junction is above 105, nothing else changes. AGEING_CHECK: with no loss of frequency from the
fused birth count nothing changes; with a lower ceiling the ceiling is recorded (R416, R417). The average of fewer than ten,
and the birth count of the die, are the model's choice (log 25). -/
def Sys2Proof.Claim.MeasurementsAreKept : Prop :=
  ∀ s : State, s.up = true →
    (∀ (ps : List Nat) (watts : Nat) (js : List Int), s.staram.cap ≠ 0 →
      let h := (watts :: s.staram.history).take 10
      100 * h.sum ≤ 100 * s.staram.cap * h.length → 95 * s.staram.cap * h.length ≤ 100 * h.sum →
      (∀ d, d < 8 → js.getD d 0 ≤ 105) →
      exec (.powerMeasurement ps watts js) s = .next { s with staram := { s.staram with
        ms := s.staram.ms + 1, powers := ps, history := h, junctions := js, calm := 0 } }) ∧
    (∀ k birth now, k < 320 → birth ≠ Config.birthCount k ∨ birth ≤ now → s.staram.ceilingOf k ≤ 1100 →
      exec (.ageingCheck k birth now) s = .next s) ∧
    (∀ k now, k < 320 → let birth := Config.birthCount k
      birth ≠ 0 → s.dieGated (k / 40) = false → 5 * (birth - now) < birth →
      1100 - 25 * (100 * (birth - now) / birth) < s.staram.ceilingOf k →
      ∃ t, exec (.ageingCheck k birth now) s = .next t ∧
        t.staram.ceilingOf k = 1100 - 25 * (100 * (birth - now) / birth) ∧ t.mem = s.mem)

/-- LANE_RETIRE: a lane of no core, as the CCID layout names it, is refused with status 3, and a lane that is bad already with status
2; a good one joins the retired set (R412, R418), and, by the model's choice (log 25), the request completes when the lane map is
rewritten. SHADOW_LATCH_TRIP: %clk of the core counts the replayed cycle, and the cluster counts it once (R89, R177, R419). -/
def Sys2Proof.Claim.LanesRetireAndTrip : Prop :=
  ∀ (s : State) (c v l : Nat),
    (s.up = true → s.staram.recovery = false → s.staram.busy = false →
      ((ccidCore v = none ∨ 66 ≤ l) → exec (.laneRetire v l) s = .next (s.answer (.status 3))) ∧
      (ccidCore v = some c → l < 66 → l ∈ s.staram.badLanes c → exec (.laneRetire v l) s = .next (s.answer (.status 2))) ∧
      (ccidCore v = some c → l < 66 → l ∉ s.staram.badLanes c → ∃ t, exec (.laneRetire v l) s = .next t ∧
        l ∈ t.staram.badLanes c ∧ t.staram.busy = true ∧ t.mem = s.mem)) ∧
    (c < coreCount → (∀ t ∈ (s.cluster (clusterOf c)).trips, t + 1000 ≤ s.staram.ms) →
      ∃ t, exec (.shadowLatchTrip c none) s = .next t ∧ t.mem = s.mem ∧
        t.core c = { s.core c with clkOffset := (s.core c).clkOffset + 1 } ∧
        (t.cluster (clusterOf c)).shadowReplay = satInc (s.cluster (clusterOf c)).shadowReplay ∧
        (t.cluster (clusterOf c)).trips = [s.staram.ms])

/-- DIE_GATE: a die with a resident context, an open communicator or an armed entry, and the last powered die, is refused
with status 2; another takes no block and no translation. DIE_WAKE: the die is on at its set point, its region reads zero,
and its Flue ports are in their planes (R116, R412, R422). When the request completes, and status 0 for a gate of a gated
die and a wake of a powered one, are the model's choice (log 25). -/
def Sys2Proof.Claim.DiesGateAndWake : Prop :=
  ∀ (s : State) (d : Nat), s.up = true → s.staram.recovery = false → s.staram.busy = false →
    (8 ≤ d → exec (.dieGate d) s = .next (s.answer (.status 3)) ∧ exec (.dieWake d) s = .next (s.answer (.status 3))) ∧
    (d < 8 → s.dieGated d = true → exec (.dieGate d) s = .next (s.answer (.status 0))) ∧
    (d < 8 → s.dieGated d = false → s.gateRefused d = true → exec (.dieGate d) s = .next (s.answer (.status 2))) ∧
    (d < 8 → s.dieGated d = false → s.gateRefused d = false → ∃ t, exec (.dieGate d) s = .next t ∧
      t.dieGated d = true ∧ t.staram.busy = true ∧ t.msix = s.msix ∧ t.mem = s.mem) ∧
    (d < 8 → s.dieGated d = false → exec (.dieWake d) s = .next (s.answer (.status 0))) ∧
    (d < 8 → s.dieGated d = true → ∃ t, exec (.dieWake d) s = .next t ∧ t.dieGated d = false ∧
      t.staram.pointOf d = s.staram.setPointOf d ∧ t.staram.response = .status 0 ∧
      (∀ rx, (t.dir (2 * d) rx).removed = false ∧ (t.dir (2 * d + 1) rx).removed = false) ∧
      (∀ a, Memory.get t.mem a = if inRegion d a then 0 else Memory.get s.mem a))

/-- COUNTERS_READ answers with the counters of the class, and clears them where it is asked to; TELEMETRY_READ and REPORT_READ
answer with the last measurements and with the oldest report, which is removed (R177, R421). -/
def Sys2Proof.Claim.CountersAndReports : Prop :=
  ∀ s : State, s.up = true → s.staram.recovery = false → s.staram.busy = false →
    (∀ u, exec (.countersRead u false) s = .next (s.answer (.counters (s.counters u))) ∧
      exec (.countersRead u true) s = .next ((s.clearCounters u).answer (.counters (s.counters u)))) ∧
    (∃ t, exec (.countersRead .stoker true) s = .next t ∧ t.stoker = ⟨0, 0, 0⟩ ∧ t.msix = s.msix ++ [1] ∧
      t.staram.response = .counters [s.stoker.launchReject, s.stoker.stokeOverflow, s.stoker.launchErr]) ∧
    exec .telemetryRead s = .next (s.answer (.telemetry s.staram.powers s.staram.junctions
      ((List.range 8).map s.staram.pointOf) ((List.range 320).map s.staram.ceilingOf))) ∧
    (∀ e r, s.staram.reports = e :: r → exec .reportRead s = .next
      { s with staram := { s.staram with reports := r, response := .report (some e) }, msix := s.msix ++ [1] }) ∧
    (s.staram.reports = [] → exec .reportRead s = .next (s.answer (.report none)))

/-- A busy Staram keeps a request behind those that wait, while it has room, and answers status 1 otherwise (R411, R412; log 74 for
the room). -/
def Sys2Proof.Claim.RequestsWait : Prop :=
  ∀ (s : State) (mask : BitVec 8) (mhz : Nat), s.up = true → s.staram.recovery = false → s.staram.busy = true →
    (s.staram.queue.length < Config.requestRoom → exec (.opSet mask mhz) s = .next
      { s with staram := { s.staram with queue := s.staram.queue ++ [.opSet mask mhz] } }) ∧
    (Config.requestRoom ≤ s.staram.queue.length → exec (.opSet mask mhz) s = .next (s.answer (.status 1)))

/-- FW_UPDATE: the image goes to the inactive slot, and the active slot is as before (R424); that the first chunk begins it anew
and later ones continue it is the model's choice (log 25). The requests for identity answer with digest, certificates, and a
signature over the nonce and the measurement blocks, whether other requests wait or not (R425); the SHA-512 of the digests is
log 81 (PRESUMED). -/
def Sys2Proof.Claim.FirmwareAndIdentity : Prop :=
  ∀ (s : State) (chunk nonce : List Byte), s.up = true → s.staram.recovery = false →
    (s.staram.busy = false → ∃ t, exec (.fwUpdate chunk) s = .next t ∧ t.staram.fresh = true ∧
      t.staram.activeSlot = s.staram.activeSlot ∧
      t.staram.slots = updAt s.staram.slots (1 - s.staram.activeSlot)
        (fun old => if s.staram.fresh then old ++ chunk else chunk) ∧ t.staram.response = .status 0) ∧
    exec .getDigests s = .next (s.answer (.digests [sha512 Config.certificates])) ∧
    exec .getCertificate s = .next (s.answer (.certificate Config.certificates)) ∧
    exec (.challenge nonce) s = .next (s.answer (.signed nonce [] (Config.signature nonce []))) ∧
    exec (.getMeasurements nonce) s = .next
      (s.answer (.signed nonce s.measurements (Config.signature nonce (measured s.measurements))))

/-- POWER_UP: with no image that passes its checks the module stays in recovery with the host link up and its queues closed,
and reports both slots as refused; otherwise every die is powered at 150 MHz, no block is resident, the fast tier reads zero
and the host link is up, the queues still closed (R424, R426). That the CXL ports are up too is the model's choice: R426
step 5 leaves them to system software (log 25). -/
def Sys2Proof.Claim.ModuleComesUp : Prop :=
  ∀ s : State, let m := s.staram
    (m.bootOrder.find? m.slotOk = none → ∃ t, exec .powerUp s = .next t ∧ t.up = false ∧ t.staram.recovery = true ∧
      t.staram.reports = m.bootOrder.map (fun k => (0, .bringUpRefused k)) ∧ t.linkUp = true) ∧
    (∀ k, m.bootOrder.find? m.slotOk = some k → (∀ u ∈ microUnits, imageOk (Config.microcode u) = true) →
      ∃ t, exec .powerUp s = .next t ∧ t.up = false ∧ t.linkUp = true ∧ t.staram.recovery = false ∧ t.staram.stage = 5 ∧
        t.staram.activeSlot = k ∧ (∀ d, d < 8 → t.dieGated d = false ∧ t.staram.pointOf d = 150) ∧
        (∀ c, (t.core c).blocks = [] ∧ (t.core c).waves = []) ∧ t.launches = [] ∧ t.cxlUp = [true, true, true, true] ∧
        (∀ a, placeClass a = 0 → Memory.get t.mem a = 0))

/-! ## Values of FMIN and FMAX -/

/-- FMIN and FMAX of two codes of a format: with one NaN the other operand, with two the canonical NaN; otherwise the smaller or the
greater operand, −0 counting less than +0; NV exactly where an operand is a signalling NaN, and no other flag (R280). -/
def Sys2Proof.Claim.MinimumAndMaximum : Prop :=
  ∀ f ∈ [fp32, fp64, fp16, bf16], ∀ (mx : Bool) (a b : Nat), a < 2 ^ f.bits → b < 2 ^ f.bits →
    let r := fMinMax f mx a b
    ((f.value a).isNan = true → (f.value b).isNan = true → r.1 = f.nanCode) ∧
    ((f.value a).isNan = true → (f.value b).isNan = false → r.1 = b) ∧
    ((f.value a).isNan = false → (f.value b).isNan = true → r.1 = a) ∧
    (ltVal (f.value a) (f.value b) = true → r.1 = if mx then b else a) ∧
    (ltVal (f.value b) (f.value a) = true → r.1 = if mx then a else b) ∧
    ((f.value a).isNan = false → (f.value b).isNan = false → r.1 = a ∨ r.1 = b) ∧
    r.2 = (if (f.value a).isSignalling || (f.value b).isSignalling then flNV else 0) ∧
    (fMinMax f mx 0 (2 ^ (f.bits - 1))).1 = (if mx then 0 else 2 ^ (f.bits - 1)) ∧
    (fMinMax f mx (2 ^ (f.bits - 1)) 0).1 = (if mx then 0 else 2 ^ (f.bits - 1))

/-! ## Encodings -/

namespace Sys2Proof.Claim

/-- A word without a switch marker and without a guard. -/
def plainCtl : Ctl := ⟨false, 0, false⟩

/-- What the decoder that reads a word's kind makes of it: a header is read by the header decoder. -/
def decodesTo (i : Instr) (w : DWord) : Prop :=
  match i with
  | .clauseHeader _ => decodeHeader w = .ok i
  | _ => decode w = .ok i

/-- The opcodes that the opcode map leaves out (R250, R268). -/
def dashes : List (Nat × Nat) :=
  [(0x16, 0x1F), (0x4B, 0x4F), (0x5B, 0x5F), (0x6B, 0x6F), (0x7B, 0x7F), (0x8C, 0x8F), (0x94, 0x9F), (0xB8, 0xC7),
   (0xE0, 0xE3), (0xFA, 0xFF)]

end Sys2Proof.Claim

/-- Words that the manual encodes field by field decode to the instructions that they stand for (the worked encodings after R271,
R331 and R391). -/
def Obligations.WordsOfTheManual : Prop :=
  decode 0x04020002000000C0 = .ok (.addpc Claim.plainCtl ⟨0x80, 0, 2, 0, 0, 0x006, 0⟩) ∧
  decode 0x3202000008001002 = .ok (.cpy Claim.plainCtl ⟨0x10000, 0, 0x10002, 2⟩) ∧
  decode 0x0F00040000220002 = .ok (.icmp Claim.plainCtl ⟨1, 0, 0, 8, 2, 0, false, 0, 0, 2⟩) ∧
  decode 0x394C000000A01000 = .ok (.brc ⟨false, 1, true⟩ ⟨10, 1, 0, false, false, 0, 0⟩) ∧
  decode 0xA880082804800000 = .ok (.lds ⟨true, 0, false⟩ ⟨2, 0, true, 1, 0, 2, 2, false, 0⟩) ∧
  decode 0x5C0C0414041C0C2C = .ok (.pairWord false ⟨14, 6, 2, 10, false, false⟩ ⟨1, 7, 3, 11, false, false⟩) ∧
  decode 0x280010C82C800010 = .ok (.ld Claim.plainCtl ⟨4, 3, false, 1, 5, 2, 2, false, 16⟩) ∧
  decode 0x29C0081400481C10 = .ok (.atom Claim.plainCtl ⟨2, 5, 0, 1, false, 1, 3, 2, 0, 2, false, 0⟩) ∧
  decode 0x3DC1000000000000 = .ok (.rte Claim.plainCtl ⟨4, 0⟩) ∧
  decode 0x3E40120200000000 = .ok (.wrsr Claim.plainCtl ⟨4, true, 1, 0, 0⟩) ∧
  decodeHeader 0xFA5FFFFF80000000 = .ok (.clauseHeader ⟨15, 5, 2, 63, 63, 15, 63, 0⟩)

/-- No bit of an encoding is dropped: the word of every well-formed instruction decodes to that instruction, whatever its fields
hold (R247, R249 to R266). -/
def Obligations.EncodingsDecode : Prop :=
  ∀ (i : Instr) (w : DWord), i.WellFormed → encode i = some w → Claim.decodesTo i w

/-- The other direction: what a word decodes to is well formed and has that word; a word whose opcode the map leaves out is no
instruction (R250, R268, R271). -/
def Obligations.DecodingsEncode : Prop :=
  (∀ (w : DWord) (i : Instr), decode w = .ok i → i.WellFormed ∧ encode i = some w) ∧
  (∀ (w : DWord) (i : Instr), decodeHeader w = .ok i → i.WellFormed ∧ encode i = some w) ∧
  (∀ w : DWord, w.getLsbD 62 = false → (∃ r ∈ Claim.dashes, r.1 ≤ (w.extractLsb' 54 8).toNat ∧ (w.extractLsb' 54 8).toNat ≤ r.2) →
    decode w = .error .undefinedOpcode)

/-! ## Steps, reset and the invariant -/

namespace Sys2Proof.Claim

/-- A step after what an activity answers: stores that it has issued to EV pages are performed with it (R427 item 2), no word
is being issued, and one more activity is counted. -/
def counted (r : Host.Outcome State Fault Refusal) : Host.Outcome State Fault Refusal :=
  match r with
  | .next t => .next t.issuedStores.tidy
  | .fault e => .fault e
  | .refused e => .refused e

/-- The state in which a fragment that a slot's choice takes issues its word: the line of the word is kept in the instruction caches,
the fragments' SKIPs have moved, and the scan pointer stands after the fragment (R110, R222, R225). -/
def issuing (s : State) (c : Nat) (k : Slot) (f : Frag) (b : Block) (word : DWord) : State :=
  let t := s.fetchKeep c ((s.core c).rootOf b.ctx) f.loc.addr
  let x := { t.core c with frags := (t.core c).frags.map fun g => s.afterChoice c k f g }
  let x := match k with
    | .vector => { x with vptr := x.posAfter f.id }
    | .uniform => { x with uptr := x.posAfter f.id }
  (t.setCore c x).withCur c f.id word

end Sys2Proof.Claim

/-- A step whose activity is an issue choice runs the instruction that the chosen fragment's word decodes to; one whose activity is
the fetch of a header runs the header; one whose activity is a step of a unit runs that step. Each counts one activity (R222 to R226,
R246, R249; log 1 for the agenda). -/
def Obligations.StepsRunWhatIsDecoded : Prop :=
  ∀ (s : State) (r : List Act), let u := { s with agenda := r }
    (∀ c k f w b word i, s.agenda = .issue c k :: r → u.choose c k = some f → (u.core c).home? f = some (w, b) →
      u.nextWord c f = .ok word → (∃ h cls n j, f.loc = .word h cls n j) → misplaced f word = false → decode word = .ok i →
      (Claim.issuing u c k f b word).ctx? ≠ none →
      step s = Claim.counted (exec i (Claim.issuing u c k f b word))) ∧
    (∀ c f fr w b word i, s.agenda = .header c f :: r → (u.core c).frag? f = some fr → u.needsFetch c fr = true →
      (u.core c).home? fr = some (w, b) → u.nextWord c fr = .ok word → (∃ a, fr.loc = .header a) → decodeHeader word = .ok i →
      ((u.fetchKeep c ((u.core c).rootOf b.ctx) fr.loc.addr).withCur c fr.id word).ctx? ≠ none →
      step s = Claim.counted (exec i ((u.fetchKeep c ((u.core c).rootOf b.ctx) fr.loc.addr).withCur c fr.id word))) ∧
    (∀ e, s.agenda = .event e :: r → encode e = none → step s = Claim.counted (exec e u))

/-- The module right after reset, before its bring-up: HTO, FTO and CTTO have the values of R396, and no block is resident and
every byte of the fast tier reads as zero (R396, R426). The other clauses are the model's choice: that a byte of the capacity
tier reads as zero too is log 3 (DESIGN CHOICE), and that no queue holds a record, no launch is active, the host link is down
and the cores are enabled is log 4. Its memory is in canonical form. -/
def Obligations.ResetIsAsStated : Prop :=
  State.reset.host.hto = 50 ∧ State.reset.host.fto = 10 ∧ State.reset.host.ctto = [50, 50, 50, 50] ∧
  State.reset.up = false ∧ State.reset.linkUp = false ∧ State.reset.launches = [] ∧ (∀ q ∈ State.reset.stokeQ, q = []) ∧
  (∀ c, (State.reset.core c).blocks = [] ∧ (State.reset.core c).waves = [] ∧ (State.reset.core c).enabled = true) ∧
  (∀ a, Memory.get State.reset.mem a = 0) ∧ State.reset.Inv

/-- Every step keeps the canonical form of the module's memory, from every state that has it: byte by byte equal memories stay
equal data (R98, R426; log 3). -/
def Obligations.EveryStepKeepsMemoryCanonical : Prop := ∀ s : State, stepSafe s

/-! ## Statements of several parts -/

/-- Every word of the uniform unit completes with the value that its rule gives, and where its guard is false in the
fragment's lowest lane, by the guard of R22, it writes nothing (R22, R48, R74, R276, R277, R297, R331). -/
def Obligations.UniformWords : Prop :=
  Claim.UniformWordsComplete ∧ Claim.UniformWordsSkip

/-- FP32 and packed floating-point words complete; FMIN and FMAX give the minimumNumber and the maximumNumber (R278 to R281). -/
def Obligations.FloatWords : Prop :=
  Claim.FloatWordsComplete ∧ Claim.MinimumAndMaximum

/-- CVT and PACK complete with the conversions of R64, and raise their flags (R63, R64, R83, R283, R284). -/
def Obligations.ConversionWords : Prop :=
  Claim.CvtCompletes ∧ Claim.PackCompletes

/-- Shuffles, votes, REDL and SCANL complete: what they compute is captured at issue and is pending (R76, R287 to
R292). -/
def Obligations.CrossLaneWords : Prop :=
  Claim.ShufflesIssue ∧ Claim.VotesIssue ∧ Claim.ReductionsIssue

/-- A pair word without a conflict completes with the results of both halves, read before either is written; one with
a conflict traps E_PAIR (R21, R249, R266, R267). -/
def Obligations.PairWords : Prop :=
  Claim.PairWordCompletes ∧ Claim.PairConflictsTrap

/-- Where a word does not take effect at issue: it waits for room in a count or in its window, acts in no lane, names
a register outside the budget, or consumes poison (R40, R76, R174, R195, R223, R271, R297). -/
def Obligations.IssueConditions : Prop :=
  Claim.NumberedWordsWait ∧ Claim.EmptyActiveWords ∧ Claim.BudgetTraps ∧ Claim.PoisonTraps

/-- LDS, STS, ATOMS and CASS complete within the scratchpad of their block, and LDS and STS trap E_SPAD_BOUNDS outside
it (R100, R174, R298, R301, R303, R305, R306, R309, R310, R312, R314). -/
def Obligations.ScratchpadWords : Prop :=
  Claim.ScratchpadLoadCompletes ∧ Claim.ScratchpadStoreCompletes ∧ Claim.ScratchpadBoundsTrap ∧
    Claim.ScratchpadAtomicsComplete ∧ Claim.BoundScratchpadAtomicsIssue

/-- What an atomic returns and leaves, and what one lane's step changes at a home (R310, R311). -/
def Obligations.AtomicResults : Prop :=
  Claim.AtomicValues ∧ Claim.AtomicStep

/-- BIND takes a free entry, keeps the one that its block has, or traps on a full table; ACQ, and REL of a scratchpad
object that no binding names, complete; an acquire gives the word of its object and makes its discards, but for dirty
bytes whose home cannot be written, which log 43 keeps by the model's choice (R156, R181, R188, R189, R191, R192, R195,
R197, R298, R319, R321, R322). -/
def Obligations.EntryConsistency : Prop :=
  Claim.BindCompletes ∧ Claim.AcqCompletes ∧ Claim.ScratchpadRelCompletes ∧ Claim.AcquireReads

/-- BINIT and ARRIVE on a barrier in scratchpad complete, with the update of R166 and its phase; that a BINIT waits behind older
open operations is the model's reading of R189 and R191 (log 28 and log 40) (R165, R166, R188, R189, R191, R197, R298, R318, R323,
R324, R400). -/
def Obligations.ScratchpadBarriers : Prop :=
  Claim.ScratchpadBinitCompletes ∧ Claim.ScratchpadArriveCompletes ∧ Claim.BarrierUpdateRule

/-- WAITPH, TRYPH and WAITHZ complete, by parking or by going on (R169 to R171, R192, R298, R325, R326, R329). -/
def Obligations.PhaseWaits : Prop :=
  Claim.WaitphCompletes ∧ Claim.NumberedWaitphCompletes ∧ Claim.TryphCompletes ∧ Claim.WaithzCompletes

/-- BRC and BRX complete: they only move on, transfer the fragment whole, or divide it, and they trap with a full
stack (R43, R44, R46, R174, R374, R375). -/
def Obligations.DividingBranches : Prop :=
  Claim.UniformBranchesComplete ∧ Claim.DeepBranchesTrap ∧ Claim.DividingBranchesComplete

/-- RCV and EXIT complete (R45, R47, R378, R380). -/
def Obligations.JoinsAndEnds : Prop :=
  Claim.RcvCompletes ∧ Claim.ExitCompletes

/-- A precise trap is held until it is entered, TRAP raises one, and a failure in a handler kills the wave (R230,
R231, R235, R389). -/
def Obligations.TrapsAreTaken : Prop :=
  Claim.PreciseTraps ∧ Claim.TrapCompletes ∧ Claim.NestedTrapsKill

/-- The entry of a trap opens the window and starts the handler, waits where it cannot yet, and kills where there is
no frame; the frame is laid out as stated (R92, R129, R231 to R234, R400). -/
def Obligations.TrapEntry : Prop :=
  Claim.TrapEntryCompletes ∧ Claim.TrapEntryWaits ∧ Claim.TrapFrameLayout

/-- RTE replays and abandons what its mask says and goes on; outside a trap window it traps (R92, R107, R199, R236 to
R238, R271, R390). -/
def Obligations.TrapReturn : Prop :=
  Claim.RteCompletes ∧ Claim.StrayRteTraps

/-- RDSR and WRSR complete with the values of their registers, wait for what is still owed, and trap on a register
that they may not touch (R40, R50, R63, R76 to R78, R82, R83, R89, R91 to R93, R174, R391). -/
def Obligations.SpecialRegisterWords : Prop :=
  Claim.RdsrCompletes ∧ Claim.SpecialRegisterTraps ∧ Claim.WrsrCompletes

/-- The commands of the Barrow, CPY, CPY2, CPYT, CPYG, TIERP, TIERE and WLOAD, are accepted with their operands
captured, or trap on a barrier or scratchpad operand that is not allowed (R172, R173, R237, R334, R335, R343). -/
def Obligations.EngineWords : Prop :=
  Claim.EngineWordsComplete ∧ Claim.EngineOperandTraps

/-- MTASK, QCFG, RFLUSH and COMM.CLOSE complete (R139, R337, R346, R349, R355, R363). -/
def Obligations.HearthAndFabricWords : Prop :=
  Claim.HearthWordsComplete ∧ Claim.DirectEngineWordsComplete

/-- FETCHW, ALLOC, FREEA, PREFI, PIN and UNPIN complete (R37, R38, R51, R111, R112, R382, R385 to R387). -/
def Obligations.WorkWords : Prop :=
  Claim.FetchwCompletes ∧ Claim.AllotmentWordsComplete ∧ Claim.CodeLineWordsComplete

/-- A load returns what its bytes hold, or its failure is kept for the retry (R119, R228, R302, R305, R308). -/
def Obligations.LoadAttempts : Prop :=
  Claim.LoadsReturn ∧ Claim.FailedAttempts

/-- A store is accepted and its bytes go where their pages put them, at once or from held lines when its number is
reached (R107, R131, R173, R301, R302, R306). -/
def Obligations.StoresReachHomes : Prop :=
  Claim.StoresAreAccepted ∧ Claim.StoresAreHeld ∧ Claim.HeldLinesDrain

/-- Global atomics and barrier operations are performed at their homes and resolve (R165, R166, R168, R191, R301, R302, R310 to
R313, R323, R324, R401). -/
def Obligations.AtomicsAndBarriers : Prop :=
  Claim.GlobalAtomicsPerformed ∧ Claim.BarrierUpdatesPerformed

/-- QWAIT links, WAKE unlinks, and a passed phase wakes its waiter (R141 to R143, R169, R191, R192, R327, R328). -/
def Obligations.QueuesAndWakes : Prop :=
  Claim.QueueLink ∧ Claim.QueueUnlink ∧ Claim.WaitphWakes

/-- FENCE, LAUNCH and SHAPE are performed when nothing older holds them (R133, R190, R191, R197, R209, R318, R383, R388). -/
def Obligations.HeldOperations : Prop :=
  Claim.HeldOperationsProceed ∧ Claim.ShapePublished

/-- The host answers or does not, its link goes down, and a first failure is retried once (R228, R400). -/
def Obligations.HostAndRetry : Prop :=
  Claim.HostAnswers ∧ Claim.HostLinkGoesDown ∧ Claim.FailuresAreRetried

/-- Entries are taken, reported and answered by status writes (R128, R129, R154, R302, R397). -/
def Obligations.FaultBuffer : Prop :=
  Claim.FaultEntries ∧ Claim.FaultStatusWrites

/-- The commands of the Barrow begin, their units land one by one, and weights are latched by a Kiln on which no task
runs; a landing whose barrier cannot be reached now waits (R128, R154, R170, R172, R193, R199, R336, R338 to R342, R344, R345). -/
def Obligations.BarrowSteps : Prop :=
  Claim.CommandsBegin ∧ Claim.CopiesGoOn ∧ Claim.RecordsAndWeights ∧ Claim.UnitsLand ∧ Claim.LandingsWait ∧
    Claim.WeightsAreLatched

/-- Gates are checked, records dispatched, groups registered and started, and Kiln tasks run to their end; a group one of whose
members fails its checks is refused whole by the model's choice (log 63) (R69, R99, R129, R140, R215 to R221, R345, R348). -/
def Obligations.HearthSteps : Prop :=
  Claim.GatesAreChecked ∧ Claim.RecordsAreDispatched ∧ Claim.GroupsRun ∧ Claim.KilnTasksRun

/-- Communicators open and close, headers are compared, chunks and steps run, and commands end (R145, R161, R162, R334,
R336, R354 to R356, R358 to R361, R404, R438). -/
def Obligations.BellowsSteps : Prop :=
  Claim.CommunicatorsOpenAndClose ∧ Claim.HeadersAreExchanged ∧ Claim.ChunksAreSent ∧ Claim.ChunksGoByFlits ∧
    Claim.CollectivesRun ∧ Claim.CommandsEnd

/-- Messages arrive, remote stores are performed and acknowledged, and their streams retire them (R146, R159, R160,
R128, R172, R175, R200, R203, R228, R362, R368, R405, R407, R408). -/
def Obligations.RemoteStoresAndMessages : Prop :=
  Claim.MessagesArrive ∧ Claim.RemoteStoresPerformed ∧ Claim.RemoteAcknowledgements ∧ Claim.AcknowledgementsArrive

/-- The lanes of a remote operation are performed and answered, with the four-word compare and swap (R364, R365, R367,
R406). -/
def Obligations.RemoteOperations : Prop :=
  Claim.RemoteOperationsRun ∧ Claim.CompareAndSwapFour

/-- Records are posted, taken and refused, and launches end (R31, R32, R132, R134, R213, R396, R426). -/
def Obligations.LaunchSteps : Prop :=
  Claim.HostPosts ∧ Claim.RecordsAreTaken ∧ Claim.LaunchesEnd

/-- Blocks are placed, receive their allotment, and end, and waves are terminated (R36, R38, R39, R47, R80, R205,
R207, R384). -/
def Obligations.BlockSteps : Prop :=
  Claim.BlocksArePlaced ∧ Claim.PlacedBlocksStart ∧ Claim.AllotmentsAreGranted ∧ Claim.BlocksEnd ∧ Claim.WavesAreTerminated

/-- Shape notices and timeouts are applied, and FETCHW requests answered; a launch is found by the root and the address of its shape
word, the model's reading (log 30) (R51, R136, R200, R210 to R213, R385). -/
def Obligations.ShapesAndDraws : Prop :=
  Claim.ShapesAreApplied ∧ Claim.DrawsAreAnswered

/-- Contexts are requested, drained, saved, streamed out and restored; what happens to pins and to waiting requests, without a
save area, and beside an active context, and to a RESTORE of no core, is the model's choice (log 24) (R208, R233, R241 to R245,
R396, R397). -/
def Obligations.ContextSteps : Prop :=
  Claim.PreemptAndRestoreAreAsked ∧ Claim.DrainsBegin ∧ Claim.DrainedContextsAreSaved ∧ Claim.ContextsMove

/-- BAR0, the event ring, the aperture, and the invalidations of core control space; the full ring, records while the link is down,
HTO out of its range and the low bits of EVBASE are the model's choice (log 26), so is an XINV without DIE (log 80) and an EVLOG that
is lowered (log 94) (R110, R131, R154, R155, R158, R396 to R399, R401). -/
def Obligations.HostInterface : Prop :=
  Claim.InvalidationsReachTheCaches ∧ Claim.RegistersAreWritten ∧ Claim.EventsAreRecorded ∧ Claim.ApertureAccesses

/-- Keys, flits and the ports of the capacity tier (R163, R164, R178, R403, R409, R410). -/
def Obligations.LinkSteps : Prop :=
  Claim.KeysAreSwitched ∧ Claim.FlitsAreChecked ∧ Claim.PortsFailAndReturn

/-- Errors poison what they hit and are counted; lines and translations leave their caches
(R75, R76, R99, R105, R108, R127, R130, R153, R177, R244). -/
def Obligations.ArrayErrors : Prop :=
  Claim.ErrorsArePoison ∧ Claim.LinesLeaveTheCaches

/-- The Staram's requests are answered with their status or their data, wait while it is busy, and are refused in
recovery; when OP_SET completes and how the chunks of FW_UPDATE follow one another is the model's choice (log 25), so is the room of a
busy Staram (log 74) and the hash of the digests (log 81) (R177, R411 to R413, R415, R416, R421, R424, R425). -/
def Obligations.StaramRequests : Prop :=
  Claim.PointsAndCaps ∧ Claim.RequestsWait ∧ Claim.RecoveryRefusesRequests ∧ Claim.CountersAndReports ∧ Claim.FirmwareAndIdentity

/-- Measurements, ageing, lane retirement, trips, gating and bring-up; log 25 names the clauses that are the model's choice
(R89, R116, R177, R412, R416 to R419, R422, R424, R426). -/
def Obligations.PowerAndLanes : Prop :=
  Claim.MeasurementsAreKept ∧ Claim.LanesRetireAndTrip ∧ Claim.DiesGateAndWake ∧ Claim.ModuleComesUp
end

