-- ==== Sys2Proof/Laws/Map.lean ====
section
/-! SUPPORT. What finite maps and memories answer after they are changed, and that every operation on
a memory keeps its canonical form. -/

namespace Sys2Proof.Machine

set_option Elab.async false

variable {α : Type}

/-! ## Reading after a change -/

theorem Map.find_put (m : List (Nat × α)) (k j : Nat) (x : α) :
    Map.find (Map.put m k x) j = if k = j then some x else Map.find m j := by
  induction m with
  | nil => by_cases h : k = j <;> simp [Map.put, Map.find, h]
  | cons e r ih =>
    obtain ⟨i, y⟩ := e
    unfold Map.put
    split
    · rfl
    · split
      · rename_i h
        simp only [Map.find, h]
        split <;> rfl
      · rename_i h
        simp only [Map.find, ih]
        by_cases hi : i = j
        · have h3 : ¬ k = j := by omega
          simp [hi, h3]
        · simp [hi]

theorem Map.find_del (m : List (Nat × α)) (k j : Nat) :
    Map.find (Map.del m k) j = if k = j then none else Map.find m j := by
  induction m with
  | nil => simp [Map.del, Map.find]
  | cons e r ih =>
    obtain ⟨i, y⟩ := e
    have ih' : Map.find (r.filter fun e => e.1 != k) j = if k = j then none else Map.find r j := ih
    by_cases h : i = k
    · subst h
      by_cases hj : i = j <;> simp_all [Map.del, Map.find]
    · by_cases hj : i = j
      · subst hj
        simp [Map.del, Map.find, h, Ne.symm h]
      · simp [Map.del, Map.find, h, hj, ih']

theorem Map.get_put (m : List (Nat × α)) (k j : Nat) (x d : α) :
    Map.get (Map.put m k x) j d = if k = j then x else Map.get m j d := by
  unfold Map.get
  rw [Map.find_put]
  split <;> rfl

theorem Map.get_del (m : List (Nat × α)) (k j : Nat) (d : α) :
    Map.get (Map.del m k) j d = if k = j then d else Map.get m j d := by
  unfold Map.get
  rw [Map.find_del]
  split <;> rfl

/-- Setting a key gives it the value, whether or not the value is the default; no other key changes. -/
theorem Map.get_putD [DecidableEq α] (m : List (Nat × α)) (k j : Nat) (x d : α) :
    Map.get (Map.putD m k x d) j d = if k = j then x else Map.get m j d := by
  unfold Map.putD
  split
  · rename_i h
    rw [Map.get_del, h]
  · rw [Map.get_put]

@[simp] theorem Map.get_nil (k : Nat) (d : α) : Map.get ([] : List (Nat × α)) k d = d := rfl

/-! ## The canonical form of memories -/

theorem Map.rises_mono {m : List (Nat × α)} {lo hi : Nat} (h : lo ≤ hi)
    (hm : Map.risesFrom m hi = true) : Map.risesFrom m lo = true := by
  cases m with
  | nil => rfl
  | cons e r =>
    simp only [Map.risesFrom, Bool.and_eq_true, decide_eq_true_eq] at hm ⊢
    exact ⟨by omega, hm.2⟩

theorem Map.rises_put (m : List (Nat × α)) (k lo : Nat) (x : α) (hm : Map.risesFrom m lo = true)
    (h : lo ≤ k) : Map.risesFrom (Map.put m k x) lo = true := by
  induction m generalizing lo with
  | nil => simp [Map.put, Map.risesFrom, h]
  | cons e r ih =>
    obtain ⟨i, y⟩ := e
    simp only [Map.risesFrom, Bool.and_eq_true, decide_eq_true_eq] at hm
    rcases lt_trichotomy k i with hk | hk | hk
    · simp only [Map.put, hk, if_true, Map.risesFrom, Bool.and_eq_true, decide_eq_true_eq]
      exact ⟨h, by omega, hm.2⟩
    · subst hk
      simp only [Map.put, lt_irrefl, if_false, if_true, Map.risesFrom, Bool.and_eq_true,
        decide_eq_true_eq]
      exact ⟨h, hm.2⟩
    · have h1 : ¬ k < i := by omega
      have h2 : ¬ k = i := by omega
      simp only [Map.put, h1, h2, if_false, Map.risesFrom, Bool.and_eq_true, decide_eq_true_eq]
      exact ⟨hm.1, ih _ hm.2 (by omega)⟩

theorem Map.rises_filter (m : List (Nat × α)) (p : Nat × α → Bool) (lo : Nat)
    (hm : Map.risesFrom m lo = true) : Map.risesFrom (m.filter p) lo = true := by
  induction m generalizing lo with
  | nil => rfl
  | cons e r ih =>
    obtain ⟨i, y⟩ := e
    simp only [Map.risesFrom, Bool.and_eq_true, decide_eq_true_eq] at hm
    rw [List.filter_cons]
    split
    · simp only [Map.risesFrom, Bool.and_eq_true, decide_eq_true_eq]
      exact ⟨hm.1, ih _ hm.2⟩
    · exact ih _ (Map.rises_mono (by omega) hm.2)

theorem Map.mem_put {m : List (Nat × α)} {k : Nat} {x : α} {e : Nat × α} (h : e ∈ Map.put m k x) :
    e = (k, x) ∨ e ∈ m := by
  induction m with
  | nil => simpa [Map.put] using h
  | cons f r ih =>
    obtain ⟨i, y⟩ := f
    rw [Map.put] at h
    split at h
    · simpa using h
    · split at h
      · rcases List.mem_cons.mp h with h | h
        · exact .inl h
        · exact .inr (List.mem_cons_of_mem _ h)
      · rcases List.mem_cons.mp h with h | h
        · exact .inr (h ▸ List.mem_cons_self)
        · rcases ih h with h | h
          · exact .inl h
          · exact .inr (List.mem_cons_of_mem _ h)

theorem Memory.wf_nil : Memory.wf [] = true := rfl

theorem Memory.wf_filter (m : Memory) (p : Nat × Byte → Bool) (h : Memory.wf m = true) :
    Memory.wf (m.filter p) = true := by
  simp only [Memory.wf, Bool.and_eq_true, List.all_eq_true] at h ⊢
  exact ⟨Map.rises_filter m p 0 h.1, fun e he => h.2 e (List.mem_filter.mp he).1⟩

/-- Writing a byte keeps the canonical form. -/
theorem Memory.wf_put (m : Memory) (a : Nat) (b : Byte) (h : Memory.wf m = true) :
    Memory.wf (Memory.put m a b) = true := by
  unfold Memory.put Map.putD
  split
  · exact Memory.wf_filter m _ h
  · rename_i hb
    simp only [Memory.wf, Bool.and_eq_true, List.all_eq_true] at h ⊢
    refine ⟨Map.rises_put m a 0 b h.1 (Nat.zero_le _), fun e he => ?_⟩
    rcases Map.mem_put he with rfl | he
    · simpa using hb
    · exact h.2 e he

theorem Memory.wf_foldl_put {β : Type} (l : List β) (k : β → Nat) (v : β → Byte) (m : Memory)
    (h : Memory.wf m = true) : Memory.wf (l.foldl (fun m c => Memory.put m (k c) (v c)) m) = true := by
  induction l generalizing m with
  | nil => exact h
  | cons e r ih => exact ih _ (Memory.wf_put m _ _ h)

theorem Memory.wf_write (bs : List Byte) (m : Memory) (a : Nat) (h : Memory.wf m = true) :
    Memory.wf (Memory.write m a bs) = true := by
  induction bs generalizing m a with
  | nil => exact h
  | cons b r ih => exact ih _ _ (Memory.wf_put m a b h)

/-- A byte reads as written; every other address reads as before. -/
theorem Memory.get_put (m : Memory) (a j : Nat) (b : Byte) :
    Memory.get (Memory.put m a b) j = if a = j then b else Memory.get m j := Map.get_putD m a j b 0

theorem Memory.get_foldl_put_ne {β : Type} (l : List β) (k : β → Nat) (v : β → Byte) (m : Memory)
    (j : Nat) (h : ∀ e ∈ l, k e ≠ j) :
    Memory.get (l.foldl (fun m c => Memory.put m (k c) (v c)) m) j = Memory.get m j := by
  induction l generalizing m with
  | nil => rfl
  | cons e r ih =>
    rw [List.foldl_cons, ih _ fun f hf => h f (List.mem_cons_of_mem _ hf), Memory.get_put,
      if_neg (h e List.mem_cons_self)]

end Sys2Proof.Machine
end

