-- ==== Sys2Proof/Laws/State.lean ====
section
/-! SUPPORT. The fields of a state, a core, a wave and a fragment after each update: every field that an
update does not change reads as before; and what a core, a die or a cluster reads as after one of
them is set. -/

namespace Sys2Proof.Machine

set_option Elab.async false

/-! ## One core -/

@[simp] theorem State.setCore_agenda (s : State) (c : Nat) (x : Core) :
    (s.setCore c x).agenda = s.agenda := rfl

@[simp] theorem State.setCore_tick (s : State) (c : Nat) (x : Core) :
    (s.setCore c x).tick = s.tick := rfl

@[simp] theorem State.setCore_cur (s : State) (c : Nat) (x : Core) :
    (s.setCore c x).cur = s.cur := rfl

@[simp] theorem State.setCore_turn (s : State) (c : Nat) (x : Core) :
    (s.setCore c x).turn = s.turn := rfl

@[simp] theorem State.setCore_up (s : State) (c : Nat) (x : Core) :
    (s.setCore c x).up = s.up := rfl

@[simp] theorem State.setCore_mem (s : State) (c : Nat) (x : Core) :
    (s.setCore c x).mem = s.mem := rfl

@[simp] theorem State.setCore_secPoison (s : State) (c : Nat) (x : Core) :
    (s.setCore c x).secPoison = s.secPoison := rfl

@[simp] theorem State.setCore_capPoison (s : State) (c : Nat) (x : Core) :
    (s.setCore c x).capPoison = s.capPoison := rfl

@[simp] theorem State.setCore_dies (s : State) (c : Nat) (x : Core) :
    (s.setCore c x).dies = s.dies := rfl

@[simp] theorem State.setCore_clusters (s : State) (c : Nat) (x : Core) :
    (s.setCore c x).clusters = s.clusters := rfl

@[simp] theorem State.setCore_stokeQ (s : State) (c : Nat) (x : Core) :
    (s.setCore c x).stokeQ = s.stokeQ := rfl

@[simp] theorem State.setCore_launches (s : State) (c : Nat) (x : Core) :
    (s.setCore c x).launches = s.launches := rfl

@[simp] theorem State.setCore_nextLaunch (s : State) (c : Nat) (x : Core) :
    (s.setCore c x).nextLaunch = s.nextLaunch := rfl

@[simp] theorem State.setCore_lastOffered (s : State) (c : Nat) (x : Core) :
    (s.setCore c x).lastOffered = s.lastOffered := rfl

@[simp] theorem State.setCore_predictor (s : State) (c : Nat) (x : Core) :
    (s.setCore c x).predictor = s.predictor := rfl

@[simp] theorem State.setCore_drawReqs (s : State) (c : Nat) (x : Core) :
    (s.setCore c x).drawReqs = s.drawReqs := rfl

@[simp] theorem State.setCore_notices (s : State) (c : Nat) (x : Core) :
    (s.setCore c x).notices = s.notices := rfl

@[simp] theorem State.setCore_groupRegs (s : State) (c : Nat) (x : Core) :
    (s.setCore c x).groupRegs = s.groupRegs := rfl

@[simp] theorem State.setCore_groups (s : State) (c : Nat) (x : Core) :
    (s.setCore c x).groups = s.groups := rfl

@[simp] theorem State.setCore_nextGroup (s : State) (c : Nat) (x : Core) :
    (s.setCore c x).nextGroup = s.nextGroup := rfl

@[simp] theorem State.setCore_restoreReqs (s : State) (c : Nat) (x : Core) :
    (s.setCore c x).restoreReqs = s.restoreReqs := rfl

@[simp] theorem State.setCore_saved (s : State) (c : Nat) (x : Core) :
    (s.setCore c x).saved = s.saved := rfl

@[simp] theorem State.setCore_host (s : State) (c : Nat) (x : Core) :
    (s.setCore c x).host = s.host := rfl

@[simp] theorem State.setCore_eventQ (s : State) (c : Nat) (x : Core) :
    (s.setCore c x).eventQ = s.eventQ := rfl

@[simp] theorem State.setCore_joins (s : State) (c : Nat) (x : Core) :
    (s.setCore c x).joins = s.joins := rfl

@[simp] theorem State.setCore_hostOut (s : State) (c : Nat) (x : Core) :
    (s.setCore c x).hostOut = s.hostOut := rfl

@[simp] theorem State.setCore_hostReply (s : State) (c : Nat) (x : Core) :
    (s.setCore c x).hostReply = s.hostReply := rfl

@[simp] theorem State.setCore_msix (s : State) (c : Nat) (x : Core) :
    (s.setCore c x).msix = s.msix := rfl

@[simp] theorem State.setCore_rstIn (s : State) (c : Nat) (x : Core) :
    (s.setCore c x).rstIn = s.rstIn := rfl

@[simp] theorem State.setCore_rmoIn (s : State) (c : Nat) (x : Core) :
    (s.setCore c x).rmoIn = s.rmoIn := rfl

@[simp] theorem State.setCore_linkUp (s : State) (c : Nat) (x : Core) :
    (s.setCore c x).linkUp = s.linkUp := rfl

@[simp] theorem State.setCore_cxlUp (s : State) (c : Nat) (x : Core) :
    (s.setCore c x).cxlUp = s.cxlUp := rfl

@[simp] theorem State.setCore_stoker (s : State) (c : Nat) (x : Core) :
    (s.setCore c x).stoker = s.stoker := rfl

@[simp] theorem State.setCore_staram (s : State) (c : Nat) (x : Core) :
    (s.setCore c x).staram = s.staram := rfl

@[simp] theorem State.setCore_flue (s : State) (c : Nat) (x : Core) :
    (s.setCore c x).flue = s.flue := rfl

/-! ## One core, changed in place -/

@[simp] theorem State.updCore_agenda (s : State) (c : Nat) (f : Core → Core) :
    (s.updCore c f).agenda = s.agenda := rfl

@[simp] theorem State.updCore_tick (s : State) (c : Nat) (f : Core → Core) :
    (s.updCore c f).tick = s.tick := rfl

@[simp] theorem State.updCore_cur (s : State) (c : Nat) (f : Core → Core) :
    (s.updCore c f).cur = s.cur := rfl

@[simp] theorem State.updCore_turn (s : State) (c : Nat) (f : Core → Core) :
    (s.updCore c f).turn = s.turn := rfl

@[simp] theorem State.updCore_up (s : State) (c : Nat) (f : Core → Core) :
    (s.updCore c f).up = s.up := rfl

@[simp] theorem State.updCore_mem (s : State) (c : Nat) (f : Core → Core) :
    (s.updCore c f).mem = s.mem := rfl

@[simp] theorem State.updCore_secPoison (s : State) (c : Nat) (f : Core → Core) :
    (s.updCore c f).secPoison = s.secPoison := rfl

@[simp] theorem State.updCore_capPoison (s : State) (c : Nat) (f : Core → Core) :
    (s.updCore c f).capPoison = s.capPoison := rfl

@[simp] theorem State.updCore_dies (s : State) (c : Nat) (f : Core → Core) :
    (s.updCore c f).dies = s.dies := rfl

@[simp] theorem State.updCore_clusters (s : State) (c : Nat) (f : Core → Core) :
    (s.updCore c f).clusters = s.clusters := rfl

@[simp] theorem State.updCore_stokeQ (s : State) (c : Nat) (f : Core → Core) :
    (s.updCore c f).stokeQ = s.stokeQ := rfl

@[simp] theorem State.updCore_launches (s : State) (c : Nat) (f : Core → Core) :
    (s.updCore c f).launches = s.launches := rfl

@[simp] theorem State.updCore_nextLaunch (s : State) (c : Nat) (f : Core → Core) :
    (s.updCore c f).nextLaunch = s.nextLaunch := rfl

@[simp] theorem State.updCore_lastOffered (s : State) (c : Nat) (f : Core → Core) :
    (s.updCore c f).lastOffered = s.lastOffered := rfl

@[simp] theorem State.updCore_predictor (s : State) (c : Nat) (f : Core → Core) :
    (s.updCore c f).predictor = s.predictor := rfl

@[simp] theorem State.updCore_drawReqs (s : State) (c : Nat) (f : Core → Core) :
    (s.updCore c f).drawReqs = s.drawReqs := rfl

@[simp] theorem State.updCore_notices (s : State) (c : Nat) (f : Core → Core) :
    (s.updCore c f).notices = s.notices := rfl

@[simp] theorem State.updCore_groupRegs (s : State) (c : Nat) (f : Core → Core) :
    (s.updCore c f).groupRegs = s.groupRegs := rfl

@[simp] theorem State.updCore_groups (s : State) (c : Nat) (f : Core → Core) :
    (s.updCore c f).groups = s.groups := rfl

@[simp] theorem State.updCore_nextGroup (s : State) (c : Nat) (f : Core → Core) :
    (s.updCore c f).nextGroup = s.nextGroup := rfl

@[simp] theorem State.updCore_restoreReqs (s : State) (c : Nat) (f : Core → Core) :
    (s.updCore c f).restoreReqs = s.restoreReqs := rfl

@[simp] theorem State.updCore_saved (s : State) (c : Nat) (f : Core → Core) :
    (s.updCore c f).saved = s.saved := rfl

@[simp] theorem State.updCore_host (s : State) (c : Nat) (f : Core → Core) :
    (s.updCore c f).host = s.host := rfl

@[simp] theorem State.updCore_eventQ (s : State) (c : Nat) (f : Core → Core) :
    (s.updCore c f).eventQ = s.eventQ := rfl

@[simp] theorem State.updCore_joins (s : State) (c : Nat) (f : Core → Core) :
    (s.updCore c f).joins = s.joins := rfl

@[simp] theorem State.updCore_hostOut (s : State) (c : Nat) (f : Core → Core) :
    (s.updCore c f).hostOut = s.hostOut := rfl

@[simp] theorem State.updCore_hostReply (s : State) (c : Nat) (f : Core → Core) :
    (s.updCore c f).hostReply = s.hostReply := rfl

@[simp] theorem State.updCore_msix (s : State) (c : Nat) (f : Core → Core) :
    (s.updCore c f).msix = s.msix := rfl

@[simp] theorem State.updCore_rstIn (s : State) (c : Nat) (f : Core → Core) :
    (s.updCore c f).rstIn = s.rstIn := rfl

@[simp] theorem State.updCore_rmoIn (s : State) (c : Nat) (f : Core → Core) :
    (s.updCore c f).rmoIn = s.rmoIn := rfl

@[simp] theorem State.updCore_linkUp (s : State) (c : Nat) (f : Core → Core) :
    (s.updCore c f).linkUp = s.linkUp := rfl

@[simp] theorem State.updCore_cxlUp (s : State) (c : Nat) (f : Core → Core) :
    (s.updCore c f).cxlUp = s.cxlUp := rfl

@[simp] theorem State.updCore_stoker (s : State) (c : Nat) (f : Core → Core) :
    (s.updCore c f).stoker = s.stoker := rfl

@[simp] theorem State.updCore_staram (s : State) (c : Nat) (f : Core → Core) :
    (s.updCore c f).staram = s.staram := rfl

@[simp] theorem State.updCore_flue (s : State) (c : Nat) (f : Core → Core) :
    (s.updCore c f).flue = s.flue := rfl

/-! ## One die -/

@[simp] theorem State.updDie_agenda (s : State) (d : Nat) (f : Die → Die) :
    (s.updDie d f).agenda = s.agenda := rfl

@[simp] theorem State.updDie_tick (s : State) (d : Nat) (f : Die → Die) :
    (s.updDie d f).tick = s.tick := rfl

@[simp] theorem State.updDie_cur (s : State) (d : Nat) (f : Die → Die) :
    (s.updDie d f).cur = s.cur := rfl

@[simp] theorem State.updDie_turn (s : State) (d : Nat) (f : Die → Die) :
    (s.updDie d f).turn = s.turn := rfl

@[simp] theorem State.updDie_up (s : State) (d : Nat) (f : Die → Die) :
    (s.updDie d f).up = s.up := rfl

@[simp] theorem State.updDie_mem (s : State) (d : Nat) (f : Die → Die) :
    (s.updDie d f).mem = s.mem := rfl

@[simp] theorem State.updDie_secPoison (s : State) (d : Nat) (f : Die → Die) :
    (s.updDie d f).secPoison = s.secPoison := rfl

@[simp] theorem State.updDie_capPoison (s : State) (d : Nat) (f : Die → Die) :
    (s.updDie d f).capPoison = s.capPoison := rfl

@[simp] theorem State.updDie_cores (s : State) (d : Nat) (f : Die → Die) :
    (s.updDie d f).cores = s.cores := rfl

@[simp] theorem State.updDie_clusters (s : State) (d : Nat) (f : Die → Die) :
    (s.updDie d f).clusters = s.clusters := rfl

@[simp] theorem State.updDie_stokeQ (s : State) (d : Nat) (f : Die → Die) :
    (s.updDie d f).stokeQ = s.stokeQ := rfl

@[simp] theorem State.updDie_launches (s : State) (d : Nat) (f : Die → Die) :
    (s.updDie d f).launches = s.launches := rfl

@[simp] theorem State.updDie_nextLaunch (s : State) (d : Nat) (f : Die → Die) :
    (s.updDie d f).nextLaunch = s.nextLaunch := rfl

@[simp] theorem State.updDie_lastOffered (s : State) (d : Nat) (f : Die → Die) :
    (s.updDie d f).lastOffered = s.lastOffered := rfl

@[simp] theorem State.updDie_predictor (s : State) (d : Nat) (f : Die → Die) :
    (s.updDie d f).predictor = s.predictor := rfl

@[simp] theorem State.updDie_drawReqs (s : State) (d : Nat) (f : Die → Die) :
    (s.updDie d f).drawReqs = s.drawReqs := rfl

@[simp] theorem State.updDie_notices (s : State) (d : Nat) (f : Die → Die) :
    (s.updDie d f).notices = s.notices := rfl

@[simp] theorem State.updDie_groupRegs (s : State) (d : Nat) (f : Die → Die) :
    (s.updDie d f).groupRegs = s.groupRegs := rfl

@[simp] theorem State.updDie_groups (s : State) (d : Nat) (f : Die → Die) :
    (s.updDie d f).groups = s.groups := rfl

@[simp] theorem State.updDie_nextGroup (s : State) (d : Nat) (f : Die → Die) :
    (s.updDie d f).nextGroup = s.nextGroup := rfl

@[simp] theorem State.updDie_restoreReqs (s : State) (d : Nat) (f : Die → Die) :
    (s.updDie d f).restoreReqs = s.restoreReqs := rfl

@[simp] theorem State.updDie_saved (s : State) (d : Nat) (f : Die → Die) :
    (s.updDie d f).saved = s.saved := rfl

@[simp] theorem State.updDie_host (s : State) (d : Nat) (f : Die → Die) :
    (s.updDie d f).host = s.host := rfl

@[simp] theorem State.updDie_eventQ (s : State) (d : Nat) (f : Die → Die) :
    (s.updDie d f).eventQ = s.eventQ := rfl

@[simp] theorem State.updDie_joins (s : State) (d : Nat) (f : Die → Die) :
    (s.updDie d f).joins = s.joins := rfl

@[simp] theorem State.updDie_hostOut (s : State) (d : Nat) (f : Die → Die) :
    (s.updDie d f).hostOut = s.hostOut := rfl

@[simp] theorem State.updDie_hostReply (s : State) (d : Nat) (f : Die → Die) :
    (s.updDie d f).hostReply = s.hostReply := rfl

@[simp] theorem State.updDie_msix (s : State) (d : Nat) (f : Die → Die) :
    (s.updDie d f).msix = s.msix := rfl

@[simp] theorem State.updDie_rstIn (s : State) (d : Nat) (f : Die → Die) :
    (s.updDie d f).rstIn = s.rstIn := rfl

@[simp] theorem State.updDie_rmoIn (s : State) (d : Nat) (f : Die → Die) :
    (s.updDie d f).rmoIn = s.rmoIn := rfl

@[simp] theorem State.updDie_linkUp (s : State) (d : Nat) (f : Die → Die) :
    (s.updDie d f).linkUp = s.linkUp := rfl

@[simp] theorem State.updDie_cxlUp (s : State) (d : Nat) (f : Die → Die) :
    (s.updDie d f).cxlUp = s.cxlUp := rfl

@[simp] theorem State.updDie_stoker (s : State) (d : Nat) (f : Die → Die) :
    (s.updDie d f).stoker = s.stoker := rfl

@[simp] theorem State.updDie_staram (s : State) (d : Nat) (f : Die → Die) :
    (s.updDie d f).staram = s.staram := rfl

@[simp] theorem State.updDie_flue (s : State) (d : Nat) (f : Die → Die) :
    (s.updDie d f).flue = s.flue := rfl

/-! ## One cluster -/

@[simp] theorem State.updCluster_agenda (s : State) (k : Nat) (f : Cluster → Cluster) :
    (s.updCluster k f).agenda = s.agenda := rfl

@[simp] theorem State.updCluster_tick (s : State) (k : Nat) (f : Cluster → Cluster) :
    (s.updCluster k f).tick = s.tick := rfl

@[simp] theorem State.updCluster_cur (s : State) (k : Nat) (f : Cluster → Cluster) :
    (s.updCluster k f).cur = s.cur := rfl

@[simp] theorem State.updCluster_turn (s : State) (k : Nat) (f : Cluster → Cluster) :
    (s.updCluster k f).turn = s.turn := rfl

@[simp] theorem State.updCluster_up (s : State) (k : Nat) (f : Cluster → Cluster) :
    (s.updCluster k f).up = s.up := rfl

@[simp] theorem State.updCluster_mem (s : State) (k : Nat) (f : Cluster → Cluster) :
    (s.updCluster k f).mem = s.mem := rfl

@[simp] theorem State.updCluster_secPoison (s : State) (k : Nat) (f : Cluster → Cluster) :
    (s.updCluster k f).secPoison = s.secPoison := rfl

@[simp] theorem State.updCluster_capPoison (s : State) (k : Nat) (f : Cluster → Cluster) :
    (s.updCluster k f).capPoison = s.capPoison := rfl

@[simp] theorem State.updCluster_cores (s : State) (k : Nat) (f : Cluster → Cluster) :
    (s.updCluster k f).cores = s.cores := rfl

@[simp] theorem State.updCluster_dies (s : State) (k : Nat) (f : Cluster → Cluster) :
    (s.updCluster k f).dies = s.dies := rfl

@[simp] theorem State.updCluster_stokeQ (s : State) (k : Nat) (f : Cluster → Cluster) :
    (s.updCluster k f).stokeQ = s.stokeQ := rfl

@[simp] theorem State.updCluster_launches (s : State) (k : Nat) (f : Cluster → Cluster) :
    (s.updCluster k f).launches = s.launches := rfl

@[simp] theorem State.updCluster_nextLaunch (s : State) (k : Nat) (f : Cluster → Cluster) :
    (s.updCluster k f).nextLaunch = s.nextLaunch := rfl

@[simp] theorem State.updCluster_lastOffered (s : State) (k : Nat) (f : Cluster → Cluster) :
    (s.updCluster k f).lastOffered = s.lastOffered := rfl

@[simp] theorem State.updCluster_predictor (s : State) (k : Nat) (f : Cluster → Cluster) :
    (s.updCluster k f).predictor = s.predictor := rfl

@[simp] theorem State.updCluster_drawReqs (s : State) (k : Nat) (f : Cluster → Cluster) :
    (s.updCluster k f).drawReqs = s.drawReqs := rfl

@[simp] theorem State.updCluster_notices (s : State) (k : Nat) (f : Cluster → Cluster) :
    (s.updCluster k f).notices = s.notices := rfl

@[simp] theorem State.updCluster_groupRegs (s : State) (k : Nat) (f : Cluster → Cluster) :
    (s.updCluster k f).groupRegs = s.groupRegs := rfl

@[simp] theorem State.updCluster_groups (s : State) (k : Nat) (f : Cluster → Cluster) :
    (s.updCluster k f).groups = s.groups := rfl

@[simp] theorem State.updCluster_nextGroup (s : State) (k : Nat) (f : Cluster → Cluster) :
    (s.updCluster k f).nextGroup = s.nextGroup := rfl

@[simp] theorem State.updCluster_restoreReqs (s : State) (k : Nat) (f : Cluster → Cluster) :
    (s.updCluster k f).restoreReqs = s.restoreReqs := rfl

@[simp] theorem State.updCluster_saved (s : State) (k : Nat) (f : Cluster → Cluster) :
    (s.updCluster k f).saved = s.saved := rfl

@[simp] theorem State.updCluster_host (s : State) (k : Nat) (f : Cluster → Cluster) :
    (s.updCluster k f).host = s.host := rfl

@[simp] theorem State.updCluster_eventQ (s : State) (k : Nat) (f : Cluster → Cluster) :
    (s.updCluster k f).eventQ = s.eventQ := rfl

@[simp] theorem State.updCluster_joins (s : State) (k : Nat) (f : Cluster → Cluster) :
    (s.updCluster k f).joins = s.joins := rfl

@[simp] theorem State.updCluster_hostOut (s : State) (k : Nat) (f : Cluster → Cluster) :
    (s.updCluster k f).hostOut = s.hostOut := rfl

@[simp] theorem State.updCluster_hostReply (s : State) (k : Nat) (f : Cluster → Cluster) :
    (s.updCluster k f).hostReply = s.hostReply := rfl

@[simp] theorem State.updCluster_msix (s : State) (k : Nat) (f : Cluster → Cluster) :
    (s.updCluster k f).msix = s.msix := rfl

@[simp] theorem State.updCluster_rstIn (s : State) (k : Nat) (f : Cluster → Cluster) :
    (s.updCluster k f).rstIn = s.rstIn := rfl

@[simp] theorem State.updCluster_rmoIn (s : State) (k : Nat) (f : Cluster → Cluster) :
    (s.updCluster k f).rmoIn = s.rmoIn := rfl

@[simp] theorem State.updCluster_linkUp (s : State) (k : Nat) (f : Cluster → Cluster) :
    (s.updCluster k f).linkUp = s.linkUp := rfl

@[simp] theorem State.updCluster_cxlUp (s : State) (k : Nat) (f : Cluster → Cluster) :
    (s.updCluster k f).cxlUp = s.cxlUp := rfl

@[simp] theorem State.updCluster_stoker (s : State) (k : Nat) (f : Cluster → Cluster) :
    (s.updCluster k f).stoker = s.stoker := rfl

@[simp] theorem State.updCluster_staram (s : State) (k : Nat) (f : Cluster → Cluster) :
    (s.updCluster k f).staram = s.staram := rfl

@[simp] theorem State.updCluster_flue (s : State) (k : Nat) (f : Cluster → Cluster) :
    (s.updCluster k f).flue = s.flue := rfl

/-! ## One wave -/

@[simp] theorem State.updWave_agenda (s : State) (c w : Nat) (f : Wave → Wave) :
    (s.updWave c w f).agenda = s.agenda := rfl

@[simp] theorem State.updWave_tick (s : State) (c w : Nat) (f : Wave → Wave) :
    (s.updWave c w f).tick = s.tick := rfl

@[simp] theorem State.updWave_cur (s : State) (c w : Nat) (f : Wave → Wave) :
    (s.updWave c w f).cur = s.cur := rfl

@[simp] theorem State.updWave_turn (s : State) (c w : Nat) (f : Wave → Wave) :
    (s.updWave c w f).turn = s.turn := rfl

@[simp] theorem State.updWave_up (s : State) (c w : Nat) (f : Wave → Wave) :
    (s.updWave c w f).up = s.up := rfl

@[simp] theorem State.updWave_mem (s : State) (c w : Nat) (f : Wave → Wave) :
    (s.updWave c w f).mem = s.mem := rfl

@[simp] theorem State.updWave_secPoison (s : State) (c w : Nat) (f : Wave → Wave) :
    (s.updWave c w f).secPoison = s.secPoison := rfl

@[simp] theorem State.updWave_capPoison (s : State) (c w : Nat) (f : Wave → Wave) :
    (s.updWave c w f).capPoison = s.capPoison := rfl

@[simp] theorem State.updWave_dies (s : State) (c w : Nat) (f : Wave → Wave) :
    (s.updWave c w f).dies = s.dies := rfl

@[simp] theorem State.updWave_clusters (s : State) (c w : Nat) (f : Wave → Wave) :
    (s.updWave c w f).clusters = s.clusters := rfl

@[simp] theorem State.updWave_stokeQ (s : State) (c w : Nat) (f : Wave → Wave) :
    (s.updWave c w f).stokeQ = s.stokeQ := rfl

@[simp] theorem State.updWave_launches (s : State) (c w : Nat) (f : Wave → Wave) :
    (s.updWave c w f).launches = s.launches := rfl

@[simp] theorem State.updWave_nextLaunch (s : State) (c w : Nat) (f : Wave → Wave) :
    (s.updWave c w f).nextLaunch = s.nextLaunch := rfl

@[simp] theorem State.updWave_lastOffered (s : State) (c w : Nat) (f : Wave → Wave) :
    (s.updWave c w f).lastOffered = s.lastOffered := rfl

@[simp] theorem State.updWave_predictor (s : State) (c w : Nat) (f : Wave → Wave) :
    (s.updWave c w f).predictor = s.predictor := rfl

@[simp] theorem State.updWave_drawReqs (s : State) (c w : Nat) (f : Wave → Wave) :
    (s.updWave c w f).drawReqs = s.drawReqs := rfl

@[simp] theorem State.updWave_notices (s : State) (c w : Nat) (f : Wave → Wave) :
    (s.updWave c w f).notices = s.notices := rfl

@[simp] theorem State.updWave_groupRegs (s : State) (c w : Nat) (f : Wave → Wave) :
    (s.updWave c w f).groupRegs = s.groupRegs := rfl

@[simp] theorem State.updWave_groups (s : State) (c w : Nat) (f : Wave → Wave) :
    (s.updWave c w f).groups = s.groups := rfl

@[simp] theorem State.updWave_nextGroup (s : State) (c w : Nat) (f : Wave → Wave) :
    (s.updWave c w f).nextGroup = s.nextGroup := rfl

@[simp] theorem State.updWave_restoreReqs (s : State) (c w : Nat) (f : Wave → Wave) :
    (s.updWave c w f).restoreReqs = s.restoreReqs := rfl

@[simp] theorem State.updWave_saved (s : State) (c w : Nat) (f : Wave → Wave) :
    (s.updWave c w f).saved = s.saved := rfl

@[simp] theorem State.updWave_host (s : State) (c w : Nat) (f : Wave → Wave) :
    (s.updWave c w f).host = s.host := rfl

@[simp] theorem State.updWave_eventQ (s : State) (c w : Nat) (f : Wave → Wave) :
    (s.updWave c w f).eventQ = s.eventQ := rfl

@[simp] theorem State.updWave_joins (s : State) (c w : Nat) (f : Wave → Wave) :
    (s.updWave c w f).joins = s.joins := rfl

@[simp] theorem State.updWave_hostOut (s : State) (c w : Nat) (f : Wave → Wave) :
    (s.updWave c w f).hostOut = s.hostOut := rfl

@[simp] theorem State.updWave_hostReply (s : State) (c w : Nat) (f : Wave → Wave) :
    (s.updWave c w f).hostReply = s.hostReply := rfl

@[simp] theorem State.updWave_msix (s : State) (c w : Nat) (f : Wave → Wave) :
    (s.updWave c w f).msix = s.msix := rfl

@[simp] theorem State.updWave_rstIn (s : State) (c w : Nat) (f : Wave → Wave) :
    (s.updWave c w f).rstIn = s.rstIn := rfl

@[simp] theorem State.updWave_rmoIn (s : State) (c w : Nat) (f : Wave → Wave) :
    (s.updWave c w f).rmoIn = s.rmoIn := rfl

@[simp] theorem State.updWave_linkUp (s : State) (c w : Nat) (f : Wave → Wave) :
    (s.updWave c w f).linkUp = s.linkUp := rfl

@[simp] theorem State.updWave_cxlUp (s : State) (c w : Nat) (f : Wave → Wave) :
    (s.updWave c w f).cxlUp = s.cxlUp := rfl

@[simp] theorem State.updWave_stoker (s : State) (c w : Nat) (f : Wave → Wave) :
    (s.updWave c w f).stoker = s.stoker := rfl

@[simp] theorem State.updWave_staram (s : State) (c w : Nat) (f : Wave → Wave) :
    (s.updWave c w f).staram = s.staram := rfl

@[simp] theorem State.updWave_flue (s : State) (c w : Nat) (f : Wave → Wave) :
    (s.updWave c w f).flue = s.flue := rfl

/-! ## One operation -/

@[simp] theorem State.updOp_agenda (s : State) (c w : Nat) (n : HNum) (f : Op → Op) :
    (s.updOp c w n f).agenda = s.agenda := rfl

@[simp] theorem State.updOp_tick (s : State) (c w : Nat) (n : HNum) (f : Op → Op) :
    (s.updOp c w n f).tick = s.tick := rfl

@[simp] theorem State.updOp_cur (s : State) (c w : Nat) (n : HNum) (f : Op → Op) :
    (s.updOp c w n f).cur = s.cur := rfl

@[simp] theorem State.updOp_turn (s : State) (c w : Nat) (n : HNum) (f : Op → Op) :
    (s.updOp c w n f).turn = s.turn := rfl

@[simp] theorem State.updOp_up (s : State) (c w : Nat) (n : HNum) (f : Op → Op) :
    (s.updOp c w n f).up = s.up := rfl

@[simp] theorem State.updOp_mem (s : State) (c w : Nat) (n : HNum) (f : Op → Op) :
    (s.updOp c w n f).mem = s.mem := rfl

@[simp] theorem State.updOp_secPoison (s : State) (c w : Nat) (n : HNum) (f : Op → Op) :
    (s.updOp c w n f).secPoison = s.secPoison := rfl

@[simp] theorem State.updOp_capPoison (s : State) (c w : Nat) (n : HNum) (f : Op → Op) :
    (s.updOp c w n f).capPoison = s.capPoison := rfl

@[simp] theorem State.updOp_dies (s : State) (c w : Nat) (n : HNum) (f : Op → Op) :
    (s.updOp c w n f).dies = s.dies := rfl

@[simp] theorem State.updOp_clusters (s : State) (c w : Nat) (n : HNum) (f : Op → Op) :
    (s.updOp c w n f).clusters = s.clusters := rfl

@[simp] theorem State.updOp_stokeQ (s : State) (c w : Nat) (n : HNum) (f : Op → Op) :
    (s.updOp c w n f).stokeQ = s.stokeQ := rfl

@[simp] theorem State.updOp_launches (s : State) (c w : Nat) (n : HNum) (f : Op → Op) :
    (s.updOp c w n f).launches = s.launches := rfl

@[simp] theorem State.updOp_nextLaunch (s : State) (c w : Nat) (n : HNum) (f : Op → Op) :
    (s.updOp c w n f).nextLaunch = s.nextLaunch := rfl

@[simp] theorem State.updOp_lastOffered (s : State) (c w : Nat) (n : HNum) (f : Op → Op) :
    (s.updOp c w n f).lastOffered = s.lastOffered := rfl

@[simp] theorem State.updOp_predictor (s : State) (c w : Nat) (n : HNum) (f : Op → Op) :
    (s.updOp c w n f).predictor = s.predictor := rfl

@[simp] theorem State.updOp_drawReqs (s : State) (c w : Nat) (n : HNum) (f : Op → Op) :
    (s.updOp c w n f).drawReqs = s.drawReqs := rfl

@[simp] theorem State.updOp_notices (s : State) (c w : Nat) (n : HNum) (f : Op → Op) :
    (s.updOp c w n f).notices = s.notices := rfl

@[simp] theorem State.updOp_groupRegs (s : State) (c w : Nat) (n : HNum) (f : Op → Op) :
    (s.updOp c w n f).groupRegs = s.groupRegs := rfl

@[simp] theorem State.updOp_groups (s : State) (c w : Nat) (n : HNum) (f : Op → Op) :
    (s.updOp c w n f).groups = s.groups := rfl

@[simp] theorem State.updOp_nextGroup (s : State) (c w : Nat) (n : HNum) (f : Op → Op) :
    (s.updOp c w n f).nextGroup = s.nextGroup := rfl

@[simp] theorem State.updOp_restoreReqs (s : State) (c w : Nat) (n : HNum) (f : Op → Op) :
    (s.updOp c w n f).restoreReqs = s.restoreReqs := rfl

@[simp] theorem State.updOp_saved (s : State) (c w : Nat) (n : HNum) (f : Op → Op) :
    (s.updOp c w n f).saved = s.saved := rfl

@[simp] theorem State.updOp_host (s : State) (c w : Nat) (n : HNum) (f : Op → Op) :
    (s.updOp c w n f).host = s.host := rfl

@[simp] theorem State.updOp_eventQ (s : State) (c w : Nat) (n : HNum) (f : Op → Op) :
    (s.updOp c w n f).eventQ = s.eventQ := rfl

@[simp] theorem State.updOp_joins (s : State) (c w : Nat) (n : HNum) (f : Op → Op) :
    (s.updOp c w n f).joins = s.joins := rfl

@[simp] theorem State.updOp_hostOut (s : State) (c w : Nat) (n : HNum) (f : Op → Op) :
    (s.updOp c w n f).hostOut = s.hostOut := rfl

@[simp] theorem State.updOp_hostReply (s : State) (c w : Nat) (n : HNum) (f : Op → Op) :
    (s.updOp c w n f).hostReply = s.hostReply := rfl

@[simp] theorem State.updOp_msix (s : State) (c w : Nat) (n : HNum) (f : Op → Op) :
    (s.updOp c w n f).msix = s.msix := rfl

@[simp] theorem State.updOp_rstIn (s : State) (c w : Nat) (n : HNum) (f : Op → Op) :
    (s.updOp c w n f).rstIn = s.rstIn := rfl

@[simp] theorem State.updOp_rmoIn (s : State) (c w : Nat) (n : HNum) (f : Op → Op) :
    (s.updOp c w n f).rmoIn = s.rmoIn := rfl

@[simp] theorem State.updOp_linkUp (s : State) (c w : Nat) (n : HNum) (f : Op → Op) :
    (s.updOp c w n f).linkUp = s.linkUp := rfl

@[simp] theorem State.updOp_cxlUp (s : State) (c w : Nat) (n : HNum) (f : Op → Op) :
    (s.updOp c w n f).cxlUp = s.cxlUp := rfl

@[simp] theorem State.updOp_stoker (s : State) (c w : Nat) (n : HNum) (f : Op → Op) :
    (s.updOp c w n f).stoker = s.stoker := rfl

@[simp] theorem State.updOp_staram (s : State) (c w : Nat) (n : HNum) (f : Op → Op) :
    (s.updOp c w n f).staram = s.staram := rfl

@[simp] theorem State.updOp_flue (s : State) (c w : Nat) (n : HNum) (f : Op → Op) :
    (s.updOp c w n f).flue = s.flue := rfl

/-! ## The issuing word -/

@[simp] theorem State.save_agenda (s : State) (x : Ctx) :
    (s.save x).agenda = s.agenda := rfl

@[simp] theorem State.save_tick (s : State) (x : Ctx) :
    (s.save x).tick = s.tick := rfl

@[simp] theorem State.save_cur (s : State) (x : Ctx) :
    (s.save x).cur = s.cur := rfl

@[simp] theorem State.save_turn (s : State) (x : Ctx) :
    (s.save x).turn = s.turn := rfl

@[simp] theorem State.save_up (s : State) (x : Ctx) :
    (s.save x).up = s.up := rfl

@[simp] theorem State.save_mem (s : State) (x : Ctx) :
    (s.save x).mem = s.mem := rfl

@[simp] theorem State.save_secPoison (s : State) (x : Ctx) :
    (s.save x).secPoison = s.secPoison := rfl

@[simp] theorem State.save_capPoison (s : State) (x : Ctx) :
    (s.save x).capPoison = s.capPoison := rfl

@[simp] theorem State.save_dies (s : State) (x : Ctx) :
    (s.save x).dies = s.dies := rfl

@[simp] theorem State.save_clusters (s : State) (x : Ctx) :
    (s.save x).clusters = s.clusters := rfl

@[simp] theorem State.save_stokeQ (s : State) (x : Ctx) :
    (s.save x).stokeQ = s.stokeQ := rfl

@[simp] theorem State.save_launches (s : State) (x : Ctx) :
    (s.save x).launches = s.launches := rfl

@[simp] theorem State.save_nextLaunch (s : State) (x : Ctx) :
    (s.save x).nextLaunch = s.nextLaunch := rfl

@[simp] theorem State.save_lastOffered (s : State) (x : Ctx) :
    (s.save x).lastOffered = s.lastOffered := rfl

@[simp] theorem State.save_predictor (s : State) (x : Ctx) :
    (s.save x).predictor = s.predictor := rfl

@[simp] theorem State.save_drawReqs (s : State) (x : Ctx) :
    (s.save x).drawReqs = s.drawReqs := rfl

@[simp] theorem State.save_notices (s : State) (x : Ctx) :
    (s.save x).notices = s.notices := rfl

@[simp] theorem State.save_groupRegs (s : State) (x : Ctx) :
    (s.save x).groupRegs = s.groupRegs := rfl

@[simp] theorem State.save_groups (s : State) (x : Ctx) :
    (s.save x).groups = s.groups := rfl

@[simp] theorem State.save_nextGroup (s : State) (x : Ctx) :
    (s.save x).nextGroup = s.nextGroup := rfl

@[simp] theorem State.save_restoreReqs (s : State) (x : Ctx) :
    (s.save x).restoreReqs = s.restoreReqs := rfl

@[simp] theorem State.save_saved (s : State) (x : Ctx) :
    (s.save x).saved = s.saved := rfl

@[simp] theorem State.save_host (s : State) (x : Ctx) :
    (s.save x).host = s.host := rfl

@[simp] theorem State.save_eventQ (s : State) (x : Ctx) :
    (s.save x).eventQ = s.eventQ := rfl

@[simp] theorem State.save_joins (s : State) (x : Ctx) :
    (s.save x).joins = s.joins := rfl

@[simp] theorem State.save_hostOut (s : State) (x : Ctx) :
    (s.save x).hostOut = s.hostOut := rfl

@[simp] theorem State.save_hostReply (s : State) (x : Ctx) :
    (s.save x).hostReply = s.hostReply := rfl

@[simp] theorem State.save_msix (s : State) (x : Ctx) :
    (s.save x).msix = s.msix := rfl

@[simp] theorem State.save_rstIn (s : State) (x : Ctx) :
    (s.save x).rstIn = s.rstIn := rfl

@[simp] theorem State.save_rmoIn (s : State) (x : Ctx) :
    (s.save x).rmoIn = s.rmoIn := rfl

@[simp] theorem State.save_linkUp (s : State) (x : Ctx) :
    (s.save x).linkUp = s.linkUp := rfl

@[simp] theorem State.save_cxlUp (s : State) (x : Ctx) :
    (s.save x).cxlUp = s.cxlUp := rfl

@[simp] theorem State.save_stoker (s : State) (x : Ctx) :
    (s.save x).stoker = s.stoker := rfl

@[simp] theorem State.save_staram (s : State) (x : Ctx) :
    (s.save x).staram = s.staram := rfl

@[simp] theorem State.save_flue (s : State) (x : Ctx) :
    (s.save x).flue = s.flue := rfl

/-! ## Homes -/

@[simp] theorem State.writeHome_agenda (s : State) (cells : List (Nat × Byte)) :
    (s.writeHome cells).agenda = s.agenda := rfl

@[simp] theorem State.writeHome_tick (s : State) (cells : List (Nat × Byte)) :
    (s.writeHome cells).tick = s.tick := rfl

@[simp] theorem State.writeHome_cur (s : State) (cells : List (Nat × Byte)) :
    (s.writeHome cells).cur = s.cur := rfl

@[simp] theorem State.writeHome_turn (s : State) (cells : List (Nat × Byte)) :
    (s.writeHome cells).turn = s.turn := rfl

@[simp] theorem State.writeHome_up (s : State) (cells : List (Nat × Byte)) :
    (s.writeHome cells).up = s.up := rfl

@[simp] theorem State.writeHome_cores (s : State) (cells : List (Nat × Byte)) :
    (s.writeHome cells).cores = s.cores := rfl

@[simp] theorem State.writeHome_dies (s : State) (cells : List (Nat × Byte)) :
    (s.writeHome cells).dies = s.dies := rfl

@[simp] theorem State.writeHome_clusters (s : State) (cells : List (Nat × Byte)) :
    (s.writeHome cells).clusters = s.clusters := rfl

@[simp] theorem State.writeHome_stokeQ (s : State) (cells : List (Nat × Byte)) :
    (s.writeHome cells).stokeQ = s.stokeQ := rfl

@[simp] theorem State.writeHome_launches (s : State) (cells : List (Nat × Byte)) :
    (s.writeHome cells).launches = s.launches := rfl

@[simp] theorem State.writeHome_nextLaunch (s : State) (cells : List (Nat × Byte)) :
    (s.writeHome cells).nextLaunch = s.nextLaunch := rfl

@[simp] theorem State.writeHome_lastOffered (s : State) (cells : List (Nat × Byte)) :
    (s.writeHome cells).lastOffered = s.lastOffered := rfl

@[simp] theorem State.writeHome_predictor (s : State) (cells : List (Nat × Byte)) :
    (s.writeHome cells).predictor = s.predictor := rfl

@[simp] theorem State.writeHome_drawReqs (s : State) (cells : List (Nat × Byte)) :
    (s.writeHome cells).drawReqs = s.drawReqs := rfl

@[simp] theorem State.writeHome_notices (s : State) (cells : List (Nat × Byte)) :
    (s.writeHome cells).notices = s.notices := rfl

@[simp] theorem State.writeHome_groupRegs (s : State) (cells : List (Nat × Byte)) :
    (s.writeHome cells).groupRegs = s.groupRegs := rfl

@[simp] theorem State.writeHome_groups (s : State) (cells : List (Nat × Byte)) :
    (s.writeHome cells).groups = s.groups := rfl

@[simp] theorem State.writeHome_nextGroup (s : State) (cells : List (Nat × Byte)) :
    (s.writeHome cells).nextGroup = s.nextGroup := rfl

@[simp] theorem State.writeHome_restoreReqs (s : State) (cells : List (Nat × Byte)) :
    (s.writeHome cells).restoreReqs = s.restoreReqs := rfl

@[simp] theorem State.writeHome_saved (s : State) (cells : List (Nat × Byte)) :
    (s.writeHome cells).saved = s.saved := rfl

@[simp] theorem State.writeHome_host (s : State) (cells : List (Nat × Byte)) :
    (s.writeHome cells).host = s.host := rfl

@[simp] theorem State.writeHome_eventQ (s : State) (cells : List (Nat × Byte)) :
    (s.writeHome cells).eventQ = s.eventQ := rfl

@[simp] theorem State.writeHome_joins (s : State) (cells : List (Nat × Byte)) :
    (s.writeHome cells).joins = s.joins := rfl

@[simp] theorem State.writeHome_hostOut (s : State) (cells : List (Nat × Byte)) :
    (s.writeHome cells).hostOut = s.hostOut := rfl

@[simp] theorem State.writeHome_hostReply (s : State) (cells : List (Nat × Byte)) :
    (s.writeHome cells).hostReply = s.hostReply := rfl

@[simp] theorem State.writeHome_msix (s : State) (cells : List (Nat × Byte)) :
    (s.writeHome cells).msix = s.msix := rfl

@[simp] theorem State.writeHome_rstIn (s : State) (cells : List (Nat × Byte)) :
    (s.writeHome cells).rstIn = s.rstIn := rfl

@[simp] theorem State.writeHome_rmoIn (s : State) (cells : List (Nat × Byte)) :
    (s.writeHome cells).rmoIn = s.rmoIn := rfl

@[simp] theorem State.writeHome_linkUp (s : State) (cells : List (Nat × Byte)) :
    (s.writeHome cells).linkUp = s.linkUp := rfl

@[simp] theorem State.writeHome_cxlUp (s : State) (cells : List (Nat × Byte)) :
    (s.writeHome cells).cxlUp = s.cxlUp := rfl

@[simp] theorem State.writeHome_stoker (s : State) (cells : List (Nat × Byte)) :
    (s.writeHome cells).stoker = s.stoker := rfl

@[simp] theorem State.writeHome_staram (s : State) (cells : List (Nat × Byte)) :
    (s.writeHome cells).staram = s.staram := rfl

@[simp] theorem State.writeHome_flue (s : State) (cells : List (Nat × Byte)) :
    (s.writeHome cells).flue = s.flue := rfl

/-! ## Fragments looked at again -/

@[simp] theorem State.restFrags_agenda (s : State) :
    (s.restFrags).agenda = s.agenda := rfl

@[simp] theorem State.restFrags_tick (s : State) :
    (s.restFrags).tick = s.tick := rfl

@[simp] theorem State.restFrags_cur (s : State) :
    (s.restFrags).cur = s.cur := rfl

@[simp] theorem State.restFrags_turn (s : State) :
    (s.restFrags).turn = s.turn := rfl

@[simp] theorem State.restFrags_up (s : State) :
    (s.restFrags).up = s.up := rfl

@[simp] theorem State.restFrags_mem (s : State) :
    (s.restFrags).mem = s.mem := rfl

@[simp] theorem State.restFrags_secPoison (s : State) :
    (s.restFrags).secPoison = s.secPoison := rfl

@[simp] theorem State.restFrags_capPoison (s : State) :
    (s.restFrags).capPoison = s.capPoison := rfl

@[simp] theorem State.restFrags_dies (s : State) :
    (s.restFrags).dies = s.dies := rfl

@[simp] theorem State.restFrags_clusters (s : State) :
    (s.restFrags).clusters = s.clusters := rfl

@[simp] theorem State.restFrags_stokeQ (s : State) :
    (s.restFrags).stokeQ = s.stokeQ := rfl

@[simp] theorem State.restFrags_launches (s : State) :
    (s.restFrags).launches = s.launches := rfl

@[simp] theorem State.restFrags_nextLaunch (s : State) :
    (s.restFrags).nextLaunch = s.nextLaunch := rfl

@[simp] theorem State.restFrags_lastOffered (s : State) :
    (s.restFrags).lastOffered = s.lastOffered := rfl

@[simp] theorem State.restFrags_predictor (s : State) :
    (s.restFrags).predictor = s.predictor := rfl

@[simp] theorem State.restFrags_drawReqs (s : State) :
    (s.restFrags).drawReqs = s.drawReqs := rfl

@[simp] theorem State.restFrags_notices (s : State) :
    (s.restFrags).notices = s.notices := rfl

@[simp] theorem State.restFrags_groupRegs (s : State) :
    (s.restFrags).groupRegs = s.groupRegs := rfl

@[simp] theorem State.restFrags_groups (s : State) :
    (s.restFrags).groups = s.groups := rfl

@[simp] theorem State.restFrags_nextGroup (s : State) :
    (s.restFrags).nextGroup = s.nextGroup := rfl

@[simp] theorem State.restFrags_restoreReqs (s : State) :
    (s.restFrags).restoreReqs = s.restoreReqs := rfl

@[simp] theorem State.restFrags_saved (s : State) :
    (s.restFrags).saved = s.saved := rfl

@[simp] theorem State.restFrags_host (s : State) :
    (s.restFrags).host = s.host := rfl

@[simp] theorem State.restFrags_eventQ (s : State) :
    (s.restFrags).eventQ = s.eventQ := rfl

@[simp] theorem State.restFrags_joins (s : State) :
    (s.restFrags).joins = s.joins := rfl

@[simp] theorem State.restFrags_hostOut (s : State) :
    (s.restFrags).hostOut = s.hostOut := rfl

@[simp] theorem State.restFrags_hostReply (s : State) :
    (s.restFrags).hostReply = s.hostReply := rfl

@[simp] theorem State.restFrags_msix (s : State) :
    (s.restFrags).msix = s.msix := rfl

@[simp] theorem State.restFrags_rstIn (s : State) :
    (s.restFrags).rstIn = s.rstIn := rfl

@[simp] theorem State.restFrags_rmoIn (s : State) :
    (s.restFrags).rmoIn = s.rmoIn := rfl

@[simp] theorem State.restFrags_linkUp (s : State) :
    (s.restFrags).linkUp = s.linkUp := rfl

@[simp] theorem State.restFrags_cxlUp (s : State) :
    (s.restFrags).cxlUp = s.cxlUp := rfl

@[simp] theorem State.restFrags_stoker (s : State) :
    (s.restFrags).stoker = s.stoker := rfl

@[simp] theorem State.restFrags_staram (s : State) :
    (s.restFrags).staram = s.staram := rfl

@[simp] theorem State.restFrags_flue (s : State) :
    (s.restFrags).flue = s.flue := rfl

/-! ## A wave of a core -/

@[simp] theorem Core.setWave_clkOffset (x : Core) (w : Wave) :
    (x.setWave w).clkOffset = x.clkOffset := rfl

@[simp] theorem Core.setWave_good (x : Core) (w : Wave) :
    (x.setWave w).good = x.good := rfl

@[simp] theorem Core.setWave_enabled (x : Core) (w : Wave) :
    (x.setWave w).enabled = x.enabled := rfl

@[simp] theorem Core.setWave_ctxs (x : Core) (w : Wave) :
    (x.setWave w).ctxs = x.ctxs := rfl

@[simp] theorem Core.setWave_active (x : Core) (w : Wave) :
    (x.setWave w).active = x.active := rfl

@[simp] theorem Core.setWave_reqs (x : Core) (w : Wave) :
    (x.setWave w).reqs = x.reqs := rfl

@[simp] theorem Core.setWave_draining (x : Core) (w : Wave) :
    (x.setWave w).draining = x.draining := rfl

@[simp] theorem Core.setWave_shadows (x : Core) (w : Wave) :
    (x.setWave w).shadows = x.shadows := rfl

@[simp] theorem Core.setWave_xinv (x : Core) (w : Wave) :
    (x.setWave w).xinv = x.xinv := rfl

@[simp] theorem Core.setWave_blocks (x : Core) (w : Wave) :
    (x.setWave w).blocks = x.blocks := rfl

@[simp] theorem Core.setWave_frags (x : Core) (w : Wave) :
    (x.setWave w).frags = x.frags := rfl

@[simp] theorem Core.setWave_vptr (x : Core) (w : Wave) :
    (x.setWave w).vptr = x.vptr := rfl

@[simp] theorem Core.setWave_uptr (x : Core) (w : Wave) :
    (x.setWave w).uptr = x.uptr := rfl

@[simp] theorem Core.setWave_nextFrag (x : Core) (w : Wave) :
    (x.setWave w).nextFrag = x.nextFrag := rfl

@[simp] theorem Core.setWave_pend (x : Core) (w : Wave) :
    (x.setWave w).pend = x.pend := rfl

@[simp] theorem Core.setWave_l1 (x : Core) (w : Wave) :
    (x.setWave w).l1 = x.l1 := rfl

@[simp] theorem Core.setWave_held (x : Core) (w : Wave) :
    (x.setWave w).held = x.held := rfl

@[simp] theorem Core.setWave_l0 (x : Core) (w : Wave) :
    (x.setWave w).l0 = x.l0 := rfl

@[simp] theorem Core.setWave_tlb (x : Core) (w : Wave) :
    (x.setWave w).tlb = x.tlb := rfl

@[simp] theorem Core.setWave_faults (x : Core) (w : Wave) :
    (x.setWave w).faults = x.faults := rfl

@[simp] theorem Core.setWave_faultWait (x : Core) (w : Wave) :
    (x.setWave w).faultWait = x.faultWait := rfl

@[simp] theorem Core.setWave_binds (x : Core) (w : Wave) :
    (x.setWave w).binds = x.binds := rfl

@[simp] theorem Core.setWave_trapQueue (x : Core) (w : Wave) :
    (x.setWave w).trapQueue = x.trapQueue := rfl

@[simp] theorem Core.setWave_cmds (x : Core) (w : Wave) :
    (x.setWave w).cmds = x.cmds := rfl

@[simp] theorem Core.setWave_nextCmd (x : Core) (w : Wave) :
    (x.setWave w).nextCmd = x.nextCmd := rfl

@[simp] theorem Core.setWave_allocs (x : Core) (w : Wave) :
    (x.setWave w).allocs = x.allocs := rfl

@[simp] theorem Core.setWave_streams (x : Core) (w : Wave) :
    (x.setWave w).streams = x.streams := rfl

@[simp] theorem Core.setWave_kiln (x : Core) (w : Wave) :
    (x.setWave w).kiln = x.kiln := rfl

@[simp] theorem Core.setWave_cnt (x : Core) (w : Wave) :
    (x.setWave w).cnt = x.cnt := rfl

/-! ## A wave of a core, changed in place -/

@[simp] theorem Core.updWave_clkOffset (x : Core) (w : Nat) (f : Wave → Wave) :
    (x.updWave w f).clkOffset = x.clkOffset := rfl

@[simp] theorem Core.updWave_good (x : Core) (w : Nat) (f : Wave → Wave) :
    (x.updWave w f).good = x.good := rfl

@[simp] theorem Core.updWave_enabled (x : Core) (w : Nat) (f : Wave → Wave) :
    (x.updWave w f).enabled = x.enabled := rfl

@[simp] theorem Core.updWave_ctxs (x : Core) (w : Nat) (f : Wave → Wave) :
    (x.updWave w f).ctxs = x.ctxs := rfl

@[simp] theorem Core.updWave_active (x : Core) (w : Nat) (f : Wave → Wave) :
    (x.updWave w f).active = x.active := rfl

@[simp] theorem Core.updWave_reqs (x : Core) (w : Nat) (f : Wave → Wave) :
    (x.updWave w f).reqs = x.reqs := rfl

@[simp] theorem Core.updWave_draining (x : Core) (w : Nat) (f : Wave → Wave) :
    (x.updWave w f).draining = x.draining := rfl

@[simp] theorem Core.updWave_shadows (x : Core) (w : Nat) (f : Wave → Wave) :
    (x.updWave w f).shadows = x.shadows := rfl

@[simp] theorem Core.updWave_xinv (x : Core) (w : Nat) (f : Wave → Wave) :
    (x.updWave w f).xinv = x.xinv := rfl

@[simp] theorem Core.updWave_blocks (x : Core) (w : Nat) (f : Wave → Wave) :
    (x.updWave w f).blocks = x.blocks := rfl

@[simp] theorem Core.updWave_frags (x : Core) (w : Nat) (f : Wave → Wave) :
    (x.updWave w f).frags = x.frags := rfl

@[simp] theorem Core.updWave_vptr (x : Core) (w : Nat) (f : Wave → Wave) :
    (x.updWave w f).vptr = x.vptr := rfl

@[simp] theorem Core.updWave_uptr (x : Core) (w : Nat) (f : Wave → Wave) :
    (x.updWave w f).uptr = x.uptr := rfl

@[simp] theorem Core.updWave_nextFrag (x : Core) (w : Nat) (f : Wave → Wave) :
    (x.updWave w f).nextFrag = x.nextFrag := rfl

@[simp] theorem Core.updWave_pend (x : Core) (w : Nat) (f : Wave → Wave) :
    (x.updWave w f).pend = x.pend := rfl

@[simp] theorem Core.updWave_l1 (x : Core) (w : Nat) (f : Wave → Wave) :
    (x.updWave w f).l1 = x.l1 := rfl

@[simp] theorem Core.updWave_held (x : Core) (w : Nat) (f : Wave → Wave) :
    (x.updWave w f).held = x.held := rfl

@[simp] theorem Core.updWave_l0 (x : Core) (w : Nat) (f : Wave → Wave) :
    (x.updWave w f).l0 = x.l0 := rfl

@[simp] theorem Core.updWave_tlb (x : Core) (w : Nat) (f : Wave → Wave) :
    (x.updWave w f).tlb = x.tlb := rfl

@[simp] theorem Core.updWave_faults (x : Core) (w : Nat) (f : Wave → Wave) :
    (x.updWave w f).faults = x.faults := rfl

@[simp] theorem Core.updWave_faultWait (x : Core) (w : Nat) (f : Wave → Wave) :
    (x.updWave w f).faultWait = x.faultWait := rfl

@[simp] theorem Core.updWave_binds (x : Core) (w : Nat) (f : Wave → Wave) :
    (x.updWave w f).binds = x.binds := rfl

@[simp] theorem Core.updWave_trapQueue (x : Core) (w : Nat) (f : Wave → Wave) :
    (x.updWave w f).trapQueue = x.trapQueue := rfl

@[simp] theorem Core.updWave_cmds (x : Core) (w : Nat) (f : Wave → Wave) :
    (x.updWave w f).cmds = x.cmds := rfl

@[simp] theorem Core.updWave_nextCmd (x : Core) (w : Nat) (f : Wave → Wave) :
    (x.updWave w f).nextCmd = x.nextCmd := rfl

@[simp] theorem Core.updWave_allocs (x : Core) (w : Nat) (f : Wave → Wave) :
    (x.updWave w f).allocs = x.allocs := rfl

@[simp] theorem Core.updWave_streams (x : Core) (w : Nat) (f : Wave → Wave) :
    (x.updWave w f).streams = x.streams := rfl

@[simp] theorem Core.updWave_kiln (x : Core) (w : Nat) (f : Wave → Wave) :
    (x.updWave w f).kiln = x.kiln := rfl

@[simp] theorem Core.updWave_cnt (x : Core) (w : Nat) (f : Wave → Wave) :
    (x.updWave w f).cnt = x.cnt := rfl

/-! ## A fragment of a core -/

@[simp] theorem Core.setFrag_clkOffset (x : Core) (f : Frag) :
    (x.setFrag f).clkOffset = x.clkOffset := rfl

@[simp] theorem Core.setFrag_good (x : Core) (f : Frag) :
    (x.setFrag f).good = x.good := rfl

@[simp] theorem Core.setFrag_enabled (x : Core) (f : Frag) :
    (x.setFrag f).enabled = x.enabled := rfl

@[simp] theorem Core.setFrag_ctxs (x : Core) (f : Frag) :
    (x.setFrag f).ctxs = x.ctxs := rfl

@[simp] theorem Core.setFrag_active (x : Core) (f : Frag) :
    (x.setFrag f).active = x.active := rfl

@[simp] theorem Core.setFrag_reqs (x : Core) (f : Frag) :
    (x.setFrag f).reqs = x.reqs := rfl

@[simp] theorem Core.setFrag_draining (x : Core) (f : Frag) :
    (x.setFrag f).draining = x.draining := rfl

@[simp] theorem Core.setFrag_shadows (x : Core) (f : Frag) :
    (x.setFrag f).shadows = x.shadows := rfl

@[simp] theorem Core.setFrag_xinv (x : Core) (f : Frag) :
    (x.setFrag f).xinv = x.xinv := rfl

@[simp] theorem Core.setFrag_blocks (x : Core) (f : Frag) :
    (x.setFrag f).blocks = x.blocks := rfl

@[simp] theorem Core.setFrag_waves (x : Core) (f : Frag) :
    (x.setFrag f).waves = x.waves := rfl

@[simp] theorem Core.setFrag_vptr (x : Core) (f : Frag) :
    (x.setFrag f).vptr = x.vptr := rfl

@[simp] theorem Core.setFrag_uptr (x : Core) (f : Frag) :
    (x.setFrag f).uptr = x.uptr := rfl

@[simp] theorem Core.setFrag_nextFrag (x : Core) (f : Frag) :
    (x.setFrag f).nextFrag = x.nextFrag := rfl

@[simp] theorem Core.setFrag_pend (x : Core) (f : Frag) :
    (x.setFrag f).pend = x.pend := rfl

@[simp] theorem Core.setFrag_l1 (x : Core) (f : Frag) :
    (x.setFrag f).l1 = x.l1 := rfl

@[simp] theorem Core.setFrag_held (x : Core) (f : Frag) :
    (x.setFrag f).held = x.held := rfl

@[simp] theorem Core.setFrag_l0 (x : Core) (f : Frag) :
    (x.setFrag f).l0 = x.l0 := rfl

@[simp] theorem Core.setFrag_tlb (x : Core) (f : Frag) :
    (x.setFrag f).tlb = x.tlb := rfl

@[simp] theorem Core.setFrag_faults (x : Core) (f : Frag) :
    (x.setFrag f).faults = x.faults := rfl

@[simp] theorem Core.setFrag_faultWait (x : Core) (f : Frag) :
    (x.setFrag f).faultWait = x.faultWait := rfl

@[simp] theorem Core.setFrag_binds (x : Core) (f : Frag) :
    (x.setFrag f).binds = x.binds := rfl

@[simp] theorem Core.setFrag_trapQueue (x : Core) (f : Frag) :
    (x.setFrag f).trapQueue = x.trapQueue := rfl

@[simp] theorem Core.setFrag_cmds (x : Core) (f : Frag) :
    (x.setFrag f).cmds = x.cmds := rfl

@[simp] theorem Core.setFrag_nextCmd (x : Core) (f : Frag) :
    (x.setFrag f).nextCmd = x.nextCmd := rfl

@[simp] theorem Core.setFrag_allocs (x : Core) (f : Frag) :
    (x.setFrag f).allocs = x.allocs := rfl

@[simp] theorem Core.setFrag_streams (x : Core) (f : Frag) :
    (x.setFrag f).streams = x.streams := rfl

@[simp] theorem Core.setFrag_kiln (x : Core) (f : Frag) :
    (x.setFrag f).kiln = x.kiln := rfl

@[simp] theorem Core.setFrag_cnt (x : Core) (f : Frag) :
    (x.setFrag f).cnt = x.cnt := rfl

/-! ## A block of a core -/

@[simp] theorem Core.setBlock_clkOffset (x : Core) (b : Block) :
    (x.setBlock b).clkOffset = x.clkOffset := rfl

@[simp] theorem Core.setBlock_good (x : Core) (b : Block) :
    (x.setBlock b).good = x.good := rfl

@[simp] theorem Core.setBlock_enabled (x : Core) (b : Block) :
    (x.setBlock b).enabled = x.enabled := rfl

@[simp] theorem Core.setBlock_ctxs (x : Core) (b : Block) :
    (x.setBlock b).ctxs = x.ctxs := rfl

@[simp] theorem Core.setBlock_active (x : Core) (b : Block) :
    (x.setBlock b).active = x.active := rfl

@[simp] theorem Core.setBlock_reqs (x : Core) (b : Block) :
    (x.setBlock b).reqs = x.reqs := rfl

@[simp] theorem Core.setBlock_draining (x : Core) (b : Block) :
    (x.setBlock b).draining = x.draining := rfl

@[simp] theorem Core.setBlock_shadows (x : Core) (b : Block) :
    (x.setBlock b).shadows = x.shadows := rfl

@[simp] theorem Core.setBlock_xinv (x : Core) (b : Block) :
    (x.setBlock b).xinv = x.xinv := rfl

@[simp] theorem Core.setBlock_waves (x : Core) (b : Block) :
    (x.setBlock b).waves = x.waves := rfl

@[simp] theorem Core.setBlock_frags (x : Core) (b : Block) :
    (x.setBlock b).frags = x.frags := rfl

@[simp] theorem Core.setBlock_vptr (x : Core) (b : Block) :
    (x.setBlock b).vptr = x.vptr := rfl

@[simp] theorem Core.setBlock_uptr (x : Core) (b : Block) :
    (x.setBlock b).uptr = x.uptr := rfl

@[simp] theorem Core.setBlock_nextFrag (x : Core) (b : Block) :
    (x.setBlock b).nextFrag = x.nextFrag := rfl

@[simp] theorem Core.setBlock_pend (x : Core) (b : Block) :
    (x.setBlock b).pend = x.pend := rfl

@[simp] theorem Core.setBlock_l1 (x : Core) (b : Block) :
    (x.setBlock b).l1 = x.l1 := rfl

@[simp] theorem Core.setBlock_held (x : Core) (b : Block) :
    (x.setBlock b).held = x.held := rfl

@[simp] theorem Core.setBlock_l0 (x : Core) (b : Block) :
    (x.setBlock b).l0 = x.l0 := rfl

@[simp] theorem Core.setBlock_tlb (x : Core) (b : Block) :
    (x.setBlock b).tlb = x.tlb := rfl

@[simp] theorem Core.setBlock_faults (x : Core) (b : Block) :
    (x.setBlock b).faults = x.faults := rfl

@[simp] theorem Core.setBlock_faultWait (x : Core) (b : Block) :
    (x.setBlock b).faultWait = x.faultWait := rfl

@[simp] theorem Core.setBlock_binds (x : Core) (b : Block) :
    (x.setBlock b).binds = x.binds := rfl

@[simp] theorem Core.setBlock_trapQueue (x : Core) (b : Block) :
    (x.setBlock b).trapQueue = x.trapQueue := rfl

@[simp] theorem Core.setBlock_cmds (x : Core) (b : Block) :
    (x.setBlock b).cmds = x.cmds := rfl

@[simp] theorem Core.setBlock_nextCmd (x : Core) (b : Block) :
    (x.setBlock b).nextCmd = x.nextCmd := rfl

@[simp] theorem Core.setBlock_allocs (x : Core) (b : Block) :
    (x.setBlock b).allocs = x.allocs := rfl

@[simp] theorem Core.setBlock_streams (x : Core) (b : Block) :
    (x.setBlock b).streams = x.streams := rfl

@[simp] theorem Core.setBlock_kiln (x : Core) (b : Block) :
    (x.setBlock b).kiln = x.kiln := rfl

@[simp] theorem Core.setBlock_cnt (x : Core) (b : Block) :
    (x.setBlock b).cnt = x.cnt := rfl

/-! ## What an issued word leaves of its core -/

@[simp] theorem Ctx.saved_clkOffset (x : Ctx) :
    (x.saved).clkOffset = x.core.clkOffset := rfl

@[simp] theorem Ctx.saved_good (x : Ctx) :
    (x.saved).good = x.core.good := rfl

@[simp] theorem Ctx.saved_enabled (x : Ctx) :
    (x.saved).enabled = x.core.enabled := rfl

@[simp] theorem Ctx.saved_ctxs (x : Ctx) :
    (x.saved).ctxs = x.core.ctxs := rfl

@[simp] theorem Ctx.saved_active (x : Ctx) :
    (x.saved).active = x.core.active := rfl

@[simp] theorem Ctx.saved_reqs (x : Ctx) :
    (x.saved).reqs = x.core.reqs := rfl

@[simp] theorem Ctx.saved_draining (x : Ctx) :
    (x.saved).draining = x.core.draining := rfl

@[simp] theorem Ctx.saved_shadows (x : Ctx) :
    (x.saved).shadows = x.core.shadows := rfl

@[simp] theorem Ctx.saved_xinv (x : Ctx) :
    (x.saved).xinv = x.core.xinv := rfl

@[simp] theorem Ctx.saved_vptr (x : Ctx) :
    (x.saved).vptr = x.core.vptr := rfl

@[simp] theorem Ctx.saved_uptr (x : Ctx) :
    (x.saved).uptr = x.core.uptr := rfl

@[simp] theorem Ctx.saved_nextFrag (x : Ctx) :
    (x.saved).nextFrag = x.core.nextFrag := rfl

@[simp] theorem Ctx.saved_pend (x : Ctx) :
    (x.saved).pend = x.core.pend := rfl

@[simp] theorem Ctx.saved_l1 (x : Ctx) :
    (x.saved).l1 = x.core.l1 := rfl

@[simp] theorem Ctx.saved_held (x : Ctx) :
    (x.saved).held = x.core.held := rfl

@[simp] theorem Ctx.saved_l0 (x : Ctx) :
    (x.saved).l0 = x.core.l0 := rfl

@[simp] theorem Ctx.saved_tlb (x : Ctx) :
    (x.saved).tlb = x.core.tlb := rfl

@[simp] theorem Ctx.saved_faults (x : Ctx) :
    (x.saved).faults = x.core.faults := rfl

@[simp] theorem Ctx.saved_faultWait (x : Ctx) :
    (x.saved).faultWait = x.core.faultWait := rfl

@[simp] theorem Ctx.saved_binds (x : Ctx) :
    (x.saved).binds = x.core.binds := rfl

@[simp] theorem Ctx.saved_trapQueue (x : Ctx) :
    (x.saved).trapQueue = x.core.trapQueue := rfl

@[simp] theorem Ctx.saved_cmds (x : Ctx) :
    (x.saved).cmds = x.core.cmds := rfl

@[simp] theorem Ctx.saved_nextCmd (x : Ctx) :
    (x.saved).nextCmd = x.core.nextCmd := rfl

@[simp] theorem Ctx.saved_allocs (x : Ctx) :
    (x.saved).allocs = x.core.allocs := rfl

@[simp] theorem Ctx.saved_streams (x : Ctx) :
    (x.saved).streams = x.core.streams := rfl

@[simp] theorem Ctx.saved_kiln (x : Ctx) :
    (x.saved).kiln = x.core.kiln := rfl

@[simp] theorem Ctx.saved_cnt (x : Ctx) :
    (x.saved).cnt = x.core.cnt := rfl

/-! ## An operation of a wave -/

@[simp] theorem Wave.updOp_slot (w : Wave) (n : HNum) (f : Op → Op) :
    (w.updOp n f).slot = w.slot := rfl

@[simp] theorem Wave.updOp_block (w : Wave) (n : HNum) (f : Op → Op) :
    (w.updOp n f).block = w.block := rfl

@[simp] theorem Wave.updOp_wid (w : Wave) (n : HNum) (f : Op → Op) :
    (w.updOp n f).wid = w.wid := rfl

@[simp] theorem Wave.updOp_budget (w : Wave) (n : HNum) (f : Op → Op) :
    (w.updOp n f).budget = w.budget := rfl

@[simp] theorem Wave.updOp_stage (w : Wave) (n : HNum) (f : Op → Op) :
    (w.updOp n f).stage = w.stage := rfl

@[simp] theorem Wave.updOp_v (w : Wave) (n : HNum) (f : Op → Op) :
    (w.updOp n f).v = w.v := rfl

@[simp] theorem Wave.updOp_s (w : Wave) (n : HNum) (f : Op → Op) :
    (w.updOp n f).s = w.s := rfl

@[simp] theorem Wave.updOp_a (w : Wave) (n : HNum) (f : Op → Op) :
    (w.updOp n f).a = w.a := rfl

@[simp] theorem Wave.updOp_p (w : Wave) (n : HNum) (f : Op → Op) :
    (w.updOp n f).p = w.p := rfl

@[simp] theorem Wave.updOp_vPoison (w : Wave) (n : HNum) (f : Op → Op) :
    (w.updOp n f).vPoison = w.vPoison := rfl

@[simp] theorem Wave.updOp_sPoison (w : Wave) (n : HNum) (f : Op → Op) :
    (w.updOp n f).sPoison = w.sPoison := rfl

@[simp] theorem Wave.updOp_aPoison (w : Wave) (n : HNum) (f : Op → Op) :
    (w.updOp n f).aPoison = w.aPoison := rfl

@[simp] theorem Wave.updOp_pPoison (w : Wave) (n : HNum) (f : Op → Op) :
    (w.updOp n f).pPoison = w.pPoison := rfl

@[simp] theorem Wave.updOp_lpart (w : Wave) (n : HNum) (f : Op → Op) :
    (w.updOp n f).lpart = w.lpart := rfl

@[simp] theorem Wave.updOp_fpflags (w : Wave) (n : HNum) (f : Op → Op) :
    (w.updOp n f).fpflags = w.fpflags := rfl

@[simp] theorem Wave.updOp_seq (w : Wave) (n : HNum) (f : Op → Op) :
    (w.updOp n f).seq = w.seq := rfl

@[simp] theorem Wave.updOp_hzn (w : Wave) (n : HNum) (f : Op → Op) :
    (w.updOp n f).hzn = w.hzn := rfl

@[simp] theorem Wave.updOp_shp (w : Wave) (n : HNum) (f : Op → Op) :
    (w.updOp n f).shp = w.shp := rfl

@[simp] theorem Wave.updOp_clkLatch (w : Wave) (n : HNum) (f : Op → Op) :
    (w.updOp n f).clkLatch = w.clkLatch := rfl

@[simp] theorem Wave.updOp_trapcause (w : Wave) (n : HNum) (f : Op → Op) :
    (w.updOp n f).trapcause = w.trapcause := rfl

@[simp] theorem Wave.updOp_tfp (w : Wave) (n : HNum) (f : Op → Op) :
    (w.updOp n f).tfp = w.tfp := rfl

@[simp] theorem Wave.updOp_trap (w : Wave) (n : HNum) (f : Op → Op) :
    (w.updOp n f).trap = w.trap := rfl

@[simp] theorem Wave.updOp_drainTrap (w : Wave) (n : HNum) (f : Op → Op) :
    (w.updOp n f).drainTrap = w.drainTrap := rfl

@[simp] theorem Wave.updOp_trapEarly (w : Wave) (n : HNum) (f : Op → Op) :
    (w.updOp n f).trapEarly = w.trapEarly := rfl

@[simp] theorem Wave.updOp_win (w : Wave) (n : HNum) (f : Op → Op) :
    (w.updOp n f).win = w.win := rfl

@[simp] theorem Wave.updOp_winHeld (w : Wave) (n : HNum) (f : Op → Op) :
    (w.updOp n f).winHeld = w.winHeld := rfl

@[simp] theorem Wave.updOp_frameFail (w : Wave) (n : HNum) (f : Op → Op) :
    (w.updOp n f).frameFail = w.frameFail := rfl

@[simp] theorem Wave.updOp_frameRetry (w : Wave) (n : HNum) (f : Op → Op) :
    (w.updOp n f).frameRetry = w.frameRetry := rfl

@[simp] theorem Wave.updOp_handlerRetry (w : Wave) (n : HNum) (f : Op → Op) :
    (w.updOp n f).handlerRetry = w.handlerRetry := rfl

@[simp] theorem Wave.updOp_frameAsked (w : Wave) (n : HNum) (f : Op → Op) :
    (w.updOp n f).frameAsked = w.frameAsked := rfl

@[simp] theorem Wave.updOp_frameHandler (w : Wave) (n : HNum) (f : Op → Op) :
    (w.updOp n f).frameHandler = w.frameHandler := rfl

@[simp] theorem Wave.updOp_hzPhase (w : Wave) (n : HNum) (f : Op → Op) :
    (w.updOp n f).hzPhase = w.hzPhase := rfl

@[simp] theorem Wave.updOp_fetchw (w : Wave) (n : HNum) (f : Op → Op) :
    (w.updOp n f).fetchw = w.fetchw := rfl

@[simp] theorem Wave.updOp_heldFetchw (w : Wave) (n : HNum) (f : Op → Op) :
    (w.updOp n f).heldFetchw = w.heldFetchw := rfl

@[simp] theorem Wave.updOp_drawn (w : Wave) (n : HNum) (f : Op → Op) :
    (w.updOp n f).drawn = w.drawn := rfl

@[simp] theorem Wave.updOp_hostWrites (w : Wave) (n : HNum) (f : Op → Op) :
    (w.updOp n f).hostWrites = w.hostWrites := rfl

@[simp] theorem Wave.updOp_hostSeen (w : Wave) (n : HNum) (f : Op → Op) :
    (w.updOp n f).hostSeen = w.hostSeen := rfl

@[simp] theorem Wave.updOp_hostAsk (w : Wave) (n : HNum) (f : Op → Op) :
    (w.updOp n f).hostAsk = w.hostAsk := rfl

@[simp] theorem Wave.updOp_written (w : Wave) (n : HNum) (f : Op → Op) :
    (w.updOp n f).written = w.written := rfl

@[simp] theorem Wave.updOp_ended (w : Wave) (n : HNum) (f : Op → Op) :
    (w.updOp n f).ended = w.ended := rfl

/-! ## A fragment that has moved past its word -/

@[simp] theorem Frag.past_id (f : Frag) (sw : Bool) :
    (f.past sw).id = f.id := rfl

@[simp] theorem Frag.past_wave (f : Frag) (sw : Bool) :
    (f.past sw).wave = f.wave := rfl

@[simp] theorem Frag.past_mask (f : Frag) (sw : Bool) :
    (f.past sw).mask = f.mask := rfl

@[simp] theorem Frag.past_stack (f : Frag) (sw : Bool) :
    (f.past sw).stack = f.stack := rfl

@[simp] theorem Frag.past_damper (f : Frag) (sw : Bool) :
    (f.past sw).damper = f.damper := rfl

@[simp] theorem Frag.past_handler (f : Frag) (sw : Bool) :
    (f.past sw).handler = f.handler := rfl

end Sys2Proof.Machine
end

