-- ==== Sys2Proof/Laws/Views.lean ====
section
/-! SUPPORT. What the views of a state answer after an update: cores, dies and clusters; waves, blocks
and fragments of a core; registers of a wave; and the shared prologues of words, one lemma each. -/

namespace Sys2Proof.Machine

set_option Elab.async false

/-! ## Cores, dies, clusters -/

theorem State.core_setCore (s : State) (c j : Nat) (x : Core) :
    (s.setCore c x).core j = if c = j then x else s.core j := Map.get_put s.cores c j x Core.reset

@[simp] theorem State.core_setCore_self (s : State) (c : Nat) (x : Core) :
    (s.setCore c x).core c = x := by rw [State.core_setCore, if_pos rfl]

theorem State.core_setCore_ne (s : State) {c j : Nat} (x : Core) (h : c ≠ j) :
    (s.setCore c x).core j = s.core j := by rw [State.core_setCore, if_neg h]

theorem State.core_updCore (s : State) (c j : Nat) (f : Core → Core) :
    (s.updCore c f).core j = if c = j then f (s.core j) else s.core j := by
  unfold State.updCore
  rw [State.core_setCore]
  split
  · rename_i h
    rw [h]
  · rfl

@[simp] theorem State.core_updCore_self (s : State) (c : Nat) (f : Core → Core) :
    (s.updCore c f).core c = f (s.core c) := by rw [State.core_updCore, if_pos rfl]

@[simp] theorem State.core_updDie (s : State) (d c : Nat) (f : Die → Die) :
    (s.updDie d f).core c = s.core c := rfl

@[simp] theorem State.core_updCluster (s : State) (k c : Nat) (f : Cluster → Cluster) :
    (s.updCluster k f).core c = s.core c := rfl

@[simp] theorem State.core_writeHome (s : State) (cells : List (Nat × Byte)) (c : Nat) :
    (s.writeHome cells).core c = s.core c := rfl

theorem State.die_updDie (s : State) (d j : Nat) (f : Die → Die) :
    (s.updDie d f).die j = if d = j then f (s.die j) else s.die j := by
  unfold State.updDie State.setDie State.die
  rw [Map.get_put]
  split
  · rename_i h
    rw [h]
  · rfl

theorem State.cluster_updCluster (s : State) (k j : Nat) (f : Cluster → Cluster) :
    (s.updCluster k f).cluster j = if k = j then f (s.cluster j) else s.cluster j := by
  unfold State.updCluster State.setCluster State.cluster
  rw [Map.get_put]
  split
  · rename_i h
    rw [h]
  · rfl

/-! ## The first entry that satisfies a test -/

theorem find?_updFirst {α : Type} (p : α → Bool) (f : α → α) (l : List α)
    (h : ∀ x, p x = true → p (f x) = true) :
    (updFirst p f l).find? p = (l.find? p).map f := by
  induction l with
  | nil => rfl
  | cons x r ih =>
    by_cases hx : p x = true
    · simp [updFirst, hx, h x hx]
    · simp [updFirst, hx, ih]

theorem find?_updFirst_ne {α : Type} (p q : α → Bool) (f : α → α) (l : List α)
    (h : ∀ x, p x = true → q x = false ∧ q (f x) = false) :
    (updFirst p f l).find? q = l.find? q := by
  induction l with
  | nil => rfl
  | cons x r ih =>
    by_cases hx : p x = true
    · simp [updFirst, hx, (h x hx).1, (h x hx).2]
    · by_cases hq : q x = true
      · simp [updFirst, hx, hq]
      · simp [updFirst, hx, hq, ih]

theorem Core.wave?_slot {x : Core} {k : Nat} {w : Wave} (h : x.wave? k = some w) : w.slot = k := by
  simpa using List.find?_some h

theorem Core.frag?_id {x : Core} {k : Nat} {f : Frag} (h : x.frag? k = some f) : f.id = k := by
  simpa using List.find?_some h

theorem Core.block?_slot {x : Core} {k : Nat} {b : Block} (h : x.block? k = some b) : b.slot = k := by
  simpa using List.find?_some h

theorem Core.wave?_updWave (x : Core) (k : Nat) (f : Wave → Wave) (hf : ∀ w, (f w).slot = w.slot) :
    (x.updWave k f).wave? k = (x.wave? k).map f :=
  find?_updFirst _ f _ fun w h => by simpa [hf w] using h

theorem Core.wave?_updWave_ne (x : Core) {k j : Nat} (f : Wave → Wave) (hf : ∀ w, (f w).slot = w.slot)
    (h : k ≠ j) : (x.updWave k f).wave? j = x.wave? j := by
  refine find?_updFirst_ne _ _ f _ fun w hw => ?_
  have hw : w.slot = k := by simpa using hw
  simp [hf w, hw, h]

/-! ## The context of the word being issued -/

/-- What the context of the issuing word is made of. -/
theorem State.ctx?_eq {s : State} {x : Ctx} (h : s.ctx? = some x) :
    x.core = s.core x.c ∧ (∃ f, s.cur = some (x.c, f, x.word) ∧ x.core.frag? f = some x.frag)
      ∧ x.core.wave? x.frag.wave = some x.wave ∧ x.core.block? x.wave.block = some x.block := by
  unfold State.ctx? at h
  split at h
  · cases h
  · rename_i c f w hc
    simp only at h
    split at h
    · cases h
    · rename_i fr hf
      split at h
      · cases h
      · rename_i wv hw
        split at h
        · cases h
        · rename_i b hb
          cases h
          exact ⟨rfl, ⟨f, hc, hf⟩, hw, hb⟩

/-! ## The shared prologues -/

/-- A vector word whose registers lie within the budget, and that consumes no poison, has its effect. -/
theorem issueVector_ready {s : State} {x : Ctx} {g : Ctl} {regs : List Nat} {srcs : List Src}
    (k : Ctx → LaneMask → State) (hx : s.ctx? = some x) (hr : regs.all x.regOk = true)
    (hg : x.guardPoison g x.frag.mask = false) (hp : x.anyPoison (x.active g) srcs = false) :
    issueVector s g regs srcs k = .next (k x (x.active g)) := by
  simp [issueVector, hx, hr, hg, hp]

/-- A fragment-level word with an active lane, that consumes no poison, has its effect. -/
theorem issueFragment_ready {s : State} {x : Ctx} {g : Ctl} {srcs : List Src}
    (k : Ctx → LaneMask → State) (hx : s.ctx? = some x) (hm : x.active g ≠ 0)
    (hg : x.guardPoison g x.frag.mask = false) (hp : x.anyPoison (x.active g) srcs = false) :
    issueFragment s g srcs k = .next (k x (x.active g)) := by
  have hm : x.active g ≠ 0#64 := hm
  simp [issueFragment, hx, hg, hp, hm]

/-- With no active lane a fragment-level word only moves on (R297). -/
theorem issueFragment_empty {s : State} {x : Ctx} {g : Ctl} {srcs : List Src}
    (k : Ctx → LaneMask → State) (hx : s.ctx? = some x) (hm : x.active g = 0)
    (hg : x.guardPoison g x.frag.mask = false) (hp : x.anyPoison (x.active g) srcs = false) :
    issueFragment s g srcs k = .next (s.save (x.done g.sw)) := by
  rw [hm] at hp
  have hp : x.anyPoison 0#64 srcs = false := hp
  simp [issueFragment, hx, hg, hm, hp]

/-- A uniform word whose guard holds in the lowest lane has its effect. -/
theorem issueUniform_ready {s : State} {x : Ctx} {g : Ctl} {srcs : List Src} {l : Nat}
    (k : Ctx → Ctx) (hx : s.ctx? = some x) (hl : lowLane x.frag.mask = some l)
    (hm : (x.guardMask g).getLsbD l = true) (hb : laneBit l ≠ 0)
    (hg : x.guardPoison g (laneBit l) = false) (hp : x.anyPoison (laneBit l) srcs = false) :
    issueUniform s g srcs k = .next (s.save ((k x).done g.sw)) := by
  have hb : laneBit l ≠ 0#64 := hb
  simp [issueUniform, hx, hl, Ctx.uniformActive, hm, hg, hp, hb]

end Sys2Proof.Machine
end

