-- ==== Sys2Proof/Laws/Memory.lean ====
section
/-! SUPPORT. What the operations on the module's memory do: each keeps the canonical form, and a byte that it
does not write reads as before. -/

namespace Sys2Proof.Machine

set_option Elab.async false

/-! ## The canonical form (log 3) -/

theorem State.reset_inv : State.reset.Inv := rfl

/-- The form depends on the memory alone. -/
theorem State.Inv_of_mem {s t : State} (h : s.Inv) (ht : t.mem = s.mem) : t.Inv := by
  unfold State.Inv at *; rw [ht]; exact h

theorem State.Inv_writeHome {s : State} (cells : List (Nat × Byte)) (h : s.Inv) : (s.writeHome cells).Inv := by
  unfold State.Inv State.writeHome
  exact Memory.wf_foldl_put _ _ _ _ h

theorem State.Inv_updCore {s : State} (c : Nat) (f : Core → Core) (h : s.Inv) : (s.updCore c f).Inv :=
  State.Inv_of_mem h rfl

theorem State.Inv_updDie {s : State} (d : Nat) (f : Die → Die) (h : s.Inv) : (s.updDie d f).Inv :=
  State.Inv_of_mem h rfl

theorem State.Inv_updCluster {s : State} (k : Nat) (f : Cluster → Cluster) (h : s.Inv) : (s.updCluster k f).Inv :=
  State.Inv_of_mem h rfl

theorem State.Inv_save {s : State} (x : Ctx) (h : s.Inv) : (s.save x).Inv := State.Inv_of_mem h rfl

theorem State.Inv_homeWrite {s : State} (e : Home) (bs : List Byte) (h : s.Inv) : (s.homeWrite e bs).Inv := by
  cases e with
  | spad c b o => exact State.Inv_of_mem h rfl
  | mem p => exact State.Inv_writeHome _ h
  | allot c b => exact State.Inv_of_mem h rfl

theorem State.Inv_l1WriteBack {s : State} (c : Nat) (q : Nat → CByte → Bool) (h : s.Inv) : (s.l1WriteBack c q).Inv :=
  State.Inv_of_mem h rfl

theorem State.Inv_l2WriteBack {s : State} (d : Nat) (q : Nat → CByte → Bool) (h : s.Inv) : (s.l2WriteBack d q).Inv :=
  State.Inv_updDie _ _ (State.Inv_writeHome _ h)

theorem State.Inv_writeBack {s : State} (c : Nat) (scope : BitVec 3) (q : Nat → CByte → Bool) (h : s.Inv) :
    (s.writeBack c scope q).Inv :=
  State.Inv_l2WriteBack _ _ (State.Inv_l1WriteBack _ _ h)

theorem State.Inv_discard {s : State} (c : Nat) (scope : Option (BitVec 3)) (q : Nat → CByte → Bool) (h : s.Inv) :
    (s.discard c scope q).Inv := by
  unfold State.discard
  exact State.Inv_updDie _ _ (State.Inv_updCore _ _ (State.Inv_writeBack _ _ _ h))

theorem State.Inv_zeroRegion {s : State} (d : Nat) (h : s.Inv) : (s.zeroRegion d).Inv := Memory.wf_filter _ _ h

theorem State.Inv_cleared {s : State} (h : s.Inv) : s.cleared.Inv := Memory.wf_filter _ _ h

theorem loadMemory_wf (m : Memory) (w : DWord) (h : Memory.wf m = true) : Memory.wf (loadMemory m w) = true := by
  unfold loadMemory
  exact Memory.wf_write _ _ _ (Memory.wf_write _ _ _ (Memory.wf_write _ _ _ (Memory.wf_write _ _ _ h)))

theorem State.Inv_withFetchWord {s : State} (n w : Nat) (h : s.Inv) : (s.withFetchWord n w).Inv := loadMemory_wf _ _ h

/-- A fold of steps that each keep the form keeps it. -/
theorem State.Inv_foldl {α : Type} (l : List α) (f : State → α → State) (hf : ∀ s a, s.Inv → (f s a).Inv) {s : State}
    (h : s.Inv) : (l.foldl f s).Inv := by
  induction l generalizing s with
  | nil => exact h
  | cons a r ih => exact ih (hf _ _ h)

/-! ## The end of an activity -/

theorem State.Inv_evictL1 {s : State} (c n : Nat) (h : s.Inv) : (s.evictL1 c n).Inv :=
  State.Inv_updCore _ _ (State.Inv_l1WriteBack _ _ h)

theorem State.Inv_evictL2 {s : State} (d n : Nat) (h : s.Inv) : (s.evictL2 d n).Inv :=
  State.Inv_updDie _ _ (State.Inv_l2WriteBack _ _ h)

theorem State.Inv_fitL1 (c fuel : Nat) {s : State} (h : s.Inv) : (s.fitL1 c fuel).Inv := by
  induction fuel generalizing s with
  | zero => exact h
  | succ fuel ih => unfold State.fitL1; split; exacts [h, ih (State.Inv_evictL1 _ _ h)]

theorem State.Inv_fitL2 (d fuel : Nat) {s : State} (h : s.Inv) : (s.fitL2 d fuel).Inv := by
  induction fuel generalizing s with
  | zero => exact h
  | succ fuel ih => unfold State.fitL2; split; exacts [h, ih (State.Inv_evictL2 _ _ h)]

theorem State.Inv_fitCaches {s : State} (h : s.Inv) : s.fitCaches.Inv :=
  State.Inv_of_mem
    (State.Inv_foldl _ _ (fun _ _ h => State.Inv_fitL2 _ _ h) (State.Inv_foldl _ _ (fun _ _ h => State.Inv_fitL1 _ _ h) h))
    rfl

/-- The check of one gate is no write to the memory. -/
theorem State.Inv_openRec {s : State} (r : HRec) (h : s.Inv) :
    ((if r.retried then s.countTransient r.core else s).updRec r HRec.opened).Inv :=
  State.Inv_of_mem h (by unfold State.updRec State.countTransient; split <;> rfl)

theorem State.Inv_checkGates {s : State} (h : s.Inv) : s.checkGates.Inv :=
  State.Inv_of_mem
    (State.Inv_foldl _ _ (fun _ _ h => State.Inv_foldl _ _ (fun _ _ h => State.Inv_openRec _ h) h) h) rfl

theorem State.Inv_countErrLost {s : State} (e : Home) (n : Nat) (h : s.Inv) : (s.countErrLost e n).Inv := by
  unfold State.countErrLost; split; exacts [h, by cases e <;> exact State.Inv_of_mem h rfl]

theorem State.Inv_barUpdate {s : State} (e : Home) (a n : Nat) (code : BitVec 16) (h : s.Inv) :
    (s.barUpdate e a n code).Inv := State.Inv_countErrLost _ _ (State.Inv_homeWrite _ _ h)

theorem State.Inv_intoWindow {s : State} (e : Home) (o : WinOp) (h : s.Inv) : (s.intoWindow e o).Inv := by
  cases e <;> exact State.Inv_of_mem h rfl

theorem State.Inv_updateFor {s : State} (own : Option (Nat × Nat)) (e : Home) (a n : Nat) (code : BitVec 16) (d : Dropped)
    (h : s.Inv) : (s.updateFor own e a n code d).Inv := by
  unfold State.updateFor; split; exacts [State.Inv_intoWindow _ _ h, State.Inv_barUpdate _ _ _ _ h]

/-- What a join remembers is no write to the memory. -/
theorem State.noteWrites_mem (s : State) (e : Home) (ls : List Nat) (d : Option Nat) : (s.noteWrites e ls d).mem = s.mem := by
  unfold State.noteWrites; split <;> [rfl; (split <;> [rfl; (cases e <;> rfl)])]

/-- An entry of the fault buffer is no write to the memory. -/
theorem State.takeFault_mem (s : State) (c : Nat) (e : FaultEnt) : (s.takeFault c e).mem = s.mem := by
  unfold State.takeFault; split <;> rfl

theorem State.Inv_landAt {s : State} (c b : Nat) (e : Home) (l : Landing) (h : s.Inv) : (s.landAt c b e l).Inv :=
  State.Inv_updateFor _ _ _ _ _ _ (State.Inv_of_mem h (State.noteWrites_mem ..))

theorem State.Inv_keepLanding {s : State} (c b : Nat) (l : Landing) (h : s.Inv) : (s.keepLanding c b l).Inv :=
  State.Inv_updCore _ _ h

theorem State.Inv_landNow {s : State} (c b : Nat) (l : Landing) (h : s.Inv) : (s.landNow c b l).Inv := by
  unfold State.landNow State.unreached
  split
  · exact State.Inv_landAt _ _ _ _ h
  · split
    · exact State.Inv_keepLanding _ _ _ h
    · dsimp only
      split
      · exact State.Inv_keepLanding _ _ _ (State.Inv_updCore _ _ (State.Inv_of_mem h (State.takeFault_mem ..)))
      · exact State.Inv_updCore _ _ h

theorem State.Inv_landAgain {s : State} (c : Nat) (b : Block) (h : s.Inv) : (s.landAgain c b).Inv := by
  refine State.Inv_foldl _ _ (fun s l h => ?_) (State.Inv_updCore _ _ h)
  dsimp only
  split <;> (split; exacts [State.Inv_keepLanding _ _ _ h, State.Inv_landNow _ _ _ h])

/-- The landings that an activity's end tries again keep the canonical form. -/
theorem State.Inv_pumpLands {s : State} (h : s.Inv) : s.pumpLands.Inv :=
  State.Inv_foldl _ _ (fun _ _ h => State.Inv_foldl _ _ (fun _ _ h => State.Inv_landAgain _ _ h) h) h

/-- Whatever an activity has done, its end keeps the canonical form. -/
theorem State.Inv_tidy {s : State} (h : s.Inv) : s.tidy.Inv :=
  State.Inv_of_mem (State.Inv_checkGates (State.Inv_pumpLands (State.Inv_fitCaches
    (State.Inv_of_mem (t := { s with cur := none }) h rfl)))) rfl

/-! ## What a home write leaves alone -/

/-- A place of the module's memory that no written cell names reads as before. -/
theorem State.writeHome_get_ne {s : State} (cells : List (Nat × Byte)) (a : Nat) (h : ∀ c ∈ cells, placeKey c.1 ≠ a) :
    Memory.get (s.writeHome cells).mem a = Memory.get s.mem a :=
  Memory.get_foldl_put_ne _ _ _ _ _ fun c hc => h c (List.mem_filter.mp hc).1

/-- The bytes of a home write, one place after the other. -/
theorem cellsFrom_get (p k : Nat) (bs : List Byte) (h : k < bs.length) : (cellsFrom p bs)[k]? = some (p + k, bs[k]) := by
  simp [cellsFrom, h]

end Sys2Proof.Machine
end

