-- ==== Sys2Proof/Laws/Registers.lean ====
section
/-! SUPPORT. What the registers of a wave read as after a write (R74, R92, R227), and what the state
reads as after a word has issued. -/

set_option linter.unusedSimpArgs false

namespace Sys2Proof.Machine

set_option Elab.async false

/-! ## Vector registers -/

/-- One lane of one register is written; a name below 32 in a handler means the window's own. -/
theorem Wave.getV_putV (w : Wave) (h : Bool) (r q l j : Nat) (x : Word) (po : BitVec 2) (hl : l < 64)
    (hj : j < 64) :
    (w.putV h r l x po).getV h q j = if r = q ∧ l = j then x else w.getV h q j := by
  unfold Wave.putV Wave.getV Wave.winFor
  by_cases hrq : r = q
  · subst hrq
    have hk : 64 * r + l = 64 * r + j ↔ l = j := by omega
    cases hw : w.win <;> cases h <;> by_cases hr : r < 32 <;> simp [hw, hr, Map.get_putD, hk]
  · have hk : ¬ 64 * r + l = 64 * q + j := by omega
    cases hw : w.win <;> cases h <;> by_cases hr : r < 32 <;> by_cases hq : q < 32 <;>
      simp [hw, hr, hq, Map.get_putD, hk, hrq]

theorem Wave.poisonV_putV (w : Wave) (h : Bool) (r q l j : Nat) (x : Word) (po : BitVec 2) (hl : l < 64)
    (hj : j < 64) :
    (w.putV h r l x po).poisonV h q j = if r = q ∧ l = j then po else w.poisonV h q j := by
  unfold Wave.putV Wave.poisonV Wave.winFor
  by_cases hrq : r = q
  · subst hrq
    have hk : 64 * r + l = 64 * r + j ↔ l = j := by omega
    cases hw : w.win <;> cases h <;> by_cases hr : r < 32 <;> simp [hw, hr, Map.get_putD, hk]
  · have hk : ¬ 64 * r + l = 64 * q + j := by omega
    cases hw : w.win <;> cases h <;> by_cases hr : r < 32 <;> by_cases hq : q < 32 <;>
      simp [hw, hr, hq, Map.get_putD, hk, hrq]

theorem Wave.getS_putV (w : Wave) (h : Bool) (r l k : Nat) (x : Word) (po : BitVec 2) :
    (w.putV h r l x po).getS h k = w.getS h k := by
  unfold Wave.putV Wave.getS Wave.winFor
  cases hw : w.win <;> cases h <;> by_cases hr : r < 32 <;> by_cases hk : k < 32 <;> simp [hw, hr, hk]

theorem Wave.getA_putV (w : Wave) (h : Bool) (r l k : Nat) (x : Word) (po : BitVec 2) :
    (w.putV h r l x po).getA h k = w.getA h k := by
  unfold Wave.putV Wave.getA Wave.winFor
  cases hw : w.win <;> cases h <;> by_cases hr : r < 32 <;> by_cases hk : k < 4 <;> simp [hw, hr, hk]

theorem Wave.getP_putV (w : Wave) (h : Bool) (r l k : Nat) (x : Word) (po : BitVec 2) :
    (w.putV h r l x po).getP h k = w.getP h k := by
  unfold Wave.putV Wave.getP Wave.winFor
  by_cases hk0 : k = 0
  · simp [hk0]
  · cases hw : w.win <;> cases h <;> by_cases hr : r < 32 <;> by_cases hk : k < 8 <;>
      simp [hw, hr, hk, hk0]

/-- The part of a wave that a register write leaves: everything but register files, poison and window. -/
def Wave.bare (w : Wave) : Wave :=
  { w with v := [], s := [], a := [], p := [], vPoison := [], sPoison := [], aPoison := [], pPoison := [],
           win := none }

theorem Wave.bare_putV (w : Wave) (h : Bool) (r l : Nat) (x : Word) (po : BitVec 2) :
    (w.putV h r l x po).bare = w.bare := by
  unfold Wave.putV
  split <;> rfl

theorem Wave.bare_putS (w : Wave) (h : Bool) (r : Nat) (x : Word) (po : Bool) :
    (w.putS h r x po).bare = w.bare := by
  unfold Wave.putS
  split <;> rfl

theorem Wave.bare_putA (w : Wave) (h : Bool) (r : Nat) (x : DWord) : (w.putA h r x).bare = w.bare := by
  unfold Wave.putA
  split <;> rfl

theorem Wave.bare_putP (w : Wave) (h : Bool) (k : Nat) (m x : LaneMask) :
    (w.putP h k m x).bare = w.bare := by
  unfold Wave.putP
  split
  · rfl
  · simp only
    split <;> rfl

/-! ## Uniform and address registers, predicates -/

theorem Wave.getS_putS (w : Wave) (h : Bool) (r q : Nat) (x : Word) (po : Bool) :
    (w.putS h r x po).getS h q = if r = q then x else w.getS h q := by
  unfold Wave.putS Wave.getS Wave.winFor
  by_cases hrq : r = q
  · subst hrq
    cases hw : w.win <;> cases h <;> by_cases hr : r < 32 <;> simp [hw, hr, Map.get_putD]
  · cases hw : w.win <;> cases h <;> by_cases hr : r < 32 <;> by_cases hq : q < 32 <;>
      simp [hw, hr, hq, Map.get_putD, hrq]

theorem Wave.getV_putS (w : Wave) (h : Bool) (r q l : Nat) (x : Word) (po : Bool) :
    (w.putS h r x po).getV h q l = w.getV h q l := by
  unfold Wave.putS Wave.getV Wave.winFor
  cases hw : w.win <;> cases h <;> by_cases hr : r < 32 <;> by_cases hk : q < 32 <;> simp [hw, hr, hk]

theorem Wave.getA_putS (w : Wave) (h : Bool) (r q : Nat) (x : Word) (po : Bool) :
    (w.putS h r x po).getA h q = w.getA h q := by
  unfold Wave.putS Wave.getA Wave.winFor
  cases hw : w.win <;> cases h <;> by_cases hr : r < 32 <;> by_cases hk : q < 4 <;> simp [hw, hr, hk]

theorem Wave.getP_putS (w : Wave) (h : Bool) (r k : Nat) (x : Word) (po : Bool) :
    (w.putS h r x po).getP h k = w.getP h k := by
  unfold Wave.putS Wave.getP Wave.winFor
  by_cases hk0 : k = 0
  · simp [hk0]
  · cases hw : w.win <;> cases h <;> by_cases hr : r < 32 <;> by_cases hk : k < 8 <;>
      simp [hw, hr, hk, hk0]

theorem Wave.getA_putA (w : Wave) (h : Bool) (r q : Nat) (x : DWord) :
    (w.putA h r x).getA h q = if r = q then x else w.getA h q := by
  unfold Wave.putA Wave.getA Wave.winFor
  by_cases hrq : r = q
  · subst hrq
    cases hw : w.win <;> cases h <;> by_cases hr : r < 4 <;> simp [hw, hr, Map.get_putD]
  · cases hw : w.win <;> cases h <;> by_cases hr : r < 4 <;> by_cases hq : q < 4 <;>
      simp [hw, hr, hq, Map.get_putD, hrq]

theorem Wave.getV_putA (w : Wave) (h : Bool) (r q l : Nat) (x : DWord) :
    (w.putA h r x).getV h q l = w.getV h q l := by
  unfold Wave.putA Wave.getV Wave.winFor
  cases hw : w.win <;> cases h <;> by_cases hr : r < 4 <;> by_cases hk : q < 32 <;> simp [hw, hr, hk]

theorem Wave.getS_putA (w : Wave) (h : Bool) (r q : Nat) (x : DWord) :
    (w.putA h r x).getS h q = w.getS h q := by
  unfold Wave.putA Wave.getS Wave.winFor
  cases hw : w.win <;> cases h <;> by_cases hr : r < 4 <;> by_cases hk : q < 32 <;> simp [hw, hr, hk]

theorem Wave.getP_putA (w : Wave) (h : Bool) (r k : Nat) (x : DWord) :
    (w.putA h r x).getP h k = w.getP h k := by
  unfold Wave.putA Wave.getP Wave.winFor
  by_cases hk0 : k = 0
  · simp [hk0]
  · cases hw : w.win <;> cases h <;> by_cases hr : r < 4 <;> by_cases hk : k < 8 <;>
      simp [hw, hr, hk, hk0]

/-- A predicate after a write: the lanes of the mask take the new bits; p0 stays true. -/
theorem Wave.getP_putP (w : Wave) (h : Bool) (k q : Nat) (m x : LaneMask) :
    (w.putP h k m x).getP h q
      = if k = q ∧ k ≠ 0 then (w.getP h q &&& ~~~m) ||| (x &&& m) else w.getP h q := by
  by_cases hk0 : k = 0
  · simp [Wave.putP, hk0]
  · by_cases hq0 : q = 0
    · have : ¬ k = q := by omega
      simp [Wave.getP, hq0, hk0]
    · unfold Wave.putP Wave.getP Wave.winFor
      by_cases hkq : k = q
      · subst hkq
        cases hw : w.win <;> cases h <;> by_cases hk : k < 8 <;> simp [hw, hk, hk0, Map.get_putD]
      · cases hw : w.win <;> cases h <;> by_cases hk : k < 8 <;> by_cases hq : q < 8 <;>
          simp [hw, hk, hq, hk0, hq0, hkq, Map.get_putD]

theorem Wave.getV_putP (w : Wave) (h : Bool) (k q l : Nat) (m x : LaneMask) :
    (w.putP h k m x).getV h q l = w.getV h q l := by
  unfold Wave.putP Wave.getV Wave.winFor
  by_cases hk0 : k = 0
  · simp [hk0]
  · cases hw : w.win <;> cases h <;> by_cases hr : k < 8 <;> by_cases hk : q < 32 <;>
      simp [hw, hr, hk, hk0]

theorem Wave.getS_putP (w : Wave) (h : Bool) (k q : Nat) (m x : LaneMask) :
    (w.putP h k m x).getS h q = w.getS h q := by
  unfold Wave.putP Wave.getS Wave.winFor
  by_cases hk0 : k = 0
  · simp [hk0]
  · cases hw : w.win <;> cases h <;> by_cases hr : k < 8 <;> by_cases hk : q < 32 <;>
      simp [hw, hr, hk, hk0]

theorem Wave.getA_putP (w : Wave) (h : Bool) (k q : Nat) (m x : LaneMask) :
    (w.putP h k m x).getA h q = w.getA h q := by
  unfold Wave.putP Wave.getA Wave.winFor
  by_cases hk0 : k = 0
  · simp [hk0]
  · cases hw : w.win <;> cases h <;> by_cases hr : k < 8 <;> by_cases hk : q < 4 <;>
      simp [hw, hr, hk, hk0]

/-! ## Lanes -/

theorem mem_lanesOf {m : LaneMask} {l : Nat} : l ∈ lanesOf m ↔ l < 64 ∧ m.getLsbD l = true := by
  simp [lanesOf]

theorem laneBit_ne {l : Nat} (h : l < 64) : laneBit l ≠ 0 := by
  intro hc
  have : (laneBit l).getLsbD l = false := by rw [hc]; simp
  simp [laneBit, h] at this

theorem lowLane_lt {m : LaneMask} {l : Nat} (h : lowLane m = some l) : l < 64 :=
  (mem_lanesOf.mp (List.mem_of_mem_head? h)).1

/-- Writes of one register, lane by lane. -/
theorem Wave.getV_foldl_putV (ls : List Nat) (hls : ∀ l ∈ ls, l < 64) (f : Nat → Word)
    (po : Nat → BitVec 2) (w : Wave) (h : Bool) (d q j : Nat) (hj : j < 64) :
    (ls.foldl (fun w l => w.putV h d l (f l) (po l)) w).getV h q j
      = if d = q ∧ j ∈ ls then f j else w.getV h q j := by
  induction ls generalizing w with
  | nil => simp
  | cons l r ih =>
    have hl : l < 64 := hls l List.mem_cons_self
    rw [List.foldl_cons, ih (fun k hk => hls k (List.mem_cons_of_mem _ hk)),
      Wave.getV_putV _ _ _ _ _ _ _ _ hl hj]
    by_cases hd : d = q
    · by_cases hr : j ∈ r
      · simp [hd, hr]
      · by_cases hlj : l = j
        · subst hlj
          simp [hd]
        · have : ¬ j = l := fun h => hlj h.symm
          simp [hd, hr, hlj, this]
    · simp [hd]

theorem Wave.poisonV_foldl_putV (ls : List Nat) (hls : ∀ l ∈ ls, l < 64) (f : Nat → Word)
    (po : Nat → BitVec 2) (w : Wave) (h : Bool) (d q j : Nat) (hj : j < 64) :
    (ls.foldl (fun w l => w.putV h d l (f l) (po l)) w).poisonV h q j
      = if d = q ∧ j ∈ ls then po j else w.poisonV h q j := by
  induction ls generalizing w with
  | nil => simp
  | cons l r ih =>
    have hl : l < 64 := hls l List.mem_cons_self
    rw [List.foldl_cons, ih (fun k hk => hls k (List.mem_cons_of_mem _ hk)),
      Wave.poisonV_putV _ _ _ _ _ _ _ _ hl hj]
    by_cases hd : d = q
    · by_cases hr : j ∈ r
      · simp [hd, hr]
      · by_cases hlj : l = j
        · subst hlj
          simp [hd]
        · have : ¬ j = l := fun h => hlj h.symm
          simp [hd, hr, hlj, this]
    · simp [hd]

/-! ## The state after a word -/

/-- After a word that saves its context, the context of the same word is what was saved. -/
theorem State.ctx?_save {s : State} {x y : Ctx} (hx : s.ctx? = some x) (hc : y.c = x.c)
    (hw : y.word = x.word) (hcore : ∃ p, y.core = { x.core with pend := p }) (hs : y.wave.slot = x.wave.slot)
    (hb : y.wave.block = x.wave.block) (hbs : y.block.slot = x.block.slot) (hf : y.frag.id = x.frag.id)
    (hfw : y.frag.wave = x.frag.wave) :
    (s.save y).ctx? = some { y with core := y.saved } := by
  obtain ⟨h1, ⟨f, h2, h3⟩, h4, h5⟩ := State.ctx?_eq hx
  obtain ⟨p, hp⟩ := hcore
  have e1 := Core.frag?_id h3
  have e2 := Core.wave?_slot h4
  have e3 := Core.block?_slot h5
  have hf' : (y.saved).frag? f = some y.frag := by
    have : (y.saved).frag? f = (x.core.frag? f).map fun _ => y.frag := by
      simp only [Ctx.saved, Core.setFrag, Core.setBlock, Core.setWave, Core.frag?, hp]
      have : (fun z : Frag => z.id == y.frag.id) = fun z => z.id == f := by
        funext z; rw [hf, e1]
      rw [this]
      exact find?_updFirst _ _ _ fun z _ => by simp [hf, e1]
    rw [this, h3]
    rfl
  have hw' : (y.saved).wave? y.frag.wave = some y.wave := by
    have : (y.saved).wave? y.frag.wave = (x.core.wave? x.frag.wave).map fun _ => y.wave := by
      simp only [Ctx.saved, Core.setFrag, Core.setBlock, Core.setWave, Core.wave?, hp]
      have : (fun z : Wave => z.slot == y.wave.slot) = fun z => z.slot == x.frag.wave := by
        funext z; rw [hs, e2]
      rw [this, hfw]
      exact find?_updFirst _ _ _ fun z _ => by simp [hs, e2]
    rw [this, h4]
    rfl
  have hb' : (y.saved).block? y.wave.block = some y.block := by
    have : (y.saved).block? y.wave.block = (x.core.block? x.wave.block).map fun _ => y.block := by
      simp only [Ctx.saved, Core.setFrag, Core.setBlock, Core.setWave, Core.block?, hp]
      have : (fun z : Block => z.slot == y.block.slot) = fun z => z.slot == x.wave.block := by
        funext z; rw [hbs, e3]
      rw [this, hb]
      exact find?_updFirst _ _ _ fun z _ => by simp [hbs, e3]
    rw [this, h5]
    rfl
  have hcur : (s.save y).cur = some (y.c, f, y.word) := by
    rw [State.save_cur, h2, hc, hw]
  unfold State.ctx?
  rw [hcur]
  simp only [State.save, State.core_setCore_self, hf', hw', hb']

end Sys2Proof.Machine
end

