-- ==== Sys2Proof/Laws/Words.lean ====
section
/-! SUPPORT. What the shared writes of compute words do to the context of a word: lanes, pairs, predicates and
uniform registers (R63, R74, R83). -/

namespace Sys2Proof.Machine

set_option Elab.async false

/-! ## Folding and flags change no register -/

theorem Ctx.fold_wave (x : Ctx) (d : Nat) (v : Word) : (x.fold d v).wave = x.wave := by
  unfold Ctx.fold; split <;> rfl

theorem Ctx.fold_handler (x : Ctx) (d : Nat) (v : Word) : (x.fold d v).frag.handler = x.frag.handler := by
  unfold Ctx.fold; split <;> rfl

theorem Ctx.fold_v (x : Ctx) (d : Nat) (v : Word) (r l : Nat) : (x.fold d v).v r l = x.v r l := by
  unfold Ctx.v; rw [Ctx.fold_wave, Ctx.fold_handler]

theorem Ctx.raiseFlags_v (x : Ctx) (f : BitVec 6) (r l : Nat) : (x.raiseFlags f).v r l = x.v r l := by
  unfold Ctx.raiseFlags; split <;> rfl

theorem Ctx.raiseFlags_fpflags (x : Ctx) (f : BitVec 6) :
    (x.raiseFlags f).wave.fpflags = if x.frag.handler then x.wave.fpflags else x.wave.fpflags ||| f := by
  unfold Ctx.raiseFlags; split <;> simp_all

/-! ## One vector register -/

theorem Ctx.setV_handler (x : Ctx) (d : Nat) (vals : List (Nat × Word)) :
    (x.setV d vals).frag.handler = x.frag.handler := by
  unfold Ctx.setV
  split
  · rfl
  · rw [Ctx.fold_handler]; rfl

/-- In the lanes of a mask the register holds the new values; every other register and lane is as before. -/
theorem Ctx.setV_v (x : Ctx) (d : Nat) (m : LaneMask) (f : Nat → Word) (r l : Nat) (hl : l < 64) :
    (x.setV d ((lanesOf m).map fun j => (j, f j))).v r l = if r = d ∧ m.getLsbD l = true then f l else x.v r l := by
  have key : (x.writeV d ((lanesOf m).map fun j => (j, f j))).v r l
      = if r = d ∧ m.getLsbD l = true then f l else x.v r l := by
    unfold Ctx.writeV Ctx.v
    rw [List.foldl_map]
    rw [Wave.getV_foldl_putV _ (fun j hj => (mem_lanesOf.mp hj).1) f]
    · have e1 : (d = r ∧ l ∈ lanesOf m) ↔ (r = d ∧ m.getLsbD l = true) :=
        ⟨fun h => ⟨h.1.symm, (mem_lanesOf.mp h.2).2⟩, fun h => ⟨h.1.symm, mem_lanesOf.mpr ⟨hl, h.2⟩⟩⟩
      by_cases h : r = d ∧ m.getLsbD l = true
      · rw [if_pos (e1.mpr h), if_pos h]
      · rw [if_neg fun k => h (e1.mp k), if_neg h]
    · exact hl
  unfold Ctx.setV
  split
  · rename_i h
    have : lanesOf m = [] := by simpa using h
    have hm : m.getLsbD l = false := by
      by_contra hc
      have : l ∈ lanesOf m := mem_lanesOf.mpr ⟨hl, by simpa using hc⟩
      simp_all
    simp [hm]
  · rw [Ctx.fold_v]; exact key

/-- The results of a lane word, register by register and lane by lane. -/
theorem Ctx.setLanes_v (x : Ctx) (d : Nat) (m : LaneMask) (f : Nat → LaneRes) (r l : Nat) (hl : l < 64) :
    (x.setLanes d m f).v r l = if r = d ∧ m.getLsbD l = true then (f l).1 else x.v r l := by
  unfold Ctx.setLanes
  rw [Ctx.raiseFlags_v, List.map_map]
  exact Ctx.setV_v x d m (fun l => (f l).1) r l hl

/-- The flags of a lane word: the OR of those of its active lanes; a handler raises none. -/
theorem Ctx.setLanes_fpflags (x : Ctx) (d : Nat) (m : LaneMask) (f : Nat → LaneRes) :
    (x.setLanes d m f).wave.fpflags = if x.frag.handler then x.wave.fpflags
      else x.wave.fpflags ||| (lanesOf m).foldl (fun a l => a ||| (f l).2) 0 := by
  have hw : ∀ vals, (x.setV d vals).wave.fpflags = x.wave.fpflags := by
    intro vals
    unfold Ctx.setV
    split
    · rfl
    · rw [Ctx.fold_wave]
      unfold Ctx.writeV
      have : ∀ (l : List (Nat × Word)) (w : Wave),
          (l.foldl (fun w e => w.putV x.frag.handler d e.1 e.2 0) w).fpflags = w.fpflags := by
        intro l
        induction l with
        | nil => intro w; rfl
        | cons e r ih =>
          intro w
          rw [List.foldl_cons, ih]
          unfold Wave.putV
          split <;> rfl
      exact this _ _
  unfold Ctx.setLanes
  rw [Ctx.raiseFlags_fpflags, Ctx.setV_handler, hw, orFlags, List.map_map, List.foldl_map]
  rfl

end Sys2Proof.Machine
end

