-- ==== Sys2Proof/Tests/Slice0.lean ====
section
/-! SUPPORT. Tests: what WellFormed refuses, what the words of the manual and of every family decode
to, single steps on small states, and for every statement with hypotheses a state that meets them. -/

namespace Sys2Proof.Tests

set_option Elab.async false

open Sys2Proof.Machine

/-! ## Decoding -/

/-- The word reads as the instruction, and as a word of the table it does too. -/
def reads (p : DWord × Instr) : Bool :=
  (decode p.1).toOption == some p.2 && decodeTableWord 64 p.1.toNat == some p.2
    && encode p.2 == some p.1

/-- Words whose fields the manual's own tables of encodings give, in their order. -/
def wordsWorkedA : List (DWord × Instr) :=
  [(0x04020002000000C0, .addpc ⟨false, 0, false⟩ ⟨0x80, 0x0, 2, 0x0, 0x0, 0x6, 0⟩),
   (0x3202000008001002, .cpy ⟨false, 0, false⟩ ⟨0x10000, 0x0, 0x10002, 0x2⟩),
   (0x0F00040000220002, .icmp ⟨false, 0, false⟩ ⟨1, 0, 0, 8, 2, 0, false, 0, 0, 2⟩),
   (0x394C000000A01000, .brc ⟨false, 1, true⟩ ⟨0xa, 1, 0, false, false, 0, 0⟩),
   (0xA880082804800000, .lds ⟨true, 0, false⟩ ⟨0x2, 0, true, 1, 0, 2, 2, false, 0x0⟩),
   (0x088014041C012000, .iadd ⟨false, 0, false⟩ ⟨5, 1, 7, 0, 1, 0, true, 0, 0, 0⟩),
   (0x14C0200810184000, .ffmaF64 ⟨false, 0, false⟩ ⟨8, 2, 4, 6, 0, 1, false, 0, 0, 0⟩),
   (0x20001C0018002820, .cvt ⟨false, 0, false⟩ ⟨7, 0, 6, 0, 0, 0, true, 4, 1, 0⟩),
   (0x24000C0800060003, .shflXor ⟨false, 0, false⟩ ⟨3, 2, 0, 1, 2, 0, false, 0, 0, 3⟩),
   (0x2480100C00000200, .redl ⟨false, 0, false⟩ ⟨4, 3, 0, 0, 0, 0, false, 1, 0, 0⟩),
   (0x00800C0600000064, .uadd ⟨false, 0, false⟩ ⟨0x3, 0x1, 2, 0x0, 0x0, 0x3, 4⟩),
   (0x04420A0405000000, .aadd ⟨false, 0, false⟩ ⟨0x82, 0x81, 0, 0x5, 0x0, 0x0, 0⟩),
   (0x280010C82C800010, .ld ⟨false, 0, false⟩ ⟨0x4, 3, false, 1, 5, 2, 2, false, 0x10⟩),
   (0x2840188000C00008, .st ⟨false, 0, false⟩ ⟨0x6, 2, false, 0, 0, 0, 3, false, 0x8⟩),
   (0x29C0081400481C10, .atom ⟨false, 0, false⟩ ⟨2, 5, 0, 1, false, 1, 3, 2, 0, 2, false, 0⟩),
   (0x2C42000400000020, .binit ⟨false, 0, false⟩ ⟨true, 0x20, 0x20⟩),
   (0x2CC2000400000000, .waitph ⟨false, 0, false⟩ ⟨true, 0x20, 0x0⟩),
   (0x2C82000C10004000, .arrive ⟨false, 0, false⟩ ⟨true, 0x60, 0x10004000⟩),
   (0x2BC0800010800000, .acq ⟨false, 0, false⟩ ⟨false, 0x40000, 0x10800000⟩),
   (0x2B00000000000000, .fence ⟨false, 0, false⟩ ⟨false, 0x0, 0x0⟩),
   (0x2DC0000000000000, .waithz ⟨false, 0, false⟩ ⟨false, 0x0, 0x0⟩),
   (0x3A40000000400000, .bhz ⟨false, 0, false⟩ ⟨0x4, 0, 0, false, false, 0, 0⟩),
   (0x0540240000000000, .rdhz ⟨false, 0, false⟩ ⟨0x9, 0x0, 0, 0x0, 0x0, 0x0, 0⟩),
   (0x3300800053800406, .tierp ⟨false, 0, false⟩ ⟨0x4000, 0x5, 0x7000, 0x406⟩),
   (0x33C2008000000000, .mtask ⟨false, 0, false⟩ ⟨0x10040, 0x0, 0x0, 0, false, 0⟩),
   (0x3402008800000000, .qcfg ⟨false, 0, false⟩ ⟨0x10044, 0x0, 0x0, 0, false, 0⟩),
   (0x344200A008029013, .commOpen ⟨false, 0, false⟩ ⟨0x10050, 0x0, 0x10052, 0, true, 3⟩),
   (0x3540C00178029003, .collAr ⟨false, 0, false⟩ ⟨0x6000, 0x17, 0x10052, 0, false, 3⟩),
   (0x3740189043800000, .rst ⟨false, 0, false⟩ ⟨6, 2, 1, 4, 3, true, false, 0, 0x0⟩),
   (0x368020D0A0010060, .rmoCas4 ⟨false, 0, false⟩ ⟨8, 3, 1, 10, 0, false, false, 0, 0x10060⟩),
   (0x3E00000000000000, .rdsr ⟨false, 0, false⟩ ⟨0, false, 0, 0, 0⟩),
   (0x3E40120200000000, .wrsr ⟨false, 0, false⟩ ⟨4, true, 1, 0, 0⟩)]

theorem test_decode_workedA : wordsWorkedA.all reads = true := by decide +kernel

/-- Words whose fields the manual's own tables of encodings give, in their order (continued). -/
def wordsWorkedB : List (DWord × Instr) :=
  [(0x3C41880000000000, .launch ⟨false, 0, false⟩ ⟨6, 0x80000000000⟩),
   (0x3C80C00080000000, .fetchw ⟨false, 0, false⟩ ⟨3, 0x80000000⟩),
   (0x3D40A40000000000, .shape ⟨false, 0, false⟩ ⟨2, 0x240000000000⟩),
   (0x3BC0400420000000, .pin ⟨false, 0, false⟩ ⟨1, 0x420000000⟩),
   (0x3CC0000000000000, .alloc ⟨false, 0, false⟩ ⟨0x0⟩),
   (0x3D00400000000000, .freea ⟨false, 0, false⟩ ⟨0x400000000000⟩),
   (0x3D801C0000000000, .trap ⟨false, 0, false⟩ ⟨0x1c0000000000⟩),
   (0x3DC1000000000000, .rte ⟨false, 0, false⟩ ⟨4, 0x0⟩),
   (0x3AC8000000000000, .exit ⟨false, 1, false⟩ ⟨0x0⟩),
   (0x3940000000A01400, .brc ⟨false, 0, false⟩ ⟨0xa, 1, 2, false, false, 0, 0⟩),
   (0x3900000000400000, .bra ⟨false, 0, false⟩ ⟨0x4, 0, 0, false, false, 0, 0⟩),
   (0x39C0000000A00028, .call ⟨false, 0, false⟩ ⟨0xa, 0, 0, false, false, 5, 0⟩),
   (0x3A80000000001000, .rcv ⟨false, 0, false⟩ ⟨0x1000⟩),
   (0x3A01400000000000, .ret ⟨false, 0, false⟩ ⟨5, 0x0⟩),
   (0x2982100000C00010, .uld ⟨false, 0, false⟩ ⟨0x84, 0, false, 0, 0, 0, 3, false, 0x10⟩),
   (0x0180140EFFFFFFFE, .uand ⟨false, 0, false⟩ ⟨0x5, 0x3, 2, 0xff, 0xff, 0x7ff, 30⟩),
   (0x20400800000005C0, .pack ⟨false, 0, false⟩ ⟨2, 0, 0, 0, 0, 0, false, 2, 14, 0⟩),
   (0x18C00C08200D0000, .ffmaF16 ⟨false, 0, false⟩ ⟨3, 2, 8, 3, 1, 0, false, 0, 0, 0⟩),
   (0x200010000C000240, .cvt ⟨false, 0, false⟩ ⟨4, 0, 3, 0, 0, 0, false, 1, 2, 0⟩),
   (0x3E002C0D00000000, .rdsr ⟨false, 0, false⟩ ⟨11, false, 6, 64, 0⟩),
   (0x24C0100C00001C08, .scanl ⟨false, 0, false⟩ ⟨4, 3, 0, 0, 0, 0, false, 14, 0, 8⟩),
   (0x2850094830800000, .st ⟨false, 2, false⟩ ⟨0x2, 5, false, 1, 6, 0, 2, false, 0x0⟩),
   (0x2B4080000A000000, .bind ⟨false, 0, false⟩ ⟨false, 0x40000, 0xa000000⟩),
   (0x09C01C0C14180000, .imad ⟨false, 0, false⟩ ⟨7, 3, 5, 6, 0, 0, false, 0, 0, 0⟩),
   (0x3382000F18018800, .wload ⟨false, 0, false⟩ ⟨0x10007, 0x11, 0x10031, 0, false, 0⟩),
   (0x3282001208018800, .cpyt ⟨false, 0, false⟩ ⟨0x10009, 0x0, 0x10031, 0, false, 0⟩),
   (0x28980C28108000D0, .lds ⟨false, 3, false⟩ ⟨0x3, 0, true, 1, 2, 0, 2, false, 0xd0⟩),
   (0x3440400008500811, .commOpen ⟨false, 0, false⟩ ⟨0x2000, 0x0, 0x10a01, 0, true, 1⟩),
   (0x34C0600008501000, .collRs ⟨false, 0, false⟩ ⟨0x3000, 0x0, 0x10a02, 0, false, 0⟩),
   (0x35C0800008501801, .collBar ⟨false, 0, false⟩ ⟨0x4000, 0x0, 0x10a03, 0, false, 1⟩),
   (0x3580A00008501801, .collBc ⟨false, 0, false⟩ ⟨0x5000, 0x0, 0x10a03, 0, false, 1⟩),
   (0x28C0082808800000, .sts ⟨false, 0, false⟩ ⟨0x2, 0, true, 1, 1, 0, 2, false, 0x0⟩),
   (0x2CC0C00000001000, .waitph ⟨false, 0, false⟩ ⟨false, 0x60000, 0x1000⟩)]

theorem test_decode_workedB : wordsWorkedB.all reads = true := by decide +kernel

/-- The words of the uniform class (R255, R268, R269). -/
def wordsUniform : List (DWord × Instr) :=
  [(0x0001FC0041000000, .umov ⟨false, 0, false⟩ ⟨0x7f, 0x0, 0, 0x41, 0x0, 0x0, 0⟩),
   (0x005C1402DEADBEEF, .umovi ⟨false, 3, true⟩ ⟨0x5, 0x0, 2, 0xde, 0xad, 0x5f7, 15⟩),
   (0x0080448844000000, .uadd ⟨false, 0, false⟩ ⟨0x11, 0x22, 0, 0x44, 0x0, 0x0, 0⟩),
   (0x00C0448844000000, .usub ⟨false, 0, false⟩ ⟨0x11, 0x22, 0, 0x44, 0x0, 0x0, 0⟩),
   (0x0100448844000000, .umul ⟨false, 0, false⟩ ⟨0x11, 0x22, 0, 0x44, 0x0, 0x0, 0⟩),
   (0x0180448844000000, .uand ⟨false, 0, false⟩ ⟨0x11, 0x22, 0, 0x44, 0x0, 0x0, 0⟩),
   (0x01C0448844000000, .uor ⟨false, 0, false⟩ ⟨0x11, 0x22, 0, 0x44, 0x0, 0x0, 0⟩),
   (0x0200448844000000, .uxor ⟨false, 0, false⟩ ⟨0x11, 0x22, 0, 0x44, 0x0, 0x0, 0⟩),
   (0x0240448844000000, .ushl ⟨false, 0, false⟩ ⟨0x11, 0x22, 0, 0x44, 0x0, 0x0, 0⟩),
   (0x0280448844000000, .ushr ⟨false, 0, false⟩ ⟨0x11, 0x22, 0, 0x44, 0x0, 0x0, 0⟩),
   (0x02C0448844000000, .usra ⟨false, 0, false⟩ ⟨0x11, 0x22, 0, 0x44, 0x0, 0x0, 0⟩),
   (0x017C448844000001, .umulh ⟨false, 7, true⟩ ⟨0x11, 0x22, 0, 0x44, 0x0, 0x0, 1⟩),
   (0x033C448844000001, .umin ⟨false, 7, true⟩ ⟨0x11, 0x22, 0, 0x44, 0x0, 0x0, 1⟩),
   (0x037C448844000001, .umax ⟨false, 7, true⟩ ⟨0x11, 0x22, 0, 0x44, 0x0, 0x0, 1⟩),
   (0x03800C3030000009, .ucmp ⟨false, 0, false⟩ ⟨0x3, 0xc, 0, 0x30, 0x0, 0x0, 9⟩),
   (0x03C0040804080000, .usel ⟨false, 0, false⟩ ⟨0x1, 0x2, 0, 0x4, 0x8, 0x0, 0⟩),
   (0x04023C02FFFFFFF8, .addpc ⟨false, 0, false⟩ ⟨0x8f, 0x0, 2, 0xff, 0xff, 0x7ff, 24⟩),
   (0x04420A0405000000, .aadd ⟨false, 0, false⟩ ⟨0x82, 0x81, 0, 0x5, 0x0, 0x0, 0⟩),
   (0x048210280B000000, .aset ⟨false, 0, false⟩ ⟨0x84, 0xa, 0, 0xb, 0x0, 0x0, 0⟩),
   (0x04C2320C00000000, .acpy ⟨false, 0, false⟩ ⟨0x8c, 0x83, 0, 0x0, 0x0, 0x0, 0⟩),
   (0x0500261C00000001, .aget ⟨false, 0, false⟩ ⟨0x9, 0x87, 0, 0x0, 0x0, 0x0, 1⟩),
   (0x8540240000000000, .rdhz ⟨true, 0, false⟩ ⟨0x9, 0x0, 0, 0x0, 0x0, 0x0, 0⟩)]

theorem test_decode_uniform : wordsUniform.all reads = true := by decide +kernel

/-- The words of the integer and logical operations (R253, R254, R268, R269). -/
def wordsInteger : List (DWord × Instr) :=
  [(0x0803040148010000, .mov ⟨false, 0, false⟩ ⟨193, 0, 82, 0, 1, 0, false, 0, 0, 0⟩),
   (0x0C43040148010000, .not ⟨false, 0, false⟩ ⟨193, 0, 82, 0, 1, 0, false, 0, 0, 0⟩),
   (0x0D83040148010000, .popc ⟨false, 0, false⟩ ⟨193, 0, 82, 0, 1, 0, false, 0, 0, 0⟩),
   (0x0DC3040148010000, .clz ⟨false, 0, false⟩ ⟨193, 0, 82, 0, 1, 0, false, 0, 0, 0⟩),
   (0x0E03040148010000, .brev ⟨false, 0, false⟩ ⟨193, 0, 82, 0, 1, 0, false, 0, 0, 0⟩),
   (0x084A9626AF37BC00, .movi ⟨false, 1, false⟩ ⟨165, 0x89abcdef, 0⟩),
   (0x088014041C012000, .iadd ⟨false, 0, false⟩ ⟨5, 1, 7, 0, 1, 0, true, 0, 0, 0⟩),
   (0x08C014041C012000, .isub ⟨false, 0, false⟩ ⟨5, 1, 7, 0, 1, 0, true, 0, 0, 0⟩),
   (0x090014041C012000, .imul ⟨false, 0, false⟩ ⟨5, 1, 7, 0, 1, 0, true, 0, 0, 0⟩),
   (0x0956050BFFFA0000, .imulh ⟨false, 2, true⟩ ⟨129, 66, 255, 254, 2, 0, false, 0, 0, 0⟩),
   (0x0996050BFFFA0000, .imulhu ⟨false, 2, true⟩ ⟨129, 66, 255, 254, 2, 0, false, 0, 0, 0⟩),
   (0x0A16050BFFFA0000, .imin ⟨false, 2, true⟩ ⟨129, 66, 255, 254, 2, 0, false, 0, 0, 0⟩),
   (0x0A56050BFFFA0000, .imax ⟨false, 2, true⟩ ⟨129, 66, 255, 254, 2, 0, false, 0, 0, 0⟩),
   (0x0A96050BFFFA0000, .iminu ⟨false, 2, true⟩ ⟨129, 66, 255, 254, 2, 0, false, 0, 0, 0⟩),
   (0x0AD6050BFFFA0000, .imaxu ⟨false, 2, true⟩ ⟨129, 66, 255, 254, 2, 0, false, 0, 0, 0⟩),
   (0x0B96050BFFFA0000, .and ⟨false, 2, true⟩ ⟨129, 66, 255, 254, 2, 0, false, 0, 0, 0⟩),
   (0x0BD6050BFFFA0000, .or ⟨false, 2, true⟩ ⟨129, 66, 255, 254, 2, 0, false, 0, 0, 0⟩),
   (0x0C16050BFFFA0000, .xor ⟨false, 2, true⟩ ⟨129, 66, 255, 254, 2, 0, false, 0, 0, 0⟩),
   (0x0C96050BFFFA0000, .ishl ⟨false, 2, true⟩ ⟨129, 66, 255, 254, 2, 0, false, 0, 0, 0⟩),
   (0x0CD6050BFFFA0000, .ishr ⟨false, 2, true⟩ ⟨129, 66, 255, 254, 2, 0, false, 0, 0, 0⟩),
   (0x0D16050BFFFA0000, .isra ⟨false, 2, true⟩ ⟨129, 66, 255, 254, 2, 0, false, 0, 0, 0⟩),
   (0x0D56050BFFFA0000, .irol ⟨false, 2, true⟩ ⟨129, 66, 255, 254, 2, 0, false, 0, 0, 0⟩),
   (0x0B00240320002000, .iabs ⟨false, 0, false⟩ ⟨9, 0, 200, 0, 0, 0, true, 0, 0, 0⟩),
   (0x0B40240320002000, .ineg ⟨false, 0, false⟩ ⟨9, 0, 200, 0, 0, 0, true, 0, 0, 0⟩),
   (0x09C01C0C16180000, .imad ⟨false, 0, false⟩ ⟨7, 3, 5, 134, 0, 0, false, 0, 0, 0⟩),
   (0x0E401C0C16180000, .bfe ⟨false, 0, false⟩ ⟨7, 3, 5, 134, 0, 0, false, 0, 0, 0⟩),
   (0x0E801C0C16180000, .bfi ⟨false, 0, false⟩ ⟨7, 3, 5, 134, 0, 0, false, 0, 0, 0⟩),
   (0x0EC01C0C142D0000, .sel ⟨false, 0, false⟩ ⟨7, 3, 5, 11, 1, 0, false, 0, 0, 0⟩),
   (0x0F001A4048D20009, .icmp ⟨false, 0, false⟩ ⟨6, 144, 18, 52, 2, 0, false, 0, 0, 9⟩),
   (0x0F40850D961C2000, .idot4 ⟨false, 0, false⟩ ⟨33, 67, 101, 135, 0, 0, true, 0, 0, 0⟩),
   (0x0F80850D961C2000, .idot2 ⟨false, 0, false⟩ ⟨33, 67, 101, 135, 0, 0, true, 0, 0, 0⟩),
   (0x0FC0041C1000000E, .plop ⟨false, 0, false⟩ ⟨1, 7, 4, 0, 0, 0, false, 0, 0, 14⟩)]

theorem test_decode_integer : wordsInteger.all reads = true := by decide +kernel

/-- The words of the FP32 operations (R253, R268). -/
def wordsFloat32 : List (DWord × Instr) :=
  [(0x10002188D000C000, .fadd ⟨false, 0, false⟩ ⟨8, 98, 52, 0, 0, 3, false, 0, 0, 0⟩),
   (0x10402188D000C000, .fsub ⟨false, 0, false⟩ ⟨8, 98, 52, 0, 0, 3, false, 0, 0, 0⟩),
   (0x10802188D000C000, .fmul ⟨false, 0, false⟩ ⟨8, 98, 52, 0, 0, 3, false, 0, 0, 0⟩),
   (0x10C0200810184000, .ffma ⟨false, 0, false⟩ ⟨8, 2, 4, 6, 0, 1, false, 0, 0, 0⟩),
   (0x1103C038F0010000, .fmin ⟨false, 0, false⟩ ⟨240, 14, 60, 0, 1, 0, false, 0, 0, 0⟩),
   (0x1143C038F0010000, .fmax ⟨false, 0, false⟩ ⟨240, 14, 60, 0, 1, 0, false, 0, 0, 0⟩),
   (0x1180400388000000, .fabs ⟨false, 0, false⟩ ⟨16, 0, 226, 0, 0, 0, false, 0, 0, 0⟩),
   (0x11C0400388000000, .fneg ⟨false, 0, false⟩ ⟨16, 0, 226, 0, 0, 0, false, 0, 0, 0⟩),
   (0x1240400388000000, .fclass ⟨false, 0, false⟩ ⟨16, 0, 226, 0, 0, 0, false, 0, 0, 0⟩),
   (0x1280400388008000, .frnd ⟨false, 0, false⟩ ⟨16, 0, 226, 0, 0, 2, false, 0, 0, 0⟩),
   (0x1200151088000007, .fcmp ⟨false, 0, false⟩ ⟨5, 68, 34, 0, 0, 0, false, 0, 0, 7⟩)]

theorem test_decode_float32 : wordsFloat32.all reads = true := by decide +kernel

/-- The words of the FP64 operations (R253, R268). -/
def wordsFloat64 : List (DWord × Instr) :=
  [(0x14002188D000C000, .faddF64 ⟨false, 0, false⟩ ⟨8, 98, 52, 0, 0, 3, false, 0, 0, 0⟩),
   (0x14402188D000C000, .fsubF64 ⟨false, 0, false⟩ ⟨8, 98, 52, 0, 0, 3, false, 0, 0, 0⟩),
   (0x14802188D000C000, .fmulF64 ⟨false, 0, false⟩ ⟨8, 98, 52, 0, 0, 3, false, 0, 0, 0⟩),
   (0x14C0200810184000, .ffmaF64 ⟨false, 0, false⟩ ⟨8, 2, 4, 6, 0, 1, false, 0, 0, 0⟩),
   (0x1503C038F0010000, .fminF64 ⟨false, 0, false⟩ ⟨240, 14, 60, 0, 1, 0, false, 0, 0, 0⟩),
   (0x1543C038F0010000, .fmaxF64 ⟨false, 0, false⟩ ⟨240, 14, 60, 0, 1, 0, false, 0, 0, 0⟩),
   (0x1580400388000000, .fabsF64 ⟨false, 0, false⟩ ⟨16, 0, 226, 0, 0, 0, false, 0, 0, 0⟩),
   (0x15C0400388000000, .fnegF64 ⟨false, 0, false⟩ ⟨16, 0, 226, 0, 0, 0, false, 0, 0, 0⟩),
   (0x1640400388000000, .fclassF64 ⟨false, 0, false⟩ ⟨16, 0, 226, 0, 0, 0, false, 0, 0, 0⟩),
   (0x1680400388008000, .frndF64 ⟨false, 0, false⟩ ⟨16, 0, 226, 0, 0, 2, false, 0, 0, 0⟩),
   (0x1600151088000007, .fcmpF64 ⟨false, 0, false⟩ ⟨5, 68, 34, 0, 0, 0, false, 0, 0, 7⟩)]

theorem test_decode_float64 : wordsFloat64.all reads = true := by decide +kernel

/-- The words of the packed FP16 operations (R253, R268). -/
def wordsFloat16 : List (DWord × Instr) :=
  [(0x18002188D000C000, .faddF16 ⟨false, 0, false⟩ ⟨8, 98, 52, 0, 0, 3, false, 0, 0, 0⟩),
   (0x18402188D000C000, .fsubF16 ⟨false, 0, false⟩ ⟨8, 98, 52, 0, 0, 3, false, 0, 0, 0⟩),
   (0x18802188D000C000, .fmulF16 ⟨false, 0, false⟩ ⟨8, 98, 52, 0, 0, 3, false, 0, 0, 0⟩),
   (0x18C0200810184000, .ffmaF16 ⟨false, 0, false⟩ ⟨8, 2, 4, 6, 0, 1, false, 0, 0, 0⟩),
   (0x1903C038F0010000, .fminF16 ⟨false, 0, false⟩ ⟨240, 14, 60, 0, 1, 0, false, 0, 0, 0⟩),
   (0x1943C038F0010000, .fmaxF16 ⟨false, 0, false⟩ ⟨240, 14, 60, 0, 1, 0, false, 0, 0, 0⟩),
   (0x1980400388000000, .fabsF16 ⟨false, 0, false⟩ ⟨16, 0, 226, 0, 0, 0, false, 0, 0, 0⟩),
   (0x19C0400388000000, .fnegF16 ⟨false, 0, false⟩ ⟨16, 0, 226, 0, 0, 0, false, 0, 0, 0⟩),
   (0x1A40400388000000, .fclassF16 ⟨false, 0, false⟩ ⟨16, 0, 226, 0, 0, 0, false, 0, 0, 0⟩),
   (0x1A80400388008000, .frndF16 ⟨false, 0, false⟩ ⟨16, 0, 226, 0, 0, 2, false, 0, 0, 0⟩),
   (0x1A00151088000013, .fcmpF16 ⟨false, 0, false⟩ ⟨5, 68, 34, 0, 0, 0, false, 0, 0, 19⟩)]

theorem test_decode_float16 : wordsFloat16.all reads = true := by decide +kernel

/-- The words of the packed BF16 operations (R253, R268). -/
def wordsFloatB16 : List (DWord × Instr) :=
  [(0x1C002188D000C000, .faddBf16 ⟨false, 0, false⟩ ⟨8, 98, 52, 0, 0, 3, false, 0, 0, 0⟩),
   (0x1C402188D000C000, .fsubBf16 ⟨false, 0, false⟩ ⟨8, 98, 52, 0, 0, 3, false, 0, 0, 0⟩),
   (0x1C802188D000C000, .fmulBf16 ⟨false, 0, false⟩ ⟨8, 98, 52, 0, 0, 3, false, 0, 0, 0⟩),
   (0x1CC0200810184000, .ffmaBf16 ⟨false, 0, false⟩ ⟨8, 2, 4, 6, 0, 1, false, 0, 0, 0⟩),
   (0x1D03C038F0010000, .fminBf16 ⟨false, 0, false⟩ ⟨240, 14, 60, 0, 1, 0, false, 0, 0, 0⟩),
   (0x1D43C038F0010000, .fmaxBf16 ⟨false, 0, false⟩ ⟨240, 14, 60, 0, 1, 0, false, 0, 0, 0⟩),
   (0x1D80400388000000, .fabsBf16 ⟨false, 0, false⟩ ⟨16, 0, 226, 0, 0, 0, false, 0, 0, 0⟩),
   (0x1DC0400388000000, .fnegBf16 ⟨false, 0, false⟩ ⟨16, 0, 226, 0, 0, 0, false, 0, 0, 0⟩),
   (0x1E40400388000000, .fclassBf16 ⟨false, 0, false⟩ ⟨16, 0, 226, 0, 0, 0, false, 0, 0, 0⟩),
   (0x1E80400388008000, .frndBf16 ⟨false, 0, false⟩ ⟨16, 0, 226, 0, 0, 2, false, 0, 0, 0⟩),
   (0x1E00151088000013, .fcmpBf16 ⟨false, 0, false⟩ ⟨5, 68, 34, 0, 0, 0, false, 0, 0, 19⟩)]

theorem test_decode_floatB16 : wordsFloatB16.all reads = true := by decide +kernel

/-- The words of the conversions and special functions (R253, R268, R270). -/
def wordsConvert : List (DWord × Instr) :=
  [(0x20001C0018002820, .cvt ⟨false, 0, false⟩ ⟨7, 0, 6, 0, 0, 0, true, 4, 1, 0⟩),
   (0x204008C44C006BC1, .pack ⟨false, 0, false⟩ ⟨2, 49, 19, 0, 0, 1, true, 5, 14, 1⟩),
   (0x20A6A80170000000, .rcp ⟨false, 4, true⟩ ⟨170, 0, 92, 0, 0, 0, false, 0, 0, 0⟩),
   (0x20E6A80170000000, .rsq ⟨false, 4, true⟩ ⟨170, 0, 92, 0, 0, 0, false, 0, 0, 0⟩),
   (0x2126A80170000000, .sqrt ⟨false, 4, true⟩ ⟨170, 0, 92, 0, 0, 0, false, 0, 0, 0⟩),
   (0x2166A80170000000, .exp2 ⟨false, 4, true⟩ ⟨170, 0, 92, 0, 0, 0, false, 0, 0, 0⟩),
   (0x21A6A80170000000, .log2 ⟨false, 4, true⟩ ⟨170, 0, 92, 0, 0, 0, false, 0, 0, 0⟩),
   (0x21E6A80170000000, .sin ⟨false, 4, true⟩ ⟨170, 0, 92, 0, 0, 0, false, 0, 0, 0⟩),
   (0x2226A80170000000, .cos ⟨false, 4, true⟩ ⟨170, 0, 92, 0, 0, 0, false, 0, 0, 0⟩),
   (0x2266A80170000000, .tanh ⟨false, 4, true⟩ ⟨170, 0, 92, 0, 0, 0, false, 0, 0, 0⟩),
   (0x22A6A80170000000, .rcpF64 ⟨false, 4, true⟩ ⟨170, 0, 92, 0, 0, 0, false, 0, 0, 0⟩),
   (0x22E6A80170000000, .sqrtF64 ⟨false, 4, true⟩ ⟨170, 0, 92, 0, 0, 0, false, 0, 0, 0⟩)]

theorem test_decode_convert : wordsConvert.all reads = true := by decide +kernel

/-- The words of the cross-lane operations (R253, R268, R269). -/
def wordsCrossLane : List (DWord × Instr) :=
  [(0x24000C0800060000, .shflIdx ⟨false, 0, false⟩ ⟨3, 2, 0, 1, 2, 0, false, 0, 0, 0⟩),
   (0x24000C0800060001, .shflUp ⟨false, 0, false⟩ ⟨3, 2, 0, 1, 2, 0, false, 0, 0, 1⟩),
   (0x24000C0800060002, .shflDown ⟨false, 0, false⟩ ⟨3, 2, 0, 1, 2, 0, false, 0, 0, 2⟩),
   (0x24000C0800060003, .shflXor ⟨false, 0, false⟩ ⟨3, 2, 0, 1, 2, 0, false, 0, 0, 3⟩),
   (0x2440181400000000, .voteAny ⟨false, 0, false⟩ ⟨6, 5, 0, 0, 0, 0, false, 0, 0, 0⟩),
   (0x2440181400000001, .voteAll ⟨false, 0, false⟩ ⟨6, 5, 0, 0, 0, 0, false, 0, 0, 1⟩),
   (0x2440181400000002, .voteBallot ⟨false, 0, false⟩ ⟨6, 5, 0, 0, 0, 0, false, 0, 0, 2⟩),
   (0x24401AD400000003, .voteEq ⟨false, 0, false⟩ ⟨6, 181, 0, 0, 0, 0, false, 0, 0, 3⟩),
   (0x2480100C00000202, .redl ⟨false, 0, false⟩ ⟨4, 3, 0, 0, 0, 0, false, 1, 0, 2⟩),
   (0x24C011C800001E0D, .scanl ⟨false, 0, false⟩ ⟨4, 114, 0, 0, 0, 0, false, 15, 0, 13⟩)]

theorem test_decode_crossLane : wordsCrossLane.all reads = true := by decide +kernel

/-- The words of the memory operations and atomics (R256, R257, R268). -/
def wordsMemory : List (DWord × Instr) :=
  [(0x280010C82C800010, .ld ⟨false, 0, false⟩ ⟨0x4, 3, false, 1, 5, 2, 2, false, 0x10⟩),
   (0x2840188000C00008, .st ⟨false, 0, false⟩ ⟨0x6, 2, false, 0, 0, 0, 3, false, 0x8⟩),
   (0x28838E538E7FFFFF, .lds ⟨false, 0, false⟩ ⟨0xe3, 9, false, 2, 113, 3, 1, true, 0x1fffff⟩),
   (0x28EE102C9B100000, .sts ⟨false, 5, true⟩ ⟨0x84, 0, true, 1, 147, 1, 4, false, 0x100000⟩),
   (0x2900082840200004, .gather ⟨false, 0, false⟩ ⟨0x2, 0, true, 1, 8, 0, 0, true, 0x4⟩),
   (0x2940082840800004, .scatter ⟨false, 0, false⟩ ⟨0x2, 0, true, 1, 8, 0, 2, false, 0x4⟩),
   (0x298213D036C00010, .uld ⟨false, 0, false⟩ ⟨0x84, 15, false, 2, 6, 3, 3, false, 0x10⟩),
   (0x29C0081400481D30, .atom ⟨false, 0, false⟩ ⟨2, 5, 0, 1, false, 1, 3, 2, 9, 2, false, 0⟩),
   (0x2A0000180380009C, .atomn ⟨false, 0, false⟩ ⟨0, 6, 0, 14, false, 0, 0, 0, 4, 3, true, 0⟩),
   (0x2A400810184E0E0C, .cas ⟨false, 0, false⟩ ⟨2, 4, 6, 1, false, 1, 193, 3, 0, 1, true, 0⟩),
   (0x2A80850C002B2AE0, .atoms ⟨false, 0, false⟩ ⟨33, 67, 0, 0, true, 1, 101, 1, 7, 0, false, 0⟩),
   (0x2AC0850E168B2C18, .cass ⟨false, 0, false⟩ ⟨33, 67, 133, 10, false, 1, 101, 2, 0, 3, false, 0⟩)]

theorem test_decode_memory : wordsMemory.all reads = true := by decide +kernel

/-- The words of the operations on objects and the horizon (R258, R268). -/
def wordsObjects : List (DWord × Instr) :=
  [(0x2B00000000000000, .fence ⟨false, 0, false⟩ ⟨false, 0x0, 0x0⟩),
   (0x2B437FFFE1ABCDE8, .bind ⟨false, 0, false⟩ ⟨true, 0xbffff, 0x1abcde8⟩),
   (0x2B809FFC00000000, .unbind ⟨false, 0, false⟩ ⟨false, 0x4ffe0, 0x0⟩),
   (0x2BC0800010800000, .acq ⟨false, 0, false⟩ ⟨false, 0x40000, 0x10800000⟩),
   (0x2C02000C1FE00800, .rel ⟨false, 0, false⟩ ⟨true, 0x60, 0x1fe00800⟩),
   (0x2C42006200004520, .binit ⟨false, 0, false⟩ ⟨true, 0x310, 0x4520⟩),
   (0x2C82000C10004000, .arrive ⟨false, 0, false⟩ ⟨true, 0x60, 0x10004000⟩),
   (0x2CC2000400001000, .waitph ⟨false, 0, false⟩ ⟨true, 0x20, 0x1000⟩),
   (0x2D0200041FE00E00, .tryph ⟨false, 0, false⟩ ⟨true, 0x20, 0x1fe00e00⟩),
   (0x2D4140011A000000, .qwait ⟨false, 0, false⟩ ⟨false, 0xa0008, 0x1a000000⟩),
   (0x2D8140010FFFF000, .wake ⟨false, 0, false⟩ ⟨false, 0xa0008, 0xffff000⟩),
   (0x2DC0000000000000, .waithz ⟨false, 0, false⟩ ⟨false, 0x0, 0x0⟩)]

theorem test_decode_objects : wordsObjects.all reads = true := by decide +kernel

/-- The words of the engine words (R259 to R261, R268). -/
def wordsEngines : List (DWord × Instr) :=
  [(0x3202000008001002, .cpy ⟨false, 0, false⟩ ⟨0x10000, 0x0, 0x10002, 0x2⟩),
   (0x3242000F18018800, .cpy2 ⟨false, 0, false⟩ ⟨0x10007, 0x11, 0x10031, 0, false, 0⟩),
   (0x3282000F18018800, .cpyt ⟨false, 0, false⟩ ⟨0x10007, 0x11, 0x10031, 0, false, 0⟩),
   (0x32C2000F18018800, .cpyg ⟨false, 0, false⟩ ⟨0x10007, 0x11, 0x10031, 0, false, 0⟩),
   (0x3382000F18018800, .wload ⟨false, 0, false⟩ ⟨0x10007, 0x11, 0x10031, 0, false, 0⟩),
   (0x37C2000FF5000000, .matchArm ⟨false, 0, false⟩ ⟨0x10007, 0x1f, 0xa000, 0, false, 0⟩),
   (0x3300800053800406, .tierp ⟨false, 0, false⟩ ⟨0x4000, 0x5, 0x7000, 0x406⟩),
   (0x3340800053800406, .tiere ⟨false, 0, false⟩ ⟨0x4000, 0x5, 0x7000, 0x406⟩),
   (0x33C2008000000000, .mtask ⟨false, 0, false⟩ ⟨0x10040, 0x0, 0x0, 0, false, 0⟩),
   (0x34037FFE00000000, .qcfg ⟨false, 0, false⟩ ⟨0x1bfff, 0x0, 0x0, 0, false, 0⟩),
   (0x344200A008029013, .commOpen ⟨false, 0, false⟩ ⟨0x10050, 0x0, 0x10052, 0, true, 3⟩),
   (0x348000000802900C, .commClose ⟨false, 0, false⟩ ⟨0x0, 0x0, 0x10052, 0, false, 12⟩),
   (0x34C0C00178029003, .collRs ⟨false, 0, false⟩ ⟨0x6000, 0x17, 0x10052, 0, false, 3⟩),
   (0x3500C00178029003, .collAg ⟨false, 0, false⟩ ⟨0x6000, 0x17, 0x10052, 0, false, 3⟩),
   (0x3540C00178029003, .collAr ⟨false, 0, false⟩ ⟨0x6000, 0x17, 0x10052, 0, false, 3⟩),
   (0x3580C00178029003, .collBc ⟨false, 0, false⟩ ⟨0x6000, 0x17, 0x10052, 0, false, 3⟩),
   (0x35C0C00178029003, .collBar ⟨false, 0, false⟩ ⟨0x6000, 0x17, 0x10052, 0, false, 3⟩),
   (0x3600C00178029003, .collSend ⟨false, 0, false⟩ ⟨0x6000, 0x17, 0x10052, 0, false, 3⟩),
   (0x3640C00178029003, .collRecv ⟨false, 0, false⟩ ⟨0x6000, 0x17, 0x10052, 0, false, 3⟩),
   (0x368020D0A0010060, .rmoCas4 ⟨false, 0, false⟩ ⟨8, 3, 1, 10, 0, false, false, 0, 0x10060⟩),
   (0x36C020D0A0010060, .rmoEnq ⟨false, 0, false⟩ ⟨8, 3, 1, 10, 0, false, false, 0, 0x10060⟩),
   (0x370020D0A0010060, .rmoChase ⟨false, 0, false⟩ ⟨8, 3, 1, 10, 0, false, false, 0, 0x10060⟩),
   (0x3740189043C00000, .rst ⟨false, 0, false⟩ ⟨6, 2, 1, 4, 3, true, true, 0, 0x0⟩),
   (0x37B000000D000000, .rflush ⟨false, 6, false⟩ ⟨0, 0, 0, 0, 13, false, false, 0, 0x0⟩)]

theorem test_decode_engines : wordsEngines.all reads = true := by decide +kernel

/-- The words of the control and system words (R262 to R265, R268). -/
def wordsControl : List (DWord × Instr) :=
  [(0x3903FFFFFFD00080, .bra ⟨false, 0, false⟩ ⟨0x3ffffffd, 0, 0, false, true, 0, 0⟩),
   (0x394C000000AA1580, .brc ⟨false, 1, true⟩ ⟨0xa, 161, 2, true, true, 0, 0⟩),
   (0x39C0000000A00028, .call ⟨false, 0, false⟩ ⟨0xa, 0, 0, false, false, 5, 0⟩),
   (0x3A40000000400000, .bhz ⟨false, 0, false⟩ ⟨0x4, 0, 0, false, false, 0, 0⟩),
   (0x3982C000000A5000, .brx ⟨false, 0, false⟩ ⟨11, 0xa5000⟩),
   (0x3A01400000000000, .ret ⟨false, 0, false⟩ ⟨5, 0x0⟩),
   (0x3A800000000C3000, .rcv ⟨false, 0, false⟩ ⟨0xc3000⟩),
   (0x3AC8000000000000, .exit ⟨false, 1, false⟩ ⟨0x0⟩),
   (0x3B08000000000000, .yield ⟨false, 1, false⟩ ⟨0x0⟩),
   (0x3B48000000000000, .nop ⟨false, 1, false⟩ ⟨0x0⟩),
   (0x3CC8000000000000, .alloc ⟨false, 1, false⟩ ⟨0x0⟩),
   (0x3B80400400000000, .prefi ⟨false, 0, false⟩ ⟨1, 0x400000000⟩),
   (0x3BC0400420000000, .pin ⟨false, 0, false⟩ ⟨1, 0x420000000⟩),
   (0x3C03A00040000000, .unpin ⟨false, 0, false⟩ ⟨14, 0x200040000000⟩),
   (0x3C41880000000000, .launch ⟨false, 0, false⟩ ⟨6, 0x80000000000⟩),
   (0x3C80C00080000000, .fetchw ⟨false, 0, false⟩ ⟨3, 0x80000000⟩),
   (0x3D03000000000000, .freea ⟨false, 0, false⟩ ⟨0x3000000000000⟩),
   (0x3D40A40000000000, .shape ⟨false, 0, false⟩ ⟨2, 0x240000000000⟩),
   (0x3D839C0000000000, .trap ⟨false, 0, false⟩ ⟨0x39c0000000000⟩),
   (0x3DC1000000000000, .rte ⟨false, 0, false⟩ ⟨4, 0x0⟩),
   (0x3E00180F00000000, .rdsr ⟨false, 0, false⟩ ⟨6, false, 7, 64, 0⟩),
   (0x3E40120200000000, .wrsr ⟨false, 0, false⟩ ⟨4, true, 1, 0, 0⟩)]

theorem test_decode_control : wordsControl.all reads = true := by decide +kernel
/-- The pair word of R266's worked example, and the header of `n_body` (R247). -/
theorem test_decode_pair_and_header :
    reads (0x5C0C0414041C0C2C,
      .pairWord false ⟨14, 6, 2, 10, false, false⟩ ⟨1, 7, 3, 11, false, false⟩) = true ∧
    decodeHeader 0xFA5FFFFF80000000 = .ok (.clauseHeader ⟨15, 5, 2, 63, 63, 15, 63, 0⟩) ∧
    decodeHeader 0xFC5FFFFF80000000 = .error .badHeader ∧
    decodeHeader 0xEA5FFFFF80000000 = .error .badHeader ∧
    decodeHeader 0xFA5FFFFF80000001 = .error .reservedField := by decide +kernel

/-- A reserved opcode, a value that is not allowed and a misaligned pair are told apart
(R240, R268, R271). -/
theorem test_decode_rejects :
    decode 0x0580000000000000 = .error .undefinedOpcode ∧
    decode 0x088014041C012001 = .error .reservedField ∧
    decode 0x14C0240810184000 = .error .misalignedPair ∧
    decodeBytes [0, 0, 0, 0, 0, 0, 0] = .error .undefinedOpcode := by decide +kernel

/-! ## What WellFormed refuses -/

/-- An unguarded word. -/
def g0 : Ctl := ⟨false, 0, false⟩

/-- One ill-formed instruction for each check of the vector formats. -/
def illVector : List Instr :=
  [.mov ⟨false, 0, true⟩ ⟨1, 0, 2, 0, 0, 0, false, 0, 0, 0⟩,  -- GP = 0 with GN = 1 (R22)
   .iadd g0 ⟨1, 2, 3, 0, 3, 0, false, 0, 0, 0⟩,               -- BK = 3 (R253)
   .mov g0 ⟨1, 1, 2, 0, 0, 0, false, 0, 0, 0⟩,                -- an unused A (R252)
   .voteAny g0 ⟨1, 1, 1, 0, 0, 0, false, 0, 0, 0⟩,            -- an unused B
   .iadd g0 ⟨1, 2, 3, 4, 0, 0, false, 0, 0, 0⟩,               -- an unused C
   .iadd g0 ⟨1, 2, 128, 0, 1, 0, false, 0, 0, 0⟩,             -- an s code with bit [7] (R251)
   .imad g0 ⟨1, 2, 3, 4, 2, 0, false, 0, 0, 0⟩,               -- no immediate (R269)
   .imin g0 ⟨1, 2, 3, 0, 0, 1, false, 0, 0, 0⟩,               -- an unused RM
   .imin g0 ⟨1, 2, 3, 0, 0, 0, true, 0, 0, 0⟩,                -- an unused SAT
   .imin g0 ⟨1, 2, 3, 0, 0, 0, false, 1, 0, 0⟩,               -- an unused T
   .imin g0 ⟨1, 2, 3, 0, 0, 0, false, 0, 1, 0⟩,               -- an unused T2
   .imin g0 ⟨1, 2, 3, 0, 0, 0, false, 0, 0, 1⟩,               -- an unused MOD
   .icmp g0 ⟨8, 2, 3, 0, 0, 0, false, 0, 0, 0⟩,               -- no predicate D (R251)
   .icmp g0 ⟨1, 2, 3, 0, 0, 0, false, 0, 0, 10⟩,              -- no such condition (R270)
   .fcmp g0 ⟨1, 2, 3, 0, 0, 0, false, 0, 0, 8⟩,               -- no such condition of FCMP
   .fcmpF16 g0 ⟨1, 2, 3, 0, 0, 0, false, 0, 0, 8⟩,            -- the same, packed
   .movi g0 ⟨1, 2, 1⟩,                                        -- reserved bits of VI (R254)
   .sel g0 ⟨1, 2, 3, 16, 0, 0, false, 0, 0, 0⟩,               -- SEL with C[7:4] (R269)
   .plop g0 ⟨1, 8, 3, 0, 0, 0, false, 0, 0, 0⟩,               -- PLOP with no predicate A
   .plop g0 ⟨1, 2, 8, 0, 0, 0, false, 0, 0, 0⟩,               -- PLOP with no predicate B
   .plop g0 ⟨1, 2, 3, 0, 0, 0, false, 0, 0, 16⟩,              -- PLOP with MOD[4]
   .faddF64 g0 ⟨2, 4, 3, 0, 1, 0, false, 0, 0, 0⟩,            -- an odd uniform pair (R273)
   .cvt g0 ⟨2, 0, 4, 0, 0, 0, false, 1, 1, 0⟩,                -- CVT to its own format (R270)
   .cvt g0 ⟨2, 0, 4, 0, 0, 0, false, 1, 8, 0⟩,                -- CVT from a format of no register (R54)
   .cvt g0 ⟨2, 0, 4, 0, 0, 0, false, 11, 1, 0⟩,               -- CVT to a reserved format
   .cvt g0 ⟨2, 0, 4, 0, 0, 0, false, 2, 1, 1⟩,                -- an element of a whole register
   .cvt g0 ⟨2, 0, 4, 0, 0, 0, false, 1, 2, 2⟩,                -- a third half
   .cvt g0 ⟨2, 0, 4, 0, 0, 0, false, 1, 4, 4⟩,                -- a fifth byte
   .pack g0 ⟨2, 0, 4, 0, 0, 0, false, 2, 2, 0⟩,               -- PACK from FP16 (R269)
   .pack g0 ⟨2, 0, 4, 0, 0, 0, false, 8, 1, 0⟩,               -- PACK to a format of no element
   .pack g0 ⟨2, 0, 4, 0, 0, 0, false, 2, 1, 1⟩,               -- the upper half of a full target
   .shflUp g0 ⟨2, 0, 4, 0, 0, 0, false, 0, 0, 5⟩,             -- SHFL with MOD[2] (R269)
   .voteAll g0 ⟨2, 8, 0, 0, 0, 0, false, 0, 0, 1⟩,            -- VOTE of no predicate
   .voteBallot g0 ⟨3, 1, 0, 0, 0, 0, false, 0, 0, 2⟩,         -- an odd pair of VOTE.BALLOT
   .redl g0 ⟨2, 4, 0, 0, 0, 0, false, 2, 0, 0⟩,               -- REDL of FP16 (R269)
   .redl g0 ⟨2, 4, 0, 0, 0, 0, false, 14, 0, 6⟩,              -- no such function (R270)
   .redl g0 ⟨2, 4, 0, 0, 0, 0, false, 1, 0, 3⟩,               -- a logical function of FP32
   .redl g0 ⟨2, 4, 0, 0, 0, 0, false, 14, 0, 8⟩,              -- an exclusive REDL
   .scanl g0 ⟨2, 4, 0, 0, 0, 0, false, 14, 0, 16⟩,            -- SCANL with MOD[4]
   .pairWord false ⟨1, 2, 3, 4, false, true⟩ ⟨1, 2, 3, 4, false, false⟩,   -- a reserved bit (R266)
   .pairWord false ⟨1, 2, 3, 4, false, false⟩ ⟨1, 2, 3, 128, true, false⟩, -- an s code with bit [7]
   .pairWord false ⟨0, 2, 3, 4, false, false⟩ ⟨1, 2, 3, 4, false, false⟩]  -- an A that is not read

theorem test_ill_formed_vector : illVector.all (fun i => !decide i.WellFormed) = true := by
  decide +kernel

/-- One ill-formed instruction for each check of the uniform, memory, object and engine formats. -/
def illUniformMemory : List Instr :=
  [.umov g0 ⟨0x80, 0, 0, 1, 0, 0, 0⟩,            -- D is no s-register (R251)
   .umov g0 ⟨1, 1, 0, 1, 0, 0, 0⟩,               -- an unused A (R255)
   .umov g0 ⟨1, 0, 2, 1, 0, 0, 0⟩,               -- UMOV of an immediate (R269)
   .umovi g0 ⟨1, 0, 0, 1, 0, 0, 0⟩,              -- UMOVI of a register
   .uadd g0 ⟨1, 2, 1, 3, 0, 0, 0⟩,               -- BK = 1 (R255)
   .uadd g0 ⟨1, 2, 0, 3, 4, 0, 0⟩,               -- an unused C
   .uadd g0 ⟨1, 2, 0, 3, 0, 1, 0⟩,               -- a reserved bit
   .uadd g0 ⟨1, 2, 0, 3, 0, 0, 1⟩,               -- an unused MOD
   .umin g0 ⟨1, 2, 0, 3, 0, 0, 2⟩,               -- a second bit beside .U
   .ucmp g0 ⟨1, 2, 0, 3, 0, 0, 10⟩,              -- no such condition (R270)
   .aset g0 ⟨1, 2, 0, 3, 0, 0, 0⟩,               -- D is no a-register
   .aadd g0 ⟨0x81, 2, 0, 3, 0, 0, 0⟩,            -- A is no a-register
   .ld g0 ⟨1, 2, false, 0, 0, 0, 5, false, 0⟩,   -- SZ = 5 (R256)
   .ld g0 ⟨1, 2, false, 3, 0, 0, 2, false, 0⟩,   -- IK = 3
   .lds g0 ⟨1, 2, true, 0, 0, 0, 2, false, 0⟩,   -- a base register with BS = 1
   .ld g0 ⟨1, 0, true, 0, 0, 0, 2, false, 0⟩,    -- LD with BS = 1 (R269)
   .ld g0 ⟨1, 2, false, 0, 0, 0, 2, true, 0⟩,    -- SX of a full word
   .st g0 ⟨1, 2, false, 0, 0, 0, 1, true, 0⟩,    -- SX of a store
   .gather g0 ⟨1, 0, true, 0, 4, 0, 2, false, 0⟩, -- GATHER without its pair (R269)
   .gather g0 ⟨1, 0, true, 1, 5, 0, 2, false, 0⟩, -- an odd address pair
   .uld g0 ⟨1, 0, false, 1, 0, 0, 2, false, 0⟩,  -- ULD with a vector index (R269)
   .uld g0 ⟨1, 0, false, 0, 0, 0, 1, false, 0⟩,  -- ULD of two bytes
   .uld g0 ⟨1, 0, false, 0, 0, 0, 3, false, 0⟩,  -- ULD.64 into an s-register
   .atom g0 ⟨1, 2, 0, 1, false, 0, 0, 0, 10, 0, false, 0⟩, -- no such AOP (R315)
   .atom g0 ⟨1, 2, 0, 1, false, 0, 0, 0, 0, 0, false, 1⟩,  -- a reserved bit (R257)
   .atom g0 ⟨1, 2, 0, 1, false, 2, 0, 0, 0, 0, false, 0⟩,  -- IK = 2
   .atom g0 ⟨1, 2, 3, 1, false, 0, 0, 0, 0, 0, false, 0⟩,  -- an unused K (R269)
   .atomn g0 ⟨1, 2, 0, 1, false, 0, 0, 0, 0, 0, false, 0⟩, -- an unused D
   .cas g0 ⟨1, 2, 3, 1, false, 0, 0, 0, 1, 0, false, 0⟩,   -- an unused AOP
   .fence g0 ⟨false, 0, 1⟩,                      -- an operand of FENCE
   .bind g0 ⟨true, 786432, 0⟩,                   -- an offset past the scratchpad (R258)
   .bind g0 ⟨true, 0, 1⟩,                        -- reserved bits of BIND
   .acq g0 ⟨false, 0, 1 <<< 28 ||| 1 <<< 20⟩,    -- an odd R
   .acq g0 ⟨false, 0, 1 <<< 20⟩,                 -- R without VK
   .binit g0 ⟨true, 0, 1 <<< 28 ||| 1⟩,          -- BTGT with RK
   .arrive g0 ⟨true, 0, 1 <<< 12⟩,               -- a target without EX
   .waitph g0 ⟨true, 0, 1⟩,                      -- reserved bits of WAITPH
   .waitph g0 ⟨true, 786432, 0⟩,                 -- neither an offset nor b_allot
   .tryph g0 ⟨true, 0, 1⟩,                       -- reserved bits of TRYPH
   .qwait g0 ⟨true, 0, 0⟩,                       -- QWAIT in scratchpad
   .wake g0 ⟨true, 0, 0⟩,                        -- WAKE in scratchpad
   .cpy g0 ⟨0, 0, 0, 0⟩,                         -- LEN = 0 (R335)
   .cpy g0 ⟨0x1C000, 0, 0, 1⟩,                   -- a location past the scratchpad (R259)
   .cpy g0 ⟨1, 0, 0, 1⟩,                         -- low bits of a register location
   .tierp g0 ⟨0x10000, 0, 0, 1⟩,                 -- TIERP into scratchpad (R269)
   .tierp g0 ⟨0, 16, 0, 1⟩,                      -- TIERP out of scratchpad
   .cpy2 g0 ⟨0, 0, 0, 1, false, 0⟩,              -- a reserved bit of ED (R260)
   .cpy2 g0 ⟨0, 0, 0, 0, true, 0⟩,               -- PRI
   .cpy2 g0 ⟨0, 0, 0, 0, false, 1⟩,              -- COMM
   .cpy2 g0 ⟨0, 1, 0, 0, false, 0⟩,              -- AUX without its bit [4]
   .mtask g0 ⟨0, 0, 0, 0, false, 0⟩,             -- a descriptor of MTASK in global memory
   .matchArm g0 ⟨0, 0, 0x10000, 0, false, 0⟩,    -- a mailbox of MATCH.ARM in scratchpad
   .rmoEnq g0 ⟨1, 0, 0, 0, 0, false, false, 0, 0⟩, -- a descriptor in global memory (R335)
   .rmoEnq g0 ⟨1, 0, 2, 0, 0, false, false, 0, 0x10000⟩, -- IK = 2
   .rst g0 ⟨1, 0, 0, 0, 0, false, false, 0, 1⟩,  -- DESC of RST (R269)
   .rflush g0 ⟨1, 0, 0, 0, 0, false, false, 0, 0⟩] -- REG of RFLUSH

theorem test_ill_formed_uniform_memory :
    illUniformMemory.all (fun i => !decide i.WellFormed) = true := by decide +kernel

/-- One ill-formed instruction for each check of the control formats, of R271 item 3 and of
headers. -/
def illControlPairs : List Instr :=
  [.bra ⟨false, 1, false⟩ ⟨1, 0, 0, false, false, 0, 0⟩, -- a guarded BRA (R269)
   .bra g0 ⟨1, 1, 0, false, false, 0, 0⟩,        -- TOKEN of BRA
   .brc g0 ⟨1, 1, 0, false, false, 1, 0⟩,        -- LINK of BRC
   .brc g0 ⟨1, 1, 0, false, false, 0, 1⟩,        -- reserved bits (R262)
   .call g0 ⟨1, 0, 1, false, false, 1, 0⟩,       -- P of CALL
   .brx g0 ⟨1, 1⟩,                               -- reserved bits of BRX (R263)
   .ret g0 ⟨1, 1⟩,                               -- reserved bits of RET
   .pin g0 ⟨1, 0⟩,                               -- no lines
   .pin g0 ⟨1, 1 <<< 30 ||| 1⟩,                  -- reserved bits of PIN
   .launch g0 ⟨1, 1⟩,                            -- reserved bits of LAUNCH
   .fetchw g0 ⟨1, 1⟩,                            -- reserved bits of FETCHW
   .rte g0 ⟨1, 1⟩,                               -- reserved bits of RTE
   .rcv g0 ⟨1⟩,                                  -- reserved bits of RCV (R264)
   .exit g0 ⟨1⟩,                                 -- an operand of EXIT
   .trap g0 ⟨1⟩,                                 -- reserved bits of TRAP
   .freea g0 ⟨0⟩,                                -- FREEA of nothing
   .freea g0 ⟨97 <<< 43⟩,                        -- FREEA of more than 96 granules
   .rdsr g0 ⟨1, false, 0, 0, 1⟩,                 -- reserved bits of RDSR (R265)
   .rdsr g0 ⟨128, true, 0, 0, 0⟩,                -- no s-register
   .ffmaF64 g0 ⟨2, 4, 6, 3, 0, 0, false, 0, 0, 0⟩, -- an odd C of FP64 (R15)
   .fabsF64 g0 ⟨1, 0, 2, 0, 0, 0, false, 0, 0, 0⟩, -- an odd D
   .fclassF64 g0 ⟨1, 0, 3, 0, 0, 0, false, 0, 0, 0⟩, -- an odd B
   .fcmpF64 g0 ⟨1, 3, 2, 0, 0, 0, false, 0, 0, 0⟩, -- an odd A
   .cvt g0 ⟨1, 0, 2, 0, 0, 0, false, 0, 1, 0⟩,   -- an odd D of CVT.F64
   .redl g0 ⟨2, 3, 0, 0, 0, 0, false, 0, 0, 0⟩,  -- an odd A of REDL.F64
   .ld g0 ⟨1, 2, false, 0, 0, 0, 3, false, 0⟩,   -- an odd D of LD.64 (R256)
   .st g0 ⟨2, 2, false, 0, 0, 0, 4, false, 0⟩,   -- D of ST.128 no multiple of 4
   .atom g0 ⟨2, 3, 0, 1, false, 0, 0, 0, 0, 0, true, 0⟩, -- an odd S of ATOM.64 (R257)
   .rst g0 ⟨1, 0, 0, 0, 0, false, true, 0, 0⟩,   -- an odd REG of RST.64 (R261)
   .clauseHeader ⟨14, 5, 2, 63, 63, 15, 63, 0⟩,  -- no TAG (R247)
   .clauseHeader ⟨15, 6, 2, 63, 63, 15, 63, 0⟩,  -- a reserved class (R17)
   .clauseHeader ⟨15, 5, 2, 63, 63, 15, 63, 1⟩]  -- a reserved bit

theorem test_ill_formed_control_pairs :
    illControlPairs.all (fun i => !decide i.WellFormed) = true := by decide +kernel

/-! ## States that meet the hypotheses of the statements -/

/-- The module with one core, whose fragment 0 issues a word. -/
def onCore (k : Core) (word : DWord) : State :=
  { (State.reset.loadWord word) with agenda := [], cores := [(0, k)], cur := some (0, 0, word) }

/-- A word of core 0, of block 0, wave 0 and fragment 0, with 64 lanes and 256 registers. -/
def s0 : State := onCore loadCore 0

/-- The context of the word of a state. -/
def ctxOf (s : State) : Ctx :=
  s.ctx?.getD ⟨0, Core.reset, Wave.start 0 0 0 0 0 false 0, Block.placed 0 0 0 0 [] [] false 0,
    ⟨0, 0, 0, .header 0, none, [], .none, false, Damper.reset, 0, false, false, false⟩, 0⟩

def x0 : Ctx := ctxOf s0

theorem ctx_of {s : State} (h : s.ctx?.isSome = true) : s.ctx? = some (ctxOf s) := by
  obtain ⟨x, hx⟩ := Option.isSome_iff_exists.mp h
  simp [ctxOf, hx]

theorem s0_ctx : s0.ctx? = some x0 := ctx_of (by decide +kernel)

/-- A property of the lanes below 64 is one of the lanes of a mask. -/
theorem forall_lanes {P : Nat → Prop} {m : LaneMask}
    (h : ∀ l, l < 64 → m.getLsbD l = true → P l) : ∀ l, m.getLsbD l = true → P l :=
  fun l hl => h l (BitVec.lt_of_getLsbD hl) hl

/-- The wave, the block or the fragment of core 0 with a change. -/
def withWave (f : Wave → Wave) : State := onCore { loadCore with waves := loadCore.waves.map f } 0
def withBlock (f : Block → Block) : State := onCore { loadCore with blocks := loadCore.blocks.map f } 0
def withFrag (f : Frag → Frag) : State := onCore { loadCore with frags := loadCore.frags.map f } 0

/-- The conditions of `Claim.Ready`, as a test. -/
def isReady (s : State) (g : Ctl) (regs : List Nat) (srcs : List Src) : Bool :=
  s.ctx?.isSome && regs.all (ctxOf s).regOk && !(ctxOf s).guardPoison g (ctxOf s).frag.mask
    && !(ctxOf s).anyPoison ((ctxOf s).active g) srcs

theorem ready_of {s : State} {g : Ctl} {regs : List Nat} {srcs : List Src}
    (h : isReady s g regs srcs = true) : Claim.Ready s (ctxOf s) g regs srcs := by
  simp only [isReady, Bool.and_eq_true, Bool.not_eq_true', List.all_eq_true] at h
  exact ⟨ctx_of h.1.1.1, h.1.1.2, h.1.2, h.2⟩

/-- The same for a uniform word whose guard holds in lane 0. -/
def isUniReady (s : State) (g : Ctl) (srcs : List Src) : Bool :=
  s.ctx?.isSome && lowLane (ctxOf s).frag.mask == some 0 && ((ctxOf s).guardMask g).getLsbD 0
    && !(ctxOf s).guardPoison g (laneBit 0) && !(ctxOf s).anyPoison (laneBit 0) srcs

theorem uni_ready_of {s : State} {g : Ctl} {srcs : List Src} (h : isUniReady s g srcs = true) :
    Claim.UniReady s (ctxOf s) g 0 srcs := by
  simp only [isUniReady, Bool.and_eq_true, Bool.not_eq_true', beq_iff_eq] at h
  exact ⟨ctx_of h.1.1.1.1, h.1.1.1.2, h.1.1.2, h.1.2, h.2⟩

/-- And for a word of the whole fragment. -/
def isFragReady (s : State) (g : Ctl) (srcs : List Src) : Bool :=
  s.ctx?.isSome && (ctxOf s).active g != 0 && !(ctxOf s).guardPoison g (ctxOf s).frag.mask
    && !(ctxOf s).anyPoison ((ctxOf s).active g) srcs

theorem frag_ready_of {s : State} {g : Ctl} {srcs : List Src} (h : isFragReady s g srcs = true) :
    Claim.FragReady s (ctxOf s) g srcs := by
  simp only [isFragReady, Bool.and_eq_true, Bool.not_eq_true', bne_iff_ne] at h
  exact ⟨ctx_of h.1.1.1, h.1.1.2, h.1.2, h.2⟩

/-- From a test over a list of words to a statement about each of them. -/
theorem each_of {α : Type} {P : Instr → α → Prop} {rule : Instr → Option α} {ok : α → Bool}
    (sound : ∀ i r, ok r = true → P i r) {l : List (DWord × Instr)}
    (h : (l.all fun p => (rule p.2).any ok) = true) :
    ∀ p ∈ l, ∃ r, rule p.2 = some r ∧ P p.2 r := by
  intro p hp
  have := List.all_eq_true.mp h p hp
  obtain ⟨r, hr, hok⟩ := Option.any_eq_true _ _ |>.mp this
  exact ⟨r, hr, sound _ _ hok⟩

/-- What can be tested of the hypotheses for a word that takes a number. -/
def isOp (s : State) (room : Bool) (r : Claim.OpRule) : Bool :=
  isReady s r.g r.regs r.srcs && (ctxOf s).active r.g != 0 && (ctxOf s).opRoom r.count == room

theorem op_of {s : State} {room : Bool} {r : Claim.OpRule} (h : isOp s room r = true) (hn : r.needs s (ctxOf s)) :
    Claim.OpReady s (ctxOf s) r ∧ (ctxOf s).opRoom r.count = room := by
  simp only [isOp, Bool.and_eq_true, bne_iff_ne, beq_iff_eq] at h
  exact ⟨⟨ready_of h.1.1, h.1.2, hn⟩, h.2⟩


/-! ### Compute words -/

theorem witness_UniformWordsComplete : ∀ p ∈ wordsUniform, ∃ r, Claim.uniRule p.2 = some r ∧
    Claim.UniReady s0 x0 r.g 0 r.srcs :=
  each_of (ok := fun (r : Claim.UniRule) => isUniReady s0 r.g r.srcs) (fun _ _ => uni_ready_of) (by decide +kernel)

theorem witness_UniformWordsSkip : ∃ r, Claim.uniRule (.umov ⟨false, 1, false⟩ ⟨1, 0, 0, 2, 0, 0, 0⟩) = some r ∧
    s0.ctx? = some x0 ∧ lowLane x0.frag.mask = some 0 ∧ (x0.guardMask r.g).getLsbD 0 = false ∧
    x0.guardPoison r.g (laneBit 0) = false :=
  ⟨_, rfl, s0_ctx, by decide +kernel, by decide +kernel, by decide +kernel⟩

/-- The words of the table of integer words that are lane words. -/
def laneWordsOf (l : List (DWord × Instr)) (rule : Instr → Option Claim.LaneRule) : List (DWord × Instr) :=
  l.filter fun p => (rule p.2).isSome

theorem witness_IntegerWords : ∀ p ∈ laneWordsOf wordsInteger Claim.intRule,
    ∃ r, Claim.intRule p.2 = some r ∧ Claim.Ready s0 x0 r.g r.regs r.srcs :=
  each_of (ok := fun (r : Claim.LaneRule) => isReady s0 r.g r.regs r.srcs) (fun _ _ => ready_of) (by decide +kernel)

theorem witness_IntegerWords_all : (laneWordsOf wordsInteger Claim.intRule).length = 30 := by decide +kernel

theorem witness_FloatWords : ∀ p ∈ laneWordsOf (wordsFloat32 ++ wordsFloat16 ++ wordsFloatB16 ++ wordsFloat64) Claim.floatRule,
    ∃ r, Claim.floatRule p.2 = some r ∧ Claim.Ready s0 x0 r.g r.regs r.srcs :=
  each_of (ok := fun (r : Claim.LaneRule) => isReady s0 r.g r.regs r.srcs) (fun _ _ => ready_of) (by decide +kernel)

theorem witness_FloatWords_all :
    (laneWordsOf (wordsFloat32 ++ wordsFloat16 ++ wordsFloatB16 ++ wordsFloat64) Claim.floatRule).length = 31 := by
  decide +kernel

theorem witness_Float64Words : ∀ p ∈ wordsFloat64.filter fun p => (Claim.float64Rule p.2).isSome,
    ∃ r, Claim.float64Rule p.2 = some r ∧ Claim.Ready s0 x0 r.g r.regs r.srcs :=
  each_of (ok := fun (r : Claim.PairRule) => isReady s0 r.g r.regs r.srcs) (fun _ _ => ready_of) (by decide +kernel)

theorem witness_Float64Words_all : (wordsFloat64.filter fun p => (Claim.float64Rule p.2).isSome).length = 9 := by
  decide +kernel

/-- The words with a predicate result. -/
def predWords : List (DWord × Instr) :=
  (wordsInteger ++ wordsFloat32 ++ wordsFloat64 ++ wordsFloat16 ++ wordsFloatB16).filter fun p =>
    (Claim.predRule p.2).isSome

theorem witness_PredicateWords : ∀ p ∈ predWords,
    ∃ r, Claim.predRule p.2 = some r ∧ Claim.Ready s0 x0 r.g r.regs r.srcs :=
  each_of (ok := fun (r : Claim.PredRule) => isReady s0 r.g r.regs r.srcs) (fun _ _ => ready_of) (by decide +kernel)

theorem witness_PredicateWords_all : predWords.length = 6 := by decide +kernel

/-- CVT to an FP64 pair, and CVT to another format. -/
theorem witness_CvtCompletes : ∀ o ∈ [VX.mk 6 0 4 0 0 0 false 0 1 0, VX.mk 7 0 6 0 0 0 true 4 1 0],
    Claim.Ready s0 x0 g0 (Claim.cvtNames o) (cvtSrcs o) := by
  intro o ho
  simp only [List.mem_cons, List.not_mem_nil, or_false] at ho
  obtain rfl | rfl := ho <;> exact ready_of (by decide +kernel)

theorem witness_PackCompletes : let o : VX := ⟨2, 1, 3, 0, 0, 0, false, 5, 14, 1⟩
    Claim.Ready s0 x0 g0 (o.d.toNat :: o.a.toNat :: bRegs o) (.v o.a.toNat :: bSrcs o) :=
  ready_of (by decide +kernel)

theorem witness_SpecialFunctionWords : ∀ p ∈ laneWordsOf wordsConvert Claim.sfuRule,
    ∃ r, Claim.sfuRule p.2 = some r ∧ Claim.Ready s0 x0 r.g r.regs r.srcs :=
  each_of (ok := fun (r : Claim.LaneRule) => isReady s0 r.g r.regs r.srcs) (fun _ _ => ready_of) (by decide +kernel)

theorem witness_SpecialFunctionWords64 : ∀ p ∈ wordsConvert.filter fun p => (Claim.sfu64Rule p.2).isSome,
    ∃ r, Claim.sfu64Rule p.2 = some r ∧ Claim.Ready s0 x0 r.g r.regs r.srcs :=
  each_of (ok := fun (r : Claim.PairRule) => isReady s0 r.g r.regs r.srcs) (fun _ _ => ready_of) (by decide +kernel)

theorem witness_SpecialFunctionWords_all : (laneWordsOf wordsConvert Claim.sfuRule).length = 8 ∧
    (wordsConvert.filter fun p => (Claim.sfu64Rule p.2).isSome).length = 2 := by decide +kernel

/-- The conditions of a shuffle, as a test. -/
def isShuffle (r : ShflMode × Ctl × VX) : Bool :=
  isReady s0 r.2.1 (r.2.2.d.toNat :: r.2.2.a.toNat :: bRegs r.2.2) (bSrcs r.2.2)
    && (List.range 64).all fun l => x0.wave.poisonV x0.frag.handler r.2.2.a.toNat
      (Claim.shflLane x0 r.2.1 r.2.2 r.1 l) == 0

theorem witness_ShufflesIssue : ∀ p ∈ wordsCrossLane.take 4, ∃ r, Claim.shflMode p.2 = some r ∧
    (Claim.Ready s0 x0 r.2.1 (r.2.2.d.toNat :: r.2.2.a.toNat :: bRegs r.2.2) (bSrcs r.2.2) ∧
    ∀ l, (x0.active r.2.1).getLsbD l →
      x0.wave.poisonV x0.frag.handler r.2.2.a.toNat (Claim.shflLane x0 r.2.1 r.2.2 r.1 l) = 0) := by
  have h : ((wordsCrossLane.take 4).all fun p => (Claim.shflMode p.2).any isShuffle) = true := by decide +kernel
  intro p hp
  obtain ⟨r, hr, hok⟩ := (Option.any_eq_true _ _).mp (List.all_eq_true.mp h p hp)
  rw [isShuffle, Bool.and_eq_true, List.all_eq_true] at hok
  exact ⟨r, hr, ready_of hok.1, forall_lanes fun l hl _ => by simpa using hok.2 l (List.mem_range.mpr hl)⟩

theorem witness_VotesIssue : ∀ p ∈ (wordsCrossLane.drop 4).filter fun p => (Claim.votePredRule p.2).isSome,
    ∃ r, Claim.votePredRule p.2 = some r ∧ Claim.Ready s0 x0 r.g r.regs r.srcs :=
  each_of (ok := fun (r : Claim.PredRule) => isReady s0 r.g r.regs r.srcs) (fun _ _ => ready_of) (by decide +kernel)

theorem witness_VotesIssue_all :
    ((wordsCrossLane.drop 4).filter fun p => (Claim.votePredRule p.2).isSome).length = 3 ∧
    (wordsCrossLane.take 4).length = 4 := by decide +kernel

theorem witness_VotesIssue_ballot : let o : VX := ⟨6, 5, 0, 0, 0, 0, false, 0, 0, 2⟩
    Claim.Ready s0 x0 g0 (pairRegs o.d) [.p o.a.toNat] := ready_of (by decide +kernel)

theorem witness_ReductionsIssue : let o : VX := ⟨4, 6, 0, 0, 0, 0, false, 0, 0, 2⟩
    Claim.Ready s0 x0 g0 (redRegs o) (redSrcs o) := ready_of (by decide +kernel)

theorem witness_PairWordCompletes : let l : Compact := ⟨14, 6, 2, 10, false, false⟩
    let r : Compact := ⟨1, 7, 3, 11, false, false⟩
    s0.ctx? = some x0 ∧ (∀ k ∈ compactRegs l ++ compactRegs r, x0.regOk k = true) ∧ pairFault l r = false ∧
    x0.anyPoison x0.frag.mask (compactSrcs l ++ compactSrcs r) = false :=
  ⟨s0_ctx, by decide +kernel, by decide +kernel, by decide +kernel⟩

/-- Two registers of one bank; two uniform operands; two halves of the special set. -/
theorem witness_PairConflictsTrap : ∀ p ∈ [((⟨14, 6, 2, 10, false, false⟩ : Compact), (⟨1, 14, 3, 11, false, false⟩ : Compact)),
      (⟨1, 6, 2, 10, true, false⟩, ⟨1, 7, 3, 11, true, false⟩), (⟨25, 6, 0, 10, false, false⟩, ⟨23, 7, 0, 11, false, false⟩)],
    s0.ctx? = some x0 ∧ (∀ k ∈ compactRegs p.1 ++ compactRegs p.2, x0.regOk k = true) ∧
    ((∃ a ∈ compactRegs p.1, ∃ b ∈ compactRegs p.2, a % 4 = b % 4) ∨ (p.1.bu = true ∧ p.2.bu = true) ∨
      (23 ≤ p.1.cop.toNat ∧ p.1.cop.toNat ≤ 28 ∧ 23 ≤ p.2.cop.toNat ∧ p.2.cop.toNat ≤ 28)) := by
  intro p hp
  refine ⟨s0_ctx, ?_⟩
  revert p
  decide +kernel


/-! ### Words that take a number, and what holds a word at issue -/

/-- `Claim.clear` as a test. -/
def isClear (x : Ctx) (rs : List (Nat × Nat)) : Bool :=
  x.wave.ops.all fun p => !(p.unresolved && decide (p.handler = x.frag.handler)) ||
    (!p.acquires && (!p.settles || p.ranges.all fun a => rs.all fun b => decide (a.1 + a.2 ≤ b.1 ∨ b.1 + b.2 ≤ a.1)))

theorem clear_iff {x : Ctx} {rs : List (Nat × Nat)} : Claim.clear x rs ↔ isClear x rs = true := by
  simp only [Claim.clear, isClear, List.all_eq_true, Bool.or_eq_true, Bool.and_eq_true, Bool.not_eq_true', decide_eq_true_eq,
    Bool.and_eq_false_iff, decide_eq_false_iff_not]
  refine ⟨fun h p hp => ?_, fun h p hp hu hh => ?_⟩
  · by_cases hu : p.unresolved = true
    · by_cases hh : p.handler = x.frag.handler
      · obtain ⟨h1, h2⟩ := h p hp hu hh
        refine .inr ⟨h1, ?_⟩
        by_cases hs : p.settles = true
        · exact .inr (h2 hs)
        · exact .inl (by simpa using hs)
      · exact .inl (.inr hh)
    · exact .inl (.inl (by simpa using hu))
  · obtain (h1 | h1) | ⟨h1, h2 | h2⟩ := h p hp
    · simp_all
    · exact absurd hh h1
    · exact ⟨h1, fun hs => by simp_all⟩
    · exact ⟨h1, fun _ => h2⟩

theorem clear_of {x : Ctx} {rs : List (Nat × Nat)} (h : isClear x rs = true) : Claim.clear x rs := clear_iff.mpr h

/-- One word for each rule of `Claim.opRule`. -/
def numberedWords : List Instr :=
  [.ld g0 ⟨4, 3, false, 1, 5, 2, 2, false, 16⟩, .gather g0 ⟨2, 0, true, 1, 8, 0, 2, false, 4⟩,
   .st g0 ⟨6, 2, false, 0, 0, 0, 3, false, 8⟩, .scatter g0 ⟨2, 0, true, 1, 8, 0, 2, false, 4⟩,
   .uld g0 ⟨0x84, 0, false, 0, 0, 0, 3, false, 16⟩, .atom g0 ⟨2, 5, 0, 1, false, 1, 3, 2, 0, 2, false, 0⟩,
   .atomn g0 ⟨0, 5, 0, 1, false, 1, 3, 2, 9, 0, false, 0⟩, .cas g0 ⟨2, 5, 6, 1, false, 0, 0, 0, 0, 1, false, 0⟩,
   .fence g0 ⟨false, 0, 0⟩, .binit g0 ⟨false, 0, 0x8020⟩, .arrive g0 ⟨false, 0, 1 <<< 28 ||| 4 <<< 12⟩,
   .rel g0 ⟨false, 0, 0⟩, .qwait g0 ⟨false, 0, 3 <<< 25⟩, .wake g0 ⟨false, 0, 0xFFFF <<< 12⟩,
   .launch g0 ⟨6, 2 <<< 42⟩, .shape g0 ⟨2, 9 <<< 42⟩, .rst g0 ⟨6, 2, 1, 4, 3, true, false, 0, 0⟩,
   .matchArm g0 ⟨0x10000, 0x12, 0x3000, 0, false, 0⟩, .collRs g0 ⟨0x10002, 0x12, 0x10004, 0, false, 3⟩,
   .collAg g0 ⟨0x10002, 0, 0x10004, 0, false, 3⟩, .collAr g0 ⟨0x10002, 0, 0x10004, 0, false, 3⟩,
   .collBc g0 ⟨0x10002, 0, 0x10004, 0, false, 3⟩, .collBar g0 ⟨0x10002, 0, 0x10004, 0, false, 3⟩,
   .collSend g0 ⟨0x10002, 0, 0x10004, 0, false, 3⟩, .collRecv g0 ⟨0x10002, 0, 0x10004, 0, false, 3⟩,
   .commOpen g0 ⟨0x10002, 0, 0x10004, 0, true, 15⟩, .rmoCas4 g0 ⟨8, 3, 1, 10, 0, false, false, 0, 0x10060⟩,
   .rmoEnq g0 ⟨8, 3, 1, 10, 0, false, false, 0, 0x10060⟩, .rmoChase g0 ⟨8, 3, 0, 0, 0, false, false, 0, 0x10060⟩]

theorem witness_NumberedWords : ∀ i ∈ numberedWords, ∃ r, Claim.opRule i = some r ∧
    Claim.OpReady s0 x0 r ∧ x0.opRoom r.count = true := by
  unfold numberedWords
  repeat' refine List.forall_mem_cons.mpr ⟨?_, ?_⟩
  on_goal -1 => exact fun _ h => absurd h List.not_mem_nil
  all_goals refine ⟨_, rfl, op_of (by decide +kernel) ?_⟩
  all_goals
    first
    | exact trivial
    | exact ⟨by decide +kernel, trivial⟩
    | exact ⟨by decide +kernel, _, rfl⟩
    | exact forall_lanes (by decide +kernel)
    | exact ⟨by decide +kernel, by decide +kernel, clear_of (by decide +kernel), by decide +kernel⟩
    | exact ⟨by decide +kernel, by decide +kernel, clear_of (by decide +kernel)⟩
    | exact ⟨by decide +kernel, by decide +kernel⟩
    | (change _ = _; decide +kernel)

/-- An operation of wave 0 with number 1, as it is issued. -/
def opOf (work : Work) (lanes : List LaneAcc) : Op :=
  { num := 1, handler := false, frags := [0], count := .ld, counted := true, kind := 0, pc := 0x30008, fmask := 1,
    lanes := lanes, work := work, regions := [], retried := false, status := .waiting, escaped := false, stall := false, results := [],
    reach := [], answer := none, mark := none, behind := false }

/-- Lane 0 and lane 63 of an access of the fast tier. -/
def twoLanes : List LaneAcc := [⟨0, 0x50000, 7, 0⟩, ⟨63, 0x5007C, 9, 0⟩]

/-- 64 open operations fill the window (R195). -/
def sFull : State := withWave fun w => { w with seq := 65, hzn := 1 }

/-- 63 outstanding loads fill the counter of a fragment (R174). -/
def sLoads : State := withWave fun w => { w with seq := 64, hzn := 1, ops := (List.range 63).map fun k =>
  { opOf (.load 4 2 false) [] with num := BitVec.ofNat 16 (k + 1) } }

theorem witness_NumberedWordsWait :
    (∃ r, Claim.opRule (.fence g0 ⟨false, 0, 0⟩) = some r ∧ Claim.OpReady sFull (ctxOf sFull) r ∧
      (ctxOf sFull).opRoom r.count = false) ∧
    (∃ r, Claim.opRule (.ld g0 ⟨4, 3, false, 0, 0, 0, 2, false, 0⟩) = some r ∧ Claim.OpReady sLoads (ctxOf sLoads) r ∧
      (ctxOf sLoads).opRoom r.count = false) :=
  ⟨⟨_, rfl, op_of (by decide +kernel) trivial⟩, ⟨_, rfl, op_of (by decide +kernel) trivial⟩⟩

theorem witness_EmptyActiveWords : ∃ r, Claim.opRule (.ld ⟨false, 1, false⟩ ⟨4, 3, false, 0, 0, 0, 2, false, 0⟩) = some r ∧
    s0.ctx? = some x0 ∧ (∀ k ∈ r.regs, x0.regOk k = true) ∧ x0.guardPoison r.g x0.frag.mask = false ∧
    x0.active r.g = 0 :=
  ⟨_, rfl, s0_ctx, by decide +kernel, by decide +kernel, by decide +kernel⟩

/-- A wave with a budget of 8 registers. -/
def sEight : State := withWave fun w => { w with budget := 8 }

theorem witness_BudgetTraps : sEight.ctx? = some (ctxOf sEight) ∧ (ctxOf sEight).frag.handler = false ∧
    (ctxOf sEight).wave.budget ≤ 8 ∧
    ((Claim.intRule (.iadd g0 ⟨8, 2, 3, 0, 0, 0, false, 0, 0, 0⟩)).any (8 ∈ ·.regs) ∧
      (Claim.floatRule (.fadd g0 ⟨1, 8, 3, 0, 0, 0, false, 0, 0, 0⟩)).any (8 ∈ ·.regs) ∧
      (Claim.sfuRule (.rcp g0 ⟨1, 0, 8, 0, 0, 0, false, 0, 0, 0⟩)).any (8 ∈ ·.regs) ∧
      (Claim.float64Rule (.faddF64 g0 ⟨8, 2, 4, 0, 0, 0, false, 0, 0, 0⟩)).any (8 ∈ ·.regs) ∧
      (Claim.sfu64Rule (.rcpF64 g0 ⟨8, 0, 4, 0, 0, 0, false, 0, 0, 0⟩)).any (8 ∈ ·.regs) ∧
      (Claim.predRule (.icmp g0 ⟨1, 8, 3, 0, 0, 0, false, 0, 0, 0⟩)).any (8 ∈ ·.regs) ∧
      (Claim.votePredRule (.voteEq g0 ⟨1, 8, 0, 0, 0, 0, false, 0, 0, 3⟩)).any (8 ∈ ·.regs) ∧
      (Claim.opRule (.ld g0 ⟨8, 3, false, 0, 0, 0, 2, false, 0⟩)).any (8 ∈ ·.regs)) :=
  ⟨ctx_of (by decide +kernel), by decide +kernel⟩

/-- A wave whose v2 is poisoned in lane 63, whose a3 is poisoned in its upper half, and whose p1 is in its last group. -/
def sPoison : State := withWave fun w => { w with vPoison := [(64 * 2 + 63, 3)], aPoison := [7], pPoison := [15] }

theorem witness_PoisonTraps : sPoison.ctx? = some (ctxOf sPoison) ∧
    (∃ r, Claim.intRule (.iadd g0 ⟨8, 2, 3, 0, 0, 0, false, 0, 0, 0⟩) = some r ∧ (∀ k ∈ r.regs, (ctxOf sPoison).regOk k = true) ∧
      (ctxOf sPoison).anyPoison ((ctxOf sPoison).active r.g) r.srcs = true) ∧
    (∃ r, Claim.floatRule (.fadd ⟨false, 1, true⟩ ⟨8, 4, 3, 0, 0, 0, false, 0, 0, 0⟩) = some r ∧
      (∀ k ∈ r.regs, (ctxOf sPoison).regOk k = true) ∧ (ctxOf sPoison).guardPoison r.g (ctxOf sPoison).frag.mask = true) ∧
    (∃ r, Claim.sfuRule (.rcp g0 ⟨8, 0, 2, 0, 0, 0, false, 0, 0, 0⟩) = some r ∧ (∀ k ∈ r.regs, (ctxOf sPoison).regOk k = true) ∧
      (ctxOf sPoison).anyPoison ((ctxOf sPoison).active r.g) r.srcs = true) ∧
    (∃ r, Claim.opRule (.ld g0 ⟨4, 3, false, 0, 0, 0, 2, false, 0⟩) = some r ∧ (∀ k ∈ r.regs, (ctxOf sPoison).regOk k = true) ∧
      (ctxOf sPoison).anyPoison ((ctxOf sPoison).active r.g) r.srcs = true) :=
  ⟨ctx_of (by decide +kernel), ⟨_, rfl, by decide +kernel, by decide +kernel⟩, ⟨_, rfl, by decide +kernel, by decide +kernel⟩,
    ⟨_, rfl, by decide +kernel, by decide +kernel⟩, ⟨_, rfl, by decide +kernel, by decide +kernel⟩⟩

/-! ### Scratchpad words -/

/-- The last word of the backed 8,192 bytes, in each lane. -/
def topWord : MG := ⟨4, 0, true, 0, 0, 0, 2, false, 8188⟩
/-- The first word beyond it. -/
def pastTop : MG := ⟨4, 0, true, 0, 0, 0, 2, false, 8189⟩

theorem witness_ScratchpadLoadCompletes :
    Claim.Ready s0 x0 g0 (dataRegs topWord.d.toNat topWord.sz.toNat ++ mgIdxRegs topWord) (mgSrcs topWord) ∧
    (∀ l, (x0.active g0).getLsbD l → x0.block.spadOk (mgEA x0 topWord l).toNat (2 ^ topWord.sz.toNat) = true) ∧
    (∀ l, (x0.active g0).getLsbD l → x0.block.spadBad (mgEA x0 topWord l).toNat (2 ^ topWord.sz.toNat) = false) ∧
    x0.core.countOf x0.frag .ld < 63 ∧
    Claim.clear x0 (Claim.spadLanes x0 g0 (mgEA x0 topWord) (2 ^ topWord.sz.toNat)) ∧ x0.active g0 ≠ 0 :=
  ⟨ready_of (by decide +kernel), forall_lanes (by decide +kernel), forall_lanes (by decide +kernel), by decide +kernel,
    clear_of (by decide +kernel), by decide +kernel⟩

theorem witness_ScratchpadStoreCompletes :
    Claim.Ready s0 x0 g0 (dataRegs topWord.d.toNat topWord.sz.toNat ++ mgIdxRegs topWord)
      (mgSrcs topWord ++ storeSrcs topWord.d.toNat topWord.sz.toNat) ∧
    (∀ l, (x0.active g0).getLsbD l → x0.block.spadOk (mgEA x0 topWord l).toNat (2 ^ topWord.sz.toNat) = true) ∧
    x0.core.countOf x0.frag .st < 63 ∧
    Claim.clear x0 (Claim.spadLanes x0 g0 (mgEA x0 topWord) (2 ^ topWord.sz.toNat)) ∧ x0.active g0 ≠ 0 :=
  ⟨ready_of (by decide +kernel), forall_lanes (by decide +kernel), by decide +kernel, clear_of (by decide +kernel),
    by decide +kernel⟩

theorem witness_ScratchpadBoundsTrap : (x0.active g0).getLsbD 0 = true ∧
    x0.block.spadOk (mgEA x0 pastTop 0).toNat (2 ^ pastTop.sz.toNat) = false ∧
    (∀ j, j < 0 → (x0.active g0).getLsbD j → x0.block.spadOk (mgEA x0 pastTop j).toNat (2 ^ pastTop.sz.toNat) = true) ∧
    Claim.Ready s0 x0 g0 (dataRegs pastTop.d.toNat pastTop.sz.toNat ++ mgIdxRegs pastTop) (mgSrcs pastTop) ∧
    Claim.Ready s0 x0 g0 (dataRegs pastTop.d.toNat pastTop.sz.toNat ++ mgIdxRegs pastTop)
      (mgSrcs pastTop ++ storeSrcs pastTop.d.toNat pastTop.sz.toNat) :=
  ⟨by decide +kernel, by decide +kernel, fun j h => absurd h (Nat.not_lt_zero j), ready_of (by decide +kernel),
    ready_of (by decide +kernel)⟩

theorem witness_ScratchpadAtomicsComplete : ∀ i ∈ [Instr.atoms g0 ⟨2, 4, 0, 1, false, 1, 3, 2, 9, 0, true, 0⟩,
      .cass g0 ⟨2, 4, 6, 1, false, 0, 0, 0, 0, 3, false, 0⟩],
    ∃ g o cas, Claim.spadAtomic i = some (g, o, cas) ∧
    (∀ l, (x0.active g).getLsbD l → x0.block.spadOk (maEA x0 o l).toNat (if o.w64 then 8 else 4) = true) ∧
    (∀ l, (x0.active g).getLsbD l → x0.block.spadBad (maEA x0 o l).toNat (if o.w64 then 8 else 4) = false) ∧
    Claim.Ready s0 x0 g (maRegs o true cas) (maSrcs o cas) ∧
    x0.active g ≠ 0 ∧ Claim.clear x0 (Claim.spadLanes x0 g (maEA x0 o) (if o.w64 then 8 else 4)) ∧
    maRegions x0 o (x0.active g) true = [] ∧ x0.core.countOf x0.frag .ld < 63 := by
  intro i hi
  simp only [List.mem_cons, List.not_mem_nil, or_false] at hi
  rcases hi with rfl | rfl <;>
  exact ⟨_, _, _, rfl, forall_lanes (by decide +kernel), forall_lanes (by decide +kernel),
    ready_of (by decide +kernel), by decide +kernel, clear_of (by decide +kernel), by decide +kernel, by decide +kernel⟩

/-- A block with a binding of the word at scratchpad offset 0. -/
def sBoundWord : State := onCore { loadCore with
  binds := [(0, { slot := 0, base := 0x1000, len := 1, sync := true, obj := (Obj.ident (.spad 0)).getD 0 })] } 0

theorem witness_BoundScratchpadAtomicsIssue : ∀ i ∈ [Instr.atoms g0 ⟨2, 4, 0, 1, false, 1, 3, 2, 9, 2, true, 0⟩,
      .cass g0 ⟨2, 4, 6, 1, false, 0, 0, 0, 0, 3, false, 0⟩],
    let x := ctxOf sBoundWord
    ∃ g o cas, Claim.spadAtomic i = some (g, o, cas) ∧ Claim.OpReady sBoundWord x (Claim.boundAtomic g o cas) ∧
    (∀ l, (x.active g).getLsbD l → x.block.spadOk (maEA x o l).toNat (if o.w64 then 8 else 4) = true) ∧
    (∀ l, (x.active g).getLsbD l → x.block.spadBad (maEA x o l).toNat (if o.w64 then 8 else 4) = false) ∧
    Claim.clear x (Claim.spadLanes x g (maEA x o) (if o.w64 then 8 else 4)) ∧ maRegions x o (x.active g) true ≠ [] ∧
    x.opRoom .ld = true := by
  intro i hi
  simp only [List.mem_cons, List.not_mem_nil, or_false] at hi
  rcases hi with rfl | rfl <;>
  exact ⟨_, _, _, rfl, (op_of (room := true) (by decide +kernel) trivial).1, forall_lanes (by decide +kernel),
    forall_lanes (by decide +kernel), clear_of (by decide +kernel), by decide +kernel, by decide +kernel⟩

theorem witness_AtomicValues : (false = false → (5 : DWord).toNat < 2 ^ 32 ∧ (7 : DWord).toNat < 2 ^ 32 ∧
    (0xFFFFFFFF : DWord).toNat < 2 ^ 32) := by decide


/-! ### Sync words, barriers and bindings -/

theorem obj_of {s : State} {g : Ctl} {o : MB} {regs : List Nat} {srcs : List Src} {align size : Nat} {reads : Bool}
    (h : (isFragReady s g (mbSrcs o ++ srcs) && regs.all (ctxOf s).regOk
      && (ctxOf s).objTrap (mbObj (ctxOf s) o) align size reads == none) = true) :
    Claim.ObjReady s (ctxOf s) g o regs srcs align size reads := by
  simp only [Bool.and_eq_true, List.all_eq_true, beq_iff_eq] at h
  exact ⟨frag_ready_of h.1.1, h.1.2, h.2⟩

/-- ACQ of a global and of a scratchpad location, with and without a pair. -/
theorem witness_AcqCompletes : ∀ o ∈ [MB.mk false 0 (1 <<< 28 ||| 8 <<< 20), MB.mk true 8184 0],
    Claim.OpReady s0 x0 (Claim.acqRule g0 o) ∧ x0.opRoom .none = true := by
  intro o ho
  simp only [List.mem_cons, List.not_mem_nil, or_false] at ho
  rcases ho with rfl | rfl <;> exact op_of (by decide +kernel) ⟨by decide +kernel, trivial⟩

theorem witness_ScratchpadRelCompletes : let o : MB := ⟨true, 8184, 1 <<< 28 ||| 8 <<< 20⟩
    Claim.OpReady s0 x0 (Claim.relRule g0 o) ∧ x0.opRoom .none = true ∧ mbObj x0 o = .spad 8184 ∧
    Claim.bound x0 o = [] ∧ mbBit o 11 = false := by
  intro o
  have h : Claim.OpReady s0 x0 (Claim.relRule g0 o) ∧ x0.opRoom .none = true :=
    op_of (by decide +kernel) ⟨by decide +kernel, by decide +kernel⟩
  exact ⟨h.1, h.2, by decide +kernel, by decide +kernel, by decide +kernel⟩

/-- A wave with an older acquire that is open. -/
def sAcquires : State := withWave fun w => { w with seq := 2, hzn := 1, ops := [
  { opOf (.acq (.glob 0x50000) none false 1) [] with count := .none, kind := 5 }] }

/-- The last barrier of the backed region, for a wave with nothing open and for one with an older acquire. -/
theorem witness_ScratchpadBinitCompletes : ∀ o ∈ [MB.mk true 8176 (1 <<< 14 ||| 3), MB.mk true 8176 (1 <<< 28 ||| 5 <<< 21)],
    let srcs : List Src := if mbBit o 28 then [.s (mbS o 21), .s (mbS o 14)] else []
    (Claim.ObjReady s0 x0 g0 o [] srcs 16 16 false ∧ mbObj x0 o = .spad 8176 ∧ Claim.clear x0 (Claim.spadAt 8176 16)) ∧
    Claim.ObjReady sAcquires (ctxOf sAcquires) g0 o [] srcs 16 16 false ∧ mbObj (ctxOf sAcquires) o = .spad 8176 ∧
    ¬ Claim.clear (ctxOf sAcquires) (Claim.spadAt 8176 16) := by
  intro o ho
  simp only [List.mem_cons, List.not_mem_nil, or_false] at ho
  rcases ho with rfl | rfl <;>
  exact ⟨⟨obj_of (by decide +kernel), by decide +kernel, clear_of (by decide +kernel)⟩, obj_of (by decide +kernel),
    by decide +kernel, by rw [clear_iff]; decide +kernel⟩

/-- Without ALL, with a target and 256 arrivals, and with ALL. -/
theorem witness_ScratchpadArriveCompletes : ∀ o ∈ [MB.mk true 8176 0, MB.mk true 8176 (1 <<< 28 ||| 4 <<< 12 ||| 255 <<< 3),
      MB.mk true 8176 (1 <<< 11)],
    Claim.ObjReady s0 x0 g0 o [] [] 16 16 true ∧ mbObj x0 o = .spad 8176 ∧ Claim.bound x0 o = [] ∧
    Claim.clear x0 (Claim.spadAt 8176 16) ∧ (x0.wave.shp = false ∧ x0.wave.hzn = x0.wave.seq) ∧
    x0.wave.hostOwed = false ∧ s0.releaseFault x0.c [] true = none := by
  intro o ho
  simp only [List.mem_cons, List.not_mem_nil, or_false] at ho
  rcases ho with rfl | rfl | rfl <;>
  exact ⟨obj_of (by decide +kernel), by decide +kernel, by decide +kernel, clear_of (by decide +kernel), by decide +kernel,
    by decide +kernel, by decide +kernel⟩

/-- Each clause of the update of a barrier, at its boundary: both counts reach 0; one does not; a first error stays; a code
is recorded; an overrun by one is an error; and no error. -/
theorem witness_BarrierUpdateRule :
    (let b : Bar := ⟨2, 1, 0, 16, 65535, 0⟩; b.apend ≤ 1 ∧ b.bpend ≤ 0 ∧ b.err = 0 ∧ 1 ≤ b.apend ∧ 0 ≤ b.bpend) ∧
    (let b : Bar := ⟨2, 1, 1, 16, 0, 7⟩; ¬ (b.apend ≤ 1 ∧ b.bpend ≤ 0) ∧ b.err ≠ 0) ∧
    (let b : Bar := ⟨2, 1, 0, 16, 0, 0⟩; b.err = 0 ∧ eBarrierTarget ≠ 0) ∧
    (let b : Bar := ⟨2, 1, 0, 16, 0, 0⟩; b.err = 0 ∧ b.apend < 2) ∧
    (let b : Bar := ⟨2, 1, 0, 16, 0, 0⟩; b.err = 0 ∧ b.bpend < 1) := by decide

/-- A wave whose block has a barrier in phase 1 at offset 32, where it is in phase 0 elsewhere. -/
def sPhase : State := withBlock fun b => { b with spad := Memory.write b.spad 32 (toBytes 12 0 ++ [1, 0, 0, 0]) }

/-- An object that waits, and one whose phase has passed. -/
theorem witness_WaitphCompletes :
    (let o : MB := ⟨true, 48, 0⟩
     Claim.ObjReady sPhase (ctxOf sPhase) g0 o [] (phaseSrcs o) 16 16 true ∧
     numbered (mbObj (ctxOf sPhase) o) (Claim.bound (ctxOf sPhase) o) = false ∧
     Claim.clear (ctxOf sPhase) [(mbObj (ctxOf sPhase) o).range 16] ∧
     sPhase.phaseAt (ownHome (ctxOf sPhase).c (ctxOf sPhase).block.slot (mbObj (ctxOf sPhase) o))
      = (mbPhase (ctxOf sPhase) o).toNat) ∧
    (let o : MB := ⟨true, 32, 0⟩
     Claim.ObjReady sPhase (ctxOf sPhase) g0 o [] (phaseSrcs o) 16 16 true ∧
     numbered (mbObj (ctxOf sPhase) o) (Claim.bound (ctxOf sPhase) o) = false ∧
     Claim.clear (ctxOf sPhase) [(mbObj (ctxOf sPhase) o).range 16] ∧
     sPhase.phaseAt (ownHome (ctxOf sPhase).c (ctxOf sPhase).block.slot (mbObj (ctxOf sPhase) o))
      ≠ (mbPhase (ctxOf sPhase) o).toNat) :=
  ⟨⟨obj_of (by decide +kernel), by decide +kernel, clear_of (by decide +kernel), by decide +kernel⟩,
    ⟨obj_of (by decide +kernel), by decide +kernel, clear_of (by decide +kernel), by decide +kernel⟩⟩

/-- A read of a global barrier that is in phase 0, for the phases 0 and 1. -/
theorem witness_NumberedWaitphCompletes : ∀ p ∈ [(MB.mk false 0x10 0, false), (MB.mk false 0x10 0x1000, true)],
    let o := p.1
    (Claim.OpReady s0 x0 (Claim.waitRule g0 o) ∧ x0.opRoom .none = true) ∧
    numbered (mbObj x0 o) (Claim.bound x0 o) = true ∧
    ((s0.save ((Claim.waitRule g0 o).after x0)).attempt x0.c x0.wave.slot x0.wave.seq
      fun s k => s.tryWaitph x0.c k).opOver x0.c x0.wave.slot x0.wave.seq = p.2 := by
  intro p hp
  simp only [List.mem_cons, List.not_mem_nil, or_false] at hp
  rcases hp with rfl | rfl <;>
  exact ⟨op_of (by decide +kernel) ⟨by decide +kernel, trivial⟩, by decide +kernel, by decide +kernel⟩

theorem witness_TryphCompletes :
    (let o : MB := ⟨true, 48, 1 <<< 9⟩
     Claim.ObjReady sPhase (ctxOf sPhase) g0 o [] (phaseSrcs o) 16 16 true ∧
     numbered (mbObj (ctxOf sPhase) o) (Claim.bound (ctxOf sPhase) o) = false ∧
     Claim.clear (ctxOf sPhase) [(mbObj (ctxOf sPhase) o).range 16] ∧
     sPhase.phaseAt (ownHome (ctxOf sPhase).c (ctxOf sPhase).block.slot (mbObj (ctxOf sPhase) o))
      = (mbPhase (ctxOf sPhase) o).toNat) ∧
    (let o : MB := ⟨true, 32, 7 <<< 9⟩
     Claim.ObjReady sPhase (ctxOf sPhase) g0 o [] (phaseSrcs o) 16 16 true ∧
     numbered (mbObj (ctxOf sPhase) o) (Claim.bound (ctxOf sPhase) o) = false ∧
     Claim.clear (ctxOf sPhase) [(mbObj (ctxOf sPhase) o).range 16] ∧
     sPhase.phaseAt (ownHome (ctxOf sPhase).c (ctxOf sPhase).block.slot (mbObj (ctxOf sPhase) o))
      ≠ (mbPhase (ctxOf sPhase) o).toNat) ∧
    (let o : MB := ⟨false, 0, 1 <<< 9⟩
     Claim.ObjReady s0 x0 g0 o [] (phaseSrcs o) 16 16 true ∧ numbered (mbObj x0 o) (Claim.bound x0 o) = true ∧
     x0.opRoom .none = true) :=
  ⟨⟨obj_of (by decide +kernel), by decide +kernel, clear_of (by decide +kernel), by decide +kernel⟩,
    ⟨obj_of (by decide +kernel), by decide +kernel, clear_of (by decide +kernel), by decide +kernel⟩,
    ⟨obj_of (by decide +kernel), by decide +kernel, by decide +kernel⟩⟩

/-- A word of the fragment with no operands: WAITHZ, NOP, YIELD, TRAP, ALLOC, FREEA, BRA, CALL, RCV and EXIT. -/
theorem witness_FragReady : Claim.FragReady s0 x0 g0 [] := frag_ready_of (by decide +kernel)

/-- No fragment of a wave is parked on a number that its HZN has reached, as a test. -/
def isParkedOpen (x : Ctx) : Bool :=
  x.core.frags.all fun f => match f.park with
    | .waithz n => f.wave != x.wave.slot || n != x.wave.hzn && decide ((n - x.wave.hzn).toNat ≤ (x.wave.seq - x.wave.hzn).toNat)
    | _ => true

theorem parked_open_of {x : Ctx} (h : isParkedOpen x = true) :
    ∀ f ∈ x.core.frags, f.wave = x.wave.slot → ∀ n, f.park = .waithz n →
      n ≠ x.wave.hzn ∧ (n - x.wave.hzn).toNat ≤ (x.wave.seq - x.wave.hzn).toNat := by
  intro f hf hw n hn
  have h := List.all_eq_true.mp h f hf
  rw [hn] at h
  simpa [hw] using h

/-- A wave with two open operations, one of whose fragments waits for the first of them. -/
def sWaits : State := onCore { loadCore with
  waves := loadCore.waves.map fun w => { w with seq := 3, hzn := 1 }
  frags := loadCore.frags ++ [{ (ctxOf s0).frag with id := 1, mask := 0, park := .waithz 2 }] } 0

theorem witness_WaithzCompletes : ∀ e ∈ [(s0, true), (sWaits, false)], let x := ctxOf e.1
    Claim.FragReady e.1 x g0 [] ∧ (∀ f ∈ x.core.frags, f.wave = x.wave.slot → ∀ n, f.park = .waithz n →
      n ≠ x.wave.hzn ∧ (n - x.wave.hzn).toNat ≤ (x.wave.seq - x.wave.hzn).toNat) ∧
    (x.wave.hzn == x.wave.seq) = e.2 := by
  intro e he
  simp only [List.mem_cons, List.not_mem_nil, or_false] at he
  rcases he with rfl | rfl <;>
  exact ⟨frag_ready_of (by decide +kernel), parked_open_of (by decide +kernel), by decide +kernel⟩

/-- A block with no binding, with the binding that the word makes, and with a full table. -/
def bindWord : MB := ⟨true, 96, 5 <<< 25 ||| 3 <<< 3⟩
def sBound : State := onCore { loadCore with binds := [(0, bindEntry x0 bindWord (mbObj x0 bindWord))] } 0
def fullTable : Map BindEnt :=
  (List.range 32).map fun i => (i, { bindEntry x0 bindWord (mbObj x0 bindWord) with len := 10 + i })
def sBinds : State := onCore { loadCore with binds := fullTable } 0

theorem witness_BindCompletes :
    Claim.ObjReady s0 x0 g0 bindWord [] [.a (bindWord.low.extractLsb' 25 4).toNat] 8 8 false ∧
    ((∀ k ∈ x0.core.binds, k.2.sameAs (bindEntry x0 bindWord (mbObj x0 bindWord)) = false) ∧ 0 < 32 ∧
      Map.find x0.core.binds 0 = none ∧ ∀ j, j < 0 → Map.find x0.core.binds j ≠ none) ∧
    (Claim.ObjReady sBound (ctxOf sBound) g0 bindWord [] [.a (bindWord.low.extractLsb' 25 4).toNat] 8 8 false ∧
      ∃ k ∈ (ctxOf sBound).core.binds,
        k.2.sameAs (bindEntry (ctxOf sBound) bindWord (mbObj (ctxOf sBound) bindWord)) = true) ∧
    (Claim.ObjReady sBinds (ctxOf sBinds) g0 bindWord [] [.a (bindWord.low.extractLsb' 25 4).toNat] 8 8 false ∧
      (∀ k ∈ (ctxOf sBinds).core.binds,
        k.2.sameAs (bindEntry (ctxOf sBinds) bindWord (mbObj (ctxOf sBinds) bindWord)) = false) ∧
      ∀ j, j < 32 → Map.find (ctxOf sBinds).core.binds j ≠ none) :=
  ⟨obj_of (by decide +kernel), ⟨by decide +kernel, by decide, by decide +kernel, fun j h => absurd h (Nat.not_lt_zero j)⟩,
    ⟨obj_of (by decide +kernel), by decide +kernel⟩, ⟨obj_of (by decide +kernel), by decide +kernel, by decide +kernel⟩⟩

theorem witness_UnbindFrees :
    Claim.ObjReady sBound (ctxOf sBound) g0 bindWord [] [.a (bindWord.low.extractLsb' 25 4).toNat] 8 8 false ∧
    (∃ obj id, Obj.ident obj = some id ∧ id = (bindEntry (ctxOf sBound) bindWord (mbObj (ctxOf sBound) bindWord)).obj) :=
  ⟨obj_of (by decide +kernel), .spad 96, _, rfl, by decide +kernel⟩

/-! ### Branches, joins and ends -/

theorem witness_BranchAlways : Claim.FragReady s0 x0 g0 [] ∧
    decode 0x3900000000400000 = .ok (.bra g0 ⟨4, 0, 0, false, false, 0, 0⟩) := ⟨witness_FragReady, by decide +kernel⟩

/-- A wave with an open operation. -/
def sOpen : State := withWave fun w => { w with seq := 2 }

theorem witness_TransferWords : Claim.FragReady s0 x0 g0 [] ∧ Claim.FragReady s0 x0 g0 [.a 15] ∧
    x0.wave.seq = x0.wave.hzn ∧ Claim.FragReady sOpen (ctxOf sOpen) g0 [] ∧
    (ctxOf sOpen).wave.seq ≠ (ctxOf sOpen).wave.hzn :=
  ⟨witness_FragReady, frag_ready_of (by decide +kernel), by decide +kernel, frag_ready_of (by decide +kernel),
    by decide +kernel⟩

/-- A wave whose p1 holds in the lanes of a mask; p0 holds in all of them. -/
def sTake (m : LaneMask) (f : Frag → Frag) (others : Nat) : State := onCore { loadCore with
  waves := loadCore.waves.map fun w => { w with p := [(1, m)] }
  frags := loadCore.frags.map f ++ (List.range others).map fun k =>
    { (ctxOf s0).frag with id := k + 1, mask := 0 } } 0

def brcP1 : Instr := .brc g0 ⟨10, 7, 1, false, false, 0, 0⟩
def brxP1 : Instr := .brx ⟨false, 1, false⟩ ⟨3, 7 <<< 12⟩

/-- The hypotheses that every branch statement shares. -/
def isBranch (s : State) (i : Instr) (p : Claim.BranchRule → Bool) : Bool :=
  (Claim.branchRule i).any fun r => s.ctx?.isSome && !(ctxOf s).guardPoison r.g (ctxOf s).frag.mask && r.clean (ctxOf s) && p r

theorem branch_of {s : State} {i : Instr} {p : Claim.BranchRule → Bool} (h : isBranch s i p = true) :
    ∃ r, Claim.branchRule i = some r ∧ s.ctx? = some (ctxOf s) ∧
      (ctxOf s).guardPoison r.g (ctxOf s).frag.mask = false ∧ r.clean (ctxOf s) = true ∧ p r = true := by
  obtain ⟨r, hr, h⟩ := (Option.any_eq_true _ _).mp h
  simp only [Bool.and_eq_true, Bool.not_eq_true'] at h
  exact ⟨r, hr, ctx_of h.1.1.1, h.1.1.2, h.1.2, h.2⟩

/-- What a test of a branch says of the lanes that take it and of those that stay. -/
def takes (s : State) (p : LaneMask → LaneMask → Bool) (r : Claim.BranchRule) : Bool :=
  p (r.take (ctxOf s)) ((ctxOf s).frag.mask &&& ~~~ r.take (ctxOf s))

/-- No lane takes the branch, and every lane does. -/
theorem witness_UniformBranchesComplete : ∀ i ∈ [brcP1, brxP1],
    (∃ r, Claim.branchRule i = some r ∧ s0.ctx? = some x0 ∧ x0.guardPoison r.g x0.frag.mask = false ∧
      r.clean x0 = true ∧ takes s0 (fun t _ => t == 0) r = true) ∧
    (let s := sTake (BitVec.allOnes 64) id 0
     ∃ r, Claim.branchRule i = some r ∧ s.ctx? = some (ctxOf s) ∧
      (ctxOf s).guardPoison r.g (ctxOf s).frag.mask = false ∧ r.clean (ctxOf s) = true ∧
      takes s (fun t r => t != 0 && r == 0) r = true) := by
  intro i hi
  simp only [List.mem_cons, List.not_mem_nil, or_false] at hi
  rcases hi with rfl | rfl <;> exact ⟨branch_of (by decide +kernel), branch_of (by decide +kernel)⟩

/-- A stack of 16 entries, the most that the hardware holds. -/
theorem witness_DeepBranchesTrap : ∀ i ∈ [brcP1, brxP1],
    let s := sTake 1 (fun f => { f with stack := List.replicate 16 (.token 1) }) 0
    ∃ r, Claim.branchRule i = some r ∧ s.ctx? = some (ctxOf s) ∧
      (ctxOf s).guardPoison r.g (ctxOf s).frag.mask = false ∧ r.clean (ctxOf s) = true ∧
      (takes s (fun t r => t != 0 && r != 0) r && decide (16 ≤ (ctxOf s).frag.stack.length)) = true := by
  intro i hi
  simp only [List.mem_cons, List.not_mem_nil, or_false] at hi
  rcases hi with rfl | rfl <;> exact branch_of (by decide +kernel)

/-- The four ways to divide: a tie, and one lane that stays, each with room for one more fragment and with 32 already; the stack
holds 15 entries. -/
theorem witness_DividingBranchesComplete : ∀ i ∈ [brcP1, brxP1], ∀ e ∈ [(0xFFFFFFFF, 30, true), (0xFFFFFFFE, 31, false),
      (0xFFFFFFFFFFFFFFFE, 30, true), (0xFFFFFFFFFFFFFFFE, 31, false)],
    let s := sTake (BitVec.ofNat 64 e.1) (fun f => { f with stack := List.replicate 15 (.token 1) }) e.2.1
    ∃ r, Claim.branchRule i = some r ∧ s.ctx? = some (ctxOf s) ∧
      (ctxOf s).guardPoison r.g (ctxOf s).frag.mask = false ∧ r.clean (ctxOf s) = true ∧
      (takes s (fun t r => t != 0 && r != 0 &&
          decide ((lanesOf t).length ≤ (lanesOf r).length) == decide (e.1 ≤ 0xFFFFFFFF)) r
        && decide ((ctxOf s).frag.stack.length < 16) && (ctxOf s).canDetach == e.2.2) = true := by
  intro i hi e he
  simp only [List.mem_cons, List.not_mem_nil, or_false] at hi he
  rcases hi with rfl | rfl <;> rcases he with rfl | rfl | rfl | rfl <;> exact branch_of (by decide +kernel)

/-- A fragment with an entry of token 7 on top, of each kind; with another token; and with an empty stack. -/
def sTop (e : List DivEntry) : State := withFrag fun f => { f with stack := e }
def rcv7 : CN := ⟨7 <<< 12⟩

theorem witness_RcvCompletes : rcv7.low.extractLsb' 12 8 = 7 ∧
    ∀ e ∈ [[DivEntry.token 7], [.defer 7 1 (.header 8)], [.done 7 1 (.header 8)], [.token 8], []],
      Claim.FragReady (sTop e) (ctxOf (sTop e)) g0 [] ∧ (ctxOf (sTop e)).frag.stack = e := by
  refine ⟨by decide, fun e he => ?_⟩
  simp only [List.mem_cons, List.not_mem_nil, or_false] at he
  rcases he with rfl | rfl | rfl | rfl | rfl <;> exact ⟨frag_ready_of (by decide +kernel), by decide +kernel⟩

/-- A handler's fragment, in a trap window. -/
def sHandler : State := onCore { loadCore with
  waves := loadCore.waves.map fun w => { w with win := some ⟨[], [], [], [], true, 1, [], [], [], []⟩ }
  frags := loadCore.frags.map fun f => { f with handler := true } } 0

/-- Some lanes leave; all leave and a waiting path goes on; all leave and none is left; and the same in a handler. -/
theorem witness_ExitCompletes :
    (let s := sTake 1 id 0
     let g : Ctl := ⟨false, 1, false⟩
     Claim.FragReady s (ctxOf s) g [] ∧ (ctxOf s).frag.mask &&& ~~~ (ctxOf s).active g ≠ 0) ∧
    (let s := sTop [.defer 7 1 (.header 8), .token 3]
     Claim.FragReady s (ctxOf s) g0 [] ∧ (ctxOf s).frag.mask &&& ~~~ (ctxOf s).active g0 = 0 ∧
     popPath (ctxOf s).frag.stack = some ([], 1, .header 8)) ∧
    (Claim.FragReady s0 x0 g0 [] ∧ x0.frag.mask &&& ~~~ x0.active g0 = 0 ∧ popPath x0.frag.stack = none ∧
      x0.frag.handler = false) ∧
    (let x := ctxOf sHandler
     Claim.FragReady sHandler x g0 [] ∧ x.frag.mask &&& ~~~ x.active g0 = 0 ∧ popPath x.frag.stack = none ∧
      x.frag.handler = true ∧ x.wave.handlerBusy = false) :=
  ⟨⟨frag_ready_of (by decide +kernel), by decide +kernel⟩,
    ⟨frag_ready_of (by decide +kernel), by decide +kernel, by decide +kernel⟩,
    ⟨witness_FragReady, by decide +kernel, by decide +kernel, by decide +kernel⟩,
    ⟨frag_ready_of (by decide +kernel), by decide +kernel, by decide +kernel, by decide +kernel, by decide +kernel⟩⟩

theorem witness_PlainControlWords : Claim.FragReady s0 x0 g0 [] ∧
    (let s := withFrag fun f => { f with loc := .header 0x30000 }
     let h : Header := ⟨15, 5, 2, 63, 63, 15, 63, 0⟩
     s.ctx? = some (ctxOf s) ∧ (ctxOf s).frag.loc = .header 0x30000 ∧ h.fault = none ∧ Cls.ofCode h.cls = some .mixed) :=
  ⟨witness_FragReady, ctx_of (by decide +kernel), by decide +kernel, by decide +kernel, by decide +kernel⟩

/-! ### Traps -/

theorem witness_PreciseTraps : s0.ctx? = some x0 ∧ x0.frag.handler = false := ⟨s0_ctx, by decide +kernel⟩

theorem witness_TrapCompletes : Claim.FragReady s0 x0 g0 [] := witness_FragReady

/-- A launch of the record of the load, without an error. -/
def launch0 : Launch :=
  { id := 0, queue := 0, record := loadRecord, root := 0x10000, tfpb := 0, extent := 1, watching := false, published := none,
    cursor := 1, tail := 0, live := 1, err := 0, timedOut := false }

theorem witness_NestedTrapsKill : let s := { sHandler with launches := [launch0] }
    s.ctx? = some (ctxOf s) ∧ (ctxOf s).frag.handler = true ∧ (ctxOf s).block.launch = launch0.id ∧
    s.launches.find? (fun k => k.id == launch0.id) = some launch0 ∧ launch0.err = 0 :=
  ⟨ctx_of (by decide +kernel), by decide +kernel, by decide +kernel, by decide +kernel, by decide +kernel⟩

/-- The value of an option that holds one. -/
theorem some_of {α : Type} {o : Option α} {d : α} (h : o.isSome = true) : o = some (o.getD d) := by
  cases o <;> simp_all

/-- A wave that has trapped, with a trap frame at 0x40000. -/
def sTrapped : State := withWave fun w => { w with
  tfp := 0x40000, trap := some { code := eTrap, sub := 7, addr := 0, pc := 0x30008, word := 0, fmask := 1, frag := 0 } }

/-- The value of a result that is no error. -/
def okOf {ε α : Type} (d : α) (e : Except ε α) : α := e.toOption.getD d

theorem ok_of {ε α : Type} {e : Except ε α} {d : α} (h : e.toOption.isSome = true) : e = .ok (okOf d e) := by
  cases e <;> simp_all [okOf, Except.toOption]

theorem witness_TrapEntryCompletes : ∃ wv e b f, (sTrapped.core 0).wave? 0 = some wv ∧ wv.entry = some e ∧
    (sTrapped.core 0).block? wv.block = some b ∧ wv.ended = false ∧ sTrapped.waveDrains 0 wv = false ∧
    (sTrapped.core 0).active = some b.ctx ∧ sTrapped.entryReady 0 wv = true ∧ wv.frameFail = false ∧
    (sTrapped.core 0).windowsUsed + sTrapped.aheadOf 0 0 < 4 ∧
    sTrapped.frameAt 0 ((sTrapped.core 0).ctxSlot b.ctx).root.toNat wv.block wv.frameHandler wv.tfp = .ok f ∧
    (∀ p ∈ f.rest, placeClass p.x.place ≠ 3) := by
  have hw : (sTrapped.core 0).wave? 0 = some (ctxOf sTrapped).wave := by decide +kernel
  have hb : (sTrapped.core 0).block? (ctxOf sTrapped).wave.block = some (ctxOf sTrapped).block := by decide +kernel
  have he : (ctxOf sTrapped).wave.entry = some ⟨eTrap, 7, 0, 0x30008, 0, 1, 0, true⟩ := by decide +kernel
  exact ⟨_, _, _, _, hw, he, hb, by decide +kernel, by decide +kernel, by decide +kernel, by decide +kernel,
    by decide +kernel, by decide +kernel, ok_of (d := ⟨⟨⟨0, ⟨0, 0, false, false⟩⟩, 0, 0⟩, []⟩) (by decide +kernel),
    by decide +kernel⟩

/-- A frame in the memory of the host, whose HANDLER the host has answered. -/
def sHostFrame : State :=
  let s := withWave fun w => { w with
    tfp := 0x40000000000, frameHandler := some (toBytes 8 0x30000), hostWrites := 1,
    trap := some { code := eTrap, sub := 7, addr := 0, pc := 0x30008, word := 0, fmask := 1, frag := 0 } }
  { s with linkUp := true, mem := Memory.write s.mem (loadTable + 8) (toBytes 8 (0x1F + 6 * 2 ^ 44)) }

theorem witness_TrapEntryCompletes_host : let s := sHostFrame
    let wv := (ctxOf s).wave
    ∃ e f, (s.core 0).wave? 0 = some wv ∧ wv.entry = some e ∧ s.entryReady 0 wv = true ∧ wv.frameFail = false ∧
      (s.core 0).windowsUsed + s.aheadOf 0 0 < 4 ∧
      s.frameAt 0 ((s.core 0).ctxSlot (ctxOf s).block.ctx).root.toNat wv.block wv.frameHandler wv.tfp = .ok f ∧
      (∀ p ∈ f.rest, placeClass p.x.place ≠ 3) ∧ placeClass f.handler.x.place = 6 :=
  ⟨⟨eTrap, 7, 0, 0x30008, 0, 1, 0, true⟩, _, by decide +kernel, by decide +kernel, by decide +kernel, by decide +kernel,
    by decide +kernel, ok_of (d := ⟨⟨⟨0, ⟨0, 0, false, false⟩⟩, 0, 0⟩, []⟩) (by decide +kernel), by decide +kernel⟩

/-- A wave whose failure has been reached while a younger load is not at rest; one with no free window; and one without a frame. -/
def sEarly : State := withWave fun w => { w with
  seq := 3, hzn := 1, tfp := 0x40000, ops := [(1, .failed eMemPoison 0x50000), (2, .waiting)].map fun e =>
  { opOf (.load 4 2 false) [⟨0, 0x50000, 0, 0⟩] with num := e.1, retried := true, status := e.2 } }
def sCrowded : State := onCore { loadCore with
  waves := ((ctxOf sTrapped).wave) :: (List.range 4).map fun k => { (ctxOf sHandler).wave with slot := k + 1 } } 0
def sFrameless : State := withWave fun w => { w with trap := (ctxOf sTrapped).wave.trap }

theorem witness_TrapEntryWaits : ∀ e ∈ [(sEarly, false, false), (sCrowded, true, true), (sFrameless, true, false)],
    let s := e.1
    ∃ wv n b, (s.core 0).wave? 0 = some wv ∧ wv.entry = some n ∧ (s.core 0).block? wv.block = some b ∧ wv.ended = false ∧
      s.waveDrains 0 wv = false ∧ (s.core 0).active = some b.ctx ∧ s.entryReady 0 wv = e.2.1 ∧ wv.winHeld = false ∧
      decide (4 ≤ (s.core 0).windowsUsed + s.aheadOf 0 0) = e.2.2 ∧ (e.1 = sFrameless → wv.tfp = 0) := by
  intro e he
  have ht : sEarly ≠ sFrameless ∧ sCrowded ≠ sFrameless := by decide +kernel
  simp only [List.mem_cons, List.not_mem_nil, or_false] at he
  rcases he with rfl | rfl | rfl <;>
  exact ⟨_, _, _, some_of (d := x0.wave) (by decide +kernel), some_of (d := ⟨0, 0, 0, 0, 0, 0, 0, false⟩) (by decide +kernel),
    some_of (d := x0.block) (by decide +kernel), by decide +kernel, by decide +kernel, by decide +kernel, by decide +kernel,
    by decide +kernel, by decide +kernel, by first | exact fun h => absurd h ht.1 | exact fun h => absurd h ht.2 | decide +kernel⟩

/-- The last slot, and a full window: its first operation is a performed store of EV, its last one has failed, and the one
between them is numbered for neither. -/
def framedWave : Wave := { Wave.start 255 0 0 0 0 false 0 with seq := 65, hzn := 1, ops := [
  { opOf (.store 2) twoLanes with num := 1, status := .done, escaped := true, kind := 1 },
  { opOf .fence [] with num := 64, status := .failed ePlaceOffline 0, kind := 15 }] }

theorem witness_TrapFrameLayout : framedWave.slot < 256 ∧
    (∀ e ∈ [(0, 0), (1, 63)], ∃ o, framedWave.ops[e.1]? = some o ∧ o.handler = false ∧
      (o.num - framedWave.hzn).toNat = e.2 ∧ e.2 < (framedWave.seq - framedWave.hzn).toNat ∧ o.kind < 16 ∧
      ∀ p ∈ framedWave.ops, p.num = o.num → p = o) ∧
    (∀ o ∈ framedWave.ops, (o.num - framedWave.hzn).toNat ≠ 1) ∧
    (∀ p ∈ [true, false], (⟨eTrap, 7, 0, 0x30008, 0, 1, 0, p⟩ : Entry).precise = p) := by
  refine ⟨by decide, fun e he => ?_, by decide, by decide⟩
  simp only [List.mem_cons, List.not_mem_nil, or_false] at he
  rcases he with rfl | rfl <;> exact ⟨_, rfl, by decide +kernel⟩

/-- A handler of a wave with one failed operation, whose mask in a4 replays it or not, and an interrupted fragment. -/
def sReturns (mask : DWord) : State := onCore { loadCore with
  waves := loadCore.waves.map fun w => { w with
    seq := 2, hzn := 1, win := (ctxOf sHandler).wave.win, a := [(4, mask)]
    ops := [{ opOf (.load 4 2 false) [⟨0, 0x50000, 0, 0⟩] with
              frags := [1], retried := true, status := .failed eMemPoison 0x50000 }] }
  frags := [(ctxOf sHandler).frag, { (ctxOf s0).frag with id := 1 }] } 0

/-- Both masks: with none the one operation is gone and HZN may go to SEQ, and with bit 0 it starts again at HZN. -/
theorem witness_RteCompletes : ∀ mask ∈ [(0 : DWord), 1], let s := sReturns mask
    let x := ctxOf s
    Claim.FragReady s x g0 [.a 4] ∧ x.frag.handler = true ∧ x.wave.win = some ⟨[], [], [], [], true, 1, [], [], [], []⟩ ∧
    x.core.sfuOwed x.wave.slot = false ∧ x.wave.handlerBusy = false ∧ x.wave.shp = false ∧ x.wave.openCount ≤ 64 ∧
    x.core.held = [] ∧
    ((x.wave.ops.filter fun k => !k.handler).map fun k =>
      ((Claim.replayed k ((x.a 4).getLsbD (k.num - x.wave.hzn).toNat)).status, k.num == x.wave.hzn))
        = [(if mask = 0 then .done else .waiting, true)] ∧
    (∃ f ∈ x.core.frags, f.wave = x.wave.slot ∧ f.handler = false) ∧
    (∀ f ∈ x.core.frags, ∀ k ∈ x.core.frags, k.id = f.id → k = f) ∧ ∀ k ∈ x.wave.ops, k.kind ≠ 6 := by
  intro mask hm
  simp only [List.mem_cons, List.not_mem_nil, or_false] at hm
  rcases hm with rfl | rfl <;>
  exact ⟨frag_ready_of (by decide +kernel), by decide +kernel⟩

theorem witness_StrayRteTraps : s0.ctx? = some x0 ∧ x0.frag.handler = false := ⟨s0_ctx, by decide +kernel⟩

/-! ### Special registers -/

theorem sr_of {s : State} {g : Ctl} {o : SR} {write : Bool}
    (h : (isReady s g (if o.uk then [] else [o.reg.toNat]) [] && (ctxOf s).active g != 0
      && srAllowed (ctxOf s).frag.handler write o.num.toNat o.sel.toNat
      && decide (o.num.toNat = 0x0B → o.sel.toNat < (ctxOf s).wave.budget)) = true) : Claim.SrReady s (ctxOf s) g o write := by
  simp only [Bool.and_eq_true, bne_iff_ne, decide_eq_true_eq] at h
  exact ⟨ready_of h.1.1.1, h.1.1.2, h.1.2, h.2⟩

/-- A wave with a special-function result pending that may raise flags. -/
def sFlagsOwed : State := onCore { loadCore with pend := [⟨.sfu, 0, [0], false, [], [], 1, none⟩] } 0

/-- A read into a vector register, one into an s-register, and both of %clk; the last selectors that each register has. -/
theorem witness_RdsrCompletes : ∀ o ∈ [SR.mk 6 false 0 7 0, .mk 6 true 3 0 0, .mk 6 false 8 0 0, .mk 6 true 8 0 0, .mk 6 true 8 1 0],
    Claim.SrReady s0 x0 g0 o false ∧ x0.srWaits o.num.toNat o.sel.toNat = false ∧
    srConsumes x0 (x0.active g0) o.num.toNat o.sel.toNat = false := by
  intro o ho
  simp only [List.mem_cons, List.not_mem_nil, or_false] at ho
  rcases ho with rfl | rfl | rfl | rfl | rfl <;> exact ⟨sr_of (by decide +kernel), by decide +kernel, by decide +kernel⟩

/-- A read and a write of %fpflags while flags are owed. -/
theorem witness_RdsrCompletes_waits : let o : SR := ⟨6, false, 2, 0, 0⟩
    let x := ctxOf sFlagsOwed
    Claim.SrReady sFlagsOwed x g0 o false ∧ Claim.SrReady sFlagsOwed x g0 o true ∧ x.srWaits o.num.toNat o.sel.toNat = true ∧
    x.core.countOf x.frag .ld < 63 :=
  ⟨sr_of (by decide +kernel), sr_of (by decide +kernel), by decide +kernel, by decide +kernel⟩

/-- A register that does not exist, a write of one that is only read, and in a handler %xv of a register beyond the budget. -/
def sFewIn : State := onCore { loadCore with
  waves := loadCore.waves.map fun w => { w with win := (ctxOf sHandler).wave.win, budget := 8 }
  frags := loadCore.frags.map fun f => { f with handler := true } } 0

theorem witness_SpecialRegisterTraps :
    (let o : SR := ⟨6, false, 0, 0, 0⟩
     Claim.Ready s0 x0 g0 [o.reg.toNat] [] ∧ x0.active g0 ≠ 0 ∧ srAllowed x0.frag.handler true o.num.toNat o.sel.toNat = false) ∧
    (let o : SR := ⟨6, false, 15, 0, 0⟩
     Claim.Ready s0 x0 g0 [o.reg.toNat] [] ∧ srAllowed x0.frag.handler false o.num.toNat o.sel.toNat = false) ∧
    (let o : SR := ⟨6, false, 0x0B, 8, 0⟩
     let x := ctxOf sFewIn
     Claim.Ready sFewIn x g0 [o.reg.toNat] [] ∧ x.active g0 ≠ 0 ∧
      (∀ w ∈ [true, false], srAllowed x.frag.handler w o.num.toNat o.sel.toNat = true) ∧ x.wave.budget ≤ o.sel.toNat) :=
  ⟨⟨ready_of (by decide +kernel), by decide +kernel, by decide +kernel⟩, ⟨ready_of (by decide +kernel), by decide +kernel⟩,
    ⟨ready_of (by decide +kernel), by decide +kernel, by decide +kernel, by decide +kernel⟩⟩

/-- A block whose record gives %wid two fields, so that selector 1 names the last field and selector 2 none. -/
def sWid : State := withBlock fun b => { b with record := toBytes 8 0 ++ toBytes 8 (2 <<< 36 + 10 <<< 6 + 6) }

theorem witness_WidReads : 1 ≤ 5 ∧ 1 < (ctxOf sWid).block.widFields ∧ 2 ≤ 5 ∧ (ctxOf sWid).block.widFields ≤ 2 := by
  decide +kernel

theorem witness_SpecialRegisterValues : x0.frag.handler = false ∧ (ctxOf sHandler).frag.handler = true ∧ x0.block.slot < 8 ∧
    x0.block.backed < 128 :=
  ⟨by decide +kernel, by decide +kernel, by decide +kernel, by decide +kernel⟩

/-- %lpart and %fpflags from s4, which holds 4 and reserved bits; and in a handler %tfp, %xv, %xs, %xa and %xp. -/
def sWrites : State := withWave fun w => { w with s := [(4, 0xFFFFFF84)] }
def sWritesIn : State := onCore { loadCore with
  waves := loadCore.waves.map fun w => { w with win := some ⟨[], [], [], [], true, 1, [], [], [], []⟩, s := [(100, 128)] }
  frags := loadCore.frags.map fun f => { f with handler := true } } 0

/-- What WRSR needs beside `Claim.SrReady`, as a test. -/
def isWrite (s : State) (o : SR) : Bool :=
  let x := ctxOf s
  let low := (lowLane (x.active g0)).getD 0
  let val (l : Nat) : Word := if o.uk then x.s o.reg.toNat else x.v o.reg.toNat l
  !x.anyPoison (if o.num.toNat = 0x0B ∨ o.num.toNat = 0x0E then x.active g0 else laneBit low)
      [if o.uk then .s o.reg.toNat else .v o.reg.toNat]
    && (o.num.toNat != 1 || decide ((x.core.fragsOf x.wave.slot).length ≤ 1) && [4, 8, 16, 32, 64].contains ((val low).toNat % 128))
    && !x.srWaits o.num.toNat o.sel.toNat && (o.num.toNat != 0x0A || o.sel.toNat != 0 || (val low).extractLsb' 0 7 == 0)

theorem witness_WrsrCompletes :
    (∀ o ∈ [SR.mk 4 true 1 0 0, .mk 4 true 2 0 0, .mk 7 false 2 0 0],
      Claim.SrReady sWrites (ctxOf sWrites) g0 o true ∧ isWrite sWrites o = true) ∧
    (∀ o ∈ [SR.mk 100 true 0x0A 0 0, .mk 100 true 0x0A 1 0, .mk 7 false 0x0B 31 0, .mk 100 true 0x0C 31 0, .mk 100 true 0x0D 7 0,
        .mk 100 true 0x0D 0 0, .mk 7 false 0x0E 7 0],
      Claim.SrReady sWritesIn (ctxOf sWritesIn) g0 o true ∧ isWrite sWritesIn o = true) := by
  refine ⟨fun o ho => ?_, fun o ho => ?_⟩ <;> simp only [List.mem_cons, List.not_mem_nil, or_false] at ho
  · rcases ho with rfl | rfl | rfl <;> exact ⟨sr_of (by decide +kernel), by decide +kernel⟩
  · rcases ho with rfl | rfl | rfl | rfl | rfl | rfl | rfl <;> exact ⟨sr_of (by decide +kernel), by decide +kernel⟩


/-! ### Engine words and work words -/

/-- The Barrow words, with operands in scratchpad and in memory, and the longest direct length that fits. -/
def barrowWords : List Instr :=
  [.cpy g0 ⟨0x10000, 0, 0x101FF, 508⟩, .cpy g0 ⟨0x10000, 0, 0x10002, 0x406⟩, .tierp g0 ⟨0x4000, 5, 0x7000, 0x406⟩,
   .tiere g0 ⟨0x4000, 5, 0x7000, 1⟩, .cpy2 g0 ⟨0x10000, 0x12, 0x10004, 0, false, 0⟩, .cpyt g0 ⟨0x10000, 0, 0x10004, 0, false, 0⟩,
   .cpyg g0 ⟨0x3000, 0, 0x10004, 0, false, 0⟩, .wload g0 ⟨0x10007, 0x11, 0x10031, 0, false, 0⟩]

/-- The hypotheses for a Barrow word, as a test. -/
def isCmd (r : Claim.CmdRule) : Bool :=
  isFragReady s0 r.g r.srcs && r.traps x0 == none && isClear x0 [] && x0.opRoom .eng

theorem witness_EngineWordsComplete : ∀ i ∈ barrowWords, ∃ r, Claim.cmdRule i = some r ∧
    Claim.FragReady s0 x0 r.g r.srcs ∧ r.traps x0 = none ∧ Claim.clear x0 [] ∧ x0.opRoom .eng = true := by
  have h : (barrowWords.all fun i => (Claim.cmdRule i).any isCmd) = true := by decide +kernel
  intro i hi
  obtain ⟨r, hr, hok⟩ := (Option.any_eq_true _ _).mp (List.all_eq_true.mp h i hi)
  simp only [isCmd, Bool.and_eq_true, beq_iff_eq] at hok
  exact ⟨r, hr, frag_ready_of hok.1.1.1, hok.1.1.2, clear_of hok.1.2, hok.2⟩

/-- A barrier at the address of a7, which is 8, and one just beyond the backed scratchpad. -/
def sA7 : State := withWave fun w => { w with a := [(7, 8)] }

theorem witness_EngineOperandTraps :
    (∃ r, Claim.cmdRule (.cpy g0 ⟨0x10000, 0, 0x7000, 2⟩) = some r ∧ Claim.FragReady sA7 (ctxOf sA7) r.g r.srcs ∧
      (r.bar (ctxOf sA7)).addr.toNat % 16 ≠ 0) ∧
    (∃ r, Claim.cmdRule (.cpy g0 ⟨0x10000, 0, 0x10200, 2⟩) = some r ∧ Claim.FragReady s0 x0 r.g r.srcs ∧
      (r.bar x0).addr.toNat % 16 = 0 ∧ r.bar x0 = .spad 8192 ∧ x0.block.spadOk 8192 16 = false) :=
  ⟨⟨_, rfl, frag_ready_of (by decide +kernel), by decide +kernel⟩,
    ⟨_, rfl, frag_ready_of (by decide +kernel), by decide +kernel, by decide +kernel, by decide +kernel⟩⟩

/-- A record of zeros at the last 64 bytes of the backed scratchpad, and a control block at the last 32. -/
theorem witness_HearthWordsComplete :
    (let o : ED := ⟨0x101FC, 0, 0, 0, false, 0⟩
     Claim.FragReady s0 x0 g0 (locSrcs o.desc) ∧ Claim.clear x0 [((locOf x0 o.desc).addr.toNat + 2 ^ 64, 64)] ∧
     x0.issueRead (locOf x0 o.desc) 64 = .ok (List.replicate 64 0) ∧
     (TaskRec.ofBytes (List.replicate 64 0)).alignTrap = none ∧ x0.opRoom .eng = true ∧
     (s0.cluster (clusterOf x0.c)).ring.length < 256 ∧ (s0.ringOf x0.c x0.block.slot).length < 64) ∧
    (let o : ED := ⟨0x101FE, 0, 0, 0, false, 0⟩
     Claim.FragReady s0 x0 g0 (locSrcs o.desc) ∧ Claim.clear x0 [((locOf x0 o.desc).addr.toNat + 2 ^ 64, 32)] ∧
      x0.issueRead (locOf x0 o.desc) 32 = .ok (List.replicate 32 0)) := by
  refine ⟨⟨frag_ready_of (by decide +kernel), clear_of (by decide +kernel), ?_, by decide +kernel, by decide +kernel,
    by decide +kernel, by decide +kernel⟩, ⟨frag_ready_of (by decide +kernel), clear_of (by decide +kernel), ?_⟩⟩
  · rw [ok_of (d := []) (e := x0.issueRead _ _) (by decide +kernel)]
    exact congrArg _ (by decide +kernel)
  · rw [ok_of (d := []) (e := x0.issueRead _ _) (by decide +kernel)]
    exact congrArg _ (by decide +kernel)

theorem witness_DirectEngineWordsComplete : x0.olderOpen = false ∧ Claim.FragReady s0 x0 g0 [] ∧
    Claim.FragReady s0 x0 g0 (locSrcs 0x101FF) ∧ x0.barTrap (locOf x0 0x101FF) = none :=
  ⟨by decide +kernel, witness_FragReady, frag_ready_of (by decide +kernel), by decide +kernel⟩

/-- FETCHW with the last mailbox of the backed scratchpad, in a tentative and in a confirmed block. -/
def lastMailbox : CR := ⟨3, 255 <<< 30⟩
def sTentative : State := withBlock fun b => { b with tent := true }

theorem witness_FetchwCompletes : ∀ s ∈ [s0, sTentative],
    Claim.FragReady s (ctxOf s) g0 [.a lastMailbox.a.toNat] ∧
    (ctxOf s).block.spadOk (32 * crLines lastMailbox) 32 = true ∧ (ctxOf s).wave.fetchw = false := by
  intro s hs
  simp only [List.mem_cons, List.not_mem_nil, or_false] at hs
  rcases hs with rfl | rfl <;> exact ⟨frag_ready_of (by decide +kernel), by decide +kernel, by decide +kernel⟩

theorem witness_FetchwCompletes_both : (ctxOf sTentative).block.tent = true ∧ x0.block.tent = false := by decide +kernel

/-- A block with its full allotment; one that has neither asked nor freed; FREEA of one granule of scratchpad, and of the
registers' own. -/
def sAsks : State := withBlock fun b => { b with full := false }
def sNoSpad : State := withBlock fun b => { b with backed := 8 }

theorem witness_AllotmentWordsComplete : Claim.FragReady s0 x0 g0 [] ∧ x0.block.full = true ∧
    (let x := ctxOf sAsks
     Claim.FragReady sAsks x g0 [] ∧ x.block.req = false ∧ x.block.full = false ∧ x.block.freed = false) ∧
    (let k := min ((CN.mk (96 <<< 43)).low.extractLsb' 43 7).toNat (x0.block.backed - x0.block.vreg)
     x0.block.req = false ∧ k ≠ 0 ∧
      s0.namesBeyond x0.c (x0.block.unbacked k) (x0.block.unbacked k).spadBound (x0.block.unbacked k).accBound = false) ∧
    (let x := ctxOf sNoSpad
     Claim.FragReady sNoSpad x g0 [] ∧ x.block.req = false ∧
      min ((CN.mk (1 <<< 43)).low.extractLsb' 43 7).toNat (x.block.backed - x.block.vreg) = 0) :=
  ⟨witness_FragReady, by decide +kernel,
    ⟨frag_ready_of (by decide +kernel), by decide +kernel, by decide +kernel, by decide +kernel⟩,
    ⟨by decide +kernel, by decide +kernel, by decide +kernel⟩,
    ⟨frag_ready_of (by decide +kernel), by decide +kernel, by decide +kernel⟩⟩

theorem witness_CodeLineWordsComplete : Claim.FragReady s0 x0 g0 [.a 1] := frag_ready_of (by decide +kernel)

/-! ### Steps of loads, stores and operations -/

/-- The wave that holds it. -/
def sOp (o : Op) : State := withWave fun w => { w with seq := 2, hzn := 1, ops := [o] }

def opCtxOf (s : State) : OpCtx := (s.opCtx? 0 0 1).getD ⟨opOf .fence [], x0.wave, x0.block, 0⟩

theorem op_ctx_of {s : State} (h : (s.opCtx? 0 0 1).isSome = true) : s.opCtx? 0 0 1 = some (opCtxOf s) := by
  obtain ⟨k, hk⟩ := Option.isSome_iff_exists.mp h
  rw [opCtxOf, hk]
  rfl

theorem attempt_of {s : State} (h : ((s.opCtx? 0 0 1).isSome && s.mayAttempt 0 (opCtxOf s)) = true) :
    Claim.Attempt s 0 0 1 (opCtxOf s) := by
  rw [Bool.and_eq_true] at h
  exact ⟨by decide, op_ctx_of h.1, h.2⟩

/-- The result of an attempt that goes on. -/
def goOf {α : Type} (d : α) : Verdict α → α
  | .go x => x
  | _ => d

def isGo {α : Type} : Verdict α → Bool
  | .go _ => true
  | _ => false

def toGo {α : Type} : Verdict α → Option α
  | .go x => some x
  | _ => none

theorem go_eq {α : Type} {v : Verdict α} {x : α} (h : toGo v = some x) : v = .go x := by
  cases v <;> simp_all [toGo]

theorem go_of {α : Type} {v : Verdict α} (d : α) (h : isGo v = true) : v = .go (goOf d v) := by
  cases v <;> simp_all [isGo, goOf]

/-- A result of each kind that is owed, after one of another kind. -/
def pendOf (k : PendKind) : Pend := ⟨k, 0, [0], false, [(4, 0, 7), (4, 63, 9)], [], 1, none⟩
def sOwes (k j : PendKind) : State := onCore { loadCore with pend := [pendOf j, pendOf k] } 0

theorem witness_PendingResults : ∀ e ∈ [(PendKind.spad, PendKind.sfu), (.sfu, .cross), (.cross, .spad)],
    Claim.Owed (sOwes e.1 e.2) 0 1 e.1 (pendOf e.1) (ctxOf (sOwes e.1 e.2)).wave := by
  intro e he
  simp only [List.mem_cons, List.not_mem_nil, or_false] at he
  rcases he with rfl | rfl | rfl <;>
  exact ⟨by decide, by decide +kernel, rfl, by decide +kernel, by decide +kernel, by decide +kernel, by decide +kernel,
    by decide +kernel⟩

/-- The flags of a special function that an RDSR of %fpflags waits for, into v6 of lanes 0 and 63, and into s6. -/
theorem witness_WaitingReadsComplete : ∀ uk ∈ [false, true],
    let p : Pend := ⟨.sfu, 0, [0], false, [], [], 1, none⟩
    let q : Pend := ⟨.sr, 0, [0], false, [], [], 0, some ⟨2, 0, uk, 6, 0x8000000000000001, 2⟩⟩
    let s := onCore { loadCore with pend := [p, q] } 0
    (s.core 0).pend = [p, q] ∧ p.kind = .sfu ∧ p.handler = false ∧ p.sr = none ∧ p.regs = [] ∧ p.preds = [] ∧ q.wave = p.wave ∧
    q.handler = false ∧ (∃ r, q.sr = some r ∧ r.num = 2 ∧ r.uk = uk) ∧ ∃ w, (s.core 0).wave? p.wave = some w := by
  intro uk hu
  simp only [List.mem_cons, List.not_mem_nil, or_false] at hu
  rcases hu with rfl | rfl <;>
  exact ⟨by decide +kernel, rfl, rfl, rfl, rfl, rfl, rfl, rfl, ⟨_, rfl, rfl, rfl⟩, _, some_of (d := x0.wave) (by decide +kernel)⟩

/-- A load of two lanes, into registers and, for a ULD, into a5. -/
def sLoad : State := sOp (opOf (.load 4 2 false) twoLanes)
def sUload : State := sOp (opOf (.uload 0x85 3) [⟨0, 0x50000, 0, 0⟩])

theorem witness_LoadsReturn :
    (∃ pss, Claim.Attempt sLoad 0 0 1 (opCtxOf sLoad) ∧
      sLoad.tryAll 0 (opCtxOf sLoad).root (opCtxOf sLoad).b.slot ((opCtxOf sLoad).o.reaches .read) = .go pss ∧
      anyHost pss = false ∧ (opCtxOf sLoad).o.work = .load 4 2 false ∧
      ((opCtxOf sLoad).o.lanes.map fun a => a.lane).Nodup ∧ ∀ a ∈ (opCtxOf sLoad).o.lanes, a.lane < 64) ∧
    (∃ pss, Claim.Attempt sUload 0 0 1 (opCtxOf sUload) ∧
      sUload.tryAll 0 (opCtxOf sUload).root (opCtxOf sUload).b.slot ((opCtxOf sUload).o.reaches .read) = .go pss ∧
      anyHost pss = false ∧ (opCtxOf sUload).o.work = .uload 0x85 3) :=
  ⟨⟨_, attempt_of (by decide +kernel), go_of [] (by decide +kernel), by decide +kernel, by decide +kernel,
    by decide +kernel, by decide +kernel⟩,
    ⟨_, attempt_of (by decide +kernel), go_of [] (by decide +kernel), by decide +kernel, by decide +kernel⟩⟩

/-- The code of a lasting failure. -/
def failOf {α : Type} : Verdict α → BitVec 16 × DWord
  | .fail e a => (e, a)
  | _ => (0, 0)

theorem fail_of {α : Type} {v : Verdict α} (h : (failOf v).1 ≠ 0) : v = .fail (failOf v).1 (failOf v).2 := by
  cases v <;> simp_all [failOf]

/-- An address that is not canonical. -/
def sNoncanonical : State := sOp (opOf (.load 4 2 false) [⟨0, 0x8000000000000000, 0, 0⟩])

theorem witness_FailedAttempts : ∃ code a, Claim.Attempt sNoncanonical 0 0 1 (opCtxOf sNoncanonical) ∧
    (∃ d sz sx, (opCtxOf sNoncanonical).o.work = .load d sz sx) ∧ (opCtxOf sNoncanonical).o.handler = false ∧
    sNoncanonical.tryAll 0 (opCtxOf sNoncanonical).root (opCtxOf sNoncanonical).b.slot
      ((opCtxOf sNoncanonical).o.reaches .read) = .fail code a :=
  ⟨_, _, attempt_of (by decide +kernel), ⟨4, 2, false, by decide +kernel⟩, by decide +kernel, fail_of (by decide +kernel)⟩

/-- A store that is no longer provisional. -/
def sStore : State := sOp (opOf (.store 2) twoLanes)

/-- The state in which an accepted store finds its parts. -/
def atAccept (s : State) (pss : List (List Piece)) : State :=
  pss.foldl (fun s ps => s.keepPieces 0 (opCtxOf s).root ps)
    (s.updOp 0 0 1 fun o => { o with kind := s.storeKind 0 (opCtxOf s).root (opCtxOf s).o })

theorem witness_StoresAreAccepted : ∃ pss, Claim.Attempt sStore 0 0 1 (opCtxOf sStore) ∧ (opCtxOf sStore).o.num = 1 ∧
    (opCtxOf sStore).o.work = .store 2 ∧ (sStore.core 0).holdsStore 0 1 = false ∧
    (opCtxOf sStore).w.oldest (opCtxOf sStore).o = true ∧
    sStore.tryAll 0 (opCtxOf sStore).root (opCtxOf sStore).b.slot ((opCtxOf sStore).o.reaches .write) = .go pss ∧
    (atAccept sStore pss).partsFault (storeParts (opCtxOf sStore).o pss (2 ^ 2)) = none ∧
    ((atAccept sStore pss).core 0).heldRoom [] (opCtxOf sStore).b.tent = true :=
  ⟨_, attempt_of (by decide +kernel), by decide +kernel, by decide +kernel, by decide +kernel, by decide +kernel,
    go_of [] (by decide +kernel), by decide +kernel, by decide +kernel⟩

/-- A provisional store of a tentative block, with the last room among the 256 held lines and with none. -/
def heldByteAt (a : Nat) : HeldStore := ⟨0, 1, true, 0x50000, 0x50000, [(0x60000 + a, 7)], 0, 0⟩
def sProvisional (lines : Nat) : State := onCore { loadCore with
  waves := loadCore.waves.map fun w => { w with
    seq := 3, hzn := 1, ops := [{ opOf (.load 4 2 false) [⟨0, 0x70000, 0, 0⟩] with status := .sent }, { opOf (.store 2) twoLanes with num := 2 }] }
  blocks := loadCore.blocks.map fun b => { b with tent := true }
  held := (List.range lines).map fun k => heldByteAt (128 * k) } 0

/-- A provisional store of a confirmed block whose page has EV, or not: it is performed at its issue, or waits (R197,
R427 item 2). -/
def sEscapes (ev : Nat) : State := onCore { (sProvisional 0).core 0 with blocks := loadCore.blocks } 0
  |> fun s => { s with mem := Memory.write s.mem loadTable (toBytes 8 (0x1F + 0x100 * ev)) }

theorem test_ev_store_is_performed_at_issue : (((sEscapes 1).issuedStores.core 0).wave? 0).any (fun w =>
    (w.op? 2).any fun o => o.status == .done && o.escaped) = true := by decide +kernel
theorem test_other_store_waits : (sEscapes 0).issuedStores = sEscapes 0 := by decide +kernel

def opCtx2 (s : State) : OpCtx := (s.opCtx? 0 0 2).getD ⟨opOf .fence [], x0.wave, x0.block, 0⟩

theorem attempt2_of {s : State} (h : ((s.opCtx? 0 0 2).isSome && s.mayAttempt 0 (opCtx2 s)) = true) :
    Claim.Attempt s 0 0 2 (opCtx2 s) := by
  rw [Bool.and_eq_true] at h
  obtain ⟨k, hk⟩ := Option.isSome_iff_exists.mp h.1
  refine ⟨by decide, ?_, h.2⟩
  rw [opCtx2, hk]
  rfl

theorem witness_StoresAreHeld : ∀ e ∈ [(255, true), (256, false)], let s := sProvisional e.1
    let k := opCtx2 s
    ∃ pss, Claim.Attempt s 0 0 2 k ∧ k.o.num = 2 ∧ k.o.work = .store 2 ∧ (s.core 0).holdsStore 0 2 = false ∧
    k.w.oldest k.o = false ∧ k.b.tent = true ∧
    s.tryAll 0 k.root k.b.slot (k.o.reaches .write) = .go pss ∧
    (∀ e ∈ storeParts k.o pss (2 ^ 2), placeClass e.p.x.place < 4) ∧
    (let t := pss.foldl (fun s ps => s.keepPieces 0 k.root ps) (s.updOp 0 0 2 fun o => { o with kind := s.storeKind 0 k.root k.o })
     (t.core 0).heldRoom ((storeParts k.o pss (2 ^ 2)).map fun e => e.p.held 0 2 true e.ea e.bytes) true = e.2) := by
  intro e he
  simp only [List.mem_cons, List.not_mem_nil, or_false] at he
  rcases he with rfl | rfl <;>
  exact ⟨_, attempt2_of (by decide +kernel), by decide +kernel, by decide +kernel, by decide +kernel, by decide +kernel,
    by decide +kernel, go_of [] (by decide +kernel), by decide +kernel, by decide +kernel⟩

/-- Held stores of number 1: one that has not resolved, one that has, and nothing held. -/
def sHeld (st : Status) (n : Nat) : State := onCore { loadCore with
  waves := loadCore.waves.map fun w => { w with seq := 2, hzn := 1, ops := [{ opOf (.store 2) twoLanes with status := st }] }
  held := (List.range n).map fun k => ⟨0, 1, false, 0x50000, 0x50000, [(0x50000 + k, 7)], 0, 0⟩ } 0

theorem witness_HeldLinesDrain : ∀ e ∈ [(Status.waiting, 1), (.done, 1), (.done, 0)], let s := sHeld e.1 e.2
    let mine := (s.core 0).held.filter fun h => h.wave = 0 ∧ h.num = 1
    ∃ y o, (s.core 0).wave? 0 = some y ∧ y.shp = false ∧ y.hzn = 1 ∧ y.op? y.hzn = some o ∧ o.status = e.1 ∧
      (s.core 0).holdsStore 0 y.hzn = (e.2 == 1) ∧
      s.partsFault (mine.map fun h => ⟨h.ea, s.heldPiece h, h.bytes.map fun e => e.2⟩) = none := by
  intro e he
  simp only [List.mem_cons, List.not_mem_nil, or_false] at he
  rcases he with rfl | rfl | rfl <;>
  exact ⟨_, _, some_of (d := x0.wave) (by decide +kernel), by decide +kernel, by decide +kernel,
    some_of (d := opOf .fence []) (by decide +kernel), by decide +kernel, by decide +kernel, by decide +kernel⟩

/-- An uncached byte behind a port that is down: its part fails where the store is accepted and where it drains. -/
theorem witness_HeldLinesDrain_fails :
    let s : State := { sHeld .waiting 0 with cxlUp := [false, false, false, false] }
    let h : HeldStore := ⟨0, 1, false, 0x50000, 0x50000, [(2 ^ 44 + 7, 7)], 3, 0⟩
    (s.partsFault [⟨h.ea, s.heldPiece h, h.bytes.map fun e => e.2⟩]).isSome = true := by decide +kernel

/-- CAS with a result at both widths, with both orders, and an atomic that returns nothing. -/
def sCas : State := sOp (opOf (.atomic false (some 2) true 0 true 3) [⟨0, 0x50000, 7, 0⟩])
def sAtomn : State := sOp (opOf (.atomic false none false 9 false 0) twoLanes)

theorem witness_GlobalAtomicsPerformed :
    ∀ e ∈ [(sCas, some 2, true, (0 : BitVec 4), true, (3 : BitVec 2)), (sAtomn, none, false, 9, false, 0)],
    let k := opCtxOf e.1
    ∃ ps pss l, Claim.Attempt e.1 0 0 1 k ∧ (k.o.num = 1 ∧ k.w.slot = 0 ∧ k.o.answer = none ∧
      k.o.work = .atomic false e.2.1 e.2.2.1 e.2.2.2.1 e.2.2.2.2.1 e.2.2.2.2.2) ∧
    e.1.opPages 0 k = .go ps ∧ e.1.tryAtomicLanes 0 k e.2.2.1 e.2.2.2.1 = .go pss ∧
    (let s0 := if e.2.2.2.2.2.getLsbD 1 then e.1.release 0 ps false else e.1
     let size := if e.2.2.2.2.1 then 8 else 4
     let t := (pss.foldl (fun s ps => s.keepPieces 0 k.root ps) s0).flushHome 0 fun key _ =>
      pss.any fun l => l.any fun p => p.hasLine key
     t.laneHomes size (k.o.lanes.zip pss) = .ok l ∧ anyHost pss = false ∧
     (e.1.releaseFault 0 ps false = none ∧ k.w.hostOwed = false) ∧ t.atomFault size l = none) := by
  intro e he
  simp only [List.mem_cons, List.not_mem_nil, or_false] at he
  rcases he with rfl | rfl <;>
  exact ⟨_, _, _, attempt_of (by decide +kernel), by decide +kernel, go_of [] (by decide +kernel), go_of [] (by decide +kernel),
    ok_of (d := []) (by decide +kernel), by decide +kernel⟩

/-- An atomic at an address that is not canonical, and a minimum of a word of the host, which takes none. -/
def sBadAtomic (a : DWord) : State :=
  let s := sOp (opOf (.atomic false none false 2 false 0) [⟨0, a, 7, 0⟩])
  { s with linkUp := true, mem := Memory.write s.mem (loadTable + 8) (toBytes 8 (0x1F + 6 * 2 ^ 44)) }

theorem witness_GlobalAtomicsPerformed_fails :
    (let s := sBadAtomic (2 ^ 63)
     let k := opCtxOf s
     ∃ e a, Claim.Attempt s 0 0 1 k ∧ k.o.answer = none ∧ s.opPages 0 k = .go [] ∧
      s.tryAtomicLanes 0 k false 2 = .fail e a) ∧
    (let s := sBadAtomic (2 ^ 42)
     let k := opCtxOf s
     ∃ q, Claim.Attempt s 0 0 1 k ∧ k.o.answer = none ∧ s.opPages 0 k = .go [] ∧ k.o.reaches .atomic = [⟨2 ^ 42, 4, .atomic⟩] ∧
      s.tryReach 0 k.root k.b.slot ⟨2 ^ 42, 4, .atomic⟩ = .go q ∧
      ∃ p ∈ q, placeClass p.x.place = 6 ∧ s.hostTakes false 2 p = false) :=
  ⟨⟨_, _, attempt_of (by decide +kernel), by decide +kernel, go_eq (by decide +kernel), fail_of (by decide +kernel)⟩,
    ⟨_, attempt_of (by decide +kernel), by decide +kernel, go_eq (by decide +kernel), by decide +kernel, go_of [] (by decide +kernel),
      by decide +kernel⟩⟩

/-- The last words of the places; a comparison that holds, one that fails. -/
theorem witness_AtomicStep : (2 ^ 48 - 8) + 8 ≤ 2 ^ 48 ∧
    atomNew true 0 true 5 7 5 = some 7 ∧ (7 : Nat) < 8 ∧ s0.homeWritable (0x50000 + 7) = true ∧
    atomNew true 0 true 5 7 6 = none := by decide +kernel

def sBinit : State := sOp (opOf (.binit (.glob 0x50000) 1 16) [])
def sArrive : State := sOp (opOf (.arrive (.glob 0x50000) 1 (some 4) false) [])

theorem witness_BarrierUpdatesPerformed :
    (∃ h, Claim.Attempt sBinit 0 0 1 (opCtxOf sBinit) ∧ (opCtxOf sBinit).o.work = .binit (.glob 0x50000) 1 16 ∧
      sBinit.tryObj 0 (opCtxOf sBinit) (.glob 0x50000) .write 16 = .go h) ∧
    (∃ h, Claim.Attempt sArrive 0 0 1 (opCtxOf sArrive) ∧
      (opCtxOf sArrive).o.work = .arrive (.glob 0x50000) 1 (some 4) false ∧ (opCtxOf sArrive).o.regions = [] ∧
      (opCtxOf sArrive).w.hostOwed = false ∧ sArrive.tryObj 0 (opCtxOf sArrive) (.glob 0x50000) .atomic 16 = .go h) :=
  ⟨⟨_, attempt_of (by decide +kernel), by decide +kernel, go_of (.mem 0) (by decide +kernel)⟩,
    ⟨_, attempt_of (by decide +kernel), by decide +kernel, by decide +kernel, by decide +kernel,
      go_of (.mem 0) (by decide +kernel)⟩⟩

/-- An acquire into v8 and v9 of a global location with a bound region, and one with ALL that names no pair. -/
def sAcq (pair : Option Nat) (all : Bool) : State :=
  sOp { opOf (.acq (.glob 0x50000) pair all 1) [] with regions := [(0x50000, 1)] }

theorem witness_AcquireReads : ∀ e ∈ [(some 8, false), (none, true)], let s := sAcq e.1 e.2
    let k := opCtxOf s
    ∃ ps h, k.o.work = .acq (.glob 0x50000) e.1 e.2 1 ∧ s.mayAttempt 0 k = true ∧ k.o.handler = false ∧
    s.opPages 0 k = .go ps ∧ ps.length = 1 ∧ s.tryObj 0 k (.glob 0x50000) .read 8 = .go h ∧
    s.opCtx? 0 k.w.slot k.o.num = some k := by
  intro e he
  simp only [List.mem_cons, List.not_mem_nil, or_false] at he
  rcases he with rfl | rfl <;>
  exact ⟨_, _, by decide +kernel, by decide +kernel, by decide +kernel, go_of [] (by decide +kernel), by decide +kernel,
    go_of (.mem 0) (by decide +kernel), op_ctx_of (by decide +kernel)⟩

def sQwait : State := sOp (opOf (.qwait 0x50000 0x50040) [])

theorem witness_QueueLink : Claim.Attempt sQwait 0 0 1 (opCtxOf sQwait) ∧
    (opCtxOf sQwait).o.work = .qwait 0x50000 0x50040 ∧
    (∃ p q, sQwait.tryObj 0 (opCtxOf sQwait) (.glob 0x50000) .atomic 16 = .go (.mem p) ∧
      sQwait.tryObj 0 (opCtxOf sQwait) (.glob 0x50040) .write 16 = .go (.mem q) ∧
      ((sQwait.flushObj 0 (.mem p)).flushObj 0 (.mem q)).homeWord (.mem (p + 8)) = 0) := by
  have h (va : DWord) (acc : Access) (p : Nat)
      (e : goOf (.mem 0) (sQwait.tryObj 0 (opCtxOf sQwait) (.glob va) acc 16) = .mem p)
      (g : isGo (sQwait.tryObj 0 (opCtxOf sQwait) (.glob va) acc 16) = true) :
      sQwait.tryObj 0 (opCtxOf sQwait) (.glob va) acc 16 = .go (.mem p) := e ▸ go_of _ g
  exact ⟨attempt_of (by decide +kernel), by decide +kernel, 0x50000, 0x50040, h _ _ _ (by decide +kernel) (by decide +kernel),
    h _ _ _ (by decide +kernel) (by decide +kernel), by decide +kernel⟩

/-- A wake of no record and of one, of an empty queue, and of one with the record at 0x50040, or at an address that is not
canonical. -/
def sWake (m : Nat) (first : Nat) : State :=
  let s := sOp (opOf (.wake 0x50000 m) [])
  { s with mem := Memory.write s.mem 0x50000 (toBytes 8 first) }

theorem witness_QueueUnlink : ∀ e ∈ [(0, 0x50040), (2, 0), (1, 0x50040), (1, 2 ^ 63)],
    let s := sWake e.1 e.2
    let u := s.flushObj 0 (.mem 0x50000)
    let first := u.homeWord (.mem 0x50000)
    Claim.Attempt s 0 0 1 (opCtxOf s) ∧ ((opCtxOf s).o.work = .wake 0x50000 e.1 ∧ (opCtxOf s).o.results = []) ∧
    s.tryObj 0 (opCtxOf s) (.glob 0x50000) .atomic 16 = .go (.mem 0x50000) ∧
    ((e.1 = 0 ∨ first = 0) ∨ e.1 = 1 ∧ first ≠ 0 ∧
      ((∃ r, u.colHome (colliers 0x50000) (opCtxOf s).root .read first 16 = .ok r ∧
          u.heldWindow (some (0, (opCtxOf s).b.slot)) r = false) ∨
        (u.colHome (colliers 0x50000) (opCtxOf s).root .read first 16).toOption = none)) := by
  intro e he
  simp only [List.mem_cons, List.not_mem_nil, or_false] at he
  have h {s : State} (e : goOf (.mem 0) (s.tryObj 0 (opCtxOf s) (.glob 0x50000) .atomic 16) = .mem 0x50000)
      (g : isGo (s.tryObj 0 (opCtxOf s) (.glob 0x50000) .atomic 16) = true) :
      s.tryObj 0 (opCtxOf s) (.glob 0x50000) .atomic 16 = .go (.mem 0x50000) := e ▸ go_of _ g
  rcases he with rfl | rfl | rfl | rfl
  · exact ⟨attempt_of (by decide +kernel), by decide +kernel, h (by decide +kernel) (by decide +kernel), .inl (.inl rfl)⟩
  · exact ⟨attempt_of (by decide +kernel), by decide +kernel, h (by decide +kernel) (by decide +kernel),
      .inl (.inr (by decide +kernel))⟩
  · exact ⟨attempt_of (by decide +kernel), by decide +kernel, h (by decide +kernel) (by decide +kernel),
      .inr ⟨rfl, by decide +kernel, .inl ⟨_, ok_of (d := .mem 0) (by decide +kernel), by decide +kernel⟩⟩⟩
  · exact ⟨attempt_of (by decide +kernel), by decide +kernel, h (by decide +kernel) (by decide +kernel),
      .inr ⟨rfl, by decide +kernel, .inr (by decide +kernel)⟩⟩

/-- A fragment that waits for phase 0 of the barrier at 48, and of the one at 32, which has passed. -/
def sParked (off : Nat) : State := onCore { loadCore with
  blocks := loadCore.blocks.map fun b => { b with spad := Memory.write b.spad 32 (toBytes 12 0 ++ [1, 0, 0, 0]) }
  frags := loadCore.frags.map fun f => { f with park := .waitph (.spad off) 0 none } } 0

theorem witness_WaitphWakes : ∀ e ∈ [(48, true), (32, false)],
    let s := sParked e.1
    ((s.core 0).frag? 0 = some (ctxOf s).frag ∧ (s.core 0).wave? (ctxOf s).frag.wave = some (ctxOf s).wave ∧
      (ctxOf s).frag.park = .waitph (.spad e.1) 0 none) ∧
    (s.phaseAt (ownHome 0 (ctxOf s).wave.block (.spad e.1)) == (0 : BitVec 16).toNat) = e.2 := by
  decide +kernel

def sFence : State := sOp (opOf .fence [])
def sLaunch (n : Nat) : State :=
  { sOp (opOf (.launch 0x50000 2) []) with
    stokeQ := List.replicate 2 [] ++ [List.replicate n ⟨[], none⟩] ++ List.replicate 13 [] }

/-- A fence of a wave that has stored to a page that is still dirty and whose address translates no more. -/
def sFenceGone : State := onCore { loadCore with
  waves := loadCore.waves.map fun w => { w with seq := 2, hzn := 1, ops := [opOf .fence []], written := [(2 ^ 63, 0x50000 / 65536)] }
  l1 := [(0x50000, ⟨7, true, 2⟩)] } 0

theorem witness_HeldOperationsProceed :
    (∃ e a, Claim.Attempt sFenceGone 0 0 1 (opCtxOf sFenceGone) ∧ (opCtxOf sFenceGone).o.work = .fence ∧
      sFenceGone.opPages 0 (opCtxOf sFenceGone) = .fail e a) ∧
    (Claim.Attempt sFence 0 0 1 (opCtxOf sFence) ∧ (opCtxOf sFence).o.work = .fence ∧
      sFence.opPages 0 (opCtxOf sFence) = .go [] ∧ sFence.releaseFault 0 [] true = none ∧ (opCtxOf sFence).w.hostOwed = false) ∧
    (∀ n ∈ [511, 512], let s := sLaunch n
      ∃ ps, Claim.Attempt s 0 0 1 (opCtxOf s) ∧
        ((opCtxOf s).o.work = .launch 0x50000 2 ∧ s.opPages 0 (opCtxOf s) = .go [] ∧ s.releaseFault 0 [] true = none ∧
          (opCtxOf s).w.hostOwed = false) ∧
        (s.release 0 [] true).tryReach 0 (opCtxOf s).root (opCtxOf s).b.slot ⟨0x50000, 128, .read⟩ = .go ps ∧
        anyHost [ps] = false ∧
        (let t := (s.release 0 [] true).settleWritten 0 0
         ((ps.foldl (fun s p => s.pieceTouch 0 p) (t.keepPieces 0 (opCtxOf s).root ps)).stokeQ.getD 2 []).length = n)) := by
  refine ⟨⟨_, _, attempt_of (by decide +kernel), by decide +kernel, fail_of (by decide +kernel)⟩,
    ⟨attempt_of (by decide +kernel), by decide +kernel, go_eq (by decide +kernel), by decide +kernel⟩, fun n hn => ?_⟩
  simp only [List.mem_cons, List.not_mem_nil, or_false] at hn
  rcases hn with rfl | rfl <;>
  exact ⟨_, attempt_of (by decide +kernel), ⟨by decide +kernel, go_eq (by decide +kernel), by decide +kernel⟩,
    go_of [] (by decide +kernel), by decide +kernel⟩

def sShape : State := sOp (opOf (.shape 0x50000 (2 ^ 63)) [])

theorem witness_ShapePublished : ∃ h, Claim.Attempt sShape 0 0 1 (opCtxOf sShape) ∧
    (opCtxOf sShape).o.work = .shape 0x50000 (2 ^ 63) ∧ (opCtxOf sShape).o.regions = [] ∧
    (opCtxOf sShape).w.hostOwed = false ∧ sShape.tryObj 0 (opCtxOf sShape) (.glob 0x50000) .write 8 = .go h :=
  ⟨_, attempt_of (by decide +kernel), by decide +kernel, by decide +kernel, by decide +kernel, go_of (.mem 0) (by decide +kernel)⟩

/-- A load of two words of the host that waits for them, as it was translated, and a fence behind its wave's only write to the
host. -/
def hostLane (a : Nat) : List Piece := [⟨⟨6 * 2 ^ 44 + a, ⟨0, 5, false, false⟩⟩, BitVec.ofNat 64 a, 4⟩]
def sAtHost : State := sOp { opOf (.load 4 2 false) twoLanes with status := .sent, reach := [hostLane 0x50000, hostLane 0x5007C] }
def sBehind : State := withWave fun w => { w with
  seq := 2, hzn := 1, hostWrites := 1, ops := [{ opOf .fence [] with status := .sent, mark := some 1 }] }

theorem witness_HostAnswers :
    (∀ s ∈ [sAtHost, sBehind], s.opCtx? 0 0 1 = some (opCtxOf s) ∧ (opCtxOf s).o.atHost = true) ∧
    (let k := opCtxOf sAtHost
     k.o.work = .load 4 2 false ∧ k.o.mark = none ∧ k.o.reach.length = k.o.lanes.length ∧
      ∀ ps ∈ k.o.reach, sAtHost.readFault 0 ps = none) ∧
    (opCtxOf sBehind).o.mark = some 1 := by
  refine ⟨fun s hs => ?_, by decide +kernel, by decide +kernel⟩
  simp only [List.mem_cons, List.not_mem_nil, or_false] at hs
  rcases hs with rfl | rfl <;> exact ⟨op_ctx_of (by decide +kernel), by decide +kernel⟩

theorem witness_HostLinkGoesDown : ∀ e ∈ s0.cores, ∀ w ∈ e.2.waves, w.frameAsked = false ∧ w.hostAsk = none ∧
    ∀ o ∈ w.ops, o.atHost = false := by decide +kernel

def sFailing : State := sOp { opOf (.load 4 2 false) twoLanes with status := .failing eMemPoison 0x50000 }

theorem witness_FailuresAreRetried : ∃ o, (sFailing.core 0).wave? 0 = some (ctxOf sFailing).wave ∧
    (ctxOf sFailing).wave.op? 1 = some o ∧ o.status = .failing eMemPoison 0x50000 ∧
    (∀ t b f, o.work ≠ .rst t b f) ∧ ∀ op d e, o.work ≠ .rmo op d e :=
  ⟨{ opOf (.load 4 2 false) twoLanes with status := .failing eMemPoison 0x50000 }, by decide +kernel, by decide +kernel, rfl,
    fun _ _ _ h => Work.noConfusion h, fun _ _ _ h => Work.noConfusion h⟩

/-- A load of a page above the first 4 TiB, whose entry is not valid and may be replayed. -/
def unmapped : LaneAcc := ⟨0, 0x40000000000, 0, 0⟩
def sUnmapped : State :=
  let s := sOp (opOf (.load 4 2 false) [unmapped])
  { s with mem := Memory.write s.mem (loadTable + 8) (toBytes 8 0x200) }

/-- The failure of a translation. -/
def errOf {ε α : Type} (d : ε) : Except ε α → ε
  | .error e => e
  | .ok _ => d

theorem err_of {ε α : Type} {e : Except ε α} (d : ε) (h : e.toOption.isNone = true) : e = .error (errOf d e) := by
  cases e <;> simp_all [errOf, Except.toOption]

theorem witness_FaultEntries : ∃ f : XFail, Claim.Attempt sUnmapped 0 0 1 (opCtxOf sUnmapped) ∧
    (opCtxOf sUnmapped).o.work = .load 4 2 false ∧ (opCtxOf sUnmapped).o.lanes = [unmapped] ∧
    ((opCtxOf sUnmapped).o.regions = [] ∧ (opCtxOf sUnmapped).o.answer = none) ∧ unmapped.ea.toNat % 4 = 0 ∧ f.replay = true ∧
    sUnmapped.translateLeaf (some 0) (dieOf 0) (opCtxOf sUnmapped).root .read unmapped.ea = .error f ∧
    (∀ e ∈ (sUnmapped.core 0).faults, e.2.isOf 0 1 = false) ∧ (sUnmapped.core 0).faultWait = [] ∧
    Map.find (sUnmapped.core 0).faults 0 = none ∧ ∀ j, j < 0 → Map.find (sUnmapped.core 0).faults j ≠ none :=
  ⟨_, attempt_of (by decide +kernel), by decide +kernel, by decide +kernel, by decide +kernel, by decide, by decide +kernel,
    err_of ⟨0, false, 0, 0⟩ (by decide +kernel), by decide +kernel, by decide +kernel, by decide +kernel,
    fun j h => absurd h (Nat.not_lt_zero j)⟩

/-- An operation that waits in entry 63, the last of the buffer. -/
def fault0 : FaultEnt := ⟨0x40000000000, 0, 1, 0, 0, 0, false, 1, none, false⟩
def faultedOp : Op := { opOf (.load 4 2 false) [unmapped] with status := .inFault }
def sInFault : State := onCore { loadCore with
  waves := loadCore.waves.map fun w => { w with seq := 2, hzn := 1, ops := [faultedOp] }, faults := [(63, fault0)] } 0

theorem witness_FaultStatusWrites : Map.find (sInFault.core 0).faults 62 = none ∧
    Map.find (sInFault.core 0).faults 63 = some fault0 ∧ (sInFault.core 0).faultWait = [] ∧ fault0.cmd = none ∧
    fault0.frame = false ∧ (sInFault.core 0).wave? fault0.wave = some (ctxOf sInFault).wave ∧
    (ctxOf sInFault).wave.op? fault0.hnum = some faultedOp ∧ faultedOp.status = .inFault ∧ faultedOp.handler = false ∧
    ∀ q ∈ Map.del (sInFault.core 0).faults 63, q.2.isOf fault0.wave fault0.hnum = false := by decide +kernel

/-- One resolved operation, the only one; one that waits; one that has failed; and a wave in a shape's hold. -/
def sResolves (f : Wave → Wave) (o : Op) : State := withWave fun w => f { w with seq := 2, hzn := 1, ops := [o] }
def doneOp : Op := { opOf (.load 4 2 false) twoLanes with status := .done }
def failedOp : Op := { opOf (.load 4 2 false) twoLanes with status := .failed eMemPoison 0x50000 }

theorem witness_HorizonMoves : ∀ s ∈ [sResolves id doneOp, sResolves id failedOp, sResolves (fun w => { w with shp := true }) doneOp,
      sLoad],
    ((s.core 0).wave? 0 = some (ctxOf s).wave ∧ (ctxOf s).wave.win = none ∧ (ctxOf s).wave.ended = false ∧
      s.waveDrains 0 (ctxOf s).wave = false) := by decide +kernel

theorem witness_HorizonMoves_clauses :
    (let s := sResolves id doneOp
     let y := (ctxOf s).wave
     y.ops = [doneOp] ∧ y.shp = false ∧ doneOp.num = y.hzn ∧ y.seq = y.hzn + 1 ∧ doneOp.handler = false ∧
      doneOp.status = .done ∧ (s.core 0).holdsStore 0 y.hzn = false ∧
      (y.advance ((s.core 0).holdsStore 0) 65).delivered = none) ∧
    (let s := sResolves id failedOp
     (((ctxOf s).wave.advance ((s.core 0).holdsStore 0) 65).delivered ≠ none ∧ 0 ∉ (s.core 0).trapQueue)) ∧
    (let y := (ctxOf sLoad).wave
     ∃ o, y.op? y.hzn = some o ∧ o.handler = false ∧ o.status = .waiting) :=
  ⟨by decide +kernel, by decide +kernel, _, (by decide +kernel : _ = some (opOf (.load 4 2 false) twoLanes)), rfl, rfl⟩

/-- The one fragment waits in WAITHZ for the number that HZN then reaches. -/
theorem witness_HorizonMoves_wakes : let f := { (ctxOf s0).frag with park := .waithz 2 }
    let s : State := onCore { loadCore with
      waves := loadCore.waves.map fun w => { w with seq := 2, hzn := 1, ops := [doneOp] }, frags := [f] } 0
    ∃ y, (s.core 0).wave? 0 = some y ∧ y.win = none ∧ y.ended = false ∧ s.waveDrains 0 y = false ∧ (s.core 0).frags = [f] ∧
      f.wave = 0 ∧ ∃ n, f.park = .waithz n ∧ (y.advance ((s.core 0).holdsStore 0) 65).reached n = true :=
  ⟨_, some_of (d := x0.wave) (by decide +kernel), by decide +kernel, by decide +kernel, by decide +kernel, by decide +kernel,
    by decide +kernel, 2, rfl, by decide +kernel⟩


/-! ### Steps of the engines -/

/-- What an access of an engine finds, where it goes on. -/
def resOf {α : Type} (d : α) : EngRes α → α
  | .ok x => x
  | _ => d

def isRes {α : Type} : EngRes α → Bool
  | .ok _ => true
  | _ => false

theorem res_of {α : Type} {r : EngRes α} (d : α) (h : isRes r = true) : r = .ok (resOf d r) := by
  cases r <;> simp_all [isRes, resOf]

/-- A result without an error that is known. -/
theorem ok_eq {ε α : Type} {e : Except ε α} {x : α} (h : e.toOption = some x) : e = .ok x := by
  cases e <;> simp_all [Except.toOption]

/-- The first command of core 0: a copy to the last bytes of the backed scratchpad, or beyond the greatest length. -/
def cpyCmd (n : Nat) : EngCmd :=
  { id := 3, kind := .cpy, wave := 0, block := 0, num := 1, gated := true, dst := .spad (8192 - 256), src := .glob 0x50000,
    desc := .bad, bar := .spad 0, aux := none, len := n, fields := none, unit := 0, buf := none, landed := 0, retried := false,
    err := 0, inFault := false, abandon := false }
def sCmds (ks : List EngCmd) : State := onCore { loadCore with cmds := ks } 0

/-- A copy with a descriptor, whose descriptor stands at the end of the scratchpad; and a tier copy of the fast tier onto itself. -/
def cpy2Cmd : EngCmd := { cpyCmd 0 with kind := .cpy2, desc := .spad (8192 - 32) }
def tierCmd : EngCmd := { cpyCmd 256 with kind := .tierp, dst := .glob 0x60000 }

/-- A landing of that copy that waits in the fault buffer, on a barrier of a page that is not valid and may be replayed. -/
def landing0 : Landing :=
  { bar := .glob 0x40000000000, a := 0, n := 128, code := 0, lines := [], die := none, wave := 0, num := 1, cmd := 3, loads := false,
    fault := some 9 }
def sLandWaits : State := onCore { loadCore with
  cmds := [cpyCmd 256], blocks := loadCore.blocks.map fun b => { b with lands := [landing0] } } 0

/-- Abandoned, waiting for its entry, failed, with a descriptor to read, refused, between wrong classes, and of no bytes. -/
theorem witness_CommandsBegin :
    (∀ k ∈ [{ cpyCmd 256 with abandon := true }, { cpyCmd 256 with inFault := true }, { cpyCmd 256 with err := eMemPoison },
        cpy2Cmd, cpyCmd (2 ^ 24 + 1), tierCmd, cpyCmd 0], let s := sCmds [k]
      ((s.core 0).cmds.take 8).find? (fun k => k.id == 3) = some k ∧ s.engForked (k.eng 0) = true ∧
        (s.core 0).landStalls k = false) ∧
    (((sLandWaits.core 0).cmds.take 8).find? (fun k => k.id == 3) = some (cpyCmd 256) ∧
      (sLandWaits.core 0).landStalls (cpyCmd 256) = true) ∧
    (let s := sCmds [cpy2Cmd]
     ∃ bs, cpy2Cmd.err = 0 ∧ cpy2Cmd.isEC = false ∧ cpy2Cmd.fields = none ∧ s.engRead (cpy2Cmd.eng 0) cpy2Cmd.desc 32 = .ok bs) ∧
    ((cpyCmd (2 ^ 24 + 1)).isEC = true ∧ (cpyCmd (2 ^ 24 + 1)).refused ≠ 0) ∧
    (tierCmd.isEC = true ∧ tierCmd.refused = 0 ∧ tierCmd.isTier = true ∧ tierCmd.unit = 0 ∧
      (sCmds [tierCmd]).tierWrong 0 tierCmd tierCmd.src tierCmd.dst tierCmd.len = true) ∧
    ((cpyCmd 0).isEC = true ∧ (cpyCmd 0).refused = 0 ∧ (cpyCmd 0).isTier = false ∧ (cpyCmd 0).units = 0) :=
  ⟨by decide +kernel, by decide +kernel,
    ⟨_, by decide +kernel, by decide +kernel, by decide +kernel, res_of [] (by decide +kernel)⟩, by decide +kernel⟩

/-- A command whose next unit is due, as a test. -/
def isDue (s : State) (k : EngCmd) : Bool :=
  ((s.core 0).cmds.take 8).find? (fun j => j.id == k.id) == some k && (!k.abandon && !k.inFault && k.err == 0)
    && !(s.core 0).landStalls k && s.engForked (k.eng 0) && (k.isEC || k.fields != none) && k.refused == 0
    && (!k.isTier || !s.tierWrong 0 k k.src k.dst k.len) && k.units != 0

theorem due_of {s : State} {k : EngCmd} {i : Nat} (hi : k.id = i) (h : isDue s k = true) : Claim.UnitDue s 0 i k := by
  subst hi
  simp only [isDue, Bool.and_eq_true, Bool.or_eq_true, Bool.not_eq_true', beq_iff_eq, bne_iff_ne] at h
  obtain ⟨⟨⟨⟨⟨⟨⟨h1, h2⟩, h0⟩, h3⟩, h4⟩, h5⟩, h6⟩, h7⟩ := h
  exact ⟨by decide, h1, ⟨h2.1.1, h2.1.2, h2.2⟩, h0, h3, h4, h5, h6, h7⟩

def isEngWait {α : Type} : EngRes α → Bool
  | .wait => true
  | _ => false

theorem eng_wait_of {α : Type} {r : EngRes α} (h : isEngWait r = true) : r = .wait := by
  cases r <;> simp_all [isEngWait]

/-- The code of an engine's failure. -/
def engCode {α : Type} : EngRes α → BitVec 16
  | .fail e => e
  | _ => 0

theorem eng_fail_of {α : Type} {r : EngRes α} {e : BitVec 16} (h : engCode r = e ∧ e ≠ 0) : r = .fail e := by
  obtain ⟨rfl, h⟩ := h
  cases r <;> simp_all [engCode]

/-- The last unit of a copy, before it is read and after; and one whose operation is still provisional. -/
def outCmd (buf : Option (List Byte)) : EngCmd :=
  { cpyCmd 256 with unit := 1, dst := .glob 0x60000, src := .spad 0, buf := buf }
def sOut (k : EngCmd) (gated : Bool) : State := onCore { loadCore with
  cmds := [k], waves := loadCore.waves.map fun w => { w with seq := 2, hzn := if gated then 1 else 2, ops := [] } } 0

theorem witness_CopiesGoOn : ∀ gated ∈ [false, true],
    (let k := outCmd none
     let s := sOut k gated
     ∃ u bs, Claim.UnitDue s 0 3 k ∧ k.kind ≠ .cpyt ∧ k.kind ≠ .wload ∧ s.cmdUnit 0 k = .ok u ∧ k.isTier = false ∧
      (s.readUnit 0 k u).2 = .ok bs ∧
      (let t := (s.readUnit 0 k u).1.keepRead 0 k fun k => { k with buf := some bs }
       if gated then t.engWritable (k.eng 0) .write k.isTier u.dst u.n = .wait
        else ∃ ps, t.engWritable (k.eng 0) .write k.isTier u.dst u.n = .ok ps)) ∧
    (let k := outCmd (some [7])
     let s := sOut k gated
     ∃ u, Claim.UnitDue s 0 3 k ∧ s.cmdUnit 0 k = .ok u ∧
      if gated then s.engWritable (k.eng 0) .write k.isTier u.dst u.n = .wait
        else ∃ ps, s.engWritable (k.eng 0) .write k.isTier u.dst u.n = .ok ps) := by
  intro gated hg
  simp only [List.mem_cons, List.not_mem_nil, or_false] at hg
  rcases hg with rfl | rfl
  · exact ⟨⟨_, _, due_of rfl (by decide +kernel), by decide, by decide, res_of ⟨.bad, .bad, 0⟩ (by decide +kernel), by decide +kernel,
      res_of [] (by decide +kernel), _, res_of [] (by decide +kernel)⟩,
      ⟨_, due_of rfl (by decide +kernel), res_of ⟨.bad, .bad, 0⟩ (by decide +kernel), _, res_of [] (by decide +kernel)⟩⟩
  · exact ⟨⟨_, _, due_of rfl (by decide +kernel), by decide, by decide, res_of ⟨.bad, .bad, 0⟩ (by decide +kernel), by decide +kernel,
      res_of [] (by decide +kernel), eng_wait_of (by decide +kernel)⟩,
      ⟨_, due_of rfl (by decide +kernel), res_of ⟨.bad, .bad, 0⟩ (by decide +kernel), eng_wait_of (by decide +kernel)⟩⟩

/-- A row of one INT4 value for the scratchpad, and a weight load of one row before and after it is read. -/
def cpytCmd : EngCmd := { cpyCmd 0 with
  kind := .cpyt
  fields := some (toBytes 8 0x50000 ++ toBytes 8 0 ++ toBytes 4 128 ++ toBytes 4 0 ++ [12, 1, 0, 1, 0, 0] ++ toBytes 2 1) }
def wloadDue (buf : Option (List Byte)) : EngCmd := { cpyCmd 0 with
  kind := .wload
  buf := buf
  fields := some (toBytes 8 0x50000 ++ toBytes 8 0 ++ toBytes 4 128 ++ [12, 1, 0, 0] ++ toBytes 4 1 ++ toBytes 4 0) }

theorem witness_RecordsAndWeights :
    (let s := sCmds [cpytCmd]
     ∃ l bs ps, Claim.UnitDue s 0 3 cpytCmd ∧ cpytCmd.kind = .cpyt ∧ s.cpytRecord 0 cpytCmd = .ok (l, bs) ∧
      s.engWritable (cpytCmd.eng 0) .write false l bs.length = .ok ps) ∧
    (let k := wloadDue none
     let s := sCmds [k]
     ∃ bs, Claim.UnitDue s 0 3 k ∧ k.kind = .wload ∧ k.buf = none ∧ s.wloadBytes 0 k = .ok bs) ∧
    (let k := wloadDue (some [7])
     Claim.UnitDue (sCmds [k]) 0 3 k ∧ k.kind = .wload ∧ k.buf ≠ none) :=
  ⟨⟨_, _, _, due_of rfl (by decide +kernel), rfl, res_of (.bad, []) (by decide +kernel), res_of [] (by decide +kernel)⟩,
    ⟨_, due_of rfl (by decide +kernel), rfl, rfl, res_of [] (by decide +kernel)⟩, due_of rfl (by decide +kernel), rfl, by decide⟩

/-- The first of two units of that copy, and the last, with lines written at the homes; and its end with the rest of its count. -/
theorem witness_UnitsLand : let s := sCmds [cpyCmd 256]
    ∃ b, s.blockAt 0 (cpyCmd 256).block = some b ∧ (b.tent = false ∧ b.lands = []) ∧ s.heldWindow (some (0, 0)) (.spad 0 0 0) = false ∧
    (cpyCmd 256).retried = false ∧ s.elocHome 0 0 (cpyCmd 256).bar 16 = .ok (.spad 0 0 0) ∧
    (s.noteWrites (.spad 0 0 0) [7] none).elocHome 0 0 (cpyCmd 256).bar 16 = .ok (.spad 0 0 0) ∧
    (cpyCmd 256).unit + 1 < (cpyCmd 256).units ∧
    ({ cpyCmd 256 with unit := 1 } : EngCmd).units ≤ ({ cpyCmd 256 with unit := 1 } : EngCmd).unit + 1 ∧
    (s.core 0).faults = [] ∧ (s.core 0).faultWait = [] :=
  ⟨_, some_of (d := x0.block) (by decide +kernel), by decide +kernel, by decide +kernel, rfl, ok_eq (by decide +kernel),
    ok_eq (by decide +kernel), by decide +kernel, by decide +kernel, by decide +kernel, by decide +kernel⟩

/-- A landing that reaches its barrier, one whose barrier does not translate, and one whose barrier's page may be mapped later, with
the last entry free. -/
def sLands : State :=
  let s := onCore { loadCore with faults := (List.range 63).map fun i => (i, fault0) } 0
  { s with mem := Memory.write s.mem (loadTable + 8) (toBytes 8 0x200) }

theorem witness_LandingsWait : ∃ y, sLands.blockAt 0 0 = some y ∧ (y.tent = false ∧ y.lands = []) ∧
    (sLands.core 0).block? 0 = some y ∧
    (sLands.elocHome 0 0 (.spad 0) 16 = .ok (.spad 0 0 0) ∧ sLands.heldWindow (some (0, 0)) (.spad 0 0 0) = false) ∧
    (∃ f : XFail, sLands.elocHome 0 0 (.glob (2 ^ 63)) 16 = .error f ∧ f.replay = false) ∧
    (∃ f : XFail, sLands.elocHome 0 0 (.glob (2 ^ 42)) 16 = .error f ∧ f.replay = true) ∧
    Map.find (sLands.core 0).faults 63 = none ∧ ∀ j, j < 63 → Map.find (sLands.core 0).faults j ≠ none :=
  ⟨_, some_of (d := x0.block) (by decide +kernel), by decide +kernel, by decide +kernel,
    ⟨ok_eq (by decide +kernel), by decide +kernel⟩,
    ⟨_, err_of ⟨0, false, 0, 0⟩ (by decide +kernel), by decide +kernel⟩,
    ⟨_, err_of ⟨0, false, 0, 0⟩ (by decide +kernel), by decide +kernel⟩, by decide +kernel⟩

/-- A WLOAD that has been read, as the eighth command. -/
def wloadCmd : EngCmd := { cpyCmd 0 with id := 9, kind := .wload, fields := some (List.replicate 32 0), buf := some [0] }
def latchCmds : List EngCmd := (List.range 7).map (fun i => { cpyCmd 256 with id := i }) ++ [wloadCmd]

/-- A record of 64 bytes: gate, phase, accumulator offset, flags, GRP and MIDX vary. Its one row of 1-bit activations are the last
32 bytes of the scratchpad, and its tile of 16 FP32 elements ends at the end of the accumulator storage. -/
def taskBytes (gate gph aoff flags grp midx : Nat) : List Byte :=
  toBytes 8 gate ++ toBytes 2 gph ++ [0, 1, 12, 1, 12, 1] ++ toBytes 4 aoff ++ toBytes 4 (8192 - 64) ++ toBytes 2 16
    ++ toBytes 4 (flags + 2 ^ 16 * grp + 2 ^ 24 * midx) ++ toBytes 2 0 ++ toBytes 8 0 ++ toBytes 4 0 ++ toBytes 4 9
    ++ toBytes 8 0 ++ toBytes 4 0 ++ toBytes 4 0xFFFFFFFF

def hrec (bs : List Byte) : HRec :=
  { id := 5, bytes := bs, quench := [], core := 0, block := 0, wave := 0, num := 1, gated := true, eligible := true,
    registered := false, inFault := false, retried := false, fail := 0 }

/-- Core 0 with one granule of accumulators, and a Kiln that holds 1-bit weights. -/
def kilnRecord : List Byte := splice loadRecord 56 (toBytes 4 0x10108 ++ toBytes 2 10 ++ toBytes 2 10)
def kiln0 : Kiln := { Kiln.reset with fmt := some 12, planes := List.replicate 4 Plane.zero }
def kilnCore : Core := { loadCore with blocks := [Block.placed 0 0 0 0 [] kilnRecord false 0], kiln := kiln0 }

/-- A ring of records of the first cluster. -/
def sRing (rs : List HRec) : State := { onCore kilnCore 0 with clusters := [(0, { Cluster.reset with ring := rs })] }

/-- The task of such a record on the Kiln, before its k-block and after it. -/
def ktask (r : HRec) (kblock : Nat) : KTask :=
  { task := r, kblock := kblock, unit := 0, status := 0, lines := [], paused := false, stop := false, abandon := false, away := false,
    group := none, leader := none, fmt := some 12, scaled := false, planes := kiln0.planes }
def sTask (kblock : Nat) : State :=
  onCore { kilnCore with kiln := { kiln0 with task := some (ktask (hrec (taskBytes 0 0 8160 0 0 0)) kblock) } } 0

theorem witness_WeightsAreLatched :
    (∀ e ∈ [(none, false), (some (ktask (hrec []) 0), true), (some { ktask (hrec []) 0 with paused := true }, false)],
      let s := onCore { loadCore with cmds := latchCmds, kiln := { kiln0 with task := e.1 } } 0
      ((s.core 0).cmds.take 8).find? (fun k => k.kind == .wload && k.buf.isSome) = some wloadCmd ∧
      ((s.core 0).kiln.task.any fun t => !t.paused) = e.2 ∧ (s.core 0).landStalls wloadCmd = false) ∧
    wloadCmd.buf = some [0] ∧ wloadCmd.abandon = false ∧ wloadCmd.err = 0 := by decide +kernel

/-- A record that is not eligible, with the gate at scratchpad offset 8176 in phase 0, and the same gate for a later phase. -/
def gated (gate gph : Nat) : HRec := { hrec (taskBytes gate gph 8160 0 0 0) with eligible := false }

theorem witness_GatesAreChecked :
    (∀ r ∈ [gated (2 ^ 63 + 8176) 1, gated (2 ^ 63 + 8176) 2], let s := sRing [hrec [], r]
      (s.cluster 0).ring[1]? = some r ∧ r.eligible = false ∧ r.inFault = false ∧ r.fail = 0 ∧ r.retried = false ∧
      s.recRuns r = true) ∧
    (TaskRec.ofBytes (taskBytes 0 1 8160 0 0 0)).gate = 0 ∧
    (let r := gated (2 ^ 63 + 8176) 2
     ∃ h bar, (sRing [hrec [], r]).gateRead r = .ok (h, bar) ∧
      BitVec.ofNat 16 (recNat bar 12 2) ≠ r.task.gph - 1) ∧
    (let r := gated (2 ^ 63 + 8176) 1
     ∃ h bar, (sRing [hrec [], r]).gateRead r = .ok (h, bar) ∧
      BitVec.ofNat 16 (recNat bar 12 2) = r.task.gph - 1) :=
  ⟨by decide +kernel, by decide +kernel,
    ⟨_, _, res_of (.mem 0, []) (by decide +kernel), by decide +kernel⟩,
    ⟨_, _, res_of (.mem 0, []) (by decide +kernel), by decide +kernel⟩⟩

/-- The younger of two records, the older of which has not become eligible: one that passes every check, and one whose activations
reach beyond the scratchpad. -/
theorem witness_RecordsAreDispatched :
    (∀ r ∈ [hrec (taskBytes 0 0 8160 0 0 0), hrec (taskBytes 0 0 8176 4 0 0)], let s := sRing [gated 0 1, r]
      (s.cluster 0).ring[1]? = some r ∧ s.recReady r = true ∧ s.mayTake r 0 = true ∧
      (∀ q ∈ (s.cluster 0).ring.take 1, s.recReady q = false ∨ ∀ c ∈ s.kilnsOf 0, s.mayTake q c = false)) ∧
    (let r := hrec (taskBytes 0 0 8160 0 0 0)
     (sRing [gated 0 1, r]).recCheck r ((sRing [gated 0 1, r]).kiln 0) = 0) ∧
    (let r := hrec (taskBytes 0 0 8176 4 0 0)
     (sRing [gated 0 1, r]).recCheck r ((sRing [gated 0 1, r]).kiln 0) ≠ 0) := by decide +kernel

/-- The first member of a group of two, and a complete group of two members on cores 0 and 1. -/
def member0 : HRec := hrec (taskBytes 0x60000 1 8160 4 1 0)
def group2 : List GroupReg := [⟨0x60000, 1, 2, 1, 0, 0, member0⟩, ⟨0x60000, 1, 2, 1, 1, 0, { member0 with core := 1 }⟩]
def sGroups : State := { onCore kilnCore 0 with cores := [(0, kilnCore), (1, kilnCore)], groups := [group2] }

/-- A member whose index lies beyond its group, and a group one of whose members has its activations beyond the scratchpad. -/
def member9 : HRec := hrec (taskBytes 0x60000 1 8160 4 1 9)
def groupBad : List GroupReg := [⟨0x60000, 1, 2, 1, 0, 0, member0⟩, ⟨0x60000, 1, 2, 1, 1, 0,
  { hrec (taskBytes 0x60000 1 8176 4 1 1) with core := 1 }⟩]
def groupGood : List GroupReg := [⟨0x60000, 1, 2, 1, 0, 0, member0⟩, ⟨0x60000, 1, 2, 1, 1, 0,
  { hrec (taskBytes 0x60000 1 8160 4 1 1) with core := 1 }⟩]

theorem witness_GroupsRun :
    (∀ r ∈ [member0, member9], let s := sRing [r]
      (s.cluster 0).ring[0]? = some r ∧ r.eligible = true ∧ r.registered = false ∧ r.inFault = false ∧ r.fail = 0 ∧
      2 ≤ r.task.gr * r.task.gc ∧ s.recRuns r = true) ∧
    (member0.task.groupOk = true ∧ member9.task.groupOk = false ∧ (sRing [member0]).gateKey member0 = some 0x60000 ∧
      ∀ q ∈ (sRing [member0]).groupRegs ++ (sRing [member0]).groups.flatten,
        ¬ (q.gate = 0x60000 ∧ q.phase = member0.task.gph)) ∧
    s0.groups = [] ∧
    (∀ e ∈ [groupGood, groupBad], let s := { sGroups with groups := [e] }
      (e.all fun g => s.recRuns g.task && (s.core g.task.core).enabled && (s.kiln g.task.core).free
        && !(s.core g.task.core).loading) = true) ∧
    (∀ e ∈ [groupGood, groupBad], (e.map fun g => g.task.core).Nodup) ∧
    (let s := { sGroups with groups := [groupGood] }
     (groupGood.all fun g => s.recCheck g.task (s.kiln g.task.core) == 0) = true) ∧
    (let s := { sGroups with groups := [groupBad] }
     (groupBad.all fun g => s.recCheck g.task (s.kiln g.task.core) == 0) = false) :=
  ⟨by decide +kernel, by decide +kernel, by decide +kernel, by decide +kernel, by decide +kernel, by decide +kernel,
    by decide +kernel⟩

theorem witness_KilnTasksRun :
    (∀ n ∈ [0, 1], let k := ktask (hrec (taskBytes 0 0 8160 0 0 0)) n
      ((sTask n).kiln 0).task = some k ∧ k.stop = false ∧ k.abandon = false ∧ k.paused = false ∧ k.task.inFault = false ∧
      k.task.fail = 0) ∧
    (let k := ktask (hrec (taskBytes 0 0 8160 0 0 0)) 0
     ∃ rows b, k.group = none ∧ k.leader = none ∧ k.away = false ∧ (sTask 0).recRuns k.task = true ∧
      k.kblock < k.task.task.kb ∧ (sTask 0).taskRows k = .ok rows ∧ (sTask 0).blockAt k.task.core k.task.block = some b ∧
      b.accBad k.task.task.accoff k.task.task.tileBytes = false ∧
      ({ b with accPoison := [k.task.task.accoff / 4] } : Block).accBad k.task.task.accoff k.task.task.tileBytes = true) ∧
    (let k := ktask (hrec (taskBytes 0 0 8160 0 0 0)) 1
     k.task.task.kb ≤ k.kblock ∧ k.drained = true) :=
  ⟨by decide +kernel, ⟨_, Block.placed 0 0 0 0 [] kilnRecord false 0, by decide +kernel, by decide +kernel, by decide +kernel,
    by decide +kernel, by decide +kernel, res_of [] (by decide +kernel), by decide +kernel, by decide +kernel, by decide +kernel⟩,
    by decide +kernel⟩

/-- Tasks that stop, are abandoned, wait in the fault buffer, have failed, and whose block has been drained from its core. -/
def endTask (stop abandon inFault : Bool) (fail : BitVec 16) : KTask :=
  { ktask (hrec (taskBytes 0 0 8160 0 0 0)) 0 with
    stop := stop, abandon := abandon, task := { hrec (taskBytes 0 0 8160 0 0 0) with fail := fail, inFault := inFault } }
def sEnd (k : KTask) (draining : List Nat) : State :=
  onCore { kilnCore with kiln := { kiln0 with task := some k }, draining := draining } 0

theorem witness_KilnTasksRun_ends (stop abandon inFault : Bool) (fail : BitVec 16) (draining : List Nat) :
    let k := endTask stop abandon inFault fail
    ((sEnd k draining).kiln 0).task = some k ∧ k.stop = stop ∧ k.task.inFault = inFault ∧ k.abandon = abandon ∧
      k.task.fail = fail ∧ k.group = none ∧
      (∀ d ∈ [[], [0]], let k := endTask false false false 0
        (sEnd k d).recRuns k.task = d.isEmpty) :=
  ⟨rfl, rfl, rfl, rfl, rfl, rfl, by decide +kernel⟩

/-! ### Steps of the Bellows -/

/-- A command of communicator 15 of the first die: its descriptor and its barrier lie in scratchpad. -/
def collCmd (op : Nat) : CollCmd :=
  { op := op, core := 0, block := 0, wave := 0, ctxid := 1, root := BitVec.ofNat 64 loadRoot, id := 4, pri := false,
    desc := .spad (8192 - 32), bar := .spad 0, aux := none, fields := none, sent := false, agreed := false, chunks := 0, steps := 0,
    flits := 0, aside := false, retried := false, stepRetried := false, lines := [], message := [], refused := false,
    inFault := false, err := 0 }

/-- Communicator 15 of members 0 and 1, of the own node and of node 1. -/
def comm2 : Comm := { Comm.closed with
  isOpen := true, ctxid := 1, root := BitVec.ofNat 64 loadRoot, members := [(0, 0), (1, 0)], chunk := 4096 }
def sComm (m : Comm) (desc : List Byte) : State :=
  { onCore { loadCore with blocks := loadCore.blocks.map fun b => { b with spad := Memory.write b.spad (8192 - 32) desc } } 0 with
    dies := [(0, { Die.reset with comms := [(15, m)] })] }

/-- An open of a communicator of one member, whose table stands at 0x70000, with no release table. -/
def openDesc : List Byte := toBytes 8 0x70000 ++ toBytes 8 0 ++ toBytes 2 1 ++ toBytes 6 0 ++ toBytes 4 4096 ++ toBytes 4 0
def sCloses (m : Comm) : State := sComm { m with closing := [collCmd 8] } []

/-- An open that has read its descriptor. -/
def openCmd : CollCmd := { collCmd 7 with fields := some openDesc }

theorem witness_CommunicatorsOpenAndClose :
    (∀ m ∈ [comm2, Comm.closed], ∀ k ∈ [collCmd 7, openCmd], let s := sComm { m with queue := [k] } openDesc
      (s.comm 0 15).queue.head? = some k ∧ (s.comm 0 15).isOpen = m.isOpen ∧ k.op = 7 ∧ k.inFault = false ∧ k.err = 0 ∧
      k.retried = false) ∧
    (∀ f ∈ [none, some openDesc],
     let k : CollCmd := { collCmd 7 with fields := f }
     let s := sComm { Comm.closed with queue := [k] } openDesc
     ∃ s0 s2 s3 bs mem rel m,
      ((k.fields = none ∧ s.collRead k.core k.root.toNat k.block k.desc 32 = .ok (s0, bs)) ∨ (k.fields = some bs ∧ s0 = s)) ∧
      (let q : CollCmd := { k with fields := some bs }
       let s1 := s0.updHead 0 15 fun k => { k with fields := some bs }
       q.openOk = true ∧
       s1.collRead k.core k.root.toNat k.block (.glob (BitVec.ofNat 64 (recNat bs 0 8))) (4 * recNat bs 16 2) = .ok (s2, mem) ∧
       s2.collRead k.core k.root.toNat k.block (.glob (BitVec.ofNat 64 (recNat bs 8 8))) (16 * recNat bs 20 1) = .ok (s3, rel) ∧
       s3.opened 0 (s3.comm 0 15) q mem rel = some m)) ∧
    (∀ m ∈ [comm2, Comm.closed], ((sCloses m).comm 0 15).closing = [collCmd 8] ∧
      ((sCloses m).comm 0 15).openTo (collCmd 8) = m.isOpen ∧ ((sCloses m).comm 0 15).queue = []) ∧
    (let s := sCloses { Comm.closed with queue := [collCmd 7] }
     (s.comm 0 15).closing = [collCmd 8] ∧ ∃ q ∈ (s.comm 0 15).queue, q.op = 7 ∧ q.ctxid = (collCmd 8).ctxid) := by
  refine ⟨by decide +kernel, fun f hf => ?_, by decide +kernel, by decide +kernel⟩
  simp only [List.mem_cons, List.not_mem_nil, or_false] at hf
  rcases hf with rfl | rfl
  · exact ⟨_, _, _, _, _, _, _, .inl ⟨rfl, res_of (s0, []) (by decide +kernel)⟩, by decide +kernel,
      res_of (s0, []) (by decide +kernel), res_of (s0, []) (by decide +kernel), Option.eq_some_of_isSome (by decide +kernel)⟩
  · exact ⟨_, _, _, _, _, _, _, .inr ⟨rfl, rfl⟩, by decide +kernel,
      res_of (s0, []) (by decide +kernel), res_of (s0, []) (by decide +kernel), Option.eq_some_of_isSome (by decide +kernel)⟩

/-- A barrier command before it reads its descriptor, before it sends its header, and after; and the header of rank 1. -/
def readCmd : CollCmd := { collCmd 4 with fields := some (List.replicate 32 0) }
def sentCmd : CollCmd := { readCmd with sent := true }
def sColl (k : CollCmd) : State := sComm { comm2 with queue := [k] } (List.replicate 32 0)

theorem witness_HeadersAreExchanged :
    (∀ k ∈ [collCmd 4, readCmd, sentCmd], let s := sColl k
      (s.comm 0 15).queue.head? = some k ∧ k.op ≠ 7 ∧ k.inFault = false ∧ k.agreed = false ∧
      (s.comm 0 15).openTo k = true) ∧
    (∃ t bs, (collCmd 4).fields = none ∧ (collCmd 4).err = 0 ∧ (collCmd 4).retried = false ∧
      (sColl (collCmd 4)).collRead 0 loadRoot 0 (collCmd 4).desc 32 = .ok (t, bs)) ∧
    (∃ t, readCmd.fields ≠ none ∧ readCmd.sent = false ∧
      (sColl readCmd).collOk ((sColl readCmd).comm 0 15) readCmd = true ∧
      (sColl readCmd).sendHeader 0 15 ((sColl readCmd).comm 0 15) readCmd false = some t) ∧
    (∀ h ∈ [sentCmd.header false, sentCmd.header true], let s := sColl sentCmd
      ((s.comm 0 15).parties sentCmd).map (s.headerOf (s.comm 0 15) [(1, h)]) = [h].map some) ∧
    ((sColl sentCmd).comm 0 15).verdict sentCmd [sentCmd.header false] = 0 ∧
    ((sColl sentCmd).comm 0 15).verdict sentCmd [sentCmd.header true] ≠ 0 :=
  ⟨by decide +kernel, ⟨_, _, by decide +kernel, by decide +kernel, by decide +kernel, res_of (s0, []) (by decide +kernel)⟩,
    ⟨_, by decide +kernel, by decide +kernel, by decide +kernel, Option.eq_some_of_isSome (by decide +kernel)⟩,
    by decide +kernel, by decide +kernel, by decide +kernel⟩

/-- The command at its end, and a broadcast of the own rank of one FP32 element to the last scratchpad word, whose chunk has run. -/
def endCmd : CollCmd := { sentCmd with agreed := true, chunks := 1, steps := 1 }
def castCmd : CollCmd := { sentCmd with
  op := 3, agreed := true,
  fields := some (toBytes 8 (2 ^ 63) ++ toBytes 8 (2 ^ 63 + 8188) ++ toBytes 4 1 ++ [1, 0, 0, 0] ++ toBytes 8 0) }

/-- A receive of the same element, which sends nothing, and the broadcast to rank 1: to die 1 of the own node, and to node 1 with
credit for one flit and for none. -/
def recvCmd : CollCmd := { castCmd with op := 6 }
def commOwn : Comm := { comm2 with members := [(0, 0), (0, 1)] }
def sChunk (k : CollCmd) : State :=
  let s := sComm { commOwn with queue := [k] } (List.replicate 32 0)
  { s with dies := s.dies ++ [(1, { Die.reset with comms := [(15, { commOwn with rank := 1 })] })] }
def sChunkOut (credit : Nat) : State :=
  (sComm { comm2 with queue := [castCmd] } (List.replicate 32 0)).updDie 0 fun x => { x with credit := [(15, credit)] }

theorem witness_ChunksAreSent :
    (sComm comm2 []).nextComm 0 = none ∧
    (∀ k ∈ [castCmd, recvCmd, { castCmd with err := eMemPoison }], let s := sChunk k
      s.nextComm 0 = some 15 ∧ (s.comm 0 15).queue.head? = some k) ∧
    (∀ e ∈ [(sChunk recvCmd, recvCmd, true), (sChunkOut 1, castCmd, true), (sChunkOut 0, castCmd, false)], let s := e.1
     let m := s.comm 0 15
     let u := s.updDie 0 fun x => x.turned m.hipri 15
     ∃ v sent, s.nextComm 0 = some 15 ∧ m.queue.head? = some e.2.1 ∧ e.2.1.err = 0 ∧ e.2.1.retried = false ∧
      u.turnBytes e.2.1 (u.chunkTurn 0 15 m e.2.1).parts = .ok (v, sent) ∧ (u.chunkTurn 0 15 m e.2.1).whole = e.2.2) ∧
    (let s := sChunk castCmd
     let m := s.comm 0 15
     let u := s.updDie 0 fun x => x.turned m.hipri 15
     ∃ v off n bs, castCmd.err = 0 ∧ castCmd.retried = false ∧ castCmd.flits = 0 ∧ castCmd.matched = false ∧
      m.chunkMsgs castCmd = [⟨1, off, n⟩] ∧ n ≠ 0 ∧
      u.collRead castCmd.core castCmd.root.toNat castCmd.block (castCmd.src.plus (castCmd.base 1 + off)) n = .ok (v, bs) ∧
      u.ownRank m 1 = some 1 ∧ v.ownRank m 1 = some 1 ∧ (v.comm 1 15).isOpen = true) := by
  refine ⟨by decide +kernel, by decide +kernel, fun e he => ?_,
    ⟨_, 0, 4, _, by decide +kernel, by decide +kernel, by decide +kernel, by decide +kernel, by decide +kernel, by decide,
      res_of (s0, []) (by decide +kernel), by decide +kernel⟩⟩
  simp only [List.mem_cons, List.not_mem_nil, or_false] at he
  rcases he with rfl | rfl | rfl <;>
  exact ⟨_, _, by decide +kernel, by decide +kernel, by decide +kernel, by decide +kernel, res_of (s0, []) (by decide +kernel),
    by decide +kernel⟩

/-- A message of two flits, after one flit of it, with credit for the rest and for nothing. -/
theorem witness_ChunksGoByFlits : (1 : Nat) < flitCount 225 ∧ (0 : Nat) < flitCount 225 - 1 ∧ flitCount 225 - 1 ≤ 1 ∧
    (fun q => decide (q = 1) : Nat → Bool) (⟨1, 0, 225⟩ : Sends).rank = true ∧
    (fun q => decide (q = 1) : Nat → Bool) (⟨2, 0, 225⟩ : Sends).rank = false := by decide

theorem witness_CollectivesRun :
    (let s := sColl endCmd
     (s.comm 0 15).queue.head? = some endCmd ∧ endCmd.agreed = true ∧ endCmd.inFault = false ∧ endCmd.err = 0 ∧
      (s.comm 0 15).stepCount endCmd ≤ endCmd.steps ∧ (s.comm 0 15).chunkCount endCmd ≤ endCmd.chunks) ∧
    (let k : CollCmd := { castCmd with chunks := 1 }
     let s := sColl k
     ∃ bs t lines, (s.comm 0 15).queue.head? = some k ∧ (k.agreed = true ∧ k.inFault = false ∧ k.err = 0 ∧
      k.stepRetried = false) ∧ k.steps < (s.comm 0 15).stepCount k ∧ k.destBytes (s.comm 0 15).nr ≠ 0 ∧
      (s.comm 0 15).sources k = [k.peer] ∧ k.mayWrite = true ∧ s.contribution (s.comm 0 15) k [] k.peer = .ok bs ∧
      s.collWrite k.core k.root.toNat k.block
        (k.dst.plus ((s.comm 0 15).stepRange k k.steps).1) ((s.comm 0 15).stepBytes k [bs])
        = .ok (t, lines)) ∧
    (let s := sColl sentCmd
     sentCmd.op ≠ 7 ∧ (s.comm 0 15).openTo sentCmd = true ∧ sentCmd.inFault = false ∧
      sentCmd.steps < (s.comm 0 15).stepCount sentCmd) :=
  ⟨by decide +kernel,
    ⟨_, _, _, by decide +kernel, by decide +kernel, by decide +kernel, by decide +kernel, by decide +kernel, by decide +kernel,
      res_of [] (by decide +kernel), res_of (s0, []) (by decide +kernel)⟩,
    by decide +kernel⟩

/-- An armed entry of four bytes from any node, for a destination of the fast tier, for the window of a tentative block, and for an
address that is not canonical; and the first with a barrier that does not translate, and with one that may later. -/
def arm0 : MatchEnt :=
  { tag := 9, src := 0xFFFF, len := 4, ctxid := 1, root := BitVec.ofNat 64 loadRoot, dest := 0x50000, bar := 0x60000, core := 0,
    block := 0, wave := 0 }
def arm1 : MatchEnt := { arm0 with dest := 2 ^ 42 + 2 ^ 31 }
def arm2 : MatchEnt := { arm0 with dest := 2 ^ 63 }
def arm3 : MatchEnt := { arm0 with bar := 2 ^ 62 }
def arm4 : MatchEnt := { arm0 with bar := 2 ^ 43 }
def sArmed (arms : List MatchEnt) : State :=
  { onCore { loadCore with blocks := loadCore.blocks ++ [Block.placed 1 0 0 0 [] loadRecord true 0] } 0 with
    mem := Memory.write (Memory.write s0.mem (loadTable + 8) (toBytes 8 (0x1F + 2 * 2 ^ 44))) (loadTable + 16) (toBytes 8 0x200)
    dies := [(0, { Die.reset with arms := arms })] }

/-- What such a message finds once it has taken its entry. -/
def sMatched (e : MatchEnt) : State :=
  ((sArmed [e]).updDie 0 fun x => { x with
    arms := x.arms.eraseP fun e => e.tag == 9 && (e.src == 0xFFFF || e.src.toNat == 4095) }).updCore e.core fun x =>
      { x with nextCmd := x.nextCmd + 1 }

/-- Whether its data can be written, and the translation of its barrier fails, with a replay or without. -/
def barFails (e : MatchEnt) (replay : Bool) : Bool :=
  match (sMatched e).collWrite e.core e.root.toNat e.block (.glob e.dest) [1, 2, 3, 4] with
  | .ok (v, _) => match v.collHome e.core e.root.toNat e.block (elocOf e.bar) with
    | .error f => f.replay == replay
    | .ok _ => false
  | _ => false

theorem bar_fails_of {e : MatchEnt} {replay : Bool} (h : barFails e replay = true) : ∃ v lines, ∃ f : XFail,
    (sMatched e).collWrite e.core e.root.toNat e.block (.glob e.dest) [1, 2, 3, 4] = .ok (v, lines) ∧
    v.collHome e.core e.root.toNat e.block (elocOf e.bar) = .error f ∧ f.replay = replay := by
  simp only [barFails] at h
  split at h
  · rename_i v lines hw
    split at h
    · rename_i f hf
      exact ⟨v, lines, f, hw, hf, by simpa using h⟩
    · exact absurd h Bool.false_ne_true
  · exact absurd h Bool.false_ne_true

theorem witness_MessagesArrive_drops : ∀ e ∈ [(arm3, false), (arm4, true)], ∃ v lines, ∃ f : XFail,
    (sMatched e.1).collWrite e.1.core e.1.root.toNat e.1.block (.glob e.1.dest) [1, 2, 3, 4] = .ok (v, lines) ∧
    v.collHome e.1.core e.1.root.toNat e.1.block (elocOf e.1.bar) = .error f ∧ f.replay = e.2 := by
  intro e he
  simp only [List.mem_cons, List.not_mem_nil, or_false] at he
  rcases he with rfl | rfl <;> exact bar_fails_of (by decide +kernel)

theorem witness_MessagesArrive :
    let hit (e : MatchEnt) : Bool := e.tag == 9 && (e.src == 0xFFFF || e.src.toNat == 4095)
    let bs : List Byte := [1, 2, 3, 4]
    let u := sMatched
    ((sArmed []).die 0).arms.find? hit = none ∧
    (∀ e ∈ [arm0, arm1, arm2, arm3, arm4], ((sArmed [e]).die 0).arms.find? hit = some e ∧ bs.length = e.len) ∧
    (∃ v lines h, (u arm0).collWrite arm0.core arm0.root.toNat arm0.block (.glob arm0.dest) bs = .ok (v, lines) ∧
      v.collHome arm0.core arm0.root.toNat arm0.block (elocOf arm0.bar) = .ok h ∧
      (u arm0).collHome arm0.core arm0.root.toNat arm0.block (elocOf arm0.bar) = .ok h) ∧
    (u arm1).collWrite arm1.core arm1.root.toNat arm1.block (.glob arm1.dest) bs = .wait ∧
    (∃ code, (u arm2).collWrite arm2.core arm2.root.toNat arm2.block (.glob arm2.dest) bs = .fail code ∧ retryable code = true) ∧
    ([1, 2, 3] : List Byte).length ≠ arm0.len :=
  ⟨by decide +kernel, by decide +kernel,
    ⟨_, _, .mem 0x60000, res_of (s0, []) (by decide +kernel), ok_eq (by decide +kernel), ok_eq (by decide +kernel)⟩,
    eng_wait_of (by decide +kernel), ⟨eVaNoncanonical, eng_fail_of (by decide +kernel), by decide⟩, by decide⟩

/-! ### Remote stores and operations -/

/-- A store of stream 15 to the own node, that waits behind one already performed, and the RST that sent it. -/
def rstore (performed flush : Bool) : RStore := ⟨0x50000, 0x50000, [1, 2, 3, 4], flush, 0, 1, performed⟩
def rstOp : Op := { opOf (.rst 15 false true) [⟨0, 0x50000, 7, 0x50000⟩] with status := .sent }
def sStream (st : RStream) : State := onCore { loadCore with
  waves := loadCore.waves.map fun w => { w with seq := 2, hzn := 1, ops := [rstOp] }, streams := [(15, st)] } 0
def stream2 : RStream := { RStream.reset with snt := 2, queue := [rstore true false, rstore false true] }

/-- A stream of another module that has performed five stores. -/
def sFrom : State := { s0 with rstIn := [⟨7, 3, 15, 5, []⟩] }

theorem witness_RemoteStoresPerformed :
    (∃ h, (sFrom.remoteIn 7 3 15).next = 5 ∧ (sFrom.remoteIn 7 3 15).early = [] ∧ sFrom.isOwn 0x50000 = true ∧
      sFrom.placeFault 0x50000 = none ∧ sFrom.storeWaits 0x50000 4 = false ∧ sFrom.storeFaultAt 0x50000 4 = none ∧
      sFrom.homeOfPlace 0x50000 4 = .ok h) ∧
    (let s := sStream stream2
     ∃ w h, (((s.core 0).stream 15).queue.zipIdx).find? (fun e => !e.1.performed && s.isOwn e.1.place)
        = some (rstore false true, 1) ∧
      (s.core 0).wave? 0 = some w ∧ w.op? 1 = some rstOp ∧ rstOp.status = .sent ∧ s.storeWaits 0x50000 4 = false ∧
      s.storeFaultAt 0x50000 4 = none ∧ s.homeOfPlace 0x50000 4 = .ok h) :=
  ⟨⟨_, by decide +kernel, by decide +kernel, by decide +kernel, by decide +kernel, by decide +kernel, by decide +kernel,
      ok_of (d := .mem 0) (by decide +kernel)⟩,
    ⟨(ctxOf (sStream stream2)).wave, _, by decide +kernel, by decide +kernel, by decide +kernel, rfl, by decide +kernel,
      by decide +kernel, ok_of (d := .mem 0) (by decide +kernel)⟩⟩

/-- A stream that owes an acknowledgement after 63 and after 64 stores, and after a flush; and one that owes none. -/
def owing (n : Nat) (flush : Bool) : RStream := { stream2 with sinceAck := n, flushDue := flush }

theorem witness_RemoteAcknowledgements :
    (∀ e ∈ [(63, false), (64, false), (1, true)], let st := ((sStream (owing e.1 e.2)).core 0).stream 15
      st.owes = true ∧ (st.flushDue = e.2 ∧ st.sinceAck = e.1)) ∧
    ((s0.core 0).stream 15).owes = false := by decide +kernel

/-- Counts 1 and 3 where two stores wait; a multicast store that member 3 of members 0 and 3 has performed. -/
def mcast : RStore := ⟨5 * 2 ^ 44 + 2 ^ 43, 0x50000, [1, 2, 3, 4], false, 0, 1, false⟩

theorem witness_AcknowledgementsArrive :
    (let s := sStream stream2
     let st := (s.core 0).stream 15
     ((1 : Word) - st.ack).toNat ≤ st.queue.length ∧
      (∀ q ∈ st.queue.take ((1 : Word) - st.ack).toNat, q.performed = true ∨ s.isOwn q.place = false) ∧
      st.queue.length < ((3 : Word) - st.ack).toNat) ∧
    (let st := ((sStream { stream2 with queue := [rstore true false, mcast] }).core 0).stream 15
     (st.queue.zipIdx).find? (fun e => !e.1.performed && isGroupPlace e.1.place) = some (mcast, 1) ∧
      (8 : DWord) &&& 9 ≠ 0) := by decide +kernel

/-- RMO.CAS4 at the own node before and after its answer, and at node 1; and a chase of a record of zeros but for its count. -/
def rmoOp (place : DWord) (results : List (Nat × DWord)) : Op :=
  { opOf (.rmo 0 8 0) [⟨63, 0x50000, 0, place⟩] with status := .sent, results := results }
def sRmo (place : DWord) (results : List (Nat × DWord)) : State := sOp (rmoOp place results)
def chaseLane : LaneAcc := ⟨0, 0x50000, 0, 0x50000⟩
def sChase : State := onCore { loadCore with
  waves := loadCore.waves.map fun w => { w with seq := 2, hzn := 1, ops := [{ opOf (.rmo 2 8 0) [chaseLane] with status := .sent }] }
  blocks := loadCore.blocks.map fun b => { b with spad := Memory.write b.spad 0 ([1] ++ List.replicate 31 0) } } 0

/-- A step of an operation that is the last one, and one that is not. -/
def rmoStep (done : Bool) : Except (BitVec 16) RmoStep → Bool
  | .ok (.done _) => done
  | .ok (.more _) => !done
  | .error _ => false

theorem rmo_done_of {r : Except (BitVec 16) RmoStep} (h : rmoStep true r = true) : ∃ x, r = .ok (.done x) := by
  match r with
  | .ok (.done x) => exact ⟨x, rfl⟩
  | .ok (.more _) => simp [rmoStep] at h
  | .error _ => simp [rmoStep] at h

theorem rmo_more_of {r : Except (BitVec 16) RmoStep} (h : rmoStep false r = true) : ∃ b, r = .ok (.more b) := by
  match r with
  | .ok (.more b) => exact ⟨b, rfl⟩
  | .ok (.done _) => simp [rmoStep] at h
  | .error _ => simp [rmoStep] at h

theorem witness_RemoteOperationsRun :
    (∀ s ∈ [sRmo 0x50000 [], sRmo 0x50000 [(63, 257)], sRmo (2 ^ 48) []],
      s.opCtx? 0 0 1 = some (opCtxOf s) ∧ (opCtxOf s).o.work = .rmo 0 8 0 ∧ (opCtxOf s).o.status = .sent) ∧
    (let s := sRmo 0x50000 []
     let k := opCtxOf s
     ∃ r x, k.o.lanes.find? (fun a => !k.o.results.any fun r => r.1 == a.lane) = some ⟨63, 0x50000, 0, 0x50000⟩ ∧
      k.b.recordAt 0 0 ⟨63, 0x50000, 0, 0x50000⟩ = .ok r ∧ placeNode 0x50000 = s.host.nodeid.toNat ∧
      s.rmoLane 0 ⟨63, 0x50000, 0, 0x50000⟩ r = .ok (.done x)) ∧
    (let k := opCtxOf sChase
     ∃ r b, sChase.opCtx? 0 0 1 = some k ∧ k.o.work = .rmo 2 8 0 ∧ k.o.status = .sent ∧
      k.o.lanes.find? (fun a => !k.o.results.any fun r => r.1 == a.lane) = some chaseLane ∧
      k.b.recordAt 2 0 chaseLane = .ok r ∧ placeNode chaseLane.cmp.toNat = sChase.host.nodeid.toNat ∧
      sChase.rmoLane 2 chaseLane r = .ok (.more b)) ∧
    (let k := opCtxOf (sRmo 0x50000 [(63, 257)])
     ∀ a ∈ k.o.lanes, ∃ r ∈ k.o.results, r.1 = a.lane) ∧
    (let s := sRmo (2 ^ 48) []
     let k := opCtxOf s
     k.o.lanes.find? (fun a => !(k.o.results.any fun r => r.1 == a.lane) && placeNode a.cmp.toNat != s.host.nodeid.toNat)
      = some ⟨63, 0x50000, 0, 2 ^ 48⟩) := by
  obtain ⟨x, hx⟩ := rmo_done_of (r := (sRmo 0x50000 []).rmoLane 0 ⟨63, 0x50000, 0, 0x50000⟩
    (okOf [] ((opCtxOf (sRmo 0x50000 [])).b.recordAt 0 0 ⟨63, 0x50000, 0, 0x50000⟩))) (by decide +kernel)
  obtain ⟨b, hb⟩ := rmo_more_of (r := sChase.rmoLane 2 chaseLane (okOf [] ((opCtxOf sChase).b.recordAt 2 0 chaseLane)))
    (by decide +kernel)
  refine ⟨fun s hs => ?_, ⟨_, x, by decide +kernel, ok_of (d := []) (by decide +kernel), by decide +kernel, hx⟩,
    ⟨_, b, op_ctx_of (by decide +kernel), by decide +kernel, by decide +kernel, by decide +kernel, ok_of (d := []) (by decide +kernel),
      by decide +kernel, hb⟩, by decide +kernel, by decide +kernel⟩
  simp only [List.mem_cons, List.not_mem_nil, or_false] at hs
  rcases hs with rfl | rfl | rfl <;> exact ⟨op_ctx_of (by decide +kernel), by decide +kernel, by decide +kernel⟩

/-- One word that is equal to the 0 that stands there, and one that is not, at the last place of the fast tier's first die. -/
def casRecord (compare : Nat) : List Byte :=
  [1] ++ List.replicate 7 0 ++ toBytes 8 compare ++ List.replicate 24 0 ++ toBytes 8 7 ++ List.replicate 32 0

theorem witness_CompareAndSwapFour : ∀ n ∈ [0, 5], let r := casRecord n
    let a := dieRegion - 8
    ∃ f0, recNat r 0 1 = 1 ∧ recNat r 1 7 = 0 ∧ recNat r 72 8 = 0 ∧ a % 8 = 0 ∧ s0.farWord a = .ok f0 ∧
      s0.homeWriteFault a = none ∧ decide (f0 = recNat r 8 8) = decide (n = 0) := by
  intro n hn
  simp only [List.mem_cons, List.not_mem_nil, or_false] at hn
  rcases hn with rfl | rfl <;>
  exact ⟨0, by decide +kernel, by decide +kernel, by decide +kernel, by decide +kernel, ok_eq (by decide +kernel),
    by decide +kernel, by decide +kernel⟩

/-! ### The Stoker, blocks and launches -/

/-- Room for one record in queue 15, and none; and the queues not open. -/
def sStoke (n : Nat) : State := { s0 with stokeQ := List.replicate 15 [] ++ [List.replicate n ⟨[], none⟩] }

theorem witness_HostPosts : (List.replicate 128 (0 : Byte)).length = 128 ∧ (sStoke 511).up = true ∧
    ((sStoke 511).stokeQ.getD 15 []).length < 512 ∧ 512 ≤ ((sStoke 512).stokeQ.getD 15 []).length ∧ State.reset.up = false := by
  decide +kernel

/-- A record that passes every check, of context 1; one whose barrier is not aligned; and one of a context without tables. The entry
of context 1 stands at 0x80010. -/
def goodRecord : List Byte := splice (splice loadRecord 8 (toBytes 8 (2 * 2 ^ 36 + 6))) 74 (toBytes 2 1)
def sTakes (r : List Byte) (active : Nat) : State := { s0 with
  host := { s0.host with ctxtab := 0x80000 }
  mem := Memory.write s0.mem 0x80010 (toBytes 8 loadRoot)
  stokeQ := [[], [⟨r, none⟩]] ++ List.replicate 14 []
  launches := List.replicate active launch0 }
def badRecord : List Byte := splice goodRecord 48 [8]
def lostRecord : List Byte := splice goodRecord 74 [2]

theorem witness_RecordsAreTaken :
    (∀ r ∈ [goodRecord, badRecord, lostRecord], let s := sTakes r 255
      s.up = true ∧ s.headRecord = some (1, ⟨r, none⟩) ∧ s.launches.length < 256) ∧
    256 ≤ (sTakes goodRecord 256).launches.length ∧ (sTakes goodRecord 256).headRecord = some (1, ⟨goodRecord, none⟩) ∧
    ((recItems goodRecord).all id = true ∧ ((sTakes goodRecord 255).ctxEntry (recCtxid goodRecord)).1 ≠ 0 ∧
      recMode goodRecord = 0) ∧
    (recItems badRecord).all id = false ∧ ((sTakes lostRecord 255).ctxEntry (recCtxid lostRecord)).1 = 0 := by decide +kernel

/-- A launch of the record: with its block placed, live or ended, and not yet placed. -/
def launchOf (record : List Byte) (cursor live : Nat) : Launch :=
  { launch0 with id := 1, record := record, cursor := cursor, live := live }
def sLaunches (ls : List Launch) : State := { s0 with launches := ls }

theorem witness_LaunchesEnd : ∀ e ∈ [(1, 0), (1, 1), (0, 0)], let l := launchOf goodRecord e.1 e.2
    (sLaunches [launch0, l]).launch? l.id = some l ∧ l.watching = false ∧
    ((l.live = 0 ∧ l.offer = none) ↔ e = (1, 0)) ∧ ((l.live ≠ 0 ∨ l.offer.isSome = true) ↔ e ≠ (1, 0)) := by decide +kernel

/-- An unplaced block meets an empty core, and core 0 beside its block. -/
def emptyCore : State := { State.reset with up := true, launches := [launchOf goodRecord 0 0] }
def besides : State := { sLaunches [launchOf goodRecord 0 0] with tick := 9 }

theorem witness_BlocksArePlaced : ∀ e ∈ [(emptyCore, 0), (besides, 1)],
    e.1.up = true ∧ e.1.launchFor 0 e.1.offerOrder = some (launchOf goodRecord 0 0) ∧
    (launchOf goodRecord 0 0).offer.isSome = true ∧ (e.1.core 0).slotFor (recCtxid goodRecord) = some 0 ∧
    ∃ rest, (e.1.core 0).freeBlocks = e.2 :: rest := by
  intro e he
  simp only [List.mem_cons, List.not_mem_nil, or_false] at he
  rcases he with rfl | rfl
  · exact ⟨by decide +kernel, by decide +kernel, by decide +kernel, by decide +kernel, [1, 2, 3, 4, 5, 6, 7], by decide +kernel⟩
  · exact ⟨by decide +kernel, by decide +kernel, by decide +kernel, by decide +kernel, [2, 3, 4, 5, 6, 7], by decide +kernel⟩

theorem witness_PlacedBlocksStart : recWaves goodRecord ≤ loadCore.freeWaves.length := by decide +kernel

/-- A request that just fits: the block of 9 granules grows to 96; and one of 97. -/
def sAllot (h : Nat) : State := onCore { loadCore with
  blocks := loadCore.blocks.map fun b => { b with record := splice b.record 62 (toBytes 2 h), req := true, full := false }
  allocs := [0] } 0

theorem witness_AllotmentsAreGranted : ∀ h ∈ [96, 97], let s := sAllot h
    (s.core 0).allocs = [0] ∧ (s.core 0).anyBlock? 0 = some (ctxOf s).block ∧
    (s.core 0).backedSum + (recH (ctxOf s).block.record - (ctxOf s).block.backed) = h := by decide +kernel

/-- A block whose wave has ended; one whose wave has not; and one with a command that has not landed. -/
def sOver : State := withWave fun w => { w with ended := true }
def sWorks : State := onCore { loadCore with
  waves := loadCore.waves.map fun w => { w with ended := true }, cmds := [cpyCmd 256] } 0

theorem witness_BlocksEnd :
    (∀ s ∈ [sOver, s0, sWorks], s.blockAt 0 0 = some (Block.placed 0 0 0 0 [] loadRecord false 0)) ∧
    ((∀ w ∈ (sOver.core 0).waves, w.block = 0 → w.ended = true ∧ w.shp = false ∧ w.hzn = w.seq) ∧ sOver.engineWork 0 0 = false) ∧
    (∃ w ∈ (s0.core 0).waves, w.block = 0 ∧ (w.ended = false ∨ w.hzn ≠ w.seq)) ∧ sWorks.engineWork 0 0 = true := by
  decide +kernel

theorem witness_WavesAreTerminated :
    ((sOver.core 0).wave? 0 = some (ctxOf sOver).wave ∧ (ctxOf sOver).wave.ended = true) ∧
    ((s0.core 0).wave? 0 = some x0.wave ∧ x0.wave.ended = false ∧ x0.wave.ops = [] ∧ (s0.core 0).faultWait = []) := by
  decide +kernel

/-- A shaped launch that watches the word at 0x50000, which is published with the extent 3 or is not. -/
def shapedRecord : List Byte :=
  splice (splice (splice (splice (splice goodRecord 8 (toBytes 8 (3 * 2 ^ 36 + 6 * 2 ^ 12 + 6))) 16 [4]) 96 (toBytes 8 0x50000))
    104 [4]) 112 [1, 2]
def watcher (watching : Bool) : Launch := { launchOf shapedRecord 0 0 with extent := 4, watching := watching }
def sNotice (word : Nat) : State := { sLaunches [watcher true] with
  mem := Memory.write s0.mem 0x50000 (toBytes 8 word), notices := [(0x10000, 0x50000)] }

/-- A notice of a word in the window of a tentative block. -/
def sNoticeHeld : State := { sArmed [] with notices := [(0x10000, 2 ^ 42 + 2 ^ 31)] }

def isVerdictWait {α : Type} : Verdict α → Bool
  | .wait => true
  | _ => false

theorem verdict_wait_of {α : Type} {v : Verdict α} (h : isVerdictWait v = true) : v = .wait := by
  cases v <;> simp_all [isVerdictWait]

theorem witness_ShapesAreApplied : s0.notices = [] ∧
    (∀ n ∈ [3, 2 ^ 63 + 3], (sNotice n).notices = [(0x10000, 0x50000)] ∧
      (sNotice n).shapeWord 0x10000 0x50000 = .go (BitVec.ofNat 64 n)) ∧
    (sNoticeHeld.notices = [(0x10000, 2 ^ 42 + 2 ^ 31)] ∧ sNoticeHeld.shapeWord 0x10000 (2 ^ 42 + 2 ^ 31) = .wait) ∧
    (BitVec.ofNat 64 3).getLsbD 63 = false ∧ (BitVec.ofNat 64 (2 ^ 63 + 3)).getLsbD 63 = true ∧
    ∀ b ∈ [false, true], (sLaunches [watcher b]).launch? (watcher b).id = some (watcher b) ∧ (watcher b).watching = b := by
  refine ⟨by decide +kernel, fun n hn => ?_, ⟨by decide +kernel, verdict_wait_of (by decide +kernel)⟩, by decide +kernel⟩
  simp only [List.mem_cons, List.not_mem_nil, or_false] at hn
  rcases hn with rfl | rfl <;> exact ⟨by decide +kernel, go_eq (by decide +kernel)⟩

/-- A request of a wave of context 1 that names no launch, one of a launch with no block left, and one of a launch with a block. -/
def namedRecord : List Byte := splice goodRecord 48 (toBytes 8 0x90000)
def draw0 : DrawReq := ⟨0, 1, 0, 0x90000, 8160⟩
def sDraws (ls : List Launch) : State := { sLaunches ls with drawReqs := [draw0] }

theorem witness_DrawsAreAnswered :
    (∀ s ∈ [sDraws [], sDraws [launchOf namedRecord 1 1], sDraws [launchOf namedRecord 0 0]],
      s.drawReqs = [draw0] ∧ (s.core draw0.core).anyWave? draw0.wave = some (ctxOf s).wave) ∧
    ({ sDraws [] with drawReqs := [] } : State).launchNamed draw0.ctxid draw0.barrier = none ∧
    (∀ n ∈ [0, 1], let t := { sDraws [launchOf namedRecord n n] with drawReqs := [] }
      t.launchNamed draw0.ctxid draw0.barrier = some (launchOf namedRecord n n) ∧
      (launchOf namedRecord n n).offer.isSome = decide (n = 0)) := by decide +kernel

/-! ### Contexts -/

theorem witness_PreemptAndRestoreAreAsked :
    ((s0.core 0).active = some 0 ∧ ((s0.core 0).ctxSlot 0).ctxid = (0x10001 : DWord).extractLsb' 0 16 ∧
      ∀ r ∈ (s0.core 0).reqs, r.slot ≠ 0) ∧
    ccidCore (bitsOf (0xA0000000001 : DWord).toNat 32 15) = none ∧
    ccidCore (bitsOf (0x79C300000001 : DWord).toNat 32 15) = some 1279 ∧
    ((0x79C300000001 : DWord).extractLsb' 0 16, 1279) ∉ s0.restoreReqs := by decide +kernel

/-- A module of which only core 0 works, which runs a block of a launch of queue 5, while a launch of queue 0 waits. -/
def sBusy : State :=
  let off (d : Nat) : Nat × Die := (d + 1, { Die.reset with gated := true })
  { sLaunches [{ launch0 with queue := 5 }, launchOf (splice goodRecord 74 [3]) 0 0] with
    dies := (0, Die.reset) :: (List.range 7).map off
    cores := (0, loadCore) :: (List.range 159).map fun c => (c + 1, { Core.reset with enabled := false }) }

theorem witness_DrainsBegin_request : (let l := launchOf (splice goodRecord 74 [3]) 0 0
     sBusy.launch? l.id = some l ∧ l.offer.isSome = true ∧ (∀ e ∈ sBusy.cores, ∀ r ∈ e.2.reqs, r.launch ≠ some l.id) ∧
     (∀ d, d < coreCount → sBusy.eligible d l.record = false) ∧
     (∃ v ∈ sBusy.victims l.queue, v.core = 0 ∧ v.slot = 0 ∧ ∀ w ∈ sBusy.victims l.queue, w.beats v = false)) ∧
    (sBusy.core 0).enabled = true ∧ sBusy.dieGated (dieOf 0) = false := by decide +kernel

def preReq0 : PreReq := ⟨0, true, none, false, true⟩
def sRequested : State := onCore { loadCore with reqs := [preReq0] } 0

theorem witness_DrainsBegin_drain : (sRequested.core 0).active = some 0 ∧ (∃ r ∈ (sRequested.core 0).reqs, r.slot = 0) ∧
    0 ∉ (sRequested.core 0).draining ∧ (sRequested.core 0).active ≠ some 1 := by decide +kernel

/-- A drain that is complete. -/
def sDrained : State := onCore { loadCore with reqs := [preReq0], draining := [0] } 0

theorem witness_DrainedContextsAreSaved : s0.drained 0 0 = false ∧ sDrained.drained 0 0 = true ∧
    (sDrained.saveContext 0 0).restorePending 0 = none := by decide +kernel

/-- A shadow that streams out, with a save area at 0xA0000; one without; and one that is asked for. -/
def shadow (stream : Bool) : SavedCtx := { s0.savedCtx 0 0 with stream := stream }
def sShadow (stream : Bool) (area : Nat) (asked : Bool) : State :=
  { onCore { Core.reset with ctxs := loadCore.ctxs, shadows := [shadow stream] } 0 with
    mem := Memory.write s0.mem 0xB0008 (toBytes 8 area)
    host := { s0.host with savetab := 0xB0000 }
    restoreReqs := if asked then [(1, 0)] else [] }

theorem witness_ContextsMove :
    (∀ e ∈ [(true, 0xA0000), (false, 0xA0000), (true, 0)], let s := sShadow e.1 e.2 false
      (s.core 0).shadows.find? (fun u => u.slotIdx == 0) = some (shadow e.1) ∧
      (((shadow e.1).stream = true ∧ s.saveArea (shadow e.1).ctxid ≠ 0) ↔ e = (true, 0xA0000)) ∧
      ((shadow e.1).ctxid, 0) ∉ s.restoreReqs) ∧
    (let s := sShadow false 0 true
     ((shadow false).ctxid, 0) ∈ s.restoreReqs ∧
      (s.core 0).shadows.find? (fun u => u.ctxid == (shadow false).ctxid) = some (shadow false) ∧
      s.restoreFits 0 (shadow false) true = true) := by decide +kernel

/-- A context in its save area that is asked for: on a core where none is active, and beside an active one. -/
def sSaved (beside : Bool) : State :=
  { onCore (if beside then loadCore else Core.reset) 0 with saved := [shadow9], restoreReqs := [(9, 0)] }
where shadow9 : SavedCtx := { shadow false with ctxid := 9 }

theorem witness_ContextsMove_saved : ∀ beside ∈ [false, true], let s := sSaved beside
    let v := sSaved.shadow9
    (v.ctxid, 0) ∈ s.restoreReqs ∧ (∀ u ∈ (s.core 0).shadows, u.ctxid ≠ v.ctxid) ∧
    s.saved.find? (fun u => u.ctxid == v.ctxid) = some v ∧
    ((s.core 0).ctxs.findIdx? (fun k => !k.used)).isSome = true ∧ s.restoreFits 0 v false = !beside ∧
    ((s.core 0).active.isSome = true ↔ beside = true) ∧ s.entryFits 0 v = true := by decide +kernel

/-! ### Invalidations, the host and the ports -/

/-- An XINV that names a page and the die's cache. -/
def sXinv : State := onCore { loadCore with xinv := [0x10006, 0] } 0

theorem witness_InvalidationsReachTheCaches : (s0.core 0).xinv = [] ∧ (sXinv.core 0).xinv = 0x10006 :: [0] ∧
    (0x10006 : DWord).getLsbD 2 = true := by decide +kernel

/-- One record, with the link down, into a full ring, and into the last entry of a ring of 16 that is empty or holds 15. -/
def sEvents (up full : Bool) (tail : Nat) : State := { s0 with
  eventQ := [⟨2, 1, 0, 0⟩]
  linkUp := up
  host := { s0.host with evbase := 0x1000, evlog := 4, evhead := 15, evtail := BitVec.ofNat 32 tail, evFull := full } }

theorem witness_EventsAreRecorded : ∀ e ∈ [(false, false, 15), (true, true, 15), (true, false, 15), (true, false, 0)],
    let s := sEvents e.1 e.2.1 e.2.2
    s.eventQ = ⟨2, 1, 0, 0⟩ :: [] ∧ s.linkUp = e.1 ∧ s.host.evFull = e.2.1 := by decide +kernel

/-- An aperture of one valid entry, the last, on the first gigabyte of the fast tier. -/
def sAper : State := { s0 with host := { s0.host with aper := List.replicate 15 0 ++ [1] } }

theorem witness_ApertureAccesses :
    sAper.aperture 0 4 = none ∧ sAper.aperture (15 * 2 ^ 30 + 2 ^ 30 - 3) 4 = none ∧
    sAper.aperture (15 * 2 ^ 30 + 2 ^ 30 - 4) 4 = some (2 ^ 30 - 4) ∧ placeClass (2 ^ 30 - 4) ≤ 1 ∧
    (∀ k, k < 4 → sAper.homeReadFault (2 ^ 30 - 4 + k) = none) := by decide +kernel

/-- A port with a LIVE slot and one that stands by, or is empty. -/
def keyOf (state : BitVec 2) (ctr : DWord) : KeySlot := { KeySlot.reset with state := state, invctr := ctr, rxctr := ctr }
def sKeys (a b : KeySlot) : State :=
  let d : FlueDir := { FlueDir.reset with slots := [a, b] }
  { s0 with flue := (List.range 32).map fun k => (k, d) }

theorem witness_KeysAreSwitched :
    (let a := keyOf keyLive 0
     let b := keyOf keyStandby 0
     ((sKeys a b).dir 15 true).slots = [a, b] ∧ a.state = keyLive ∧ b.state = keyStandby) ∧
    (let a := keyOf keyLive (2 ^ 48 - 2 ^ 32 - 1)
     let b := keyOf 0 0
     ((sKeys a b).dir 15 false).slots = [a, b] ∧ a.state = keyLive ∧ b.state ≠ keyLive ∧
      a.invctr.toNat < 2 ^ 48 - 2 ^ 32) := by decide +kernel

/-- Counters at, and one above, that of the LIVE slot, and a slot that is empty. -/
theorem witness_FlitsAreChecked : let s := sKeys (keyOf keyEmpty 0) (keyOf keyLive 9)
    (s.dir 15 true).removed = false ∧
    (∀ f ∈ [(⟨9, true, false, 1⟩ : Flit), ⟨10, true, false, 1⟩, ⟨10, false, false, 1⟩, ⟨10, false, true, 1⟩],
      (s.dir 15 true).slots[f.slot]? = some (keyOf keyLive 9) ∧ (9 < f.counter ↔ f.counter = 10)) ∧
    (keyOf keyLive 9).state ≠ keyEmpty ∧ (keyOf keyLive 9).rxctr.toNat = 9 ∧
    (s.dir 15 true).slots[(0 : Nat)]? = some (keyOf keyEmpty 0) := by decide +kernel

theorem witness_PortsFailAndReturn : ∀ e ∈ s0.cores, e.2.cmds = [] ∧ ∀ w ∈ e.2.waves, w.ops = [] := by decide +kernel

/-! ### Errors of the arrays -/

theorem witness_ErrorsArePoison : ((s0.core 0).anyWave? 0 = some x0.wave ∧ (s0.core 0).wave? 0 = some x0.wave) ∧
    (s0.core 0).block? 0 = some x0.block ∧
    4 * 2047 + 4 ≤ x0.block.spadBound := by decide +kernel

/-- A clean byte in the L1. -/
def sClean : State := onCore { loadCore with l1 := [(0x5007F, ⟨7, false, 0⟩)] } 0

/-- A dirty byte of the fast tier, in the last sector of its line, and one of an expander. -/
def dirtyBytes : List (Nat × CByte) := [(0x5007F, ⟨7, true, 2⟩), (2 ^ 44 + 0x5007F, ⟨9, true, 2⟩)]
def sDirty : State := { onCore { loadCore with l1 := dirtyBytes } 0 with dies := [(0, { Die.reset with l2 := dirtyBytes })] }

theorem witness_LinesLeaveTheCaches :
    ((∀ e ∈ (sClean.core 0).l1, e.1 / 128 = 0x50000 / 128 → e.2.dirty = false) ∧
      (∃ e ∈ (sClean.core 0).l1, e.1 / 128 = 0x50000 / 128) ∧ (sClean.core 0).holders (0x50000 / 128) = []) ∧
    (∀ p ∈ [0x50000, 2 ^ 44 + 0x50000],
      (∃ e ∈ (sDirty.core 0).l1, e.1 / 128 = p / 128 ∧ e.2.dirty = true) ∧ (sDirty.core 0).holders (p / 128) = [] ∧
      ∃ e ∈ (sDirty.die 0).l2, e.1 / 128 = p / 128 ∧ e.2.dirty = true) := by decide +kernel

/-! ### The Staram -/

/-- A module of two dies, the last of them gated. -/
def sGated : State := { s0 with dies := [(0, Die.reset), (7, { Die.reset with gated := true })] }

/-- The Staram runs; the least and the greatest step, and numbers beside them; masks of dies of which one is powered, or none; and
caps at the floor of eight dies and below it. -/
theorem witness_PointsAndCaps : s0.up = true ∧ s0.staram.recovery = false ∧ s0.staram.busy = false ∧
    (∀ m ∈ [125, 160, 1125], isStep m = false) ∧ (∀ m ∈ [150, 1100], isStep m = true) ∧
    (∀ d, d < 8 → (0x80 : BitVec 8).getLsbD d = true → sGated.dieGated d = true) ∧
    (∃ d, d < 8 ∧ (0x81 : BitVec 8).getLsbD d = true ∧ sGated.dieGated d = false) ∧
    379 < floorWatts s0.powered.length ∧ floorWatts s0.powered.length ≤ 380 := by decide +kernel

theorem witness_RecoveryRefusesRequests :
    ({ s0 with staram := { Staram.reset with recovery := true } } : State).staram.recovery = true := rfl

/-- An average at the cap of 1000 W and at 95% of it. -/
theorem witness_MeasurementsAreKept : ∀ a ∈ [950, 1000],
    let s : State := { s0 with staram := { Staram.reset with cap := 1000 } }
    let h := (a :: s.staram.history).take 10
    s.up = true ∧ s.staram.cap ≠ 0 ∧ 100 * h.sum ≤ 100 * s.staram.cap * h.length ∧ 95 * s.staram.cap * h.length ≤ 100 * h.sum ∧
      ∀ d, d < 8 → ([105] : List Int).getD d 0 ≤ 105 := by decide +kernel

/-- No loss of frequency, and a loss of a tenth of any birth count of at least 100. -/
theorem witness_MeasurementsAreKept_ageing : s0.staram.ceilingOf 319 ≤ 1100 ∧ s0.dieGated (319 / 40) = false ∧
    Config.birthCount 319 ≤ Config.birthCount 319 ∧ Config.birthCount 319 + 1 ≠ Config.birthCount 319 ∧
    let birth := Config.birthCount 319
    let now := birth - birth / 10
    100 ≤ birth → birth ≠ 0 ∧ 5 * (birth - now) < birth ∧
      1100 - 25 * (100 * (birth - now) / birth) < s0.staram.ceilingOf 319 := by
  refine ⟨by decide +kernel, by decide +kernel, Nat.le_refl _, Nat.succ_ne_self _, fun h => ⟨by omega, by omega, ?_⟩⟩
  have h9 : 9 ≤ 100 * (Config.birthCount 319 - (Config.birthCount 319 - Config.birthCount 319 / 10)) / Config.birthCount 319 := by
    rw [Nat.le_div_iff_mul_le (by omega)]
    omega
  have hc : s0.staram.ceilingOf 319 = 1100 := by decide +kernel
  omega

def sRetired : State := { s0 with staram := { Staram.reset with retired := [(1279, [65])] } }

theorem witness_LanesRetireAndTrip : sRetired.up = true ∧ sRetired.staram.recovery = false ∧ sRetired.staram.busy = false ∧
    ccidCore 0x79C3 = some 1279 ∧ ccidCore 0x79C2 = some 1278 ∧ ccidCore 0x0A00 = none ∧
    65 ∈ sRetired.staram.badLanes 1279 ∧ 65 ∉ sRetired.staram.badLanes 1278 ∧
    ∀ t ∈ (sRetired.cluster (clusterOf 1279)).trips, t + 1000 ≤ sRetired.staram.ms := by decide +kernel

theorem witness_DiesGateAndWake : sGated.up = true ∧ sGated.staram.recovery = false ∧ sGated.staram.busy = false ∧
    (sGated.dieGated 0 = false ∧ sGated.gateRefused 0 = true) ∧ (sGated.dieGated 6 = false ∧ sGated.gateRefused 6 = false) ∧
    sGated.dieGated 7 = true := by decide +kernel

theorem witness_CountersAndReports : s0.up = true ∧ s0.staram.recovery = false ∧ s0.staram.busy = false ∧ s0.staram.reports = [] ∧
    ({ s0 with staram := { Staram.reset with reports := [(0, .bringUpRefused 1)] } } : State).staram.reports
      = (0, .bringUpRefused 1) :: [] := by decide +kernel

/-- A busy Staram whose queue holds as many requests as there is room for, or none. -/
def sQueued (n : Nat) : State := { s0 with staram := { Staram.reset with busy := true, queue := List.replicate n .telemetryRead } }

theorem witness_RequestsWait : (∀ n, (sQueued n).up = true ∧ (sQueued n).staram.recovery = false ∧ (sQueued n).staram.busy = true) ∧
    Config.requestRoom ≤ (sQueued Config.requestRoom).staram.queue.length ∧
    (0 < Config.requestRoom → (sQueued 0).staram.queue.length < Config.requestRoom) :=
  ⟨fun _ => ⟨rfl, rfl, rfl⟩, by simp [sQueued], id⟩

theorem witness_FirmwareAndIdentity : s0.up = true ∧ s0.staram.recovery = false ∧ s0.staram.busy = false := by decide +kernel

/-- Whether an image passes its checks is the maker's: one of the two cases holds for the reset, whatever the images are. -/
theorem witness_ModuleComesUp : let m := State.reset.staram
    m.bootOrder.find? m.slotOk = none ∨ ∃ k, m.bootOrder.find? m.slotOk = some k := by
  intro m
  cases h : m.bootOrder.find? m.slotOk with
  | none => exact .inl rfl
  | some k => exact .inr ⟨k, rfl⟩

/-! ### Values, encodings and steps -/

/-- Quiet and signalling NaNs, an infinity, the greatest numbers and the zeros of FP32 and BF16. -/
theorem witness_MinimumAndMaximum :
    (∀ a ∈ [0x7FC00000, 0x7F800001, 0x7F800000, 0x7F7FFFFF, 0x80000000, 0], a < 2 ^ fp32.bits) ∧
    (fp32.value 0x7FC00000).isNan = true ∧ (fp32.value 0x7F800001).isSignalling = true ∧
    (fp32.value 0x7F7FFFFF).isNan = false ∧ ltVal (fp32.value 0x7F7FFFFF) (fp32.value 0x7F800000) = true ∧
    ltVal (bf16.value 0xFF80) (bf16.value 0) = true ∧ (bf16.value 0x7FFF).isNan = true := by decide +kernel

theorem witness_EncodingsDecode : (Instr.rte g0 ⟨4, 0⟩).WellFormed ∧ encode (.rte g0 ⟨4, 0⟩) = some 0x3DC1000000000000 ∧
    (Instr.clauseHeader ⟨15, 5, 2, 63, 63, 15, 63, 0⟩).WellFormed ∧
    encode (.clauseHeader ⟨15, 5, 2, 63, 63, 15, 63, 0⟩) = some 0xFA5FFFFF80000000 := by decide +kernel

/-- Words with the first and the last opcode that the map leaves out. -/
theorem witness_DecodingsEncode : (decode 0x3DC1000000000000).toOption = some (.rte g0 ⟨4, 0⟩) ∧
    (decodeHeader 0xFA5FFFFF80000000).toOption = some (.clauseHeader ⟨15, 5, 2, 63, 63, 15, 63, 0⟩) ∧
    ∀ p ∈ [((0x0580000000000000 : DWord), 0x16), (0x3FC0000000000000, 0xFF)], p.1.getLsbD 62 = false ∧
      (p.1.extractLsb' 54 8).toNat = p.2 ∧
      (∃ r ∈ Claim.dashes, r.1 ≤ (p.1.extractLsb' 54 8).toNat ∧ (p.1.extractLsb' 54 8).toNat ≤ r.2) := by decide +kernel

theorem some_ne {α : Type} {o : Option α} (h : o.isSome = true) : o ≠ none := by
  rintro rfl
  cases h

/-- The fragment of the load, at its word and at its header. -/
def frag0 : Frag := x0.frag
def fragHeader : Frag := { frag0 with loc := .header 0x30000 }
/-- ADDPC, as one example of a uniform word. -/
def addpc : Instr := .addpc g0 ⟨0x80, 0, 2, 0, 0, 0x006, 0⟩
def sIssues : State := State.reset.loadWord 0x04020002000000C0
def sFetches : State := { sIssues with agenda := [.header 0 0], cores := [(0, { loadCore with frags := [fragHeader] })] }

theorem witness_StepsRunWhatIsDecoded :
    (let u := { sIssues with agenda := [] }
     sIssues.agenda = [.issue 0 .uniform] ∧ u.choose 0 .uniform = some frag0 ∧
      (u.core 0).home? frag0 = some (x0.wave, x0.block) ∧ u.nextWord 0 frag0 = .ok 0x04020002000000C0 ∧
      (∃ h cls n j, frag0.loc = .word h cls n j) ∧ misplaced frag0 0x04020002000000C0 = false ∧
      decode 0x04020002000000C0 = .ok addpc ∧
      (Claim.issuing u 0 .uniform frag0 x0.block 0x04020002000000C0).ctx? ≠ none) ∧
    (let u := { sFetches with agenda := [] }
     ∃ i, (u.core 0).frag? 0 = some fragHeader ∧ u.needsFetch 0 fragHeader = true ∧
      (u.core 0).home? fragHeader = some (x0.wave, x0.block) ∧ u.nextWord 0 fragHeader = .ok loadHeader ∧
      (∃ a, fragHeader.loc = .header a) ∧ decodeHeader loadHeader = .ok i ∧
      ((u.fetchKeep 0 ((u.core 0).rootOf x0.block.ctx) fragHeader.loc.addr).withCur 0 fragHeader.id loadHeader).ctx? ≠ none) ∧
    encode .stokerTake = none := by
  refine ⟨⟨by decide +kernel, by decide +kernel, by decide +kernel, ok_eq (by decide +kernel), ⟨0x30000, .mixed, 0, 0, by decide +kernel⟩,
    by decide +kernel, ok_eq (by decide +kernel), some_ne (by decide +kernel)⟩, ?_, rfl⟩
  exact ⟨.clauseHeader (Header.ofBits loadHeader), by decide +kernel, by decide +kernel, by decide +kernel, ok_eq (by decide +kernel),
    ⟨0x30000, rfl⟩, ok_eq (by decide +kernel), some_ne (by decide +kernel)⟩

theorem witness_EveryStepKeepsMemoryCanonical : State.reset.Inv ∧ sIssues.Inv :=
  ⟨(by decide +kernel : State.reset.mem.wf = true), (by decide +kernel : sIssues.mem.wf = true)⟩

/-! ## The manual's worked examples, and single steps -/

/-- The example after R35: `wid=6:4:10:8`, wave 5, fields 2 and 3 of 300 and 2; less the lane, 37. -/
theorem test_wid : widOf (toBytes 8 0 ++ toBytes 8 (4 * 2 ^ 36 + 8 * 2 ^ 18 + 10 * 2 ^ 12 + 4 * 2 ^ 6 + 6)) [300, 2] 5
    = 0x24B165 - 37 := by decide +kernel

/-- One k-block of the example after R70: FP16 activations with P planes, FP16 weights, an FP32 accumulator at +0. -/
def planesExample (p : Nat) : Nat :=
  let t := TaskRec.ofBytes (List.replicate 11 0 ++ [1, 2, BitVec.ofNat 8 p, 2, 1] ++ toBytes 8 0 ++ toBytes 2 1 ++ List.replicate 38 0)
  let row := readRow 2 p (rowRecord 2 p 3 (toBytes 2 0x4200 ++ toBytes 2 0x3500 ++ toBytes 2 0x2200) 0)
  let plane := planeOf 2 [toBytes 2 0x3C00, toBytes 2 0xC000, toBytes 2 0x5400] []
  leNat (Memory.read (tileUpdate t plane false [row] []).1 0 4)

theorem test_planes_16 : planesExample 16 = 0x40480000 := by decide +kernel
theorem test_planes_8 : planesExample 8 = 0x40180000 := by decide +kernel

/-- The four columns of the example after R353, with their E4M3 bytes and their FP16 sums. -/
def quenchExample (outfmt column : Nat) : Nat × BitVec 3 :=
  let q := Quench.ofBytes (toBytes 4 (0x42101F - 0x400000 + outfmt * 2 ^ 20) ++ toBytes 4 0x3F000000 ++ toBytes 4 0
    ++ toBytes 4 0xBF800000 ++ toBytes 4 0x40C00000 ++ List.replicate 12 0)
  q.apply 1 ([0x41200000, 0xC0800000, 0x41580000, 0x40E80000].getD column 0)
    ([0x3E800000, 0x3F800000, 0xBF000000, 0x3E000000].getD column 0)

theorem test_quench_e4m3 : (List.range 4).map (quenchExample 4) = [(0x4A, 0), (0, 0), (0x4C, 0), (0x47, 0)] := by decide +kernel
theorem test_quench_add : (List.range 4).map (fun j =>
      (addOn 2 true ([0x3C00, 0x4000, 0x4200, 0x4400].getD j 0) (quenchExample 2 j).1).1)
    = [0x4640, 0x4000, 0x4880, 0x47C0] := by decide +kernel

/-- The six steps of the barrier example after R172. -/
def barrierExample : Bar × Nat :=
  let go (r : Bar × Nat) (e : Nat × Nat × BitVec 16) : Bar × Nat :=
    let u := r.1.update e.1 e.2.1 e.2.2
    (u.1, r.2 + u.2)
  [(0, 128, 0), (1, 0, eBarrierTarget), (0, 128, eXlateInvalid), (1, 0, 0), (0, 320, 0)].foldl go (Bar.init 2 256, 0)

theorem test_barrier : barrierExample.1.toBytes = [2, 0, 2, 0, 0, 0, 0, 0, 0, 1, 0, 0, 1, 0, 1, 3] ∧ barrierExample.2 = 2 := by
  decide +kernel

/-- The four launches of the example after R158. -/
theorem test_predictor :
    let t (l : List PredEnt) (n : DWord) := predUpdate (predTouch l 0x400000800000) 0x400000800000 n
    t [] 130 = [⟨0x400000800000, 130, 130⟩] ∧ t (t [] 130) 90 = [⟨0x400000800000, 90, 130⟩] ∧
    t (t (t (t [] 130) 90) 200) 200 = [⟨0x400000800000, 200, 200⟩] ∧
    (⟨0x400000800000, 90, 130⟩ : PredEnt).guess 2 = 90 ∧ (⟨0x400000800000, 130, 130⟩ : PredEnt).guess 3 = 130 := by decide +kernel

/-- %lmap and %coretime of the core of R88, and of R420 after the retirements of lanes 40 and 7. -/
def goodWithout (bad : List Nat) : List Nat := (List.range 66).filter fun l => !bad.contains l

theorem test_lane_map_R88 : [21, 22, 64].map (lmapRead (goodWithout [21])) = [0xC0, 0x16, 0x141] ∧
    [0, 1, 2].map (coretimeRead (goodWithout [21])) = [0x1065401, 0x200000, 0] := by decide +kernel
theorem test_lane_map_R420 : [7, 40, 63, 64].map (lmapRead (goodWithout [21, 40])) = [7, 0xC1, 0x3F, 0x240] ∧
    [0, 1, 2].map (coretimeRead (goodWithout [21, 40])) = [0x1065401, 0x200000, 0x100] ∧
    [7, 40, 63, 64].map (lmapRead (goodWithout [21, 40, 7])) = [0xBF, 0xC1, 0x180, 0x2BF] ∧
    [0, 1, 2].map (coretimeRead (goodWithout [21, 40, 7])) = [0x20C9802, 0x200080, 0x80000100] := by decide +kernel

/-- The state of the example after R295: the tile of lanes 0 to 7, without lane 3. -/
def sTile : State := withWave fun w =>
  let w := { w with lpart := 8, p := [(2, 0xF7)] }
  (List.range 8).foldl (fun w l =>
    (w.putV false 3 l (if l = 0 then 0x4B800000 else 0x3F800000) 0).putV false 1 l (BitVec.ofNat 32 l) 0) w

/-- The lanes and values that an outcome owes to the first register of a word that is not interlocked. -/
def owed (r : Host.Outcome State Fault Refusal) : List (Nat × Nat × Word) :=
  match r with
  | .next s => (s.core 0).pend.flatMap fun p => p.regs.filter fun e => e.2.1 < 8
  | _ => []

def pg : Ctl := ⟨false, 2, false⟩

theorem test_redl : owed (exec (.redl pg ⟨4, 3, 0, 0, 0, 0, false, 1, 0, 0⟩) sTile)
    = [0, 1, 2, 4, 5, 6, 7].map fun l => (4, l, 0x4B800002) := by decide +kernel
theorem test_scanl : owed (exec (.scanl pg ⟨5, 3, 0, 0, 0, 0, false, 1, 0, 0⟩) sTile)
    = [0, 1, 2, 4, 5, 6, 7].map fun l => (5, l, 0x4B800000) := by decide +kernel
theorem test_scanl_excl : owed (exec (.scanl pg ⟨6, 3, 0, 0, 0, 0, false, 1, 0, 8⟩) sTile)
    = [0, 1, 2, 4, 5, 6, 7].map fun l => (6, l, if l = 0 then 0 else 0x4B800000) := by decide +kernel
theorem test_shfl_xor : owed (exec (.shflXor pg ⟨7, 1, 0, 1, 2, 0, false, 0, 0, 3⟩) sTile)
    = [(7, 0, 1), (7, 1, 0), (7, 2, 2), (7, 4, 5), (7, 5, 4), (7, 6, 7), (7, 7, 6)] := by decide +kernel

/-- What a step leaves in the wave of the word, and in its core. -/
def stepWave {α : Type} (f : Wave → α) (r : Host.Outcome State Fault Refusal) : Option α :=
  match r with
  | .next s => ((s.core 0).wave? 0).map f
  | _ => none
def stepFrags {α : Type} (f : Frag → α) (r : Host.Outcome State Fault Refusal) : List α :=
  match r with
  | .next s => (s.core 0).frags.map f
  | _ => []

/-- `UADD s3, s1, 100` after reset (log 4 for s1), and ADDPC at the header at 0x30000. -/
theorem test_step_uadd : stepWave (fun w => w.getS false 3) (step (State.reset.withFetchWord 64 0x00800C0600000064)) = some 100 := by
  decide +kernel
theorem test_step_addpc : stepWave (fun w => w.getA false 0) (step (State.reset.withFetchWord 64 0x04020002000000C0))
    = some (0x30000 + 0xC0) := by decide +kernel
/-- `TRAP 7` waits with its code and its SUB; `RTE a4` outside a trap window is E_ILLEGAL with SUB 1 (R240, R390). -/
theorem test_step_trap : stepWave (fun w => w.trap.map fun t => (t.code, t.sub)) (step (State.reset.withFetchWord 64 0x3D801C0000000000))
    = some (some (0x010C, 7)) := by decide +kernel
theorem test_step_rte : stepWave (fun w => w.trap.map fun t => (t.code, t.sub)) (step (State.reset.withFetchWord 64 0x3DC1000000000000))
    = some (some (0x0101, 1)) := by decide +kernel
/-- `BRA` and `CALL` with OFF 4 and 10 leave for 0x30000 + 32 and + 80; CALL leaves the header after its clause in a5; EXIT ends. -/
theorem test_step_bra : stepFrags (fun f => f.loc) (step (State.reset.withFetchWord 64 0x3900000000400000)) = [.header 0x30020] := by
  decide +kernel
theorem test_step_call : stepFrags (fun f => f.loc) (step (State.reset.withFetchWord 64 0x39C0000000A00028)) = [.header 0x30050] ∧
    stepWave (fun w => w.getA false 5) (step (State.reset.withFetchWord 64 0x39C0000000A00028)) = some 0x30010 := by decide +kernel
theorem test_step_exit : stepWave (fun w => w.ended) (step (State.reset.withFetchWord 64 0x3AC0000000000000)) = some true := by
  decide +kernel

/-- The division of the example after R393: the odd lanes of 0 to 7 take the branch; the sets are equal, so a new fragment takes
it, and both stand on TOKEN 1. -/
def sParity : State := onCore { loadCore with
  waves := loadCore.waves.map fun w => { w with p := [(2, 0xAA)] }, frags := loadCore.frags.map fun f => { f with mask := 0xFF } } 0

theorem test_brc : (stepFrags (fun f => (f.id, f.mask, f.loc, f.stack)) (exec (.brc g0 ⟨10, 1, 2, false, false, 0, 0⟩) sParity))
    = [(0, 0x55, .header 0x30010, [.token 1]), (1, 0xAA, .header 0x30050, [.token 1])] := by decide +kernel

end Sys2Proof.Tests
end

section
/-! SUPPORT. What the register writes of a compute word do to its context, and what the state and the context
read as once such a word has been saved (R48, R57, R63, R74, R83, R227). -/

namespace Sys2Proof.Machine

set_option Elab.async false

/-! ## What a compute word may change of its context -/

/-- The part of a wave that no compute word changes: all but the register files, their poison, the window and
%fpflags. -/
def Wave.rest (w : Wave) : Wave := { w.bare with fpflags := 0 }

/-- `z` is `x` after writes of registers and flags: besides those, only the pending results of its core and the
damper of its fragment may differ. -/
structure Ctx.Writes (x z : Ctx) : Prop where
  c : z.c = x.c
  word : z.word = x.word
  block : z.block = x.block
  core : { z.core with pend := x.core.pend } = x.core
  frag : { z.frag with damper := x.frag.damper } = x.frag
  wave : z.wave.rest = x.wave.rest

namespace Ctx.Writes

variable {x y z : Ctx}

theorem refl (x : Ctx) : x.Writes x := ⟨rfl, rfl, rfl, rfl, rfl, rfl⟩

theorem trans (h : x.Writes y) (k : y.Writes z) : x.Writes z where
  c := k.c.trans h.c
  word := k.word.trans h.word
  block := k.block.trans h.block
  core := (congrArg (fun q : Core => { q with pend := x.core.pend }) k.core).trans h.core
  frag := (congrArg (fun f : Frag => { f with damper := x.frag.damper }) k.frag).trans h.frag
  wave := k.wave.trans h.wave

/-- A change of the wave alone. -/
theorem of_wave {w : Wave} (h : w.rest = x.wave.rest) : x.Writes { x with wave := w } :=
  ⟨rfl, rfl, rfl, rfl, rfl, h⟩

theorem frag_id (h : x.Writes z) : z.frag.id = x.frag.id := (congrArg Frag.id h.frag :)

theorem frag_wave (h : x.Writes z) : z.frag.wave = x.frag.wave := (congrArg Frag.wave h.frag :)

theorem handler (h : x.Writes z) : z.frag.handler = x.frag.handler := (congrArg Frag.handler h.frag :)

theorem slot (h : x.Writes z) : z.wave.slot = x.wave.slot := (congrArg Wave.slot h.wave :)

theorem wave_block (h : x.Writes z) : z.wave.block = x.wave.block := (congrArg Wave.block h.wave :)

theorem core_eq (h : x.Writes z) : z.core = { x.core with pend := z.core.pend } :=
  (congrArg (fun q : Core => { q with pend := z.core.pend }) h.core :)

theorem waves (h : x.Writes z) : z.core.waves = x.core.waves := (congrArg Core.waves h.core :)

theorem frags (h : x.Writes z) : z.core.frags = x.core.frags := (congrArg Core.frags h.core :)

theorem blocks (h : x.Writes z) : z.core.blocks = x.core.blocks := (congrArg Core.blocks h.core :)

end Ctx.Writes

theorem Wave.rest_eq_of_bare {w u : Wave} (h : w.bare = u.bare) : w.rest = u.rest :=
  congrArg (fun b : Wave => { b with fpflags := 0 }) h

theorem Wave.fpflags_eq_of_bare {w u : Wave} (h : w.bare = u.bare) : w.fpflags = u.fpflags :=
  (congrArg Wave.fpflags h :)

/-! ## Folds and flags -/

theorem Ctx.writes_fold (x : Ctx) (d : Nat) (v : Word) : x.Writes (x.fold d v) := by
  unfold Ctx.fold
  split
  · exact .refl x
  · exact ⟨rfl, rfl, rfl, rfl, rfl, rfl⟩

@[simp] theorem Ctx.fold_core (x : Ctx) (d : Nat) (v : Word) : (x.fold d v).core = x.core := by
  unfold Ctx.fold; split <;> rfl

@[simp] theorem Ctx.fold_s (x : Ctx) (d : Nat) (v : Word) (r : Nat) : (x.fold d v).s r = x.s r := by
  unfold Ctx.s; rw [Ctx.fold_wave, Ctx.fold_handler]

@[simp] theorem Ctx.fold_a (x : Ctx) (d : Nat) (v : Word) (r : Nat) : (x.fold d v).a r = x.a r := by
  unfold Ctx.a; rw [Ctx.fold_wave, Ctx.fold_handler]

@[simp] theorem Ctx.fold_p (x : Ctx) (d : Nat) (v : Word) (k : Nat) : (x.fold d v).p k = x.p k := by
  unfold Ctx.p; rw [Ctx.fold_wave, Ctx.fold_handler]

theorem Ctx.writes_raiseFlags (x : Ctx) (f : BitVec 6) : x.Writes (x.raiseFlags f) := by
  unfold Ctx.raiseFlags
  split
  · exact .refl x
  · exact .of_wave rfl

@[simp] theorem Ctx.raiseFlags_s (x : Ctx) (f : BitVec 6) (r : Nat) : (x.raiseFlags f).s r = x.s r := by
  unfold Ctx.raiseFlags; split <;> rfl

@[simp] theorem Ctx.raiseFlags_a (x : Ctx) (f : BitVec 6) (r : Nat) : (x.raiseFlags f).a r = x.a r := by
  unfold Ctx.raiseFlags; split <;> rfl

@[simp] theorem Ctx.raiseFlags_p (x : Ctx) (f : BitVec 6) (k : Nat) : (x.raiseFlags f).p k = x.p k := by
  unfold Ctx.raiseFlags; split <;> rfl

@[simp] theorem Ctx.raiseFlags_core (x : Ctx) (f : BitVec 6) : (x.raiseFlags f).core = x.core := by
  unfold Ctx.raiseFlags; split <;> rfl

/-! ## Uniform and address registers -/

theorem Ctx.writes_setS (x : Ctx) (d : Nat) (v : Word) : x.Writes (x.setS d v) :=
  (Ctx.Writes.of_wave (Wave.rest_eq_of_bare (Wave.bare_putS ..))).trans (Ctx.writes_fold ..)

@[simp] theorem Ctx.setS_core (x : Ctx) (d : Nat) (v : Word) : (x.setS d v).core = x.core := by
  rw [Ctx.setS, Ctx.fold_core]

theorem Ctx.setS_s (x : Ctx) (d : Nat) (v : Word) (r : Nat) :
    (x.setS d v).s r = if r = d then v else x.s r := by
  rw [Ctx.setS, Ctx.fold_s]
  exact (Wave.getS_putS ..).trans (if_congr eq_comm rfl rfl)

@[simp] theorem Ctx.setS_a (x : Ctx) (d : Nat) (v : Word) (r : Nat) : (x.setS d v).a r = x.a r := by
  rw [Ctx.setS, Ctx.fold_a]
  exact Wave.getA_putS ..

@[simp] theorem Ctx.setS_v (x : Ctx) (d : Nat) (v : Word) (r l : Nat) : (x.setS d v).v r l = x.v r l := by
  rw [Ctx.setS, Ctx.fold_v]
  exact Wave.getV_putS ..

@[simp] theorem Ctx.setS_p (x : Ctx) (d : Nat) (v : Word) (k : Nat) : (x.setS d v).p k = x.p k := by
  rw [Ctx.setS, Ctx.fold_p]
  exact Wave.getP_putS ..

@[simp] theorem Ctx.setS_fpflags (x : Ctx) (d : Nat) (v : Word) :
    (x.setS d v).wave.fpflags = x.wave.fpflags := by
  rw [Ctx.setS, Ctx.fold_wave]
  exact Wave.fpflags_eq_of_bare (Wave.bare_putS ..)

theorem Ctx.writes_setA (x : Ctx) (d : Nat) (v : DWord) : x.Writes (x.setA d v) :=
  ((Ctx.Writes.of_wave (Wave.rest_eq_of_bare (Wave.bare_putA ..))).trans (Ctx.writes_fold ..)).trans
    (Ctx.writes_fold ..)

@[simp] theorem Ctx.setA_core (x : Ctx) (d : Nat) (v : DWord) : (x.setA d v).core = x.core := by
  rw [Ctx.setA, Ctx.fold_core, Ctx.fold_core]

theorem Ctx.setA_a (x : Ctx) (d : Nat) (v : DWord) (r : Nat) :
    (x.setA d v).a r = if r = d then v else x.a r := by
  rw [Ctx.setA, Ctx.fold_a, Ctx.fold_a]
  exact (Wave.getA_putA ..).trans (if_congr eq_comm rfl rfl)

@[simp] theorem Ctx.setA_s (x : Ctx) (d : Nat) (v : DWord) (r : Nat) : (x.setA d v).s r = x.s r := by
  rw [Ctx.setA, Ctx.fold_s, Ctx.fold_s]
  exact Wave.getS_putA ..

@[simp] theorem Ctx.setA_v (x : Ctx) (d : Nat) (v : DWord) (r l : Nat) : (x.setA d v).v r l = x.v r l := by
  rw [Ctx.setA, Ctx.fold_v, Ctx.fold_v]
  exact Wave.getV_putA ..

@[simp] theorem Ctx.setA_p (x : Ctx) (d : Nat) (v : DWord) (k : Nat) : (x.setA d v).p k = x.p k := by
  rw [Ctx.setA, Ctx.fold_p, Ctx.fold_p]
  exact Wave.getP_putA ..

@[simp] theorem Ctx.setA_fpflags (x : Ctx) (d : Nat) (v : DWord) :
    (x.setA d v).wave.fpflags = x.wave.fpflags := by
  rw [Ctx.setA, Ctx.fold_wave, Ctx.fold_wave]
  exact Wave.fpflags_eq_of_bare (Wave.bare_putA ..)

/-! ## Vector registers -/

/-- What no write of one lane changes, the write of a register in several lanes does not change either. -/
theorem Ctx.writeV_keeps {α : Type} (view : Wave → α) (x : Ctx) (d : Nat) (vals : List (Nat × Word))
    (h : ∀ w l v, view (w.putV x.frag.handler d l v 0) = view w) :
    view (x.writeV d vals).wave = view x.wave := by
  unfold Ctx.writeV
  induction vals generalizing x with
  | nil => rfl
  | cons e r ih => exact (ih { x with wave := x.wave.putV x.frag.handler d e.1 e.2 0 } h).trans (h ..)

theorem Ctx.setV_keeps {α : Type} (view : Wave → α) (x : Ctx) (d : Nat) (vals : List (Nat × Word))
    (h : ∀ w l v, view (w.putV x.frag.handler d l v 0) = view w) :
    view (x.setV d vals).wave = view x.wave := by
  unfold Ctx.setV
  split
  · rfl
  · rw [Ctx.fold_wave]
    exact Ctx.writeV_keeps view x d vals h

theorem Ctx.writes_setV (x : Ctx) (d : Nat) (vals : List (Nat × Word)) : x.Writes (x.setV d vals) := by
  unfold Ctx.setV
  split
  · exact .refl x
  · refine .trans (.of_wave ?_) (Ctx.writes_fold ..)
    exact Ctx.writeV_keeps Wave.rest x d vals fun _ _ _ => Wave.rest_eq_of_bare (Wave.bare_putV ..)

@[simp] theorem Ctx.setV_core (x : Ctx) (d : Nat) (vals : List (Nat × Word)) :
    (x.setV d vals).core = x.core := by
  unfold Ctx.setV
  split
  · rfl
  · rw [Ctx.fold_core]; rfl

@[simp] theorem Ctx.setV_s (x : Ctx) (d : Nat) (vals : List (Nat × Word)) (r : Nat) :
    (x.setV d vals).s r = x.s r := by
  rw [Ctx.s, Ctx.setV_handler]
  exact Ctx.setV_keeps (fun w => w.getS x.frag.handler r) x d vals fun _ _ _ => Wave.getS_putV ..

@[simp] theorem Ctx.setV_a (x : Ctx) (d : Nat) (vals : List (Nat × Word)) (r : Nat) :
    (x.setV d vals).a r = x.a r := by
  rw [Ctx.a, Ctx.setV_handler]
  exact Ctx.setV_keeps (fun w => w.getA x.frag.handler r) x d vals fun _ _ _ => Wave.getA_putV ..

@[simp] theorem Ctx.setV_p (x : Ctx) (d : Nat) (vals : List (Nat × Word)) (k : Nat) :
    (x.setV d vals).p k = x.p k := by
  rw [Ctx.p, Ctx.setV_handler]
  exact Ctx.setV_keeps (fun w => w.getP x.frag.handler k) x d vals fun _ _ _ => Wave.getP_putV ..

@[simp] theorem Ctx.setV_fpflags (x : Ctx) (d : Nat) (vals : List (Nat × Word)) :
    (x.setV d vals).wave.fpflags = x.wave.fpflags :=
  Ctx.setV_keeps Wave.fpflags x d vals fun _ _ _ => Wave.fpflags_eq_of_bare (Wave.bare_putV ..)

/-! ## Predicates -/

theorem getLsbD_laneBit {l j : Nat} (hj : j < 64) : (laneBit l).getLsbD j = decide (l = j) := by
  simp only [laneBit, BitVec.getLsbD_shiftLeft, BitVec.getLsbD_one]
  grind

/-- A mask made of the lanes that satisfy a test holds those lanes. -/
theorem getLsbD_maskOf (p : Nat → Bool) {j : Nat} (hj : j < 64) : (maskOf p).getLsbD j = p j := by
  have key : ∀ (ls : List Nat) (m : LaneMask),
      (ls.foldl (fun m l => if p l then m ||| laneBit l else m) m).getLsbD j
        = (m.getLsbD j || (decide (j ∈ ls) && p j)) := by
    intro ls
    induction ls with
    | nil => simp
    | cons l r ih =>
      intro m
      rw [List.foldl_cons, ih]
      by_cases hl : l = j
      · subst hl
        cases hp : p l <;> simp [getLsbD_laneBit hj]
      · have : ¬ j = l := fun h => hl h.symm
        cases hp : p l <;> simp [getLsbD_laneBit hj, hl, this]
  rw [maskOf, key]
  simp [hj]

theorem Ctx.writes_setP (x : Ctx) (d : Nat) (m val : LaneMask) : x.Writes (x.setP d m val) := by
  unfold Ctx.setP
  split
  · exact .refl x
  · exact .trans (.of_wave (Wave.rest_eq_of_bare (Wave.bare_putP ..))) (Ctx.writes_fold ..)

@[simp] theorem Ctx.setP_core (x : Ctx) (d : Nat) (m val : LaneMask) : (x.setP d m val).core = x.core := by
  unfold Ctx.setP
  split
  · rfl
  · rw [Ctx.fold_core]

/-- In the lanes of the mask the predicate takes the new bits, unless it is p0. -/
theorem Ctx.setP_p (x : Ctx) (d : Nat) (m val : LaneMask) (k : Nat) :
    (x.setP d m val).p k = if k = d ∧ k ≠ 0 then (x.p k &&& ~~~m) ||| (val &&& m) else x.p k := by
  unfold Ctx.setP
  split
  · rename_i h
    rcases (by simpa using h : d = 0 ∨ m = 0#64) with rfl | rfl
    · rw [if_neg fun h => h.2 h.1]
    · have none : (x.p k &&& ~~~0#64) ||| (val &&& 0#64) = x.p k := by
        rw [BitVec.not_zero, BitVec.and_allOnes, BitVec.and_zero, BitVec.or_zero]
      rw [none, ite_self]
  · rw [Ctx.fold_p]
    refine (Wave.getP_putP ..).trans ?_
    by_cases hd : d = k
    · subst hd; rfl
    · rw [if_neg fun h => hd h.1, if_neg fun h => hd h.1.symm]; rfl

@[simp] theorem Ctx.setP_v (x : Ctx) (d : Nat) (m val : LaneMask) (r l : Nat) :
    (x.setP d m val).v r l = x.v r l := by
  unfold Ctx.setP
  split
  · rfl
  · exact (Ctx.fold_v ..).trans (Wave.getV_putP ..)

@[simp] theorem Ctx.setP_s (x : Ctx) (d : Nat) (m val : LaneMask) (r : Nat) :
    (x.setP d m val).s r = x.s r := by
  unfold Ctx.setP
  split
  · rfl
  · exact (Ctx.fold_s ..).trans (Wave.getS_putP ..)

@[simp] theorem Ctx.setP_a (x : Ctx) (d : Nat) (m val : LaneMask) (r : Nat) :
    (x.setP d m val).a r = x.a r := by
  unfold Ctx.setP
  split
  · rfl
  · exact (Ctx.fold_a ..).trans (Wave.getA_putP ..)

@[simp] theorem Ctx.setP_fpflags (x : Ctx) (d : Nat) (m val : LaneMask) :
    (x.setP d m val).wave.fpflags = x.wave.fpflags := by
  unfold Ctx.setP
  split
  · rfl
  · rw [Ctx.fold_wave]
    exact Wave.fpflags_eq_of_bare (Wave.bare_putP ..)

theorem Ctx.setP_handler (x : Ctx) (d : Nat) (m val : LaneMask) :
    (x.setP d m val).frag.handler = x.frag.handler := (Ctx.writes_setP x d m val).handler

end Sys2Proof.Machine
end

section
/-! SUPPORT. The shared writes of lane words as claims speak of them, and the state after a word whose context
has only registers written (R57, R63, R74, R83, R286). -/

namespace Sys2Proof.Machine

set_option Elab.async false

/-! ## The results of the lanes of a word -/

theorem Ctx.raiseFlags_flagsAfter (x : Ctx) (f : BitVec 6) :
    (x.raiseFlags f).wave.fpflags = Claim.flagsAfter x false f := by
  simp [Ctx.raiseFlags_fpflags, Claim.flagsAfter]

/-- The flags after a word depend on its context only by %fpflags and by whether a handler runs. -/
theorem flagsAfter_congr {x z : Ctx} (hh : z.frag.handler = x.frag.handler)
    (hf : z.wave.fpflags = x.wave.fpflags) (int : Bool) (f : BitVec 6) :
    Claim.flagsAfter z int f = Claim.flagsAfter x int f := by
  rw [Claim.flagsAfter, Claim.flagsAfter, hh, hf]

theorem orFlags_lanes (m : LaneMask) (f : Nat → BitVec 6) :
    orFlags ((lanesOf m).map f) = Claim.allFlags m f := by
  rw [orFlags, List.foldl_map, Claim.allFlags]

theorem Ctx.setLanes_eq (x : Ctx) (d : Nat) (m : LaneMask) (f : Nat → LaneRes) :
    x.setLanes d m f = (x.setV d ((lanesOf m).map fun l => (l, (f l).1))).raiseFlags
      (Claim.allFlags m fun l => (f l).2) := by
  simp only [Ctx.setLanes, List.map_map, Function.comp_def, orFlags_lanes]

theorem Ctx.writes_setLanes (x : Ctx) (d : Nat) (m : LaneMask) (f : Nat → LaneRes) :
    x.Writes (x.setLanes d m f) := by
  rw [Ctx.setLanes_eq]
  exact (Ctx.writes_setV ..).trans (Ctx.writes_raiseFlags ..)

@[simp] theorem Ctx.setLanes_core (x : Ctx) (d : Nat) (m : LaneMask) (f : Nat → LaneRes) :
    (x.setLanes d m f).core = x.core := by simp [Ctx.setLanes_eq]

@[simp] theorem Ctx.setLanes_s (x : Ctx) (d : Nat) (m : LaneMask) (f : Nat → LaneRes) (r : Nat) :
    (x.setLanes d m f).s r = x.s r := by simp [Ctx.setLanes_eq]

@[simp] theorem Ctx.setLanes_a (x : Ctx) (d : Nat) (m : LaneMask) (f : Nat → LaneRes) (r : Nat) :
    (x.setLanes d m f).a r = x.a r := by simp [Ctx.setLanes_eq]

@[simp] theorem Ctx.setLanes_p (x : Ctx) (d : Nat) (m : LaneMask) (f : Nat → LaneRes) (k : Nat) :
    (x.setLanes d m f).p k = x.p k := by simp [Ctx.setLanes_eq]

theorem Ctx.setLanes_flagsAfter (x : Ctx) (d : Nat) (m : LaneMask) (f : Nat → LaneRes) :
    (x.setLanes d m f).wave.fpflags = Claim.flagsAfter x false (Claim.allFlags m fun l => (f l).2) := by
  rw [Ctx.setLanes_eq, Ctx.raiseFlags_flagsAfter]
  exact flagsAfter_congr (Ctx.setV_handler ..) (Ctx.setV_fpflags ..) ..

/-- An FP64 pair: its even register with bits [31:0] first, then its odd one with bits [63:32] (R57). -/
theorem Ctx.setPairLanes_eq (x : Ctx) (d : Nat) (m : LaneMask) (f : Nat → DWord × BitVec 6) :
    x.setPairLanes d m f =
      ((x.setV d ((lanesOf m).map fun l => (l, (f l).1.extractLsb' 0 32))).setV (d + 1)
        ((lanesOf m).map fun l => (l, (f l).1.extractLsb' 32 32))).raiseFlags
      (Claim.allFlags m fun l => (f l).2) := by
  simp only [Ctx.setPairLanes, Ctx.setVPair, List.map_map, Function.comp_def, orFlags_lanes]

theorem Ctx.writes_setPairLanes (x : Ctx) (d : Nat) (m : LaneMask) (f : Nat → DWord × BitVec 6) :
    x.Writes (x.setPairLanes d m f) := by
  rw [Ctx.setPairLanes_eq]
  exact ((Ctx.writes_setV ..).trans (Ctx.writes_setV ..)).trans (Ctx.writes_raiseFlags ..)

theorem Ctx.setPairLanes_v (x : Ctx) (d : Nat) (m : LaneMask) (f : Nat → DWord × BitVec 6) (r l : Nat)
    (hl : l < 64) :
    (x.setPairLanes d m f).v r l =
      if r = d + 1 ∧ m.getLsbD l = true then (f l).1.extractLsb' 32 32
      else if r = d ∧ m.getLsbD l = true then (f l).1.extractLsb' 0 32 else x.v r l := by
  rw [Ctx.setPairLanes_eq, Ctx.raiseFlags_v, Ctx.setV_v _ _ _ _ _ _ hl, Ctx.setV_v _ _ _ _ _ _ hl]

@[simp] theorem Ctx.setPairLanes_core (x : Ctx) (d : Nat) (m : LaneMask) (f : Nat → DWord × BitVec 6) :
    (x.setPairLanes d m f).core = x.core := by simp [Ctx.setPairLanes_eq]

@[simp] theorem Ctx.setPairLanes_s (x : Ctx) (d : Nat) (m : LaneMask) (f : Nat → DWord × BitVec 6) (r : Nat) :
    (x.setPairLanes d m f).s r = x.s r := by simp [Ctx.setPairLanes_eq]

@[simp] theorem Ctx.setPairLanes_a (x : Ctx) (d : Nat) (m : LaneMask) (f : Nat → DWord × BitVec 6) (r : Nat) :
    (x.setPairLanes d m f).a r = x.a r := by simp [Ctx.setPairLanes_eq]

@[simp] theorem Ctx.setPairLanes_p (x : Ctx) (d : Nat) (m : LaneMask) (f : Nat → DWord × BitVec 6) (k : Nat) :
    (x.setPairLanes d m f).p k = x.p k := by simp [Ctx.setPairLanes_eq]

theorem Ctx.setPairLanes_flagsAfter (x : Ctx) (d : Nat) (m : LaneMask) (f : Nat → DWord × BitVec 6) :
    (x.setPairLanes d m f).wave.fpflags = Claim.flagsAfter x false (Claim.allFlags m fun l => (f l).2) := by
  rw [Ctx.setPairLanes_eq, Ctx.raiseFlags_flagsAfter]
  exact flagsAfter_congr ((Ctx.setV_handler ..).trans (Ctx.setV_handler ..))
    ((Ctx.setV_fpflags ..).trans (Ctx.setV_fpflags ..)) ..

theorem Ctx.setPredLanes_eq (x : Ctx) (d : Nat) (m : LaneMask) (f : Nat → Bool × BitVec 6) :
    x.setPredLanes d m f = (x.setP d m (maskOf fun l => m.getLsbD l && (f l).1)).raiseFlags
      (Claim.allFlags m fun l => (f l).2) := by
  rw [Ctx.setPredLanes, orFlags_lanes]

theorem Ctx.writes_setPredLanes (x : Ctx) (d : Nat) (m : LaneMask) (f : Nat → Bool × BitVec 6) :
    x.Writes (x.setPredLanes d m f) := by
  rw [Ctx.setPredLanes_eq]
  exact (Ctx.writes_setP ..).trans (Ctx.writes_raiseFlags ..)

theorem Ctx.setPredLanes_p (x : Ctx) (d : Nat) (m : LaneMask) (f : Nat → Bool × BitVec 6) (k l : Nat)
    (hl : l < 64) :
    ((x.setPredLanes d m f).p k).getLsbD l =
      if k = d ∧ k ≠ 0 ∧ m.getLsbD l = true then (f l).1 else (x.p k).getLsbD l := by
  rw [Ctx.setPredLanes_eq, Ctx.raiseFlags_p, Ctx.setP_p]
  by_cases hk : k = d ∧ k ≠ 0
  · rw [if_pos hk, BitVec.getLsbD_or, BitVec.getLsbD_and, BitVec.getLsbD_and, BitVec.getLsbD_not,
      getLsbD_maskOf _ hl]
    cases hm : m.getLsbD l
    · rw [if_neg fun h => Bool.false_ne_true h.2.2]
      simp [hl]
    · rw [if_pos ⟨hk.1, hk.2, rfl⟩]
      simp
  · rw [if_neg hk, if_neg fun h => hk ⟨h.1, h.2.1⟩]

@[simp] theorem Ctx.setPredLanes_core (x : Ctx) (d : Nat) (m : LaneMask) (f : Nat → Bool × BitVec 6) :
    (x.setPredLanes d m f).core = x.core := by simp [Ctx.setPredLanes_eq]

@[simp] theorem Ctx.setPredLanes_v (x : Ctx) (d : Nat) (m : LaneMask) (f : Nat → Bool × BitVec 6) (r l : Nat) :
    (x.setPredLanes d m f).v r l = x.v r l := by simp [Ctx.setPredLanes_eq, Ctx.raiseFlags_v]

@[simp] theorem Ctx.setPredLanes_s (x : Ctx) (d : Nat) (m : LaneMask) (f : Nat → Bool × BitVec 6) (r : Nat) :
    (x.setPredLanes d m f).s r = x.s r := by simp [Ctx.setPredLanes_eq]

@[simp] theorem Ctx.setPredLanes_a (x : Ctx) (d : Nat) (m : LaneMask) (f : Nat → Bool × BitVec 6) (r : Nat) :
    (x.setPredLanes d m f).a r = x.a r := by simp [Ctx.setPredLanes_eq]

theorem Ctx.setPredLanes_flagsAfter (x : Ctx) (d : Nat) (m : LaneMask) (f : Nat → Bool × BitVec 6) :
    (x.setPredLanes d m f).wave.fpflags = Claim.flagsAfter x false (Claim.allFlags m fun l => (f l).2) := by
  rw [Ctx.setPredLanes_eq, Ctx.raiseFlags_flagsAfter]
  exact flagsAfter_congr (Ctx.setP_handler ..) (Ctx.setP_fpflags ..) ..

/-! ## Results for later steps -/

theorem Ctx.pendResult_eq (x : Ctx) (kind : PendKind) (m : LaneMask) (regs : List (Nat × Nat × Word))
    (preds : List (Nat × LaneMask × LaneMask)) (flags : BitVec 6) :
    x.pendResult kind m regs preds flags = { x with core := { x.core with pend := x.core.pend ++
      if m = 0 then [] else
        [{ kind := kind, wave := x.wave.slot, frags := [x.frag.id], handler := x.frag.handler, regs := regs,
           preds := preds, flags := flags, sr := none }] } } := by
  unfold Ctx.pendResult
  by_cases hm : m = 0
  · simp [hm]
  · simp [show ¬ m = 0#64 from hm]

theorem Ctx.writes_pendResult (x : Ctx) (kind : PendKind) (m : LaneMask) (regs : List (Nat × Nat × Word))
    (preds : List (Nat × LaneMask × LaneMask)) (flags : BitVec 6) :
    x.Writes (x.pendResult kind m regs preds flags) := by
  rw [Ctx.pendResult_eq]
  exact ⟨rfl, rfl, rfl, rfl, rfl, rfl⟩

theorem Ctx.pendLanes_eq (x : Ctx) (kind : PendKind) (d : Nat) (m : LaneMask) (f : Nat → LaneRes) :
    x.pendLanes kind d m f = x.pendResult kind m ((lanesOf m).map fun l => (d, l, (f l).1)) []
      (Claim.allFlags m fun l => (f l).2) := by
  simp only [Ctx.pendLanes, List.map_map, Function.comp_def, orFlags_lanes]

/-! ## The state after the word -/

theorem Core.wave?_setWave_ne (x : Core) {w : Wave} {k : Nat} (h : k ≠ w.slot) :
    (x.setWave w).wave? k = x.wave? k :=
  find?_updFirst_ne _ _ _ _ fun y hy => by
    have : y.slot = w.slot := by simpa using hy
    simp [this, h.symm]

theorem Core.frag?_setFrag_ne (x : Core) {f : Frag} {k : Nat} (h : k ≠ f.id) :
    (x.setFrag f).frag? k = x.frag? k :=
  find?_updFirst_ne _ _ _ _ fun y hy => by
    have : y.id = f.id := by simpa using hy
    simp [this, h.symm]

/-- A block put back as it is found changes no block. -/
theorem Core.block?_setBlock_found {x : Core} {b : Block} (h : x.block? b.slot = some b) (k : Nat) :
    (x.setBlock b).block? k = x.block? k := by
  by_cases hk : k = b.slot
  · subst hk
    refine (find?_updFirst _ _ _ fun y hy => by simp).trans ?_
    rw [show x.blocks.find? (fun y => y.slot == b.slot) = some b from h, h]
    rfl
  · exact find?_updFirst_ne _ _ _ _ fun y hy => by
      have : y.slot = b.slot := by simpa using hy
      simp [this, Ne.symm hk]

/-- The context of a word once it has issued with its effect in `z`. -/
def Ctx.issued (z : Ctx) (sw : Bool) : Ctx := { z.done sw with core := (z.done sw).saved }

theorem Ctx.issued_v (z : Ctx) (sw : Bool) (r l : Nat) : (z.issued sw).v r l = z.v r l := rfl

theorem Ctx.issued_s (z : Ctx) (sw : Bool) (r : Nat) : (z.issued sw).s r = z.s r := rfl

theorem Ctx.issued_a (z : Ctx) (sw : Bool) (r : Nat) : (z.issued sw).a r = z.a r := rfl

theorem Ctx.issued_p (z : Ctx) (sw : Bool) (k : Nat) : (z.issued sw).p k = z.p k := rfl

theorem Ctx.issued_wave (z : Ctx) (sw : Bool) : (z.issued sw).wave = z.wave := rfl

namespace Ctx.Writes

variable {s : State} {x z : Ctx}

/-- Once saved, writes of registers reach nothing outside the wave and the fragment of their word. -/
theorem outside (h : x.Writes z) (hx : s.ctx? = some x) (sw : Bool) :
    Claim.Outside s (s.save (z.done sw)) x (z.issued sw) where
  state := rfl
  cores c hc := State.core_setCore_ne s _ fun e => hc (e.symm.trans h.c)
  after := State.ctx?_save hx h.c h.word ⟨_, h.core_eq⟩ h.slot h.wave_block (congrArg Block.slot h.block)
    h.frag_id h.frag_wave
  sameCore := h.c
  waves w hw := by
    refine (Core.wave?_setWave_ne z.core (h.slot ▸ hw)).trans ?_
    rw [Core.wave?, h.waves, ← Core.wave?]
  frags f hf := by
    refine (Core.frag?_setFrag_ne z.core (f := z.frag.past sw) (h.frag_id ▸ hf)).trans ?_
    rw [Core.frag?, h.frags, ← Core.frag?]
  blocks b := by
    obtain ⟨_, _, _, found⟩ := State.ctx?_eq hx
    rw [← Core.block?_slot found] at found
    refine Eq.trans ?_ (Core.block?_setBlock_found found b)
    simp only [issued, Ctx.saved, Core.setBlock, Core.block?, Core.setFrag_blocks, Core.setWave_blocks,
      Ctx.done, h.blocks, h.block]
  block := h.block

theorem core_issued (h : x.Writes z) (sw : Bool) :
    { (z.issued sw).core with waves := x.core.waves, frags := x.core.frags, blocks := x.core.blocks }
      = { x.core with pend := z.core.pend } :=
  (congrArg (fun q : Core => { q with waves := x.core.waves, frags := x.core.frags, blocks := x.core.blocks })
    h.core_eq :)

theorem coreKept (h : x.Writes z) (hp : z.core = x.core) (sw : Bool) : Claim.coreKept x (z.issued sw) := by
  rw [Claim.coreKept, h.core_issued, hp]

theorem moved (h : x.Writes z) (sw : Bool) : Claim.moved x (z.issued sw) sw :=
  (congrArg (fun f : Frag => { f.past sw with damper := z.frag.damper }) h.frag :)

theorem waveKept (h : x.Writes z) (sw : Bool) : Claim.waveKept x (z.issued sw) :=
  (congrArg (fun w : Wave => { w with
    v := z.wave.v, s := z.wave.s, a := z.wave.a, p := z.wave.p, vPoison := z.wave.vPoison,
    sPoison := z.wave.sPoison, aPoison := z.wave.aPoison, pPoison := z.wave.pPoison,
    win := z.wave.win, fpflags := z.wave.fpflags }) h.wave :)

end Ctx.Writes

end Sys2Proof.Machine
end

section
/-! PROOFS. Uniform words, FP64 words and words with a predicate result: each issues in its shared way with the value
of its rule, and so has the effect that its obligation names (R14, R15, R48, R57, R74, R276 to R282, R297, R331). -/

open Sys2Proof Sys2Proof.Machine

namespace Sys2Proof.Claim

set_option Elab.async false

/-! ## The values of a lane, as the model and as the rules of the spec compute them -/

theorem toNat_extractLsb'_low {w n : Nat} (b : BitVec w) : (b.extractLsb' 0 n).toNat = b.toNat % 2 ^ n := by
  rw [BitVec.extractLsb'_toNat, Nat.shiftRight_zero]

theorem toNat_extractLsb'_six (b : Word) : (b.extractLsb' 0 6).toNat = count6 b := toNat_extractLsb'_low b

theorem shlWord_eq_leftBy (a b : Word) : shlWord a b = leftBy a b := by
  unfold shlWord leftBy
  rw [toNat_extractLsb'_six]

theorem shrWord_eq_rightBy (a b : Word) : shrWord a b = rightBy a b := by
  unfold shrWord rightBy
  rw [toNat_extractLsb'_six]

theorem sraWord_eq_signedRightBy (a b : Word) : sraWord a b = signedRightBy a b := by
  rw [sraWord, signedRightBy, toNat_extractLsb'_six]

theorem mulHighU_eq_high32 (a b : Word) : mulHighU a b = high32 ((a.toNat : Int) * b.toNat) := by
  rw [mulHighU, high32, ← BitVec.ofInt_natCast]
  push_cast
  rfl

theorem minS_eq (a b : Word) : minS a b = if a.toInt ≤ b.toInt then a else b := by
  rw [minS, BitVec.slt_eq_decide]
  by_cases h : a.toInt = b.toInt
  · simp [BitVec.eq_of_toInt_eq h]
  · grind

theorem maxS_eq (a b : Word) : maxS a b = if a.toInt ≤ b.toInt then b else a := by
  rw [maxS, BitVec.slt_eq_decide]
  by_cases h : a.toInt = b.toInt
  · simp [BitVec.eq_of_toInt_eq h]
  · grind

theorem minU_eq (a b : Word) : minU a b = if a.toNat ≤ b.toNat then a else b := by
  rw [minU, BitVec.ult_eq_decide]
  by_cases h : a.toNat = b.toNat
  · simp [BitVec.eq_of_toNat_eq h]
  · grind

theorem maxU_eq (a b : Word) : maxU a b = if a.toNat ≤ b.toNat then b else a := by
  rw [maxU, BitVec.ult_eq_decide]
  by_cases h : a.toNat = b.toNat
  · simp [BitVec.eq_of_toNat_eq h]
  · grind

theorem intCmp_eq_compares (cc : BitVec 5) (a b : Word) : intCmp cc a b = compares cc.toNat a b := by
  unfold intCmp
  match cc.toNat with
  | 0 => exact beq_eq_decide a b
  | 1 =>
    show (!(a == b)) = decide (a ≠ b)
    rw [beq_eq_decide, decide_not]
  | 2 => exact BitVec.slt_eq_decide
  | 3 => exact BitVec.sle_eq_decide
  | 4 => exact BitVec.slt_eq_decide
  | 5 => exact BitVec.sle_eq_decide
  | 6 => exact BitVec.ult_eq_decide
  | 7 => exact BitVec.ule_eq_decide
  | 8 => exact BitVec.ult_eq_decide
  | _ + 9 => exact BitVec.ule_eq_decide

theorem unU_iff (o : UN) : unU o = true ↔ o.bk ≠ 2 ∧ o.mode.getLsbD 0 = true := by
  simp [unU, unImm]

/-- The halves of an FP64 code (R57). -/
theorem extractLsb'_ofNat_low (n : Nat) : (BitVec.ofNat 64 n).extractLsb' 0 32 = BitVec.ofNat 32 n := by
  apply BitVec.eq_of_toNat_eq
  simp only [toNat_extractLsb'_low, BitVec.toNat_ofNat]
  omega

theorem extractLsb'_ofNat_high (n : Nat) :
    (BitVec.ofNat 64 n).extractLsb' 32 32 = BitVec.ofNat 32 (n / 2 ^ 32) := by
  apply BitVec.eq_of_toNat_eq
  simp only [BitVec.extractLsb'_toNat, BitVec.toNat_ofNat, Nat.shiftRight_eq_div_pow]
  omega

/-! ## Uniform words -/

theorem execUni2_eq {f h : Word → Word → Word} (g : Ctl) (o : UN) (s : State) (e : ∀ a b, f a b = h a b) :
    execUni2 g o f s = issueUniform s g (uni2 g o h).srcs (uni2 g o h).dest.write := by
  obtain rfl : f = h := funext₂ e
  rfl

/-- A word that has a rule issues as a uniform word with that rule's sources and write. Where the model computes its value
in another way than the rule, the lemma on that value makes them agree. -/
theorem exec_of_uniRule {i : Instr} {r : UniRule} (s : State) (h : uniRule i = some r) :
    exec i s = issueUniform s r.g r.srcs r.dest.write := by
  unfold uniRule at h
  split at h <;> cases h
  case h_6 g o =>
    show execUni2 g o (fun a b => if unU o then mulHighU a b else mulHigh a b) s = _
    refine execUni2_eq g o s fun a b => ?_
    rw [mulHighU_eq_high32]
    exact if_congr (unU_iff o) rfl rfl
  case h_10 g o =>
    show execUni2 g o shlWord s = _
    exact execUni2_eq g o s shlWord_eq_leftBy
  case h_11 g o =>
    show execUni2 g o shrWord s = _
    exact execUni2_eq g o s shrWord_eq_rightBy
  case h_12 g o =>
    show execUni2 g o sraWord s = _
    exact execUni2_eq g o s sraWord_eq_signedRightBy
  case h_13 g o =>
    show execUni2 g o (fun a b => if unU o then minU a b else minS a b) s = _
    refine execUni2_eq g o s fun a b => ?_
    rw [minU_eq, minS_eq]
    exact if_congr (unU_iff o) rfl rfl
  case h_14 g o =>
    show execUni2 g o (fun a b => if unU o then maxU a b else maxS a b) s = _
    refine execUni2_eq g o s fun a b => ?_
    rw [maxU_eq, maxS_eq]
    exact if_congr (unU_iff o) rfl rfl
  case h_15 g o =>
    show execUni2 g o (fun a b => boolWord (intCmp o.mode a b)) s = _
    refine execUni2_eq g o s fun a b => ?_
    rw [intCmp_eq_compares, boolWord]
  case h_16 g o =>
    show issueUniform s g [.s o.a.toNat, .s o.b.toNat, .s o.c.toNat] (fun x =>
      x.setS o.d.toNat (if x.s o.c.toNat != 0 then x.s o.a.toNat else x.s o.b.toNat)) = _
    congr 1
    funext x
    refine congrArg (x.setS o.d.toNat) ?_
    by_cases hc : x.s o.c.toNat = 0 <;> simp [hc]
  case h_21 g o =>
    show issueUniform s g [.aHalf (aCode o.a) (o.mode.getLsbD 0)] (fun x =>
      x.setS o.d.toNat ((x.a (aCode o.a)).extractLsb' (if o.mode.getLsbD 0 then 32 else 0) 32)) = _
    congr 1
    funext x
    refine congrArg (x.setS o.d.toNat) ?_
    cases o.mode.getLsbD 0 <;> rfl
  all_goals rfl

/-- Where the guard is false in the fragment's lowest lane, nothing is read (R48, R297). -/
theorem anyPoison_zero (x : Ctx) (srcs : List Src) : x.anyPoison 0#64 srcs = false := by
  have none : lanesOf 0#64 = [] := by simp [lanesOf]
  refine List.any_eq_false.mpr fun r _ => ?_
  cases r <;> simp [Ctx.srcPoison, none]

theorem issueUniform_skip {s : State} {x : Ctx} {g : Ctl} {srcs : List Src} {l : Nat} (k : Ctx → Ctx)
    (hx : s.ctx? = some x) (hl : lowLane x.frag.mask = some l) (hm : (x.guardMask g).getLsbD l = false)
    (hg : x.guardPoison g (laneBit l) = false) :
    issueUniform s g srcs k = .next (s.save (x.done g.sw)) := by
  have none : x.uniformActive g = 0 := by simp [Ctx.uniformActive, hl, hm]
  simp [issueUniform, hx, hl, hg, none, anyPoison_zero]

theorem UniDest.writes_write (d : UniDest) (x : Ctx) : x.Writes (d.write x) :=
  match d with
  | .s .. => Ctx.writes_setS ..
  | .a .. => Ctx.writes_setA ..

/-- A uniform word that has written its destination has the effect of a uniform word. -/
theorem uniEffect_write {s : State} {x : Ctx} (hx : s.ctx? = some x) (g : Ctl) (d : UniDest) :
    UniEffect s (s.save ((d.write x).done g.sw)) x ((d.write x).issued g.sw) g d where
  outside := (d.writes_write x).outside hx g.sw
  core := (d.writes_write x).coreKept (by cases d <;> simp [UniDest.write]) g.sw
  frag := (d.writes_write x).moved g.sw
  wave := (d.writes_write x).waveKept g.sw
  s r := by
    rw [Ctx.issued_s]
    cases d <;> simp [UniDest.write, Ctx.setS_s]
  a r := by
    rw [Ctx.issued_a]
    cases d <;> simp [UniDest.write, Ctx.setA_a]
  v r l := by
    rw [Ctx.issued_v]
    cases d <;> simp [UniDest.write]
  p k := by
    rw [Ctx.issued_p]
    cases d <;> simp [UniDest.write]
  flags := by
    rw [Ctx.issued_wave]
    cases d <;> simp [UniDest.write]

theorem uniformWordsComplete : UniformWordsComplete := by
  intro i r s x l hr h
  rw [exec_of_uniRule s hr,
    issueUniform_ready _ h.ctx h.lane h.holds (laneBit_ne (lowLane_lt h.lane)) h.guard h.clean]
  exact ⟨_, _, rfl, uniEffect_write h.ctx r.g r.dest⟩

theorem uniformWordsSkip : UniformWordsSkip := by
  intro i r s x l hr hx hl hm hg
  rw [exec_of_uniRule s hr, issueUniform_skip _ hx hl hm hg]

/-- Settles O1: a word with a rule issues as a uniform word with that rule's write, and without a guard it is skipped. -/
theorem uniformWords : Obligations.UniformWords := ⟨uniformWordsComplete, uniformWordsSkip⟩

/-! ## Lane words -/

theorem issueVector_of_ready {s : State} {x : Ctx} {g : Ctl} {regs : List Nat} {srcs : List Src}
    (h : Ready s x g regs srcs) (k : Ctx → LaneMask → State) :
    issueVector s g regs srcs k = .next (k x (x.active g)) :=
  issueVector_ready k h.ctx (List.all_eq_true.mpr h.budget) h.guard h.clean

/-! ### FP64 pairs -/

theorem exec_of_float64Rule {i : Instr} {r : PairRule} (s : State) (h : float64Rule i = some r) :
    exec i s = issueVector s r.g r.regs r.srcs fun x m =>
      s.save ((x.setPairLanes r.d m fun l => onF64 (r.val x l)).done r.g.sw) := by
  unfold float64Rule at h
  split at h <;> cases h <;> rfl

theorem pairEffect_setPairLanes {s : State} {x : Ctx} (hx : s.ctx? = some x) (g : Ctl) (d : Nat)
    (val : Nat → Nat × BitVec 6) :
    PairEffect s (s.save ((x.setPairLanes d (x.active g) fun l => onF64 (val l)).done g.sw)) x
      ((x.setPairLanes d (x.active g) fun l => onF64 (val l)).issued g.sw) g d val := by
  have w := Ctx.writes_setPairLanes x d (x.active g) fun l => onF64 (val l)
  refine {
    outside := w.outside hx g.sw, core := w.coreKept (Ctx.setPairLanes_core ..) g.sw
    frag := w.moved g.sw, wave := w.waveKept g.sw
    lower := fun l hl ha => ?lower, upper := fun l hl ha => ?upper, v := fun r l hl ha => ?v
    s := fun r => (Ctx.issued_s ..).trans (Ctx.setPairLanes_s ..)
    a := fun r => (Ctx.issued_a ..).trans (Ctx.setPairLanes_a ..)
    p := fun k => (Ctx.issued_p ..).trans (Ctx.setPairLanes_p ..)
    flags := (congrArg Wave.fpflags (Ctx.issued_wave ..)).trans (Ctx.setPairLanes_flagsAfter ..) }
  case lower => simp [Ctx.issued_v, Ctx.setPairLanes_v, hl, ha, onF64, extractLsb'_ofNat_low]
  case upper => simp [Ctx.issued_v, Ctx.setPairLanes_v, hl, ha, onF64, extractLsb'_ofNat_high]
  case v =>
    rw [Ctx.issued_v, Ctx.setPairLanes_v _ _ _ _ _ _ hl, if_neg fun h => ha ⟨.inr h.1, h.2⟩,
      if_neg fun h => ha ⟨.inl h.1, h.2⟩]

/-- Settles O4: each word writes its pair in the shared way, with the value of its rule. -/
theorem float64Words : Obligations.Float64Words := by
  intro i r s x hr h
  rw [exec_of_float64Rule s hr, issueVector_of_ready h]
  exact ⟨_, _, rfl, pairEffect_setPairLanes h.ctx r.g r.d (r.val x)⟩

/-! ### Predicates -/

theorem execPkCmp_eq (g : Ctl) (o : VX) (f : FFmt) (s : State) :
    execPkCmp g o f s = issueVector s g (pkCompare g o f).regs (pkCompare g o f).srcs fun x m =>
      s.save ((x.setPredLanes (pkCompare g o f).d m ((pkCompare g o f).val x)).done g.sw) := by
  unfold execPkCmp
  rw [toNat_extractLsb'_low]
  rfl

theorem exec_of_predRule {i : Instr} {r : PredRule} (s : State) (h : predRule i = some r) :
    exec i s = issueVector s r.g r.regs r.srcs fun x m =>
      s.save ((x.setPredLanes r.d m (r.val x)).done r.g.sw) := by
  unfold predRule at h
  split at h <;> cases h
  case h_1 g o =>
    show execIcmp g o s = _
    unfold execIcmp
    simp only [intCmp_eq_compares]
  case h_5 g o => exact execPkCmp_eq g o fp16 s
  case h_6 g o => exact execPkCmp_eq g o bf16 s
  all_goals rfl

theorem predEffect_setPredLanes {s : State} {x : Ctx} (hx : s.ctx? = some x) (g : Ctl) (d : Nat)
    (val : Nat → Bool × BitVec 6) :
    PredEffect s (s.save ((x.setPredLanes d (x.active g) val).done g.sw)) x
      ((x.setPredLanes d (x.active g) val).issued g.sw) g d val := by
  have w := Ctx.writes_setPredLanes x d (x.active g) val
  exact {
    outside := w.outside hx g.sw, core := w.coreKept (Ctx.setPredLanes_core ..) g.sw
    frag := w.moved g.sw, wave := w.waveKept g.sw
    p := fun k l hl => by rw [Ctx.issued_p, Ctx.setPredLanes_p _ _ _ _ _ _ hl]
    v := fun r l => (Ctx.issued_v ..).trans (Ctx.setPredLanes_v ..)
    s := fun r => (Ctx.issued_s ..).trans (Ctx.setPredLanes_s ..)
    a := fun r => (Ctx.issued_a ..).trans (Ctx.setPredLanes_a ..)
    flags := (congrArg Wave.fpflags (Ctx.issued_wave ..)).trans (Ctx.setPredLanes_flagsAfter ..) }

/-- Settles O5: each word writes its predicate in the shared way, with the value of its rule. -/
theorem predicateWords : Obligations.PredicateWords := by
  intro i r s x hr h
  rw [exec_of_predRule s hr, issueVector_of_ready h]
  exact ⟨_, _, rfl, predEffect_setPredLanes h.ctx r.g r.d (r.val x)⟩

end Sys2Proof.Claim
end

section
/-! PROOFS. Pair words, of which each half reads before either writes, and NOP, YIELD and clause headers (R18, R21, R246,
R247, R249, R266, R267, R381). -/

open Sys2Proof Sys2Proof.Machine

namespace Sys2Proof.Claim

set_option Elab.async false

/-! ## One half of a pair word -/

theorem bInt_compactVX (x : Ctx) (h : Compact) (l : Nat) :
    bInt x (compactVX h) l = if h.bu then x.s (h.b.extractLsb' 0 7).toNat else x.v h.b.toNat l := by
  cases hb : h.bu <;> simp [bInt, compactVX, bUni, hb]

/-- The model's result of a half is that of the table of R266. -/
theorem compactLane_eq_halfRule (x : Ctx) (h : Compact) : compactLane x h = halfRule x h := by
  funext l
  simp only [compactLane, halfRule, bInt_compactVX, minS_eq, maxS_eq, minU_eq, maxU_eq, shlWord_eq_leftBy,
    shrWord_eq_rightBy, sraWord_eq_signedRightBy]
  rfl

theorem copSfu_eq_later (h : Compact) : copSfu h.cop = later h := (Bool.decide_and ..).symm

/-- A half that is later adds its pending result and writes nothing; another one writes its lanes. -/
theorem compactEffect_of_later {src : Ctx} {h : Compact} (hl : later h = true) (x : Ctx) (m : LaneMask) :
    compactEffect src x h m = x.pendLanes .sfu h.d.toNat m (halfRule src h) := by
  rw [compactEffect, copSfu_eq_later, hl, compactLane_eq_halfRule, if_pos rfl]

theorem compactEffect_of_now {src : Ctx} {h : Compact} (hl : later h = false) (x : Ctx) (m : LaneMask) :
    compactEffect src x h m = x.setLanes h.d.toNat m (halfRule src h) := by
  rw [compactEffect, copSfu_eq_later, hl, compactLane_eq_halfRule, if_neg Bool.false_ne_true]

theorem pendLanes_wave (x : Ctx) (kind : PendKind) (d : Nat) (m : LaneMask) (f : Nat → LaneRes) :
    (x.pendLanes kind d m f).wave = x.wave := by rw [Ctx.pendLanes_eq, Ctx.pendResult_eq]

theorem pendLanes_frag (x : Ctx) (kind : PendKind) (d : Nat) (m : LaneMask) (f : Nat → LaneRes) :
    (x.pendLanes kind d m f).frag = x.frag := by rw [Ctx.pendLanes_eq, Ctx.pendResult_eq]

theorem writes_compactEffect (src x : Ctx) (h : Compact) (m : LaneMask) :
    x.Writes (compactEffect src x h m) := by
  cases hl : later h
  · rw [compactEffect_of_now hl]
    exact Ctx.writes_setLanes ..
  · rw [compactEffect_of_later hl, Ctx.pendLanes_eq]
    exact Ctx.writes_pendResult ..

theorem compactEffect_v (src x : Ctx) (h : Compact) (m : LaneMask) (k : Nat) {j : Nat} (hj : j < 64) :
    (compactEffect src x h m).v k j =
      if m.getLsbD j ∧ k = h.d.toNat ∧ later h = false then (halfRule src h j).1 else x.v k j := by
  cases hl : later h
  · rw [compactEffect_of_now hl, Ctx.setLanes_v _ _ _ _ _ _ hj]
    exact if_congr (by tauto) rfl rfl
  · rw [compactEffect_of_later hl, Ctx.v, pendLanes_wave, pendLanes_frag, if_neg (by simp)]
    rfl

theorem compactEffect_s (src x : Ctx) (h : Compact) (m : LaneMask) (k : Nat) :
    (compactEffect src x h m).s k = x.s k := by
  cases hl : later h
  · rw [compactEffect_of_now hl, Ctx.setLanes_s]
  · rw [compactEffect_of_later hl, Ctx.s, pendLanes_wave, pendLanes_frag, Ctx.s]

theorem compactEffect_a (src x : Ctx) (h : Compact) (m : LaneMask) (k : Nat) :
    (compactEffect src x h m).a k = x.a k := by
  cases hl : later h
  · rw [compactEffect_of_now hl, Ctx.setLanes_a]
  · rw [compactEffect_of_later hl, Ctx.a, pendLanes_wave, pendLanes_frag, Ctx.a]

theorem compactEffect_p (src x : Ctx) (h : Compact) (m : LaneMask) (k : Nat) :
    (compactEffect src x h m).p k = x.p k := by
  cases hl : later h
  · rw [compactEffect_of_now hl, Ctx.setLanes_p]
  · rw [compactEffect_of_later hl, Ctx.p, pendLanes_wave, pendLanes_frag, Ctx.p]

theorem flagsAfter_zero (x : Ctx) (int : Bool) : flagsAfter x int 0 = x.wave.fpflags := by
  simp [flagsAfter]

/-- Flags raised twice are raised together. -/
theorem flagsAfter_twice {x z : Ctx} {int : Bool} {e : BitVec 6} (hh : z.frag.handler = x.frag.handler)
    (hf : z.wave.fpflags = flagsAfter x int e) (f : BitVec 6) :
    flagsAfter z int f = flagsAfter x int (e ||| f) := by
  simp only [flagsAfter, hh, hf]
  split
  · rfl
  · exact BitVec.or_assoc ..

theorem compactEffect_flags (src x : Ctx) (h : Compact) :
    (compactEffect src x h src.frag.mask).wave.fpflags = flagsAfter x false (halfFlags src h) := by
  cases hl : later h
  · rw [compactEffect_of_now hl, Ctx.setLanes_flagsAfter, halfFlags, hl]
    rfl
  · rw [compactEffect_of_later hl, pendLanes_wave, halfFlags, hl, if_pos rfl, flagsAfter_zero]

/-- The pending result of a half names the wave and the fragment of the word whose operands it read. -/
theorem compactEffect_pend {src x : Ctx} (w : src.Writes x) (h : Compact) :
    (compactEffect src x h src.frag.mask).core.pend = x.core.pend ++ halfPend src h := by
  cases hl : later h
  · rw [compactEffect_of_now hl, Ctx.setLanes_core, halfPend, if_neg (by simp [hl]), List.append_nil]
  · rw [compactEffect_of_later hl, Ctx.pendLanes_eq, Ctx.pendResult_eq, w.slot, w.frag_id, w.handler]
    by_cases hm : src.frag.mask = 0
    · rw [if_pos hm, halfPend, if_neg fun h => h.2 hm]
    · rw [if_neg hm, halfPend, if_pos ⟨hl, hm⟩]

/-! ## Pair words -/

theorem execPairWord_ready {s : State} {x : Ctx} {l r : Compact} (sw : Bool) (hx : s.ctx? = some x)
    (hr : ∀ k ∈ compactRegs l ++ compactRegs r, x.regOk k = true) (hf : pairFault l r = false)
    (hp : x.anyPoison x.frag.mask (compactSrcs l ++ compactSrcs r) = false) :
    exec (.pairWord sw l r) s = .next (s.save
      ((compactEffect x (compactEffect x x l x.frag.mask) r x.frag.mask).done sw)) := by
  show execPairWord sw l r s = _
  have hr := List.all_eq_true.mpr hr
  simp only [execPairWord, hx, hr, hf, hp, Bool.not_true, Bool.false_eq_true, if_false]

theorem execPairWord_conflict {s : State} {x : Ctx} {l r : Compact} (sw : Bool) (hx : s.ctx? = some x)
    (hr : ∀ k ∈ compactRegs l ++ compactRegs r, x.regOk k = true) (hf : pairFault l r = true) :
    exec (.pairWord sw l r) s = .next (s.raise x ⟨ePair, 0, 0⟩) := by
  show execPairWord sw l r s = _
  have hr := List.all_eq_true.mpr hr
  simp only [execPairWord, hx, hr, hf, Bool.not_true, Bool.false_eq_true, if_false, if_true]

/-- E_PAIR is for a shared bank, two uniform operands, or two halves of the special set (R267). -/
theorem pairFault_iff (l r : Compact) : pairFault l r = true ↔
    (∃ a ∈ compactRegs l, ∃ b ∈ compactRegs r, a % 4 = b % 4) ∨ (l.bu = true ∧ r.bu = true) ∨
      (23 ≤ l.cop.toNat ∧ l.cop.toNat ≤ 28 ∧ 23 ≤ r.cop.toNat ∧ r.cop.toNat ≤ 28) := by
  simp [pairFault, copSpecial, or_assoc, and_assoc]

theorem pairWordCompletes : PairWordCompletes := by
  intro sw l r s x hx hr hf hp
  let x₁ := compactEffect x x l x.frag.mask
  let x₂ := compactEffect x x₁ r x.frag.mask
  have w₁ : x.Writes x₁ := writes_compactEffect ..
  have w : x.Writes x₂ := w₁.trans (writes_compactEffect ..)
  refine ⟨_, x₂.issued sw, execPairWord_ready sw hx hr hf hp, w.outside hx sw, w.moved sw, w.waveKept sw, ?pend,
    fun k j hj => ?v, fun k => ⟨?s, ?a, ?p⟩, ?flags⟩
  case pend =>
    rw [w.core_issued, compactEffect_pend w₁, compactEffect_pend (.refl x)]
  case v => rw [Ctx.issued_v, compactEffect_v _ _ _ _ _ hj, compactEffect_v _ _ _ _ _ hj]
  case s => rw [Ctx.issued_s, compactEffect_s, compactEffect_s]
  case a => rw [Ctx.issued_a, compactEffect_a, compactEffect_a]
  case p => rw [Ctx.issued_p, compactEffect_p, compactEffect_p]
  case flags =>
    rw [Ctx.issued_wave, compactEffect_flags]
    exact flagsAfter_twice w₁.handler (compactEffect_flags ..) _

theorem pairConflictsTrap : PairConflictsTrap := fun sw l r _ _ hx hr hc =>
  execPairWord_conflict sw hx hr ((pairFault_iff l r).mpr hc)

/-- Settles O9: each half reads the context before both, and writes in the shared way or leaves a pending result. -/
theorem pairWords : Obligations.PairWords := ⟨pairWordCompletes, pairConflictsTrap⟩

/-! ## Plain words of a fragment -/

theorem issueFragment_of_ready {s : State} {x : Ctx} {g : Ctl} {srcs : List Src} (h : FragReady s x g srcs)
    (k : Ctx → LaneMask → State) : issueFragment s g srcs k = .next (k x (x.active g)) :=
  issueFragment_ready k h.ctx h.some h.guard h.clean

theorem exec_nop (s : State) (g : Ctl) (o : CN) :
    exec (.nop g o) s = issueFragment s g [] fun x _ => s.save (x.done g.sw) := rfl

theorem exec_yield (s : State) (g : Ctl) (o : CN) :
    exec (.yield g o) s = issueFragment s g [] fun x _ => s.save (withFrag x
      { x.frag.past g.sw with yielded := true, holds := false }) := rfl

/-- A header without a fault is placed (R246, R247). -/
theorem exec_clauseHeader {s : State} {x : Ctx} {h : Header} {a : DWord} {cls : Cls} (hx : s.ctx? = some x)
    (hl : x.frag.loc = .header a) (hf : h.fault = none) (hc : Cls.ofCode h.cls = some cls) :
    exec (.clauseHeader h) s = .next (s.save (withFrag x
      { x.frag with loc := .word a cls h.count.toNat 0,
                    waits := some ⟨h.ldw.toNat, h.stw.toNat, h.engw.toNat, h.hzw.toNat⟩ })) := by
  show execClauseHeader h s = _
  simp only [execClauseHeader, hx, hl, hf, hc, withFrag]

/-- Settles O22: NOP and YIELD issue as words of a fragment, and a header without a fault is placed. -/
theorem plainControlWords : Obligations.PlainControlWords := fun _ _ =>
  ⟨fun g o h => (exec_nop _ g o).trans (issueFragment_of_ready h _),
    fun g o h => (exec_yield _ g o).trans (issueFragment_of_ready h _),
    fun _ _ _ hx hl hf hc => exec_clauseHeader hx hl hf hc⟩

end Sys2Proof.Claim
end

section
/-! PROOFS. Branches that move on, transfer or divide their fragment, and RCV and EXIT (R43 to R47, R174, R374, R375,
R378, R380). -/

open Sys2Proof Sys2Proof.Machine

namespace Sys2Proof.Claim

set_option Elab.async false

/-! ## Transfers and divisions -/

/-- A damper that is demoted already stays so (R179). -/
theorem take_eq_dampened (d : Damper) (here : DWord) : d.take here = dampened d here := by
  unfold Damper.take dampened
  cases d.dem <;> simp

/-- A transfer sets the place of the fragment and counts for the damper where it goes backward (R377). -/
theorem jump_eq_transferred (x : Ctx) (sw : Bool) (target : DWord) (damp : Bool) :
    x.jump sw target damp = transferred x sw target damp := by
  simp only [Ctx.jump, Ctx.goTo, transferred, jumped, take_eq_dampened]

/-- A branch word reads its guard and its operand, looks at the depth of the stack, and divides. -/
theorem exec_of_branchRule {i : Instr} {r : BranchRule} {s : State} {x : Ctx} (h : branchRule i = some r)
    (hx : s.ctx? = some x) (hg : x.guardPoison r.g x.frag.mask = false) (hc : r.clean x = true) :
    exec i s = if x.tooDeep (r.take x) then .next (s.raise x ⟨eDivergeDepth, 0, 0⟩)
      else .next (s.setCore x.c (x.divide r.g.sw (r.take x) (r.target x) r.token)) := by
  unfold branchRule at h
  split at h <;> cases h
  case h_1 g o =>
    show execBrc g o s = _
    have hc : x.srcPoison x.frag.mask (.p o.p.toNat) = false := by simpa using hc
    simp only [execBrc, hx, hg, hc, Bool.or_self, Bool.false_eq_true, if_false]
    rfl
  case h_2 g o =>
    show execBrx g o s = _
    have hc : x.srcPoison (x.active g) (.a o.a.toNat) = false := by simpa using hc
    simp only [execBrx, hx, hg, hc, Bool.or_self, Bool.false_eq_true, if_false]
    rfl

theorem tooDeep_iff (x : Ctx) (take : LaneMask) : x.tooDeep take = true ↔
    take ≠ 0 ∧ x.frag.mask &&& ~~~take ≠ 0 ∧ 16 ≤ x.frag.stack.length := by
  simp [Ctx.tooDeep, and_assoc]

/-! ### What a division leaves, by the lanes that take it and the room for another fragment -/

/-- The core after the lanes `few` have detached: the fragment of `y` keeps `most`, and both wait for the token (R44). -/
def detached (x y : Ctx) (few most : LaneMask) (fewLoc : Loc) (t : BitVec 8) : Core :=
  (((withFrag y (kept y.frag most (.token t) x.frag.stack)).saved.newFrag x.wave.slot few fewLoc
    (x.frag.stack ++ [.token t]) false).shareCounts x.frag.id x.core.nextFrag).mergeParked x.wave.slot

/-- The core after the lanes `most` have been deferred: the fragment of `y` goes on with `few` (R46). -/
def deferred (x y : Ctx) (few most : LaneMask) (mostLoc : Loc) (t : BitVec 8) : Core :=
  (withFrag y (kept y.frag few (.defer t most mostLoc) x.frag.stack)).saved.mergeParked x.wave.slot

section
variable {x : Ctx} {take : LaneMask} (sw : Bool) (target : DWord) (t : BitVec 8)

theorem divide_none (h : take = 0) : x.divide sw take target t = (stepped x sw).saved := by
  subst h
  rfl

theorem divide_all (h : take ≠ 0) (hs : x.frag.mask &&& ~~~take = 0) :
    x.divide sw take target t = (transferred x sw target true).saved := by
  simp only [Ctx.divide, beq_eq_false_iff_ne.mpr h, hs, BEq.rfl, Bool.false_eq_true, if_false, if_true,
    jump_eq_transferred]

/-- The fewer lanes, those that take the branch on a tie, leave the others or keep the fragment (R44, R46). -/
theorem divide_some (h : take ≠ 0) (hs : x.frag.mask &&& ~~~take ≠ 0) :
    x.divide sw take target t =
      if (lanesOf take).length ≤ (lanesOf (x.frag.mask &&& ~~~take)).length then
        if x.canDetach then detached x (stepped x sw) take (x.frag.mask &&& ~~~take) (.header target) t
        else deferred x (transferred x sw target true) take (x.frag.mask &&& ~~~take) x.frag.loc.next t
      else
        if x.canDetach then
          detached x (transferred x sw target true) (x.frag.mask &&& ~~~take) take x.frag.loc.next t
        else deferred x (stepped x sw) (x.frag.mask &&& ~~~take) take (.header target) t := by
  simp only [Ctx.divide, beq_eq_false_iff_ne.mpr h, beq_eq_false_iff_ne.mpr hs, Bool.false_eq_true, if_false,
    jump_eq_transferred]
  by_cases hm : (lanesOf take).length ≤ (lanesOf (x.frag.mask &&& ~~~take)).length <;>
    cases x.canDetach <;> simp only [hm, decide_true, decide_false, Bool.false_eq_true, if_true, if_false] <;> rfl

end

theorem uniformBranchesComplete : UniformBranchesComplete := by
  intro i r s x h hx hg hc
  refine ⟨fun ht => ?none, fun ht hs => ?all⟩ <;>
    rw [exec_of_branchRule h hx hg hc, if_neg (by rw [tooDeep_iff]; tauto)]
  case none =>
    rw [divide_none _ _ _ ht]
    rfl
  case all =>
    rw [divide_all _ _ _ ht hs]
    rfl

theorem deepBranchesTrap : DeepBranchesTrap := by
  intro i r s x h hx hg hc ht hs hd
  rw [exec_of_branchRule h hx hg hc, if_pos ((tooDeep_iff ..).mpr ⟨ht, hs, hd⟩)]

theorem dividingBranchesComplete : DividingBranchesComplete := by
  intro i r s x h hx hg hc ht hs hd take stay there here token
  rw [exec_of_branchRule h hx hg hc, if_neg fun hb => absurd ((tooDeep_iff ..).mp hb).2.2 hd.not_ge,
    divide_some _ _ _ ht hs]
  refine ⟨fun hm hc => ?_, fun hm hc => ?_, fun hm hc => ?_, fun hm hc => ?_⟩
  · rw [if_pos hm, if_pos hc]
    rfl
  · rw [if_neg hm.not_ge, if_pos hc]
    rfl
  · rw [if_pos hm, if_neg (by simp [hc])]
    rfl
  · rw [if_neg hm.not_ge, if_neg (by simp [hc])]
    rfl

/-- Settles O20: a branch divides unless its stack is full, and what a division leaves depends on which lanes are the fewer
and on the room for another fragment. -/
theorem dividingBranches : Obligations.DividingBranches :=
  ⟨uniformBranchesComplete, deepBranchesTrap, dividingBranchesComplete⟩

/-! ## RCV -/

theorem rcvCompletes : RcvCompletes := by
  intro g o s x h t next rest merged
  have hexec : exec (.rcv g o) s = execRcv g o s := rfl
  refine ⟨fun ht => ?token, fun m pc ht => ?defer, fun m pc ht => ?done, fun ht => ?other⟩ <;>
    rw [hexec, execRcv, issueFragment_of_ready h]
  case other =>
    obtain ht | ⟨u, hu, ht | ⟨m, pc, ht | ht⟩⟩ := ht <;> simp only [ht]
    · rfl
    all_goals
      rw [if_neg hu]
      rfl
  all_goals
    simp only [ht]
    rw [if_pos rfl]
    rfl

/-! ## EXIT -/

theorem exitCompletes : ExitCompletes := by
  intro g o s x h next
  have hexec : exec (.exit g o) s = execExit g o s := rfl
  refine ⟨fun hm => ?left, fun st m pc hm hp => ?path, fun hm hp hh => ?ended, fun hm hp hh hb => ?handled⟩ <;>
    rw [hexec, execExit, issueFragment_of_ready h] <;> refine congrArg Host.Outcome.next ?_
  case left => exact if_pos (bne_iff_ne.mpr hm)
  all_goals refine (if_neg (by simpa using hm)).trans ?_
  case path =>
    simp only [hp]
    rfl
  case ended => simp only [hp, hh, Bool.false_eq_true, if_false]
  case handled => simp only [hp, hh, hb, if_true, Bool.false_eq_true, if_false]

/-- Settles O21: RCV by the top of its fragment's stack, and EXIT by the lanes and paths that are left. -/
theorem joinsAndEnds : Obligations.JoinsAndEnds := ⟨rcvCompletes, exitCompletes⟩

end Sys2Proof.Claim
end

section
/-! PROOFS. Words that do not take effect at issue: those that wait for room, act in no lane, name a register outside
the budget, or consume poison (R40, R76, R174, R195, R223, R271, R297). -/

open Sys2Proof Sys2Proof.Machine

namespace Sys2Proof.Claim

set_option Elab.async false

/-! ## The checks that every word makes before its effect -/

/-- The checks of a word whose registers count against the budget, and which acts on its active lanes: SUB 4, then
consumed poison, then no active lane (R76, R271, R297). -/
def issueChecked (s : State) (g : Ctl) (regs : List Nat) (srcs : List Src) (k : Ctx → LaneMask → State) :
    Host.Outcome State Fault Refusal :=
  match s.ctx? with
  | none => .fault .noFragment
  | some x => if !regs.all x.regOk then .next (s.raise x (illegal 4)) else issueFragment s g srcs k

section
variable {s : State} {x : Ctx} {g : Ctl} {regs : List Nat} {srcs : List Src} (k : Ctx → LaneMask → State)

theorem issueVector_budget (hx : s.ctx? = some x) (hr : regs.all x.regOk = false) :
    issueVector s g regs srcs k = .next (s.raise x (illegal 4)) := by
  simp [issueVector, hx, hr]

theorem issueVector_poison (hx : s.ctx? = some x) (hr : regs.all x.regOk = true)
    (hp : x.guardPoison g x.frag.mask = true ∨ x.anyPoison (x.active g) srcs = true) :
    issueVector s g regs srcs k = .next (s.raise x ⟨ePoisonConsumed, 0, 0⟩) := by
  simp [issueVector, hx, hr, hp]

theorem issueFragment_poison (hx : s.ctx? = some x)
    (hp : x.guardPoison g x.frag.mask = true ∨ x.anyPoison (x.active g) srcs = true) :
    issueFragment s g srcs k = .next (s.raise x ⟨ePoisonConsumed, 0, 0⟩) := by
  simp [issueFragment, hx, hp]

theorem issueChecked_budget (hx : s.ctx? = some x) (hr : regs.all x.regOk = false) :
    issueChecked s g regs srcs k = .next (s.raise x (illegal 4)) := by
  simp [issueChecked, hx, hr]

theorem issueChecked_of_regs (hx : s.ctx? = some x) (hr : regs.all x.regOk = true) :
    issueChecked s g regs srcs k = issueFragment s g srcs k := by
  simp [issueChecked, hx, hr]

/-- A word that names no vector register makes no check of the budget. -/
theorem issueFragment_eq_issueChecked : issueFragment s g srcs k = issueChecked s g [] srcs k := by
  unfold issueChecked
  split
  · next h => simp [issueFragment, h]
  · simp

/-- A vector word that only moves on without an active lane is checked as such. -/
theorem issueVector_eq_issueChecked (hk : ∀ x, k x 0 = s.save (x.done g.sw)) :
    issueVector s g regs srcs k = issueChecked s g regs srcs k := by
  cases hx : s.ctx? with
  | none => simp only [issueVector, issueChecked, hx]
  | some x =>
    simp only [issueVector, issueChecked, issueFragment, hx]
    by_cases hm : x.active g = 0
    · simp only [hm, hk, BEq.rfl, if_true]
    · simp only [beq_eq_false_iff_ne.mpr hm, Bool.false_eq_true, if_false]

theorem issueObject_eq_issueChecked (o : MB) (align n : Nat) (reads : Bool) (k : Ctx → LaneMask → Obj → State) :
    issueObject s g o regs srcs align n reads k = issueChecked s g regs (mbSrcs o ++ srcs) fun x m =>
      match x.objTrap (mbObj x o) align n reads with
      | some t => s.raise x t
      | none => k x m (mbObj x o) := rfl

end

theorem regs_beyond_budget {x : Ctx} {regs : List Nat} {k : Nat} (hh : x.frag.handler = false)
    (hb : x.wave.budget ≤ k) (hk : k ∈ regs) : regs.all x.regOk = false := by
  rw [← Bool.not_eq_true, List.all_eq_true]
  intro h
  have := h k hk
  simp [Ctx.regOk, hh] at this
  omega

/-! ## Words that take a number -/

/-- A word that takes a number makes these checks with the registers and the sources of its rule, and without room for its
operation it leaves the state as it is (R174, R195, R223). -/
def IssuesNumbered (s : State) (out : Host.Outcome State Fault Refusal) (r : OpRule) : Prop :=
  ∃ k : Ctx → LaneMask → State, out = issueChecked s r.g r.regs r.srcs k ∧
    ∀ x, OpReady s x r → x.opRoom r.count = false → k x (x.active r.g) = s

/-- The same with the body of the word given: it is checked by the budget and moves on without an active lane. -/
theorem IssuesNumbered.of_vector {s : State} {out : Host.Outcome State Fault Refusal} {r : OpRule}
    {k : Ctx → LaneMask → State} (h : out = issueVector s r.g r.regs r.srcs k) (hk : ∀ x, k x 0 = s.save (x.done r.g.sw))
    (hw : ∀ x, OpReady s x r → x.opRoom r.count = false → k x (x.active r.g) = s) : IssuesNumbered s out r :=
  ⟨k, h.trans (issueVector_eq_issueChecked k hk), hw⟩

theorem IssuesNumbered.of_fragment {s : State} {out : Host.Outcome State Fault Refusal} {r : OpRule}
    {k : Ctx → LaneMask → State} (h : out = issueFragment s r.g r.srcs k) (hr : r.regs = [])
    (hw : ∀ x, OpReady s x r → x.opRoom r.count = false → k x (x.active r.g) = s) : IssuesNumbered s out r :=
  ⟨k, by rw [h, hr, issueFragment_eq_issueChecked], hw⟩

/-- A word on an object whose operand is in order. -/
theorem IssuesNumbered.of_object {s : State} {out : Host.Outcome State Fault Refusal} {g : Ctl} {o : MB}
    {regs : List Nat} {r : OpRule} {srcs : List Src} {count : Count} {kind : Nat} {commits : Bool} {align size : Nat}
    {reads : Bool} {work : Ctx → Work} {regions : Ctx → List (DWord × Nat)} {needs : State → Ctx → Prop}
    {k : Ctx → LaneMask → Obj → State}
    (hr : r = { objectOp g o srcs count kind commits align size reads work regions needs with regs := regs })
    (h : out = issueObject s g o regs srcs align size reads k)
    (hw : ∀ x, needs s x → x.opRoom count = false → k x (x.active g) (mbObj x o) = s) : IssuesNumbered s out r := by
  subst hr
  refine ⟨_, h.trans (issueObject_eq_issueChecked ..), fun x hx hroom => ?_⟩
  obtain ⟨ho, hn⟩ := hx.needs
  simp only [ho]
  exact hw x hn hroom

theorem issueOp_empty (s : State) (x : Ctx) (sw : Bool) (count : Count) (kind : Nat) (ls : List LaneAcc) (work : Work)
    (commits : Bool) : issueOp s x sw 0 count kind ls work commits = s.save (x.done sw) := rfl

theorem issueOp_noRoom {s : State} {x : Ctx} {m : LaneMask} {count : Count} (sw : Bool) (kind : Nat) (ls : List LaneAcc)
    (work : Work) (commits : Bool) (hm : m ≠ 0) (h : x.opRoom count = false) :
    issueOp s x sw m count kind ls work commits = s := by
  simp only [issueOp, beq_eq_false_iff_ne.mpr hm, h, Bool.not_false, Bool.false_eq_true, if_false, if_true]

theorem issuesNumbered_atomicOp (s : State) (g : Ctl) (o : MA) (ret cas : Bool) :
    IssuesNumbered s (issueAtomic s g o ret cas) (atomicOp g o ret cas) :=
  .of_vector rfl (fun _ => rfl) fun x hx hroom => by
    have hroom : x.opRoom (if ret then Count.ld else .st) = false := hroom
    simp only [beq_eq_false_iff_ne.mpr hx.some, hroom, Bool.not_false, Bool.false_eq_true, if_false, if_true]

theorem issuesNumbered_remoteOp (s : State) (g : Ctl) (o : ER) (op : Nat) (commits : Bool) :
    IssuesNumbered s (issueRmo s g o op) (remoteOp g o op (rmoSize op) commits) := by
  unfold issueRmo
  refine .of_vector rfl (fun x => ?_) fun x hx hroom => ?_
  · rfl
  · have inBounds : ((lanesOf (x.active g)).find? fun l =>
        !x.block.spadOk (erDesc x o + rmoSize op * l) (rmoSize op)) = none :=
      List.find?_eq_none.mpr fun l hl => by simpa using hx.needs l (mem_lanesOf.mp hl).2
    have hroom : x.opRoom .ld = false := hroom
    have hm : (x.active g == 0) = false := beq_eq_false_iff_ne.mpr hx.some
    simp only [remoteOp, inBounds, hroom, hm, Bool.not_false, Bool.false_eq_true, if_false, if_true]

theorem issuesNumbered_commCmd (s : State) (g : Ctl) (o : ED) (op : Nat) :
    IssuesNumbered s (issueComm s g o op) (commCmd g o op) :=
  .of_fragment rfl rfl fun x hx hroom => by
    obtain ⟨hb, hd, -, -⟩ := hx.needs
    have hroom : x.opRoom .eng = false := hroom
    simp only [hb, hd, Option.or_none, hroom, Bool.not_false, Bool.or_true, Bool.true_or, if_true]

/-- Each word with a rule: how it issues, and that it waits. -/
theorem issuesNumbered_of_opRule {i : Instr} {r : OpRule} (s : State) (h : opRule i = some r) :
    IssuesNumbered s (exec i s) r := by
  unfold opRule at h
  split at h <;> cases h <;>
    dsimp only [exec, execGather, execScatter, execBinit, execArrive, execRel, execQwait, execShape]
  case h_1 | h_2 | h_3 | h_4 | h_5 =>
    exact .of_vector rfl (fun _ => issueOp_empty ..) fun x hx hroom => issueOp_noRoom _ _ _ _ _ hx.some hroom
  case h_6 | h_7 | h_8 => exact issuesNumbered_atomicOp ..
  case h_9 | h_15 =>
    refine .of_fragment rfl rfl fun x hx hroom => ?_
    have hroom : x.opRoom .none = false := hroom
    simp only [hroom, Bool.not_false, if_true]
  case h_10 =>
    refine .of_object rfl rfl fun x hx hroom => ?_
    obtain ⟨va, hva⟩ := hx
    simp only [hva, hroom, Bool.not_false, if_true]
  case h_11 =>
    refine .of_object rfl rfl fun x hx hroom => ?_
    simp only [hx, hroom, Bool.not_false, if_true]
  case h_12 =>
    refine .of_object rfl rfl fun x hx hroom => ?_
    obtain ⟨-, clean⟩ := hx
    simp only [clean, hroom, Bool.not_false, Bool.false_eq_true, if_false, if_true]
  case h_13 | h_14 =>
    refine .of_object rfl rfl fun x hx hroom => ?_
    simp only [hroom, Bool.not_false, if_true]
  case h_16 =>
    refine .of_fragment rfl rfl fun x hx hroom => ?_
    have hroom : x.opRoom .none = false := hroom
    have aligned : (x.a _).toNat % 8 = 0 := hx.needs
    simp only [aligned, ne_eq, not_true, hroom, Bool.not_false, if_false, if_true]
  case h_17 =>
    refine .of_vector rfl (fun _ => rfl) fun x hx hroom => ?_
    have hroom : x.opRoom .st = false := hroom
    simp only [beq_eq_false_iff_ne.mpr hx.some, hroom, Bool.not_false, Bool.true_or, Bool.false_eq_true, if_false, if_true]
  case h_18 | h_19 | h_20 => exact issuesNumbered_remoteOp ..
  case h_21 =>
    refine .of_fragment rfl rfl fun x hx hroom => ?_
    obtain ⟨hb, hd, -⟩ := hx.needs
    have hroom : x.opRoom .eng = false := hroom
    simp only [hb, hd, Option.or_none, hroom, Bool.not_false, Bool.or_true, if_true]
  all_goals exact issuesNumbered_commCmd ..

theorem numberedWordsWait : NumberedWordsWait := by
  intro i r s x hr h hroom
  obtain ⟨k, hexec, waits⟩ := issuesNumbered_of_opRule s hr
  obtain ⟨⟨hx, hregs, hg, hp⟩, some, -⟩ := id h
  rw [hexec, issueChecked_of_regs k hx (List.all_eq_true.mpr hregs), issueFragment_ready k hx some hg hp,
    waits x h hroom]

theorem emptyActiveWords : EmptyActiveWords := by
  intro i r s x hr hx hregs hg empty
  obtain ⟨k, hexec, -⟩ := issuesNumbered_of_opRule s hr
  rw [hexec, issueChecked_of_regs k hx (List.all_eq_true.mpr hregs),
    issueFragment_empty k hx empty hg (empty ▸ anyPoison_zero ..)]
  rfl

/-! ## Compute words -/

section
variable (s : State) (g : Ctl) (o : VX)

theorem execInt1_eq (f : Word → LaneRes) :
    ∃ k, execInt1 g o f s = issueVector s g (o.d.toNat :: bRegs o) (bSrcs o) k := ⟨_, rfl⟩

theorem execInt2_eq (f : Word → Word → LaneRes) : ∃ k, execInt2 g o f s
    = issueVector s g (o.d.toNat :: o.a.toNat :: bRegs o) (.v o.a.toNat :: bSrcs o) k := ⟨_, rfl⟩

theorem execInt3_eq (f : Word → Word → Word → LaneRes) : ∃ k, execInt3 g o f s
    = issueVector s g (o.d.toNat :: o.a.toNat :: o.c.toNat :: bRegs o) (.v o.a.toNat :: .v o.c.toNat :: bSrcs o) k :=
  ⟨_, rfl⟩

end

/-- The integer words issue as vector words with the names of their rule, by the number of their sources. -/
theorem exec_of_intRule {i : Instr} {r : LaneRule} (s : State) (h : intRule i = some r) :
    ∃ k, exec i s = issueVector s r.g r.regs r.srcs k := by
  unfold intRule at h
  split at h <;> cases h <;> dsimp only [exec]
  case h_1 | h_13 | h_14 | h_18 | h_23 | h_24 | h_25 => exact execInt1_eq ..
  case h_2 => exact ⟨_, rfl⟩
  case h_8 | h_26 | h_27 | h_29 | h_30 => exact execInt3_eq ..
  case h_28 g o =>
    unfold execSel
    rw [toNat_extractLsb'_low]
    exact ⟨_, rfl⟩
  all_goals exact execInt2_eq ..

theorem exec_of_floatRule {i : Instr} {r : LaneRule} (s : State) (h : floatRule i = some r) :
    exec i s = issueVector s r.g r.regs r.srcs fun x m => s.save ((x.setLanes r.d m (r.val x)).done r.g.sw) := by
  unfold floatRule at h
  split at h <;> cases h <;> rfl

theorem exec_of_sfuRule {i : Instr} {r : LaneRule} (s : State) (h : sfuRule i = some r) :
    exec i s = issueVector s r.g r.regs r.srcs fun x m =>
      s.save ((x.pendLanes .sfu r.d m (r.val x)).done r.g.sw) := by
  unfold sfuRule at h
  split at h <;> cases h <;> rfl

theorem exec_of_sfu64Rule {i : Instr} {r : PairRule} (s : State) (h : sfu64Rule i = some r) :
    exec i s = issueVector s r.g r.regs r.srcs fun x m =>
      s.save ((x.pendPairLanes .sfu r.d m fun l => onF64 (r.val x l)).done r.g.sw) := by
  unfold sfu64Rule at h
  split at h <;> cases h <;> rfl

theorem execVotePred_eq (s : State) (g : Ctl) (o : VX) (srcs : List Src) (regs : List Nat)
    (f : Ctx → LaneMask → Nat → Bool) : ∃ k, execVotePred g o srcs regs f s = issueVector s g regs srcs k := ⟨_, rfl⟩

theorem exec_of_votePredRule {i : Instr} {r : PredRule} (s : State) (h : votePredRule i = some r) :
    ∃ k, exec i s = issueVector s r.g r.regs r.srcs k := by
  unfold votePredRule at h
  split at h <;> cases h <;> dsimp only [exec] <;> exact execVotePred_eq ..

/-- The words with one vector register as their result issue as vector words with the names of their rule. -/
theorem exec_of_laneRule {i : Instr} {r : LaneRule} (s : State)
    (h : intRule i = some r ∨ floatRule i = some r ∨ sfuRule i = some r) :
    ∃ k, exec i s = issueVector s r.g r.regs r.srcs k := by
  obtain h | h | h := h
  · exact exec_of_intRule s h
  · exact ⟨_, exec_of_floatRule s h⟩
  · exact ⟨_, exec_of_sfuRule s h⟩

theorem budgetTraps : BudgetTraps := by
  intro i s x k hx hh hb h
  obtain ⟨r, h, hk⟩ | ⟨r, h, hk⟩ | ⟨r, h, hk⟩ | ⟨r, h, hk⟩ := h
  · obtain ⟨f, hexec⟩ := exec_of_laneRule s h
    rw [hexec, issueVector_budget f hx (regs_beyond_budget hh hb hk)]
  · obtain ⟨f, hexec⟩ : ∃ f, exec i s = issueVector s r.g r.regs r.srcs f :=
      h.elim (fun h => ⟨_, exec_of_float64Rule s h⟩) fun h => ⟨_, exec_of_sfu64Rule s h⟩
    rw [hexec, issueVector_budget f hx (regs_beyond_budget hh hb hk)]
  · obtain ⟨f, hexec⟩ : ∃ f, exec i s = issueVector s r.g r.regs r.srcs f :=
      h.elim (fun h => ⟨_, exec_of_predRule s h⟩) (exec_of_votePredRule s)
    rw [hexec, issueVector_budget f hx (regs_beyond_budget hh hb hk)]
  · obtain ⟨f, hexec, -⟩ := issuesNumbered_of_opRule s h
    rw [hexec, issueChecked_budget f hx (regs_beyond_budget hh hb hk)]

theorem poisonTraps : PoisonTraps := by
  intro i s x hx
  refine ⟨fun r h hregs hp => ?_, fun r h hregs hp => ?_⟩
  · obtain ⟨f, hexec⟩ := exec_of_laneRule s h
    rw [hexec, issueVector_poison f hx (List.all_eq_true.mpr hregs) hp]
  · obtain ⟨f, hexec, -⟩ := issuesNumbered_of_opRule s h
    rw [hexec, issueChecked_of_regs f hx (List.all_eq_true.mpr hregs), issueFragment_poison f hx hp]

/-- Settles O11: every word makes the shared checks with the names of its rule, and a numbered one without room waits. -/
theorem issueConditions : Obligations.IssueConditions :=
  ⟨numberedWordsWait, emptyActiveWords, budgetTraps, poisonTraps⟩

end Sys2Proof.Claim
end

section
/-! SUPPORT. The writes of RDSR: registers that take their poison with their value, and a context whose wave has changed
besides its registers (R76, R92, R391). -/

namespace Sys2Proof.Machine

set_option Elab.async false

/-! ## Poison of uniform registers -/

theorem contains_listSet (l : List Nat) (k j : Nat) (on : Bool) :
    (listSet l k on).contains j = if k = j then on else l.contains j := by
  unfold listSet
  cases on with
  | false => by_cases hk : k = j <;> grind
  | true => by_cases hk : k = j <;> grind

theorem Wave.poisonS_putS (w : Wave) (h : Bool) (r q : Nat) (x : Word) (po : Bool) :
    (w.putS h r x po).poisonS h q = if r = q then po else w.poisonS h q := by
  unfold Wave.putS Wave.poisonS Wave.winFor
  by_cases hrq : r = q
  · subst hrq
    cases w.win <;> cases h <;> by_cases hr : r < 32 <;> simp [hr, contains_listSet, -List.contains_eq_mem]
  · cases w.win <;> cases h <;> by_cases hr : r < 32 <;> by_cases hq : q < 32 <;>
      simp [hr, hq, contains_listSet, hrq, -List.contains_eq_mem]

/-! ## Lanes with their poison -/

/-- What no write of one lane changes, writes of several lanes do not change either. -/
theorem Wave.foldl_putV_keeps {α β : Type} (view : Wave → α) (h : Bool) (d : Nat) (l : β → Nat) (v : β → Word)
    (po : β → BitVec 2) (keeps : ∀ w l v po, view (Wave.putV w h d l v po) = view w) (es : List β) (w : Wave) :
    view (es.foldl (fun w e => w.putV h d (l e) (v e) (po e)) w) = view w := by
  induction es generalizing w with
  | nil => rfl
  | cons e r ih => exact (ih _).trans (keeps ..)

section
variable (x : Ctx) (d : Nat) (vals : List (Nat × Word × BitVec 2))

theorem Ctx.setVPoison_wave : (x.setVPoison d vals).wave
    = vals.foldl (fun w e => w.putV x.frag.handler d e.1 e.2.1 e.2.2) x.wave := by
  rw [Ctx.setVPoison, Ctx.fold_wave]

theorem Ctx.setVPoison_keeps {α : Type} (view : Wave → α)
    (keeps : ∀ w l v po, view (Wave.putV w x.frag.handler d l v po) = view w) :
    view (x.setVPoison d vals).wave = view x.wave := by
  rw [Ctx.setVPoison_wave]
  exact Wave.foldl_putV_keeps view _ _ _ _ _ keeps vals _

theorem Ctx.writes_setVPoison : x.Writes (x.setVPoison d vals) :=
  .trans (.of_wave (Wave.foldl_putV_keeps Wave.rest _ _ _ _ _
    (fun _ _ _ _ => Wave.rest_eq_of_bare (Wave.bare_putV ..)) vals _)) (Ctx.writes_fold ..)

@[simp] theorem Ctx.setVPoison_core : (x.setVPoison d vals).core = x.core := Ctx.fold_core ..

theorem Ctx.setVPoison_s (r : Nat) : (x.setVPoison d vals).s r = x.s r := by
  rw [Ctx.s, (x.writes_setVPoison d vals).handler]
  exact Ctx.setVPoison_keeps x d vals (fun w => w.getS x.frag.handler r) fun _ _ _ _ => Wave.getS_putV ..

theorem Ctx.setVPoison_a (r : Nat) : (x.setVPoison d vals).a r = x.a r := by
  rw [Ctx.a, (x.writes_setVPoison d vals).handler]
  exact Ctx.setVPoison_keeps x d vals (fun w => w.getA x.frag.handler r) fun _ _ _ _ => Wave.getA_putV ..

theorem Ctx.setVPoison_p (k : Nat) : (x.setVPoison d vals).p k = x.p k := by
  rw [Ctx.p, (x.writes_setVPoison d vals).handler]
  exact Ctx.setVPoison_keeps x d vals (fun w => w.getP x.frag.handler k) fun _ _ _ _ => Wave.getP_putV ..

theorem Ctx.setVPoison_fpflags : (x.setVPoison d vals).wave.fpflags = x.wave.fpflags :=
  Ctx.setVPoison_keeps x d vals Wave.fpflags fun _ _ _ _ => Wave.fpflags_eq_of_bare (Wave.bare_putV ..)

end

section
variable (x : Ctx) (d : Nat) (m : LaneMask) (f : Nat → Word) (po : Nat → BitVec 2) (r : Nat) {l : Nat} (hl : l < 64)
include hl

theorem mem_lanesOf_iff : l ∈ lanesOf m ↔ m.getLsbD l = true := by simp [mem_lanesOf, hl]

/-- In the lanes of the mask the register takes the values; every other register and lane is as before. -/
theorem Ctx.setVPoison_v : (x.setVPoison d ((lanesOf m).map fun j => (j, f j, po j))).v r l
    = if r = d ∧ m.getLsbD l = true then f l else x.v r l := by
  rw [Ctx.v, (x.writes_setVPoison ..).handler, Ctx.setVPoison_wave, List.foldl_map,
    Wave.getV_foldl_putV _ (fun j hj => (mem_lanesOf.mp hj).1) _ _ _ _ _ _ _ hl]
  exact if_congr (and_congr eq_comm (mem_lanesOf_iff m hl)) rfl rfl

/-- They take their poison too. -/
theorem Ctx.setVPoison_poison :
    (x.setVPoison d ((lanesOf m).map fun j => (j, f j, po j))).wave.poisonV x.frag.handler r l
      = if r = d ∧ m.getLsbD l = true then po l else x.wave.poisonV x.frag.handler r l := by
  rw [Ctx.setVPoison_wave, List.foldl_map,
    Wave.poisonV_foldl_putV _ (fun j hj => (mem_lanesOf.mp hj).1) _ _ _ _ _ _ _ hl]
  exact if_congr (and_congr eq_comm (mem_lanesOf_iff m hl)) rfl rfl

end

/-! ## A uniform register with its poison -/

/-- The context with an s-register written, with the poison that its value carries. -/
def Ctx.setSPoison (x : Ctx) (d : Nat) (v : Word) (po : Bool) : Ctx :=
  ({ x with wave := x.wave.putS x.frag.handler d v po }).fold (256 + d) v

section
variable (x : Ctx) (d : Nat) (v : Word) (po : Bool)

theorem Ctx.setSPoison_wave : (x.setSPoison d v po).wave = x.wave.putS x.frag.handler d v po := by
  rw [Ctx.setSPoison, Ctx.fold_wave]

theorem Ctx.writes_setSPoison : x.Writes (x.setSPoison d v po) :=
  (Ctx.Writes.of_wave (Wave.rest_eq_of_bare (Wave.bare_putS ..))).trans (Ctx.writes_fold ..)

@[simp] theorem Ctx.setSPoison_core : (x.setSPoison d v po).core = x.core := Ctx.fold_core ..

theorem Ctx.setSPoison_s (r : Nat) : (x.setSPoison d v po).s r = if r = d then v else x.s r := by
  rw [Ctx.setSPoison, Ctx.fold_s]
  exact (Wave.getS_putS ..).trans (if_congr eq_comm rfl rfl)

theorem Ctx.setSPoison_poison (r : Nat) : (x.setSPoison d v po).wave.poisonS x.frag.handler r
    = if r = d then po else x.wave.poisonS x.frag.handler r := by
  rw [Ctx.setSPoison_wave]
  exact (Wave.poisonS_putS ..).trans (if_congr eq_comm rfl rfl)

theorem Ctx.setSPoison_v (r l : Nat) : (x.setSPoison d v po).v r l = x.v r l := by
  rw [Ctx.setSPoison, Ctx.fold_v]
  exact Wave.getV_putS ..

theorem Ctx.setSPoison_a (r : Nat) : (x.setSPoison d v po).a r = x.a r := by
  rw [Ctx.setSPoison, Ctx.fold_a]
  exact Wave.getA_putS ..

theorem Ctx.setSPoison_p (k : Nat) : (x.setSPoison d v po).p k = x.p k := by
  rw [Ctx.setSPoison, Ctx.fold_p]
  exact Wave.getP_putS ..

theorem Ctx.setSPoison_fpflags : (x.setSPoison d v po).wave.fpflags = x.wave.fpflags := by
  rw [Ctx.setSPoison_wave]
  exact Wave.fpflags_eq_of_bare (Wave.bare_putS ..)

end

/-! ## What a read of a special register leaves of a wave -/

/-- A wave without its vector and uniform registers. -/
def Wave.unread (w : Wave) : Wave := { w with v := [], s := [], vPoison := [], sPoison := [], win := none }

theorem Wave.unread_putV (w : Wave) (h : Bool) (r l : Nat) (x : Word) (po : BitVec 2) :
    (w.putV h r l x po).unread = w.unread := by
  unfold Wave.putV; split <;> rfl

theorem Wave.unread_putS (w : Wave) (h : Bool) (r : Nat) (x : Word) (po : Bool) :
    (w.putS h r x po).unread = w.unread := by
  unfold Wave.putS; split <;> rfl

/-! ## A wave that has changed in any way -/

/-- A word whose wave stays in its slot and its block, and whose core is as before, reaches nothing outside its wave and its
fragment. -/
theorem Ctx.outside_save {s : State} {x z : Ctx} (hx : s.ctx? = some x) (sw : Bool) {w : Wave}
    (hw : x.Writes { z with wave := w }) (hp : z.core = x.core) (hs : z.wave.slot = x.wave.slot)
    (hb : z.wave.block = x.wave.block) : Claim.Outside s (s.save (z.done sw)) x (z.issued sw) :=
  have o := hw.outside hx sw
  { state := rfl
    cores := fun c hc => State.core_setCore_ne s _ fun e => hc (e.symm.trans hw.c)
    after := State.ctx?_save hx hw.c hw.word ⟨_, hp⟩ hs hb (congrArg Block.slot hw.block) hw.frag_id hw.frag_wave
    sameCore := hw.c
    waves := fun k hk => (Core.wave?_setWave_ne z.core (hs ▸ hk)).trans (by rw [hp])
    frags := o.frags
    blocks := o.blocks
    block := hw.block }

end Sys2Proof.Machine
end

section
/-! PROOFS. RDSR and WRSR: what they read and write, and when they wait or trap (R40, R50, R63, R76 to R78, R82, R83, R89,
R91 to R93, R174, R391). -/

open Sys2Proof Sys2Proof.Machine

namespace Sys2Proof.Claim

set_option Elab.async false

/-! ## RDSR -/

/-- The context once RDSR has kept the high half of %clk with its low half (R89). -/
def latched (s : State) (x : Ctx) (num sel : Nat) : Ctx :=
  if num = 8 ∧ sel = 0 then { x with wave := { x.wave with clkLatch := (s.clk x.c).extractLsb' 32 32 } } else x

/-- The context with the value and the poison of a special register in the destination of RDSR. -/
def srTaken (s : State) (x : Ctx) (o : SR) (m : LaneMask) : Ctx :=
  let num := o.num.toNat
  let sel := o.sel.toNat
  let low := (lowLane m).getD 0
  if o.uk then (latched s x num sel).setSPoison o.reg.toNat (s.srRead x num sel low) (srPoison x num sel low != 0)
  else (latched s x num sel).setVPoison o.reg.toNat
    ((lanesOf m).map fun l => (l, s.srRead x num sel l, srPoison x num sel l))

theorem srTrap_of_ready {s : State} {x : Ctx} {g : Ctl} {o : SR} {write : Bool} (h : SrReady s x g o write) :
    x.srTrap write o.num.toNat o.sel.toNat = none := by
  have budget : (decide (o.num.toNat = 0x0B) && decide (x.wave.budget ≤ o.sel.toNat)) = false := by
    simpa using h.budget
  simp [Ctx.srTrap, h.allowed, budget]

theorem exec_rdsr_of_ready {s : State} {x : Ctx} {g : Ctl} {o : SR} (h : SrReady s x g o false) :
    exec (.rdsr g o) s = .next (
      if x.srWaits o.num.toNat o.sel.toNat then
        if 63 ≤ x.core.countOf x.frag .ld then s else s.save ((x.pendSr o (x.active g)).done g.sw)
      else if srConsumes x (x.active g) o.num.toNat o.sel.toNat then s.raise x ⟨ePoisonConsumed, 0, 0⟩
      else s.save ((srTaken s x o (x.active g)).done g.sw)) := by
  show execRdsr g o s = _
  unfold execRdsr
  dsimp only
  refine (issueVector_of_ready h.ready _).trans (congrArg Host.Outcome.next ?_)
  simp only [beq_eq_false_iff_ne.mpr h.some, Bool.false_eq_true, if_false, srTrap_of_ready h]
  unfold srTaken latched
  by_cases hclk : o.num.toNat = 8 ∧ o.sel.toNat = 0
  · simp only [if_pos hclk]
    rfl
  · simp only [if_neg hclk]
    rfl

theorem allFlags_zero (m : LaneMask) : (allFlags m fun _ => 0) = 0 := by
  simp [allFlags]

section
variable {s : State} {x : Ctx} (hx : s.ctx? = some x) (g : Ctl) (d : Nat)
include hx

theorem laneEffect_setVPoison (f : Nat → Word) (po : Nat → BitVec 2) :
    LaneEffect s (s.save ((x.setVPoison d ((lanesOf (x.active g)).map fun l => (l, f l, po l))).done g.sw)) x
      ((x.setVPoison d ((lanesOf (x.active g)).map fun l => (l, f l, po l))).issued g.sw) g false d
      (fun l => (f l, 0)) po :=
  have w := x.writes_setVPoison d ((lanesOf (x.active g)).map fun l => (l, f l, po l))
  { outside := w.outside hx g.sw
    core := w.coreKept (Ctx.setVPoison_core ..) g.sw
    frag := w.moved g.sw
    wave := w.waveKept g.sw
    v := fun r l hl => (Ctx.issued_v ..).trans (Ctx.setVPoison_v x d _ f po r hl)
    poison := fun r l hl => by rw [Ctx.issued_wave, Ctx.setVPoison_poison x d _ f po r hl]
    s := fun _ => (Ctx.issued_s ..).trans (Ctx.setVPoison_s ..)
    a := fun _ => (Ctx.issued_a ..).trans (Ctx.setVPoison_a ..)
    p := fun _ => (Ctx.issued_p ..).trans (Ctx.setVPoison_p ..)
    flags := by rw [Ctx.issued_wave, Ctx.setVPoison_fpflags, allFlags_zero, flagsAfter_zero] }

theorem uniEffect_setSPoison (v : Ctx → Word) (po : Bool) :
    UniEffect s (s.save ((x.setSPoison d (v x) po).done g.sw)) x ((x.setSPoison d (v x) po).issued g.sw) g (.s d v) :=
  have w := x.writes_setSPoison d (v x) po
  { outside := w.outside hx g.sw
    core := w.coreKept (Ctx.setSPoison_core ..) g.sw
    frag := w.moved g.sw
    wave := w.waveKept g.sw
    s := fun _ => (Ctx.issued_s ..).trans (Ctx.setSPoison_s ..)
    a := fun _ => (Ctx.issued_a ..).trans (Ctx.setSPoison_a ..)
    v := fun _ _ => (Ctx.issued_v ..).trans (Ctx.setSPoison_v ..)
    p := fun _ => (Ctx.issued_p ..).trans (Ctx.setSPoison_p ..)
    flags := (congrArg Wave.fpflags (Ctx.issued_wave ..)).trans (Ctx.setSPoison_fpflags ..) }

end

/-! ### The clock -/

section
variable (s : State) (x : Ctx) (o : SR) (m : LaneMask)

theorem writes_srTaken : (latched s x o.num.toNat o.sel.toNat).Writes (srTaken s x o m) := by
  unfold srTaken
  cases o.uk
  · exact Ctx.writes_setVPoison ..
  · exact Ctx.writes_setSPoison ..

theorem srTaken_core : (srTaken s x o m).core = (latched s x o.num.toNat o.sel.toNat).core := by
  unfold srTaken
  cases o.uk
  · exact Ctx.setVPoison_core ..
  · exact Ctx.setSPoison_core ..

theorem srTaken_a (r : Nat) : (srTaken s x o m).a r = (latched s x o.num.toNat o.sel.toNat).a r := by
  unfold srTaken
  cases o.uk
  · exact Ctx.setVPoison_a ..
  · exact Ctx.setSPoison_a ..

theorem srTaken_p (k : Nat) : (srTaken s x o m).p k = (latched s x o.num.toNat o.sel.toNat).p k := by
  unfold srTaken
  cases o.uk
  · exact Ctx.setVPoison_p ..
  · exact Ctx.setSPoison_p ..

theorem srTaken_unread : (srTaken s x o m).wave.unread = (latched s x o.num.toNat o.sel.toNat).wave.unread := by
  unfold srTaken
  cases o.uk
  · exact Ctx.setVPoison_keeps _ _ _ Wave.unread fun _ _ _ _ => Wave.unread_putV ..
  · exact (congrArg Wave.unread (Ctx.setSPoison_wave ..)).trans (Wave.unread_putS ..)

theorem srTaken_v (r : Nat) {l : Nat} (hl : l < 64) : (srTaken s x o m).v r l =
    if o.uk = false ∧ r = o.reg.toNat ∧ m.getLsbD l then s.srRead x o.num.toNat o.sel.toNat l
    else (latched s x o.num.toNat o.sel.toNat).v r l := by
  unfold srTaken
  cases o.uk
  · exact (Ctx.setVPoison_v _ _ m _ _ r hl).trans (if_congr (by simp) rfl rfl)
  · exact Ctx.setSPoison_v ..

theorem srTaken_s (r : Nat) : (srTaken s x o m).s r =
    if o.uk = true ∧ r = o.reg.toNat then s.srRead x o.num.toNat o.sel.toNat ((lowLane m).getD 0)
    else (latched s x o.num.toNat o.sel.toNat).s r := by
  unfold srTaken
  cases o.uk
  · exact Ctx.setVPoison_s ..
  · exact (Ctx.setSPoison_s ..).trans (if_congr (by simp) rfl rfl)

end

/-- A read of the low half of %clk keeps the high half in the clock latch; of the wave it changes no other special
register, no address register and no predicate (R89). -/
theorem rdsr_clk {s : State} {x : Ctx} (hx : s.ctx? = some x) (g : Ctl) {o : SR}
    (hclk : o.num.toNat = 8 ∧ o.sel.toNat = 0) :
    ∃ y, Outside s (s.save ((srTaken s x o (x.active g)).done g.sw)) x y ∧ coreKept x y ∧ moved x y g.sw ∧
      y.wave = { x.wave with
        v := y.wave.v, s := y.wave.s, vPoison := y.wave.vPoison, sPoison := y.wave.sPoison, win := y.wave.win,
        clkLatch := (s.clk x.c).extractLsb' 32 32 } ∧
      (∀ r, y.a r = x.a r) ∧ (∀ k, y.p k = x.p k) ∧
      (∀ r l, l < 64 → y.v r l = if o.uk = false ∧ r = o.reg.toNat ∧ (x.active g).getLsbD l
        then (s.clk x.c).extractLsb' 0 32 else x.v r l) ∧
      (∀ r, y.s r = if o.uk = true ∧ r = o.reg.toNat then (s.clk x.c).extractLsb' 0 32 else x.s r) := by
  have w := writes_srTaken s x o (x.active g)
  have core := srTaken_core s x o (x.active g)
  have kept := srTaken_unread s x o (x.active g)
  have a := srTaken_a s x o (x.active g)
  have p := srTaken_p s x o (x.active g)
  have v := srTaken_v s x o (x.active g)
  have sreg := srTaken_s s x o (x.active g)
  have low : ∀ l, s.srRead x o.num.toNat o.sel.toNat l = (s.clk x.c).extractLsb' 0 32 := fun l => by
    rw [hclk.1, hclk.2]
    rfl
  rw [latched, if_pos hclk] at w core kept a p
  simp only [latched, if_pos hclk, low] at v sreg
  generalize srTaken s x o (x.active g) = z at *
  have back : x.Writes { z with wave := { z.wave with clkLatch := x.wave.clkLatch } } :=
    ⟨w.c, w.word, w.block, w.core, w.frag,
      (congrArg (fun u : Wave => { u with clkLatch := x.wave.clkLatch }) w.wave :)⟩
  refine ⟨z.issued g.sw, Ctx.outside_save hx g.sw back core w.slot w.wave_block, back.coreKept core g.sw, back.moved g.sw,
    ?wave, a, p, fun r l hl => v r hl, sreg⟩
  exact (congrArg (fun u : Wave => { u with
    v := z.wave.v, s := z.wave.s, vPoison := z.wave.vPoison, sPoison := z.wave.sPoison, win := z.wave.win }) kept :)

theorem rdsrCompletes : RdsrCompletes := by
  intro g o s x h num sel low
  have hx := h.ready.ctx
  refine ⟨fun hw hc => ?waits, fun hw hp => ⟨fun hclk huk => ?lanes, fun hclk huk => ?uniform, fun hclk => ?clock⟩⟩
  case waits =>
    rw [exec_rdsr_of_ready h, if_pos hw, if_neg hc.not_ge]
    rfl
  all_goals rw [exec_rdsr_of_ready h, if_neg (Bool.eq_false_iff.mp hw), if_neg (Bool.eq_false_iff.mp hp)]
  case lanes =>
    rw [srTaken, latched, if_neg hclk, huk]
    exact ⟨_, _, rfl, laneEffect_setVPoison hx g ..⟩
  case uniform =>
    rw [srTaken, latched, if_neg hclk, huk]
    exact ⟨_, _, rfl, uniEffect_setSPoison hx g _ (fun x => s.srRead x num sel low) _,
      fun r => (congrArg (fun w => w.poisonS x.frag.handler r) (Ctx.issued_wave ..)).trans (Ctx.setSPoison_poison ..)⟩
  case clock =>
    obtain ⟨y, hy⟩ := rdsr_clk hx g hclk
    exact ⟨_, y, rfl, hy⟩

/-! ## Registers that may not be touched -/

/-- RDSR and WRSR are vector words that make the checks of a special register first. -/
theorem exec_sr_trap {s : State} {x : Ctx} {g : Ctl} {o : SR} {t : Cause}
    (h : Ready s x g (if o.uk then [] else [o.reg.toNat]) []) (act : x.active g ≠ 0)
    {e : Instr × Bool} (he : e ∈ [(Instr.rdsr g o, false), (Instr.wrsr g o, true)])
    (ht : x.srTrap e.2 o.num.toNat o.sel.toNat = some t) : exec e.1 s = .next (s.raise x t) := by
  obtain rfl | rfl : e = (.rdsr g o, false) ∨ e = (.wrsr g o, true) := by simpa using he
  · show execRdsr g o s = _
    unfold execRdsr
    dsimp only at ht ⊢
    refine (issueVector_of_ready h _).trans (congrArg Host.Outcome.next ?_)
    simp only [beq_eq_false_iff_ne.mpr act, Bool.false_eq_true, if_false, ht]
  · show execWrsr g o s = _
    unfold execWrsr
    dsimp only at ht ⊢
    refine (issueVector_of_ready h _).trans (congrArg Host.Outcome.next ?_)
    simp only [beq_eq_false_iff_ne.mpr act, Bool.false_eq_true, if_false, ht]

theorem specialRegisterTraps : SpecialRegisterTraps := by
  intro g o s x h act e he
  refine ⟨fun hn => exec_sr_trap h act he ?_, fun ha hb hw => exec_sr_trap h act he ?_⟩
  · simp [Ctx.srTrap, hn]
  · rw [hb] at ha ⊢
    simp [Ctx.srTrap, ha, hw]

/-! ## WRSR -/

/-- The value that WRSR writes in a lane. -/
def srValue (x : Ctx) (o : SR) (l : Nat) : Word := if o.uk then x.s o.reg.toNat else x.v o.reg.toNat l

theorem exec_wrsr_of_ready {s : State} {x : Ctx} {g : Ctl} {o : SR} (h : SrReady s x g o true)
    (hp : x.anyPoison (if o.num.toNat = 0x0B ∨ o.num.toNat = 0x0E then x.active g
      else laneBit ((lowLane (x.active g)).getD 0)) [if o.uk then .s o.reg.toNat else .v o.reg.toNat] = false)
    (hv : x.srValueTrap o.num.toNat o.sel.toNat (srValue x o ((lowLane (x.active g)).getD 0)) = none) :
    exec (.wrsr g o) s = .next (
      if x.srWaits o.num.toNat o.sel.toNat then s
      else s.save (stepped (withWave x (x.wave.srWrite o.num.toNat o.sel.toNat (x.active g) (srValue x o)
        (srValue x o ((lowLane (x.active g)).getD 0)))) g.sw)) := by
  have perLane : perLane o.num.toNat = true ↔ o.num.toNat = 0x0B ∨ o.num.toNat = 0x0E := by simp [perLane]
  rw [← if_congr perLane rfl rfl] at hp
  unfold srValue at hv
  show execWrsr g o s = _
  unfold execWrsr
  dsimp only
  refine (issueVector_of_ready h.ready _).trans (congrArg Host.Outcome.next ?_)
  simp only [beq_eq_false_iff_ne.mpr h.some, Bool.false_eq_true, if_false, srTrap_of_ready h, hp, hv]
  rfl

theorem lpartField_eq (v : Word) : lpartField v = v.toNat % 128 := toNat_extractLsb'_low v

theorem srValueTrap_none {x : Ctx} {num sel : Nat} {v : Word}
    (h1 : num = 1 → (x.core.fragsOf x.wave.slot).length ≤ 1 ∧ (v.toNat % 128 = 4 ∨ v.toNat % 128 = 8 ∨
      v.toNat % 128 = 16 ∨ v.toNat % 128 = 32 ∨ v.toNat % 128 = 64))
    (hA : num = 0x0A → sel = 0 → v.extractLsb' 0 7 = 0) : x.srValueTrap num sel v = none := by
  unfold Ctx.srValueTrap
  split
  · obtain ⟨one, size⟩ := h1 rfl
    rw [if_neg one.not_gt, lpartField_eq, if_pos (by simpa using size)]
  · exact if_neg fun h => h.2 (hA rfl h.1)
  · rfl

/-! ### The registers of the interrupted wave -/

theorem srWrite_xv (w : Wave) (sel : Nat) (m : LaneMask) (val : Nat → Word) (v : Word) :
    let u := w.srWrite 0x0B sel m val v
    u = { w with v := u.v, vPoison := u.vPoison } ∧ ∀ r l, l < 64 →
      u.getV false r l = (if r = sel ∧ m.getLsbD l then val l else w.getV false r l) ∧
      u.poisonV false r l = if r = sel ∧ m.getLsbD l then 0 else w.poisonV false r l := by
  have kept := Wave.foldl_putV_keeps (fun u => { u with v := [], vPoison := [] }) false sel id val (fun _ => 0)
    (fun _ _ _ _ => rfl) (lanesOf m) w
  refine ⟨(congrArg (fun u : Wave => { u with
    v := (w.srWrite 0x0B sel m val v).v, vPoison := (w.srWrite 0x0B sel m val v).vPoison }) kept :),
    fun r l hl => ⟨?_, ?_⟩⟩
  · exact (Wave.getV_foldl_putV _ (fun j hj => (mem_lanesOf.mp hj).1) _ _ _ _ _ _ _ hl).trans
      (if_congr (and_congr eq_comm (mem_lanesOf_iff m hl)) rfl rfl)
  · exact (Wave.poisonV_foldl_putV _ (fun j hj => (mem_lanesOf.mp hj).1) _ _ _ _ _ _ _ hl).trans
      (if_congr (and_congr eq_comm (mem_lanesOf_iff m hl)) rfl rfl)

theorem srWrite_xs (w : Wave) (sel : Nat) (m : LaneMask) (val : Nat → Word) (v : Word) :
    let u := w.srWrite 0x0C sel m val v
    u = { w with s := u.s, sPoison := u.sPoison } ∧ ∀ r,
      u.getS false r = (if r = sel then v else w.getS false r) ∧
      u.poisonS false r = if r = sel then false else w.poisonS false r :=
  ⟨rfl, fun r => ⟨(Wave.getS_putS w false sel r v false).trans (if_congr eq_comm rfl rfl),
    (Wave.poisonS_putS w false sel r v false).trans (if_congr eq_comm rfl rfl)⟩⟩

theorem srWrite_xa (w : Wave) (sel : Nat) (m : LaneMask) (val : Nat → Word) (v : Word) :
    let u := w.srWrite 0x0D sel m val v
    u = { w with a := u.a, aPoison := u.aPoison } ∧
      (∀ r, u.getA false r = if r = sel / 2 then
          (if sel % 2 = 1 then v ++ (w.getA false r).extractLsb' 0 32 else (w.getA false r).extractLsb' 32 32 ++ v)
        else w.getA false r) ∧
      ∀ r up, u.poisonA false r up = if 2 * r + up.toNat = sel then false else w.poisonA false r up := by
  have half : 2 * (sel / 2) + (sel % 2 == 1).toNat = sel := by
    rcases Nat.mod_two_eq_zero_or_one sel with h | h <;> simp [h] <;> omega
  refine ⟨rfl, fun r => ?_, fun r up => ?_⟩
  · have key : (w.srWrite 0x0D sel m val v).getA false r
        = if sel / 2 = r then putHalf (w.getA false (sel / 2)) (sel % 2 == 1) v else w.getA false r := Map.get_putD ..
    rw [key]
    by_cases hr : r = sel / 2
    · subst hr
      simp [putHalf]
    · rw [if_neg hr, if_neg (Ne.symm hr)]
  · have key : (w.srWrite 0x0D sel m val v).poisonA false r up
        = (w.aPoison.filter fun j => j != 2 * (sel / 2) + (sel % 2 == 1).toNat).contains (2 * r + up.toNat) := rfl
    have old : w.poisonA false r up = w.aPoison.contains (2 * r + up.toNat) := rfl
    rw [key, old, half]
    by_cases hr : 2 * r + up.toNat = sel <;> simp [hr]

theorem srWrite_xp (w : Wave) {sel : Nat} (m : LaneMask) (val : Nat → Word) (v : Word) (h : sel ≠ 0) :
    let u := w.srWrite 0x0E sel m val v
    u = { w with p := u.p, pPoison := u.pPoison } ∧ ∀ k l, l < 64 → (u.getP false k).getLsbD l
      = if k = sel ∧ m.getLsbD l then (val l).getLsbD 0 else (w.getP false k).getLsbD l := by
  have key : ∀ k, (w.srWrite 0x0E sel m val v).getP false k = _ := fun k => Wave.getP_putP w false sel k m _
  refine ⟨?_, fun k l hl => ?_⟩
  · simp only [Wave.srWrite, Wave.putP, if_neg h]
    rfl
  · rw [key]
    by_cases hk : k = sel
    · subst hk
      rw [if_pos ⟨rfl, h⟩, BitVec.getLsbD_or, BitVec.getLsbD_and, BitVec.getLsbD_and, BitVec.getLsbD_not,
        getLsbD_maskOf _ hl]
      cases m.getLsbD l <;> simp [hl]
    · rw [if_neg fun e => hk e.1.symm, if_neg fun e => hk e.1]

theorem sel_ne_zero_of_allowed {handler write : Bool} {sel : Nat} (h : srAllowed handler write 0x0E sel = true) :
    sel ≠ 0 := by
  rintro rfl
  simp [srAllowed, lastSel] at h

theorem wrsrCompletes : WrsrCompletes := by
  intro g o s x h num sel low val size hp h1 hA
  have hexec := exec_wrsr_of_ready h hp (srValueTrap_none h1 hA)
  refine ⟨fun hw => hexec.trans (by rw [if_pos hw]), fun hw => ⟨x.wave.srWrite num sel (x.active g) val (val low),
    hexec.trans (by rw [if_neg (Bool.eq_false_iff.mp hw)]; rfl), ?lpart, ?fpflags, ?tfpLow, ?tfpHigh,
    ?xv, ?xs, ?xa, ?xp⟩⟩
  all_goals intro hn; rw [hn]
  case lpart => exact congrArg (fun n => { x.wave with lpart := n }) (lpartField_eq _)
  case fpflags => rfl
  case tfpLow => exact fun h0 => by rw [h0]; rfl
  case tfpHigh => exact fun h1 => by rw [h1]; rfl
  case xv => exact srWrite_xv ..
  case xs => exact srWrite_xs ..
  case xa => exact srWrite_xa ..
  case xp => exact srWrite_xp _ _ _ _ (sel_ne_zero_of_allowed ((congrArg (srAllowed _ true · _) hn).symm.trans h.allowed))

/-- Settles O26: RDSR by what is owed, by the kind of its destination and by the clock latch; WRSR by its register. -/
theorem specialRegisterWords : Obligations.SpecialRegisterWords :=
  ⟨rdsrCompletes, specialRegisterTraps, wrsrCompletes⟩

end Sys2Proof.Claim
end

section
/-! PROOFS. FETCHW, ALLOC, FREEA, PREFI, PIN and UNPIN: what is asked, what is given back, and what code lines leave
unchanged (R37, R38, R51, R111, R112, R382, R385 to R387). -/

open Sys2Proof Sys2Proof.Machine

namespace Sys2Proof.Claim

set_option Elab.async false

/-! ## FETCHW, ALLOC and FREEA -/

theorem exec_fetchw_of_ready {s : State} {x : Ctx} {g : Ctl} {o : CR} (h : FragReady s x g [.a o.a.toNat])
    (room : x.block.spadOk (32 * crLines o) 32 = true) (free : x.wave.fetchw = false) :
    let a := x.a o.a.toNat
    let t := (s.save (stepped (withWave x { x.wave with
        fetchw := true, heldFetchw := if x.block.tent then some (a, 32 * crLines o) else none }) g.sw)).endDrawnOf
      x.c x.wave.slot (s.launchNamed (x.core.ctxSlot x.block.ctx).ctxid a)
    exec (.fetchw g o) s = .next (if x.block.tent then t else
      { t with
        drawReqs := t.drawReqs ++ [⟨x.c, (x.core.ctxSlot x.block.ctx).ctxid, x.wave.slot, a, 32 * crLines o⟩] }) := by
  show execFetchw g o s = _
  unfold execFetchw
  refine (issueFragment_of_ready h _).trans (congrArg Host.Outcome.next ?_)
  simp only [room, free, Bool.not_true, Bool.false_eq_true, if_false]
  rfl

theorem fetchwCompletes : FetchwCompletes := by
  intro g o s x h room free a w t
  have done := exec_fetchw_of_ready h room free
  exact ⟨fun tent => done.trans (by rw [if_pos tent]),
    fun tent => done.trans (by rw [if_neg (Bool.eq_false_iff.mp tent)])⟩

theorem exec_alloc_of_ready {s : State} {x : Ctx} {g : Ctl} {o : CN} (h : FragReady s x g []) :
    exec (.alloc g o) s = .next (if x.block.req || x.block.full || x.block.freed then s.save (stepped x g.sw)
      else s.save (stepped { x with block := { x.block with req := true },
                                    core := { x.core with allocs := x.core.allocs ++ [x.block.slot] } } g.sw)) := by
  show execAlloc g o s = _
  unfold execAlloc
  exact issueFragment_of_ready h _

/-- The granules that FREEA gives back. -/
def freeCount (x : Ctx) (o : CN) : Nat := min (o.low.extractLsb' 43 7).toNat (x.block.backed - x.block.vreg)

theorem exec_freea_of_ready {s : State} {x : Ctx} {g : Ctl} {o : CN} (h : FragReady s x g []) :
    let b := x.block.unbacked (freeCount x o)
    exec (.freea g o) s = .next (if x.block.req then s else if freeCount x o = 0 then s.save (stepped x g.sw)
      else if s.namesBeyond x.c b b.spadBound b.accBound then s
      else s.save (stepped (withBlock x { b with commit := b.backed, freed := true }) g.sw)) := by
  show execFreea g o s = _
  unfold execFreea
  exact issueFragment_of_ready h _

theorem allotmentWordsComplete : AllotmentWordsComplete := by
  intro g o s x h
  refine ⟨fun asked => ?_, fun req full freed => ?_, fun req => ⟨fun none => ?_, fun some named => ⟨rfl, ?_⟩⟩⟩
  · exact (exec_alloc_of_ready h).trans (by rw [if_pos (by simpa [or_assoc] using asked)])
  · exact (exec_alloc_of_ready h).trans (by rw [if_neg (by simp [req, full, freed])])
  · exact (exec_freea_of_ready h).trans (by rw [if_neg (Bool.eq_false_iff.mp req), freeCount, if_pos none])
  · exact (exec_freea_of_ready h).trans
      (by rw [if_neg (Bool.eq_false_iff.mp req), freeCount, if_neg some, if_neg (Bool.eq_false_iff.mp named)])

/-! ## Code lines -/

/-- What a core holds besides its instruction lines, its translations and the pins of its blocks. -/
def work (x : Core) : Core := { x with l0 := [], tlb := [], blocks := [] }

/-- No byte of memory changes, and each core keeps its work. -/
structure CodeOnly (s t : State) : Prop where
  mem : t.mem = s.mem
  core : ∀ c, work (t.core c) = work (s.core c)

/-- One line of a range that PIN names, with the lines pinned before it and whether pinning has been refused. -/
def pinStep (c root : Nat) (cluster : Bool) (r : State × List Nat × Bool) (va : DWord) : State × List Nat × Bool :=
  let t := r.1.prefetch c root va (!cluster)
  match t.2 with
  | none => (t.1, r.2.1, r.2.2)
  | some n =>
    if r.2.2 || !mayPin (t.1.level c cluster) cluster n then (t.1, r.2.1, true)
    else (t.1.setLevel c cluster (pinLine (t.1.level c cluster) n), r.2.1 ++ [n], false)

theorem pinRange_eq (s : State) (c root : Nat) (vas : List DWord) (cluster room : Bool) :
    s.pinRange c root vas cluster room = vas.foldl (pinStep c root cluster) (s, [], !room) := rfl

namespace CodeOnly

theorem refl (s : State) : CodeOnly s s := ⟨rfl, fun _ => rfl⟩

theorem trans {s t u : State} (h : CodeOnly s t) (k : CodeOnly t u) : CodeOnly s u :=
  ⟨k.mem.trans h.mem, fun c => (k.core c).trans (h.core c)⟩

theorem updCore (s : State) (c : Nat) {f : Core → Core} (h : ∀ x, work (f x) = work x) : CodeOnly s (s.updCore c f) :=
  ⟨rfl, fun j => by
    rw [State.core_updCore]
    split
    · exact h _
    · rfl⟩

theorem updDie (s : State) (d : Nat) (f : Die → Die) : CodeOnly s (s.updDie d f) := ⟨rfl, fun _ => rfl⟩

theorem updCluster (s : State) (k : Nat) (f : Cluster → Cluster) : CodeOnly s (s.updCluster k f) :=
  ⟨rfl, fun _ => rfl⟩

theorem foldl {α : Type} (f : State → α → State) (h : ∀ s a, CodeOnly s (f s a)) (l : List α) (s : State) :
    CodeOnly s (l.foldl f s) := by
  induction l generalizing s with
  | nil => exact refl s
  | cons a r ih => exact (h s a).trans (ih _)

theorem countDrop (s : State) (c : Nat) : CodeOnly s (s.countDrop c) := updCluster ..

theorem setLevel (s : State) (c : Nat) (cluster : Bool) (m : Map ILine) : CodeOnly s (s.setLevel c cluster m) := by
  unfold State.setLevel
  split
  · exact updCluster ..
  · exact updCore s c fun _ => rfl

theorem updBlock (s : State) (c b : Nat) (f : Block → Block) : CodeOnly s (s.updCore c fun x => x.updBlock b f) :=
  updCore s c fun _ => rfl

theorem cacheLeaf (s : State) (c d root : Nat) (va : DWord) : CodeOnly s (s.cacheLeaf (some c) d root va) := by
  unfold State.cacheLeaf
  split
  · exact refl s
  · split
    · exact refl s
    · dsimp only
      split
      · exact refl s
      · exact (updDie ..).trans (updCore _ c fun _ => rfl)

theorem keepLine {s u : State} (h : CodeOnly s u) (c n : Nat) (bs : List Byte) (l0 : Bool) :
    let t := u.updCluster (clusterOf c) fun k => { k with icache := Machine.keepLine k.icache n bs }
    CodeOnly s (if l0 then t.updCore c fun x => { x with l0 := Machine.keepLine x.l0 n bs } else t) := by
  intro t
  have cluster : CodeOnly s t := h.trans (updCluster ..)
  split
  · exact cluster.trans (updCore _ c fun _ => rfl)
  · exact cluster

theorem fillLine (s : State) (c n : Nat) (scope : BitVec 3) (l0 : Bool) : CodeOnly s (s.fillLine c n scope l0) := by
  unfold State.fillLine
  cases s.cachedLine c n with
  | some line => exact keepLine (refl s) c n line.data l0
  | none =>
    have l2 : CodeOnly s (s.fillL2 (dieOf c) scope ((List.range 4).map fun k => s.linePlace n + 32 * k)) :=
      ⟨rfl, fun _ => rfl⟩
    exact keepLine l2 c n (s.lineBytes (dieOf c) scope n) l0

theorem prefetch (s : State) (c root : Nat) (va : DWord) (l0 : Bool) : CodeOnly s (s.prefetch c root va l0).1 := by
  unfold State.prefetch
  split
  · exact countDrop s c
  · split
    · exact countDrop s c
    · exact (cacheLeaf ..).trans (fillLine ..)

theorem unpinLine (s : State) (c b : Nat) (cl : Bool) (n : Nat) : CodeOnly s (s.unpinLine c b cl n) := by
  unfold State.unpinLine
  split
  · exact refl s
  · split
    · exact (setLevel ..).trans (updBlock ..)
    · exact refl s

theorem pinStep (c root : Nat) (cluster : Bool) (r : State × List Nat × Bool) (va : DWord) :
    CodeOnly r.1 (Claim.pinStep c root cluster r va).1 := by
  have fetched := prefetch r.1 c root va (!cluster)
  unfold Claim.pinStep
  dsimp only
  split
  · exact fetched
  · split
    · exact fetched
    · exact fetched.trans (setLevel ..)

theorem pinRange (s : State) (c root : Nat) (vas : List DWord) (cluster room : Bool) :
    CodeOnly s (s.pinRange c root vas cluster room).1 := by
  rw [pinRange_eq]
  suffices h : ∀ r : State × List Nat × Bool, CodeOnly r.1 (vas.foldl (Claim.pinStep c root cluster) r).1
    from h (s, [], !room)
  intro r
  induction vas generalizing r with
  | nil => exact refl _
  | cons va l ih => exact (pinStep ..).trans (ih _)

end CodeOnly

/-- The shared prologue of the words on code lines. -/
theorem issueLines_of_ready {s : State} {x : Ctx} {g : Ctl} {o : CR} (h : FragReady s x g [.a o.a.toNat])
    (k : State → Ctx → List DWord → State) : issueLines s g o k = .next (k (s.save (stepped x g.sw)) x
      ((List.range (crLines o)).map (x.lineVa o))) :=
  issueFragment_of_ready h _

/-- PIN counts what it refuses, and its block records what it pins. -/
theorem pin_codeOnly (s : State) (c b root : Nat) (cl room : Bool) (vas : List DWord) :
    let r := s.pinRange c root vas cl room
    let u := if r.2.2 then r.1.updCluster (clusterOf c) fun k => { k with pinRefused := satInc k.pinRefused } else r.1
    CodeOnly s (if r.2.1.isEmpty then u
      else u.updCore c fun y => y.updBlock b fun b => { b with pins := b.pins ++ [⟨cl, r.2.1⟩] }) := by
  intro r u
  have counted : CodeOnly s u := by
    dsimp only [u]
    split
    · exact (CodeOnly.pinRange ..).trans (CodeOnly.updCluster ..)
    · exact CodeOnly.pinRange ..
  split
  · exact counted
  · exact counted.trans (CodeOnly.updBlock ..)

/-- A word on code lines goes on with its fragment, and changes nothing of its core's work besides. -/
theorem code_word_completes {s t : State} {x : Ctx} {sw : Bool}
    (h : CodeOnly (s.save (stepped x sw)) t) : t.mem = s.mem ∧
      (t.core x.c).waves = (stepped x sw).saved.waves ∧ (t.core x.c).frags = (stepped x sw).saved.frags ∧
      (t.core x.c).l1 = x.core.l1 ∧ (t.core x.c).held = x.core.held ∧
      (∀ c, c ≠ x.c → (t.core c).waves = (s.core c).waves) := by
  have own : work (t.core x.c) = work (stepped x sw).saved :=
    (h.core x.c).trans (by rw [State.save, stepped, State.core_setCore_self])
  refine ⟨h.mem, (congrArg Core.waves own :), (congrArg Core.frags own :),
    (congrArg Core.l1 own :), (congrArg Core.held own :),
    fun c hc => ?_⟩
  have other : work (t.core c) = work (s.core c) := (h.core c).trans (by
    exact congrArg work (State.core_setCore_ne s _ (Ne.symm hc)))
  exact (congrArg Core.waves other :)

theorem codeLineWordsComplete : CodeLineWordsComplete := by
  intro g o s x h i hi
  have ⟨t, exec_i, kept⟩ : ∃ t, exec i s = .next t ∧ CodeOnly (s.save (stepped x g.sw)) t := by
    obtain rfl | rfl | rfl : i = .prefi g o ∨ i = .pin g o ∨ i = .unpin g o := by simpa using hi
    · exact ⟨_, (show execPrefi g o s = _ from issueLines_of_ready h _),
        CodeOnly.foldl _ (fun _ _ => CodeOnly.prefetch ..) ..⟩
    · exact ⟨_, (show execPin g o s = _ from issueLines_of_ready h _), pin_codeOnly ..⟩
    · refine ⟨_, (show execUnpin g o s = _ from issueLines_of_ready h _), CodeOnly.foldl _ (fun u va => ?_) ..⟩
      split
      · exact CodeOnly.countDrop ..
      · exact CodeOnly.unpinLine ..
  exact ⟨t, exec_i, code_word_completes kept⟩

/-- Settles O31: FETCHW by whether its block is tentative, ALLOC by its block's flags, FREEA by what it gives back; code
lines by the parts of the state that each of their steps keeps. -/
theorem workWords : Obligations.WorkWords := ⟨fetchwCompletes, allotmentWordsComplete, codeLineWordsComplete⟩

end Sys2Proof.Claim
end

section
/-! PROOFS. Records posted and taken, launches that end, shapes applied and blocks drawn (R31, R32, R51, R132, R134, R136,
R200, R210 to R213, R385, R396, R426). -/

open Sys2Proof Sys2Proof.Machine

namespace Sys2Proof.Claim

set_option Elab.async false

/-! ## Launch records -/

theorem hostPosts : HostPosts := by
  intro s q r hq
  have post : exec (.hostPost q r) s = .next (s.hostPost q r) := if_neg hq.not_ge
  refine ⟨fun len up room => ?_, fun len lost => ?_, fun len => ?_⟩ <;>
    refine post.trans (congrArg Host.Outcome.next ?_) <;> unfold State.hostPost
  · rw [if_neg (not_not.mpr len), if_neg (by simpa [up] using room)]
  · rw [if_neg (not_not.mpr len), if_pos (by simpa using lost)]
  · rw [if_pos len]
    rfl

section
variable {s : State} {q : Nat} {rec : QRec} (up : s.up = true) (head : s.headRecord = some (q, rec))
  (own : rec.ctxid = none) (room : s.launches.length < 256)
include up head own room

/-- A record of the host's that the Stoker takes: it leaves its queue, and is refused where a check or the context's
tables fail (R31). -/
theorem stokerTake_refused (bad : (!(recItems rec.bytes).all id || (s.ctxEntry (recCtxid rec.bytes)).1 == 0) = true) :
    s.stokerTake = { s with stokeQ := updAt s.stokeQ q fun l => l.drop 1 }.refuseLaunch
      (s.ctxEntry (recCtxid rec.bytes)).1 rec.bytes := by
  obtain ⟨bytes, ctxid⟩ := rec
  obtain rfl : ctxid = none := own
  have going : ¬(!s.up || decide (256 ≤ s.launches.length)) = true := by simpa [up] using room
  unfold State.stokerTake
  dsimp only
  rw [if_neg going, head]
  exact if_pos bad

/-- One that passes becomes a launch at once where it has no shape. -/
theorem stokerTake_unshaped
    (good : ¬(!(recItems rec.bytes).all id || (s.ctxEntry (recCtxid rec.bytes)).1 == 0) = true)
    (unshaped : recMode rec.bytes = 0) :
    s.stokerTake = { s with stokeQ := updAt s.stokeQ q fun l => l.drop 1 }.acceptLaunch q rec.bytes
      (s.ctxEntry (recCtxid rec.bytes)).1 (s.ctxEntry (recCtxid rec.bytes)).2 0 := by
  obtain ⟨bytes, ctxid⟩ := rec
  obtain rfl : ctxid = none := own
  have going : ¬(!s.up || decide (256 ≤ s.launches.length)) = true := by simpa [up] using room
  unfold State.stokerTake
  dsimp only
  rw [if_neg going, head]
  exact (if_neg good).trans (if_pos unshaped)

end

theorem recordsAreTaken : RecordsAreTaken := by
  intro s q rec up head own r e t
  refine ⟨fun full => ?_, fun room bad => ?_, fun room good tables unshaped => ?_⟩
  · refine congrArg Host.Outcome.next ?_
    unfold State.stokerTake
    exact if_pos (by simp [full])
  · refine congrArg Host.Outcome.next (stokerTake_refused up head own room ?_)
    simpa using bad
  · have taken : s.stokerTake = t.acceptLaunch q r e.1 e.2 0 :=
      stokerTake_unshaped up head own room (by rw [good]; simpa using tables) unshaped
    refine ⟨_, _, congrArg Host.Outcome.next taken, rfl, rfl, rfl, rfl, rfl, rfl, ?_, rfl, rfl, ?_⟩ <;> simp [unshaped]

theorem launchesEnd : LaunchesEnd := by
  intro s l found
  have ends : s.launchEnd l.id = if l.watching || l.live != 0 || l.offer.isSome then s
      else { s.stokerArrive l.root (recBarrier l.record) l.err with
             launches := s.launches.filter fun k => k.id != l.id } := by
    unfold State.launchEnd
    rw [found]
  refine ⟨fun watching live offer => congrArg Host.Outcome.next (ends.trans (if_neg ?_)),
    fun busy => congrArg Host.Outcome.next (ends.trans (if_pos ?_))⟩
  · simp [watching, live, offer]
  · simpa [or_assoc] using busy

/-- Settles O46: posts by their width and the room in the queue, takes by the checks of the record, ends by what the launch
has left. -/
theorem launchSteps : Obligations.LaunchSteps := ⟨hostPosts, recordsAreTaken, launchesEnd⟩

/-! ## Shapes -/

/-- The first notice, where its word can be read. -/
theorem applyNotice_of_read {s : State} {root va v : DWord} {r : List (DWord × DWord)} (first : s.notices = (root, va) :: r)
    (word : s.shapeWord root va = .go v) : s.applyNotice = if !v.getLsbD 63 then { s with notices := r } else
      (s.launches.filter fun l => l.watching && l.root == root && recShape l.record == va).foldl
        (fun s l => s.publish l.id v) { s with notices := r } := by
  unfold State.applyNotice
  rw [first]
  dsimp only
  rw [word]

theorem shapeTimeout_of_found {s : State} {l : Launch} (h : s.launch? l.id = some l) :
    s.shapeTimeout l.id = if !l.watching then s else
      ((s.setLaunch { l with watching := false, timedOut := true }).launchFault l.id eShapeTimeout).settle ⟨l, 0⟩ := by
  unfold State.shapeTimeout
  rw [h]

theorem shapesAreApplied : ShapesAreApplied := by
  intro s
  refine ⟨?none, ?read, ?waits, ?timeout⟩
  case none =>
    intro none
    refine congrArg Host.Outcome.next ?_
    unfold State.applyNotice
    rw [none]
  case read =>
    intro root va r v first t word
    refine ⟨fun off => ?_, fun on => ?_⟩ <;> refine congrArg Host.Outcome.next ((applyNotice_of_read first word).trans ?_)
    · exact if_pos (by simpa using off)
    · exact if_neg (by simpa using on)
  case waits =>
    intro root va r first word
    refine congrArg Host.Outcome.next ?_
    unfold State.applyNotice
    rw [first]
    dsimp only
    rw [word]
  case timeout =>
    intro l found
    refine ⟨fun off => ?_, fun on => ?_⟩ <;> refine congrArg Host.Outcome.next ((shapeTimeout_of_found found).trans ?_)
    · exact if_pos (by simpa using off)
    · exact if_neg (by simpa using on)

/-! ## Drawn blocks -/

section
variable {s : State} {q : DrawReq} {r : List DrawReq} {w : Wave} (first : s.drawReqs = q :: r)
  (stands : (s.core q.core).anyWave? q.wave = some w)
include first stands

/-- The first request of a wave that stands on its core, where it names no launch. -/
theorem fetchwDraw_unnamed (unnamed : { s with drawReqs := r }.launchNamed q.ctxid q.barrier = none) :
    s.fetchwDraw = { s with drawReqs := r }.answerDraw q w 0 3 := by
  have stands : ({ s with drawReqs := r }.core q.core).anyWave? q.wave = some w := stands
  unfold State.fetchwDraw
  rw [first]
  dsimp only
  rw [stands]
  dsimp only
  rw [unnamed]

/-- The same where it names one. -/
theorem fetchwDraw_named {l : Launch} (named : { s with drawReqs := r }.launchNamed q.ctxid q.barrier = some l) :
    (l.offer = none → s.fetchwDraw = { s with drawReqs := r }.answerDraw q w 0 2) ∧
      ∀ o, l.offer = some o → s.fetchwDraw
        = ({ s with drawReqs := r }.keepDrawn q w l o).answerDraw q w (widOf l.record o.grid 0) o.tent.toNat := by
  have stands : ({ s with drawReqs := r }.core q.core).anyWave? q.wave = some w := stands
  unfold State.fetchwDraw
  rw [first]
  dsimp only
  rw [stands]
  dsimp only
  rw [named]
  exact ⟨fun empty => by dsimp only; rw [empty], fun o offered => by dsimp only; rw [offered]⟩

end

theorem drawsAreAnswered : DrawsAreAnswered := by
  intro s q r w first stands t
  refine ⟨fun unnamed => congrArg Host.Outcome.next (fetchwDraw_unnamed first stands unnamed), fun l named => ?_⟩
  obtain ⟨empty, offered⟩ := fetchwDraw_named first stands named
  refine ⟨fun h => congrArg Host.Outcome.next (empty h), fun o h => congrArg Host.Outcome.next ?_⟩
  have bit : o.tent.toNat = if o.tent then 1 else 0 := by cases o.tent <;> rfl
  rw [← bit]
  exact offered o h

/-- Settles O48: the first notice by what is read at its word, the timeout by whether the launch still watches, and the
first request by the launch that it names and that launch's first unplaced block. -/
theorem shapesAndDraws : Obligations.ShapesAndDraws := ⟨shapesAreApplied, drawsAreAnswered⟩

end Sys2Proof.Claim
end

section
/-! SUPPORT. What the end and the killing of a wave leave of the waves of every core (R47, R129, R199, R221). -/

namespace Sys2Proof.Machine

set_option Elab.async false

/-! ## Entries of a finite map after each has changed -/

theorem Map.find_mapEntries {α β : Type} (m : List (Nat × α)) (f : Nat × α → β) (k : Nat) :
    Map.find (m.map fun e => (e.1, f e)) k = (Map.find m k).map fun x => f (k, x) := by
  induction m with
  | nil => rfl
  | cons e r ih =>
    rw [List.map_cons, Map.find, Map.find]
    split
    · next h => exact congrArg (fun i => some (f (i, e.2))) h
    · exact ih

/-- A view of the cores that no change of an entry reaches is as before. -/
theorem State.view_mapCores {α : Type} (view : Core → α) {f : Nat × Core → Core} (s t : State)
    (h : t.cores = s.cores.map fun e => (e.1, f e)) (keeps : ∀ e, view (f e) = view e.2) (c : Nat) :
    view (t.core c) = view (s.core c) := by
  rw [State.core, State.core, h, Map.get, Map.get, Map.find_mapEntries]
  cases Map.find s.cores c with
  | none => rfl
  | some x => exact keeps (c, x)

/-! ## Steps that change no wave -/

/-- Every core has the waves that it had. -/
structure State.WavesKept (s t : State) : Prop where
  waves : ∀ c, (t.core c).waves = (s.core c).waves

namespace State.WavesKept

theorem refl (s : State) : s.WavesKept s := ⟨fun _ => rfl⟩

theorem trans {s t u : State} (h : s.WavesKept t) (k : t.WavesKept u) : s.WavesKept u :=
  ⟨fun c => (k.waves c).trans (h.waves c)⟩

theorem of_cores {s t u : State} (h : s.WavesKept t) (e : u.cores = t.cores) : s.WavesKept u :=
  ⟨fun c => by rw [← h.waves c, State.core, State.core, e]⟩

/-- Every entry of the cores changes, and no wave in it. -/
theorem mapCores {s t u : State} (h : s.WavesKept t) {f : Nat × Core → Core}
    (e : u.cores = t.cores.map fun e => (e.1, f e)) (hf : ∀ e, (f e).waves = e.2.waves) : s.WavesKept u :=
  ⟨fun c => (State.view_mapCores Core.waves t u e hf c).trans (h.waves c)⟩

theorem updCore {s t : State} (h : s.WavesKept t) (c : Nat) {f : Core → Core} (hf : ∀ x, (f x).waves = x.waves) :
    s.WavesKept (t.updCore c f) :=
  ⟨fun j => by
    rw [State.core_updCore]
    split
    · exact (hf _).trans (h.waves j)
    · exact h.waves j⟩

theorem foldl {α : Type} {f : State → α → State} (h : ∀ s a, WavesKept s (f s a)) (l : List α) (s : State) :
    s.WavesKept (l.foldl f s) := by
  induction l generalizing s with
  | nil => exact refl s
  | cons a r ih => exact (h s a).trans (ih _)

theorem wave? {s t : State} (h : s.WavesKept t) (c w : Nat) : (t.core c).wave? w = (s.core c).wave? w :=
  congrArg (List.find? fun y : Wave => y.slot == w) (h.waves c)

/-! ### Fault buffer -/

theorem takeFault (s : State) (c : Nat) (e : FaultEnt) : s.WavesKept (s.takeFault c e) := by
  unfold State.takeFault
  split
  · exact (refl s).updCore c fun _ => rfl
  · next k _ =>
    have taken : s.WavesKept (s.updCore c fun x => { x with faults := Map.put x.faults k e }) :=
      (refl s).updCore c fun _ => rfl
    exact taken.of_cores rfl

theorem refillFaults (s : State) (c : Nat) : s.WavesKept (s.refillFaults c) :=
  trans (by exact (refl s).updCore c fun _ => rfl) (foldl (fun t e => takeFault t c e) _ _)

/-! ### Landings -/

theorem updAnyBlock (s : State) (c b : Nat) (f : Block → Block) :
    s.WavesKept (s.updCore c fun x => x.updAnyBlock b f) := (refl s).updCore c fun x => by
  unfold Core.updAnyBlock
  split <;> rfl

theorem countLandingDrop (s : State) (c : Nat) : s.WavesKept (s.countLandingDrop c) := (refl s).updCore c fun _ => rfl

theorem noteWrites (s : State) (h : Home) (lines : List Nat) (die : Option Nat) :
    s.WavesKept (s.noteWrites h lines die) := by
  unfold State.noteWrites
  split
  · exact refl s
  · split
    · exact (refl s).of_cores rfl
    · dsimp only
      split
      · exact refl s
      · exact (refl s).of_cores rfl

theorem homeWrite (s : State) (h : Home) (bs : List Byte) : s.WavesKept (s.homeWrite h bs) := by
  cases h with
  | spad c b o => exact updAnyBlock ..
  | mem p => exact (refl s).of_cores rfl
  | allot c b => exact updAnyBlock ..

theorem countErrLost (s : State) (h : Home) (n : Nat) : s.WavesKept (s.countErrLost h n) := by
  unfold State.countErrLost
  split
  · exact refl s
  · cases h with
    | spad c b o => exact (refl s).updCore c fun _ => rfl
    | mem p => exact (refl s).of_cores rfl
    | allot c b => exact (refl s).updCore c fun _ => rfl

theorem updateFor (s : State) (own : Option (Nat × Nat)) (h : Home) (a n : Nat) (code : BitVec 16) (d : Dropped) :
    s.WavesKept (s.updateFor own h a n code d) := by
  unfold State.updateFor
  split
  · cases h with
    | spad c b o => exact updAnyBlock ..
    | mem p => exact refl s
    | allot c b => exact refl s
  · exact (homeWrite ..).trans (countErrLost ..)

theorem keepLanding (s : State) (c b : Nat) (l : Landing) : s.WavesKept (s.keepLanding c b l) := updAnyBlock ..

theorem landNow (s : State) (c b : Nat) (l : Landing) : s.WavesKept (s.landNow c b l) := by
  unfold State.landNow
  split
  · exact (noteWrites ..).trans (updateFor ..)
  · split
    · exact keepLanding ..
    · dsimp only
      unfold State.unreached
      split
      · refine trans ?_ (keepLanding ..)
        exact (takeFault ..).updCore c fun _ => rfl
      · exact countLandingDrop ..

theorem landTask (s : State) (r : HRec) (n : Nat) (code : BitVec 16) (lines : List Nat) (die : Option Nat) :
    s.WavesKept (s.landTask r n code lines die) := by
  unfold State.landTask
  split
  · split
    · exact refl s
    · exact countLandingDrop ..
  · unfold State.land
    split
    · split
      · exact keepLanding ..
      · exact landNow ..
    · exact landNow ..

/-! ### Engine operations -/

theorem unreserve (s : State) : s.WavesKept s.unreserve := (refl s).mapCores rfl fun _ => rfl

theorem unregister (s : State) (gone : HRec → Bool) : s.WavesKept (s.unregister gone) := by
  unfold State.unregister
  dsimp only
  split
  · split
    · exact (unreserve s).of_cores rfl
    · exact (refl s).of_cores rfl
  · exact (refl s).of_cores rfl

theorem dropRec (s : State) (r : HRec) : s.WavesKept (s.dropRec r) := (refl s).of_cores rfl

theorem refuseGroups (s : State) (keys : List GroupReg) (gone : HRec → Bool) : s.WavesKept (s.refuseGroups keys gone) := by
  have freed (served : Bool) : s.WavesKept (if served then s.unreserve else s) := by
    cases served
    · exact refl s
    · exact unreserve s
  unfold State.refuseGroups
  refine trans ?_ (foldl (fun t r => (dropRec t r).trans (landTask ..)) _ _)
  exact (freed _).mapCores rfl fun _ => rfl

theorem kilns (s : State) (c : Nat) (f : KTask → KTask) : s.WavesKept ((List.range 4).foldl (fun s j =>
    s.updCore (4 * clusterOf c + j) fun x => { x with kiln := { x.kiln with task := x.kiln.task.map f } }) s) :=
  foldl (fun t j => by exact (refl t).updCore (4 * clusterOf c + j) fun _ => rfl) _ _

theorem abandonWhere (s : State) (c : Nat) (p : EngCmd → Bool) (q : HRec → Bool) : s.WavesKept (s.abandonWhere c p q) := by
  unfold State.abandonWhere
  refine trans ?_ (kilns _ c _)
  refine trans ?_ (foldl (fun t r => landTask ..) _ _)
  refine trans ?_ (unregister ..)
  refine trans ?_ (refillFaults ..)
  have stopped : s.WavesKept (s.updCore c fun x => { x with cmds := x.cmds.map fun k =>
    if (p k) then { k with abandon := true } else k }) := (refl s).updCore c fun _ => rfl
  refine updCore ?_ c fun _ => rfl
  exact stopped.of_cores rfl

theorem stopEngines (s : State) (c b : Nat) : s.WavesKept (s.stopEngines c b) := by
  unfold State.stopEngines
  refine updCore ?_ c fun _ => rfl
  refine of_cores ?_ (t := State.trimTasks _ _) rfl
  exact mapCores (of_cores (t := s.breakGroups _) (refuseGroups ..) rfl) rfl fun _ => rfl

theorem killEngines (s : State) (c w : Nat) : s.WavesKept (s.killEngines c w) := by
  unfold State.killEngines
  split
  · exact refl s
  · split
    · exact abandonWhere ..
    · exact stopEngines ..

theorem unstall (s : State) (c w : Nat) : s.WavesKept (s.unstall c w) := by
  unfold State.unstall
  refine trans ?_ (foldl (fun t j => by exact (refl t).updCore (4 * clusterOf c + j) fun _ => rfl) _ _)
  have commands : s.WavesKept (s.updCore c fun x => { x with cmds := x.cmds.map fun k =>
    if k.wave = w then { k with inFault := false } else k }) := (refl s).updCore c fun _ => rfl
  exact commands.of_cores rfl

/-! ### Blocks drawn -/

theorem endDrawn (s : State) (ds : List Drawn) : s.WavesKept (s.endDrawn ds) :=
  foldl (fun t _ => by exact (refl t).of_cores rfl) _ _

end State.WavesKept

/-! ## A wave that ends or is killed -/

theorem Core.dequeue_waves (x : Core) (f : Nat) : (x.dequeue f).waves = x.waves := by
  unfold Core.dequeue
  split <;> rfl

theorem Core.dropFrags_waves (x : Core) (w : Nat) : (x.dropFrags w).waves = x.waves := by
  unfold Core.dropFrags
  generalize x.frags.filter (fun f => f.wave == w) = fs
  induction fs generalizing x with
  | nil => rfl
  | cons f r ih =>
    exact (ih _).trans (Core.dequeue_waves x f.id)

theorem State.wave?_updWave {s : State} {c w : Nat} {y : Wave} (h : (s.core c).wave? w = some y) {f : Wave → Wave}
    (hf : ∀ y, (f y).slot = y.slot) : ((s.updWave c w f).core c).wave? w = some (f y) := by
  rw [State.updWave, State.core_updCore_self, Core.wave?_updWave _ _ f hf, h]
  rfl

/-- A wave that ends has no drawn block any more. -/
theorem State.wave?_endWave {s : State} {c w : Nat} {y : Wave} (h : (s.core c).wave? w = some y) :
    ((s.endWave c w).core c).wave? w = some { y with ended := true, drawn := [] } := by
  unfold State.endWave
  rw [h]
  exact State.wave?_updWave (((State.WavesKept.endDrawn s y.drawn).wave? c w).trans h) fun _ => rfl

/-- A wave whose operations are abandoned has none, and an empty window. -/
theorem State.wave?_abandonAll {s : State} {c w : Nat} {y : Wave} (h : (s.core c).wave? w = some y) :
    ((s.abandonAll c w).core c).wave? w = some { y with ops := [], hzn := y.seq } := by
  unfold State.abandonAll
  rw [h]
  refine State.wave?_updWave ?_ fun _ => rfl
  have engines : s.WavesKept (y.ops.foldl (fun s o =>
      if o.kind = 6 && y.inWindow o.num then s.abandonEngine c w o.num else s) s) := by
    refine State.WavesKept.foldl (fun t o => ?_) _ _
    split
    · exact State.WavesKept.abandonWhere ..
    · exact State.WavesKept.refl t
  have squashed := engines.updCore c (f := fun x => x.squash w fun n => y.inWindow n) fun _ => rfl
  exact (squashed.wave? c w).trans h

theorem State.wave?_killWave {s : State} {c w : Nat} {y : Wave} (h : (s.core c).wave? w = some y) :
    ∃ z, ((s.killWave c w).core c).wave? w = some z ∧ z.ended = true ∧ z.drawn = [] ∧ z.trap = none ∧ z.win = none := by
  obtain ⟨left, abandoned⟩ : ∃ left, (((s.killEngines c w).abandonAll c w).core c).wave? w = some left :=
    ⟨_, State.wave?_abandonAll (((State.WavesKept.killEngines s c w).wave? c w).trans h)⟩
  unfold State.killWave
  refine ⟨_, State.wave?_endWave (State.wave?_updWave (y := left) ?_ fun _ => rfl), rfl, rfl, rfl, rfl⟩
  refine (((State.WavesKept.unstall _ c w).trans (State.WavesKept.refillFaults _ c)).wave? c w).trans ?_
  refine (State.WavesKept.wave? ?_ c w).trans abandoned
  exact (State.WavesKept.refl _).updCore c (Core.dropFrags_waves · w)

end Sys2Proof.Machine
end

section
/-! PROOFS. Blocks placed, granted and ended, and waves terminated (R36, R38, R39, R47, R80, R205, R207, R384). -/

open Sys2Proof Sys2Proof.Machine

namespace Sys2Proof.Claim

set_option Elab.async false

/-! ## Placement -/

theorem blocksArePlaced : BlocksArePlaced := by
  intro s c k slot rest l o hc up turn offer ctx free
  refine (if_neg hc.not_ge).trans (congrArg Host.Outcome.next ?_)
  unfold State.blockPlacement
  simp only [up, Bool.not_true, Bool.false_eq_true, if_false, turn, offer, ctx, free]

/-- A core without its ready queue. -/
def unqueued (x : Core) : Core := { x with frags := [], vptr := 0, uptr := 0, nextFrag := 0 }

theorem unqueued_newFrag (x : Core) (w : Nat) (m : LaneMask) (a : Loc) (st : List DivEntry) (h : Bool) :
    unqueued (x.newFrag w m a st h) = unqueued x := by
  unfold Core.newFrag Core.enqueue
  split <;> rfl

/-- The first fragments of placed waves change the ready queue only. -/
theorem unqueued_foldl_newFrag (ws : List Wave) (m : LaneMask) (a : Loc) (x : Core) :
    unqueued (ws.foldl (fun x w => x.newFrag w.slot m a [] false) x) = unqueued x := by
  induction ws generalizing x with
  | nil => rfl
  | cons w r ih => exact (ih _).trans (unqueued_newFrag ..)

theorem length_startWaves {x : Core} {r : List Byte} (h : recWaves r ≤ x.freeWaves.length) (slot : Nat) (o : Offer)
    (tfp : DWord) : (startWaves x r slot o tfp).length = recWaves r := by
  simp [startWaves, h]

/-- A wave starts with no register written, and holds HZN at 0 while its block is tentative (R80, R200). -/
theorem startWaves_start {x : Core} {r : List Byte} {slot : Nat} {o : Offer} {tfp : DWord} {w : Wave}
    (h : w ∈ startWaves x r slot o tfp) : w.block = slot ∧ w.seq = 1 ∧ w.lpart = 64 ∧ w.fpflags = 0 ∧
      w.v = [] ∧ w.s = [] ∧ w.a = [] ∧ w.p = [] ∧ w.hzn = if o.tent then 0 else 1 := by
  obtain ⟨e, -, rfl⟩ := List.mem_map.mp h
  exact ⟨rfl, rfl, rfl, rfl, rfl, rfl, rfl, rfl, rfl⟩

theorem placedBlocksStart : PlacedBlocksStart := by
  intro x c k slot l o stamp y
  obtain ⟨ctxs, tfp, placed⟩ : ∃ ctxs tfp, unqueued y = unqueued { x with
      ctxs := ctxs, active := some k,
      blocks := x.blocks ++ [Block.placed slot l.id o.lin k o.grid l.record o.tent stamp],
      waves := x.waves ++ startWaves x l.record slot o tfp } := ⟨_, _, unqueued_foldl_newFrag ..⟩
  refine ⟨(congrArg Core.blocks placed :), ⟨_, (congrArg Core.waves placed :), fun room => length_startWaves room ..,
    fun w hw => startWaves_start hw⟩, (congrArg Core.active placed :), (congrArg Core.l1 placed :),
    (congrArg Core.tlb placed :)⟩

/-! ## Allotments and the end of blocks -/

theorem allotmentsAreGranted : AllotmentsAreGranted := by
  intro s c k r b hc first block
  have granted : exec (.allotmentGrant c) s = .next (if 96 < (s.core c).backedSum + (recH b.record - b.backed) then s
      else s.setCore c { (s.core c).updAnyBlock k Block.granted with allocs := r }) := by
    refine (if_neg hc.not_ge).trans (congrArg Host.Outcome.next ?_)
    unfold State.allotmentGrant
    dsimp only
    rw [first]
    dsimp only
    rw [block]
  exact ⟨fun fits => granted.trans (congrArg Host.Outcome.next (if_neg fits.not_gt)),
    fun tight => granted.trans (congrArg Host.Outcome.next (if_pos tight))⟩

theorem blocksEnd : BlocksEnd := by
  intro s c slot b hc block
  have ended : exec (.blockEnd c slot) s = .next (
      if ((s.core c).waves.any fun w => w.block == slot && !w.over) || s.engineWork c slot then s
      else (s.removeBlock c b).blocksGone b.launch 1) := by
    refine (if_neg hc.not_ge).trans (congrArg Host.Outcome.next ?_)
    unfold State.blockEnd
    rw [block]
  refine ⟨fun all idle => ended.trans (congrArg Host.Outcome.next (if_neg ?_)),
    fun runs => ended.trans (congrArg Host.Outcome.next (if_pos ?_)),
    fun busy => ended.trans (congrArg Host.Outcome.next (if_pos ?_))⟩
  · rw [idle, Bool.or_false, List.any_eq_true]
    rintro ⟨w, hw, running⟩
    obtain ⟨own, running⟩ : w.block = slot ∧ w.over = false := by simpa using running
    obtain ⟨ended, shp, hzn⟩ := all w hw own
    simp [Wave.over, ended, shp, hzn] at running
  · obtain ⟨w, hw, own, running⟩ := runs
    have running : w.over = false := by
      rcases running with h | h <;> simp [Wave.over, h]
    exact Bool.or_eq_true_iff.mpr (.inl (List.any_eq_true.mpr ⟨w, hw, by simp [own, running]⟩))
  · simp [busy]

/-! ## Waves terminated -/

theorem wavesAreTerminated : WavesAreTerminated := by
  intro s c w y hc wave
  have terminated : exec (.waveTermination c w) s = .next (if y.ended then s else s.killWave c w) := by
    refine (if_neg hc.not_ge).trans (congrArg Host.Outcome.next ?_)
    unfold State.terminateWave
    rw [wave]
  exact ⟨fun ended => terminated.trans (congrArg Host.Outcome.next (if_pos ended)),
    fun runs => terminated.trans (congrArg Host.Outcome.next (if_neg (Bool.eq_false_iff.mp runs))),
    fun _ _ _ => State.wave?_killWave wave⟩

/-- Settles O47: placement through the waves that it starts, grants by the granules that fit, the end of a block by what
still runs in it, and a killed wave because no step of the kill but its own writes changes a wave. -/
theorem blockSteps : Obligations.BlockSteps :=
  ⟨blocksArePlaced, placedBlocksStart, allotmentsAreGranted, blocksEnd, wavesAreTerminated⟩

end Sys2Proof.Claim
end

section
/-! SUPPORT. The lanes of a register as a word leaves them, however it writes them and whichever way it raises its flags
(R63, R74, R76, R83, R284). -/

namespace Sys2Proof.Machine

set_option Elab.async false

/-! ## Flags -/

/-- The flags of a word: those of integer arithmetic are raised in a handler too (R63, R83). -/
def Ctx.raiseAs (x : Ctx) (int : Bool) (f : BitVec 6) : Ctx := if int then x.raiseSat f else x.raiseFlags f

section
variable (x : Ctx) (int : Bool) (f : BitVec 6)

theorem Ctx.raiseAs_eq :
    x.raiseAs int f = { x with wave := { x.wave with fpflags := Claim.flagsAfter x int f } } := by
  cases int <;> cases h : x.frag.handler <;> simp [raiseAs, raiseSat, raiseFlags, Claim.flagsAfter, h]

theorem Ctx.writes_raiseAs : x.Writes (x.raiseAs int f) := by
  rw [Ctx.raiseAs_eq]
  exact .of_wave rfl

/-- Integer arithmetic raises again what it has raised as any other word does. -/
theorem Ctx.raiseSat_raiseFlags : (x.raiseFlags f).raiseSat f = x.raiseAs true f := by
  cases h : x.frag.handler <;> simp [raiseAs, raiseSat, raiseFlags, h, BitVec.or_assoc]

end

/-! ## The lanes that a word writes -/

/-- `y` is `x` after a word has written register D in the lanes of a mask, with the poison that they keep. -/
structure Ctx.LanesWritten (x y : Ctx) (d : Nat) (m : LaneMask) (val : Nat → Word) (pois : Nat → BitVec 2) : Prop where
  writes : x.Writes y
  core : y.core = x.core
  v : ∀ r l, l < 64 → y.v r l = if r = d ∧ m.getLsbD l then val l else x.v r l
  poison : ∀ r l, l < 64 → y.wave.poisonV x.frag.handler r l
    = if r = d ∧ m.getLsbD l then pois l else x.wave.poisonV x.frag.handler r l
  s : ∀ r, y.s r = x.s r
  a : ∀ r, y.a r = x.a r
  p : ∀ k, y.p k = x.p k
  fpflags : y.wave.fpflags = x.wave.fpflags

namespace Ctx.LanesWritten

variable (x : Ctx) (d : Nat) {m : LaneMask}

theorem setVPoison (m : LaneMask) (val : Nat → Word) (pois : Nat → BitVec 2) :
    x.LanesWritten (x.setVPoison d ((lanesOf m).map fun l => (l, val l, pois l))) d m val pois where
  writes := Ctx.writes_setVPoison ..
  core := Ctx.setVPoison_core ..
  v r _ hl := Ctx.setVPoison_v x d m val pois r hl
  poison r _ hl := Ctx.setVPoison_poison x d m val pois r hl
  s _ := Ctx.setVPoison_s ..
  a _ := Ctx.setVPoison_a ..
  p _ := Ctx.setVPoison_p ..
  fpflags := Ctx.setVPoison_fpflags ..

/-- Without a lane nothing is written. -/
theorem none (h : lanesOf m = []) (val : Nat → Word) (pois : Nat → BitVec 2) : x.LanesWritten x d m val pois := by
  have out {l : Nat} (hl : l < 64) : m.getLsbD l = false := by
    rw [← Bool.not_eq_true, ← mem_lanesOf_iff m hl, h]
    exact List.not_mem_nil
  exact ⟨.refl x, rfl, fun r l hl => by simp [out hl], fun r l hl => by simp [out hl], fun _ => rfl, fun _ => rfl,
    fun _ => rfl, rfl⟩

/-- A register that is written whole holds no poison in its lanes (R76). -/
theorem setV (m : LaneMask) (val : Nat → Word) :
    x.LanesWritten (x.setV d ((lanesOf m).map fun l => (l, val l))) d m val fun _ => 0 := by
  by_cases h : lanesOf m = []
  · simpa [Ctx.setV, h] using none x d h val fun _ => 0
  · have key : x.setV d ((lanesOf m).map fun l => (l, val l))
        = x.setVPoison d ((lanesOf m).map fun l => (l, val l, 0)) := by
      simp [Ctx.setV, Ctx.writeV, Ctx.setVPoison, h, List.foldl_map, Function.comp_def]
    rw [key]
    exact setVPoison x d m val _

/-- A register of which one half is written keeps the other half, with its poison (R76, R284). -/
theorem setHalf (m : LaneMask) (upper : Bool) (val : Nat → BitVec 16) :
    x.LanesWritten (x.setHalf d upper ((lanesOf m).map fun l => (l, val l))) d m
      (fun l => if upper then val l ++ (x.v d l).extractLsb' 0 16 else (x.v d l).extractLsb' 16 16 ++ val l)
      fun l => x.wave.poisonV x.frag.handler d l &&& if upper then 1 else 2 := by
  by_cases h : lanesOf m = []
  · simpa [Ctx.setHalf, h] using none x d h ..
  · have key : x.setHalf d upper ((lanesOf m).map fun l => (l, val l))
        = x.setVPoison d ((lanesOf m).map fun l => (l,
          if upper then val l ++ (x.v d l).extractLsb' 0 16 else (x.v d l).extractLsb' 16 16 ++ val l,
          x.wave.poisonV x.frag.handler d l &&& if upper then 1 else 2)) := by
      simp [Ctx.setHalf, Ctx.setVPoison, h, List.foldl_map, Function.comp_def]
    rw [key]
    exact setVPoison x d m _ _

end Ctx.LanesWritten

/-! ## Words with one vector register as their result -/

theorem Ctx.setLanes_eq_raiseAs (x : Ctx) (d : Nat) (m : LaneMask) (f : Nat → LaneRes) :
    x.setLanes d m f = (x.setV d ((lanesOf m).map fun l => (l, (f l).1))).raiseAs false
      (Claim.allFlags m fun l => (f l).2) := Ctx.setLanes_eq ..

theorem Ctx.setIntLanes_eq (x : Ctx) (d : Nat) (m : LaneMask) (f : Nat → LaneRes) :
    x.setIntLanes d m f = (x.setV d ((lanesOf m).map fun l => (l, (f l).1))).raiseAs true
      (Claim.allFlags m fun l => (f l).2) := by
  rw [Ctx.setIntLanes, Ctx.setLanes_eq, orFlags_lanes, Ctx.raiseSat_raiseFlags]

/-- A word that raises no flag writes its lanes as integer arithmetic does. -/
theorem Ctx.setIntLanes_of_noFlags (x : Ctx) (d : Nat) (m : LaneMask) (f : Nat → Word) :
    x.setIntLanes d m (fun l => (f l, 0)) = x.setLanes d m fun l => (f l, 0) := by
  rw [Ctx.setIntLanes_eq, Ctx.setLanes_eq_raiseAs, Claim.allFlags_zero, Ctx.raiseAs_eq, Ctx.raiseAs_eq,
    Claim.flagsAfter_zero, Claim.flagsAfter_zero]

/-- A word that has written its lanes, and raises their flags, has the effect of a lane word. -/
theorem Ctx.LanesWritten.laneEffect {s : State} {x y : Ctx} {g : Ctl} {d : Nat} {val : Nat → LaneRes}
    {pois : Nat → BitVec 2} (h : x.LanesWritten y d (x.active g) (fun l => (val l).1) pois) (hx : s.ctx? = some x)
    (int : Bool) :
    let z := y.raiseAs int (Claim.allFlags (x.active g) fun l => (val l).2)
    Claim.LaneEffect s (s.save (z.done g.sw)) x (z.issued g.sw) g int d val pois := by
  intro z
  have w : x.Writes z := h.writes.trans (Ctx.writes_raiseAs ..)
  have hz : z = { y with wave := { y.wave with fpflags := _ } } := Ctx.raiseAs_eq ..
  have core : z.core = x.core := by rw [hz]; exact h.core
  refine ⟨w.outside hx g.sw, w.coreKept core g.sw, w.moved g.sw, w.waveKept g.sw, ?_, ?_, ?_, ?_, ?_, ?_⟩
  all_goals simp only [Ctx.issued_v, Ctx.issued_s, Ctx.issued_a, Ctx.issued_p, Ctx.issued_wave, hz]
  · exact h.v
  · exact h.poison
  · exact h.s
  · exact h.a
  · exact h.p
  · exact flagsAfter_congr h.writes.handler h.fpflags ..

end Sys2Proof.Machine
end

section
/-! PROOFS. Integer and logical words: each writes its lanes in the shared way, with the value of its rule, which the model
computes in other words (R63, R74, R275, R276). -/

open Sys2Proof Sys2Proof.Machine

namespace Sys2Proof.Claim

set_option Elab.async false

/-! ## The values of a lane, as the model and as the rules of the spec compute them -/

theorem satInt_int32 (v : Int) : satInt ⟨32, true⟩ v =
    if v < -2 ^ 31 then -2 ^ 31 else if 2 ^ 31 - 1 < v then 2 ^ 31 - 1 else v := rfl

theorem satResult_eq_wrapOrClamp (sat : Bool) (v : Int) : satResult sat v = wrapOrClamp sat v := by
  unfold satResult wrapOrClamp
  cases sat
  · rfl
  · simp only [satInt_int32, if_true, Bool.true_eq_false, if_false]
    by_cases low : v < -2 ^ 31
    · simp only [if_pos low, if_neg low.ne']
    · by_cases high : 2 ^ 31 - 1 < v
      · simp only [if_neg low, if_pos high, if_neg high.ne]
      · simp only [if_neg low, if_neg high, if_true]

theorem ite_neg_eq_abs (v : Int) : (if v < 0 then -v else v) = |v| := by
  split
  · next h => exact (abs_of_neg h).symm
  · next h => exact (abs_of_nonneg (not_lt.mp h)).symm

theorem popcWord_eq (b : Word) :
    popcWord b = BitVec.ofNat 32 ((List.range 32).countP fun i => b.getLsbD i) := by
  rw [popcWord, List.countP_eq_length_filter]

/-- From bit 31 down, the first set bit of a word is that of its logarithm. -/
theorem find?_bit_from_top {b : Word} (h : b ≠ 0) :
    (List.range 32).find? (fun k => b.getLsbD (31 - k)) = some (31 - b.toNat.log2) := by
  have pos : b.toNat ≠ 0 := fun e => h (BitVec.eq_of_toNat_eq e)
  have bound : b.toNat.log2 < 32 := (Nat.log2_lt pos).mpr b.isLt
  refine List.find?_range_eq_some.mpr ⟨?_, List.mem_range.mpr (by omega), fun j hj => ?_⟩
  · rw [Nat.sub_sub_self (by omega)]
    exact Nat.testBit_log2 pos
  · have above : b.toNat < 2 ^ (31 - j) := (Nat.log2_lt pos).mp (by omega)
    simp only [BitVec.getLsbD, Nat.testBit_lt_two_pow above, Bool.not_false]

theorem clzWord_eq (b : Word) :
    clzWord b = BitVec.ofNat 32 (((List.range 32).find? fun k => b.getLsbD (31 - k)).getD 32) := by
  unfold clzWord
  by_cases h : b = 0
  · subst h
    rfl
  · rw [if_neg h, find?_bit_from_top h]
    rfl

theorem bfeWord_eq (a b c : Word) : bfeWord a b c
    = BitVec.ofNat 32 (a.toNat / 2 ^ (b.toNat % 32) % 2 ^ min (c.toNat % 64) 32) := by
  simp only [bfeWord, toNat_extractLsb'_low]
  rfl

theorem ofNat_mul_two_pow (k n : Nat) : BitVec.ofNat 32 (k * 2 ^ n) = BitVec.ofNat 32 k <<< n := by
  apply BitVec.eq_of_toNat_eq
  simp [BitVec.toNat_shiftLeft, Nat.shiftLeft_eq]

theorem bfiWord_eq (a b c : Word) : bfiWord a b c =
    let at_ := b.toNat % 32
    let field : Word := BitVec.ofNat 32 (2 ^ min (b.toNat / 256 % 64) 32 - 1) <<< at_
    (a <<< at_) &&& field ||| c &&& ~~~field := by
  have width : (b.extractLsb' 8 6).toNat = b.toNat / 256 % 64 := by
    rw [BitVec.extractLsb'_toNat, Nat.shiftRight_eq_div_pow]
  have place : (b.extractLsb' 0 5).toNat = b.toNat % 32 := toNat_extractLsb'_low b
  simp only [bfiWord, width, place, ofNat_mul_two_pow]
  exact BitVec.or_comm ..

theorem dotSum_four (a b : Word) : dotSum a b 8 4 = signedElem a 8 0 * signedElem b 8 0
    + signedElem a 8 1 * signedElem b 8 1 + signedElem a 8 2 * signedElem b 8 2
    + signedElem a 8 3 * signedElem b 8 3 := by
  rw [← zero_add (signedElem a 8 0 * signedElem b 8 0)]
  rfl

theorem dotSum_two (a b : Word) :
    dotSum a b 16 2 = signedElem a 16 0 * signedElem b 16 0 + signedElem a 16 1 * signedElem b 16 1 := by
  rw [← zero_add (signedElem a 16 0 * signedElem b 16 0)]
  rfl

theorem rotateLeft_count (a b : Word) : a.rotateLeft (b.extractLsb' 0 5).toNat = a.rotateLeft (b.toNat % 32) := by
  have count : (b.extractLsb' 0 5).toNat = b.toNat % 32 := toNat_extractLsb'_low b
  rw [count]

/-! ## How the words issue -/

/-- A word that writes its lanes as integer arithmetic does, with the value of its rule. -/
def intWord (r : LaneRule) (s : State) : Host.Outcome State Fault Refusal :=
  issueVector s r.g r.regs r.srcs fun x m => s.save ((x.setIntLanes r.d m (r.val x)).done r.g.sw)

section
variable (g : Ctl) (o : VX) (s : State)

theorem execInt1_eq_intWord {f h : Word → LaneRes} (e : ∀ b, f b = h b) :
    execInt1 g o f s = intWord (lane1 g o h) s := by
  obtain rfl : f = h := funext e
  rfl

theorem execInt2_eq_intWord {f h : Word → Word → LaneRes} (e : ∀ a b, f a b = h a b) :
    execInt2 g o f s = intWord (lane2 g o h) s := by
  obtain rfl : f = h := funext₂ e
  rfl

theorem execInt3_eq_intWord {f h : Word → Word → Word → LaneRes} (e : ∀ a b c, f a b c = h a b c) :
    execInt3 g o f s = intWord (lane3 g o h) s := by
  obtain rfl : f = h := funext₃ e
  rfl

end

/-- A word that has a rule issues as an integer word with that rule. Where the model computes its value in another way than
the rule, the lemma on that value makes them agree; MOVI and SEL, which have no flag to raise, raise none. -/
theorem exec_eq_intWord {i : Instr} {r : LaneRule} (s : State) (h : intRule i = some r) : exec i s = intWord r s := by
  unfold intRule at h
  split at h <;> cases h <;> dsimp only [exec]
  case h_2 g o =>
    simp only [execMovi, intWord, plain, Ctx.setIntLanes_of_noFlags]
  case h_3 | h_4 | h_5 => exact execInt2_eq_intWord _ _ s fun _ _ => satResult_eq_wrapOrClamp ..
  case h_7 => exact execInt2_eq_intWord _ _ s fun a b => congrArg plain (mulHighU_eq_high32 a b)
  case h_9 => exact execInt2_eq_intWord _ _ s fun a b => congrArg plain (minS_eq a b)
  case h_10 => exact execInt2_eq_intWord _ _ s fun a b => congrArg plain (maxS_eq a b)
  case h_11 => exact execInt2_eq_intWord _ _ s fun a b => congrArg plain (minU_eq a b)
  case h_12 => exact execInt2_eq_intWord _ _ s fun a b => congrArg plain (maxU_eq a b)
  case h_13 => exact execInt1_eq_intWord _ _ s fun b => by rw [ite_neg_eq_abs, satResult_eq_wrapOrClamp]
  case h_14 => exact execInt1_eq_intWord _ _ s fun b => satResult_eq_wrapOrClamp ..
  case h_19 => exact execInt2_eq_intWord _ _ s fun a b => congrArg plain (shlWord_eq_leftBy a b)
  case h_20 => exact execInt2_eq_intWord _ _ s fun a b => congrArg plain (shrWord_eq_rightBy a b)
  case h_21 => exact execInt2_eq_intWord _ _ s fun a b => congrArg plain (sraWord_eq_signedRightBy a b)
  case h_22 => exact execInt2_eq_intWord _ _ s fun a b => congrArg plain (rotateLeft_count a b)
  case h_23 => exact execInt1_eq_intWord _ _ s fun b => congrArg plain (popcWord_eq b)
  case h_24 => exact execInt1_eq_intWord _ _ s fun b => congrArg plain (clzWord_eq b)
  case h_26 => exact execInt3_eq_intWord _ _ s fun a b c => congrArg plain (bfeWord_eq a b c)
  case h_27 => exact execInt3_eq_intWord _ _ s fun a b c => congrArg plain (bfiWord_eq a b c)
  case h_28 g o =>
    have value (x : Ctx) (l : Nat) :
        (if ((x.p (o.c.toNat % 8)).getLsbD l != o.c.getLsbD 3) = true then x.v o.a.toNat l else bInt x o l)
          = if (x.p (o.c.toNat % 8)).getLsbD l = o.c.getLsbD 3 then bInt x o l else x.v o.a.toNat l := by
      by_cases hp : (x.p (o.c.toNat % 8)).getLsbD l = o.c.getLsbD 3 <;> simp [hp]
    have names : (o.c.extractLsb' 0 3).toNat = o.c.toNat % 8 := toNat_extractLsb'_low o.c
    simp only [execSel, intWord, plain, names, Ctx.setIntLanes_of_noFlags, value]
  case h_29 =>
    refine execInt3_eq_intWord _ _ s fun a b c => ?_
    rw [satResult_eq_wrapOrClamp, dotSum_four, ← add_assoc, ← add_assoc, ← add_assoc]
  case h_30 =>
    refine execInt3_eq_intWord _ _ s fun a b c => ?_
    rw [satResult_eq_wrapOrClamp, dotSum_two, ← add_assoc]
  all_goals rfl

/-- Settles O2: each word writes its lanes in the shared way, with the value and the flags of its rule. -/
theorem integerWords : Obligations.IntegerWords := by
  intro i r s x hr h
  rw [exec_eq_intWord s hr, intWord, issueVector_of_ready h, Ctx.setIntLanes_eq]
  exact ⟨_, _, rfl, (Ctx.LanesWritten.setV x r.d _ _).laneEffect h.ctx true⟩

end Sys2Proof.Claim
end

section
/-! PROOFS. CVT and PACK: their results are written in the shared way, and raise their flags as integer arithmetic does where
both formats are integers (R63, R64, R83, R283, R284). -/

open Sys2Proof Sys2Proof.Machine

namespace Sys2Proof.Claim

set_option Elab.async false

/-! ## Conversions between integers -/

/-- Whether a format is one of the integers of R54. -/
def isInteger (f : NumFmt) : Bool :=
  match f with
  | .int _ => true
  | _ => false

theorem isInteger_numFmt (t : BitVec 4) :
    isInteger (numFmt t) = decide (6 ≤ t.toNat ∧ t.toNat ≤ 11 ∨ 14 ≤ t.toNat) := by
  revert t
  decide

theorem intOnly_eq_bothIntegers (o : VX) : intOnly o = bothIntegers o := by
  have formats : intOnly o = (isInteger (numFmt o.t2) && isInteger (numFmt o.t)) := by
    unfold intOnly
    cases numFmt o.t2 <;> cases numFmt o.t <;> rfl
  rw [formats, isInteger_numFmt, isInteger_numFmt, bothIntegers]

theorem setConvLanes_eq (x : Ctx) (o : VX) (m : LaneMask) (f : Nat → LaneRes) : x.setConvLanes o m f
    = (x.setV o.d.toNat ((lanesOf m).map fun l => (l, (f l).1))).raiseAs (bothIntegers o) (allFlags m fun l => (f l).2) := by
  rw [Ctx.setConvLanes, intOnly_eq_bothIntegers]
  cases bothIntegers o
  · exact Ctx.setLanes_eq_raiseAs ..
  · exact Ctx.setIntLanes_eq ..

/-- The flags of a half of a register are raised as those of a whole one. -/
theorem raise_eq_raiseAs (y : Ctx) (o : VX) (f : BitVec 6) :
    (if intOnly o then y.raiseSat f else y.raiseFlags f) = y.raiseAs (bothIntegers o) f := by
  rw [intOnly_eq_bothIntegers, Ctx.raiseAs]

/-! ## CVT and PACK -/

theorem laneEffect_setConvLanes {s : State} {x : Ctx} (hx : s.ctx? = some x) (g : Ctl) (o : VX) (val : Nat → LaneRes) :
    LaneEffect s (s.save ((x.setConvLanes o (x.active g) val).done g.sw)) x
      ((x.setConvLanes o (x.active g) val).issued g.sw) g (bothIntegers o) o.d.toNat val fun _ => 0 := by
  rw [setConvLanes_eq]
  exact (Ctx.LanesWritten.setV x _ _ _).laneEffect hx _

theorem cvtCompletes : CvtCompletes := by
  intro g o s x h
  have issued := issueVector_of_ready h fun x m =>
    if o.t = 0 then s.save ((x.setPairLanes o.d.toNat m fun l => onF64 (converted x o l)).done g.sw)
    else s.save ((x.setConvLanes o m fun l => (placeNarrow o.t (converted x o l).1, (converted x o l).2)).done g.sw)
  by_cases ht : o.t = 0
  · exact ⟨_, _, issued.trans (congrArg Host.Outcome.next (if_pos ht)), fun _ => pairEffect_setPairLanes h.ctx g _ _,
      fun hn => absurd ht hn⟩
  · exact ⟨_, _, issued.trans (congrArg Host.Outcome.next (if_neg ht)), fun h0 => absurd h0 ht,
      fun _ => laneEffect_setConvLanes h.ctx g o _⟩

section
variable {s : State} {x : Ctx} {g : Ctl} {o : VX}
  (h : Ready s x g (o.d.toNat :: o.a.toNat :: bRegs o) (.v o.a.toNat :: bSrcs o))
include h

/-- Two converted elements of 16 bits fill a register. -/
theorem exec_pack_whole (h16 : fmtBits o.t = 16) : exec (.pack g o) s = .next (s.save
    ((x.setConvLanes o (x.active g) (packVal x o)).done g.sw)) := by
  have value : packVal x o = fun l => (BitVec.ofNat 16 (packed o (bCvt x o l)).1
      ++ BitVec.ofNat 16 (packed o (x.v o.a.toNat l)).1, (packed o (x.v o.a.toNat l)).2 ||| (packed o (bCvt x o l)).2) := by
    funext l
    simp only [packVal, if_pos h16]
  rw [value]
  show execPack g o s = _
  unfold execPack
  dsimp only
  refine (issueVector_of_ready h _).trans (congrArg Host.Outcome.next ?_)
  exact if_pos h16

/-- Two converted elements of 8 bits fill the half of a register that MOD[0] names. -/
theorem exec_pack_half (h16 : fmtBits o.t ≠ 16) : exec (.pack g o) s = .next (s.save
    (((x.setHalf o.d.toNat (o.mode.getLsbD 0) ((lanesOf (x.active g)).map fun l =>
      (l, BitVec.ofNat 8 (packed o (bCvt x o l)).1 ++ BitVec.ofNat 8 (packed o (x.v o.a.toNat l)).1))).raiseAs
      (bothIntegers o) (allFlags (x.active g) fun l => (packVal x o l).2)).done g.sw)) := by
  rw [← raise_eq_raiseAs, ← orFlags_lanes]
  show execPack g o s = _
  unfold execPack
  dsimp only
  refine (issueVector_of_ready h _).trans (congrArg Host.Outcome.next ?_)
  exact if_neg h16

end

theorem packCompletes : PackCompletes := by
  intro g o s x h
  by_cases h16 : fmtBits o.t = 16
  · have poison : packPoison x o = fun _ => 0 := by
      funext l
      exact if_pos h16
    rw [poison]
    exact ⟨_, _, exec_pack_whole h h16, laneEffect_setConvLanes h.ctx g o _⟩
  · have value (l : Nat) : (packVal x o l).1 = if o.mode.getLsbD 0
        then (BitVec.ofNat 8 (packed o (bCvt x o l)).1 ++ BitVec.ofNat 8 (packed o (x.v o.a.toNat l)).1)
          ++ (x.v o.d.toNat l).extractLsb' 0 16
        else (x.v o.d.toNat l).extractLsb' 16 16
          ++ (BitVec.ofNat 8 (packed o (bCvt x o l)).1 ++ BitVec.ofNat 8 (packed o (x.v o.a.toNat l)).1) := if_neg h16
    have poison (l : Nat) : packPoison x o l = x.wave.poisonV x.frag.handler o.d.toNat l
        &&& if o.mode.getLsbD 0 then 1 else 2 := if_neg h16
    have half := Ctx.LanesWritten.setHalf x o.d.toNat (x.active g) (o.mode.getLsbD 0) fun l =>
      BitVec.ofNat 8 (packed o (bCvt x o l)).1 ++ BitVec.ofNat 8 (packed o (x.v o.a.toNat l)).1
    simp only [← value, ← poison] at half
    exact ⟨_, _, exec_pack_half h h16, half.laneEffect h.ctx _⟩

/-- Settles O6: CVT by whether its target is a pair, PACK by whether its elements fill the register. -/
theorem conversionWords : Obligations.ConversionWords := ⟨cvtCompletes, packCompletes⟩

end Sys2Proof.Claim
end

section
/-! SUPPORT. What the writing of a pending result leaves of its core and of its wave (R63, R93, R227, R391). -/

namespace Sys2Proof.Machine

set_option Elab.async false

/-- What no step of a fold changes, the fold does not change either. -/
theorem foldl_keeps {α β γ : Type} (view : α → γ) {f : α → β → α} (h : ∀ a b, view (f a b) = view a) (l : List β) (a : α) :
    view (l.foldl f a) = view a := by
  induction l generalizing a with
  | nil => rfl
  | cons b r ih => exact (ih _).trans (h a b)

/-! ## Cores of which one wave changes -/

/-- `y` is `x` with the wave in a slot changed by `f`; the same results are pending. -/
structure Core.WaveSteps (x y : Core) (w : Nat) (f : Wave → Wave) : Prop where
  wave : y.wave? w = (x.wave? w).map f
  pend : y.pend = x.pend

namespace Core.WaveSteps

variable {x y z : Core} {w : Nat} {f k : Wave → Wave}

theorem refl (x : Core) (w : Nat) : x.WaveSteps x w id := ⟨Option.map_id'.symm ▸ rfl, rfl⟩

theorem trans (h : x.WaveSteps y w f) (h' : y.WaveSteps z w k) : x.WaveSteps z w (k ∘ f) :=
  ⟨by rw [h'.wave, h.wave, Option.map_map], h'.pend.trans h.pend⟩

theorem congr (h : x.WaveSteps y w f) (e : ∀ u, k u = f u) : x.WaveSteps y w k := (funext e : k = f) ▸ h

theorem updWave (x : Core) (w : Nat) (hf : ∀ u, (f u).slot = u.slot) : x.WaveSteps (x.updWave w f) w f :=
  ⟨Core.wave?_updWave x w f hf, rfl⟩

/-- The damper of a fragment is no part of a wave (R227). -/
theorem foldInto (h : x.WaveSteps y w f) (frags : List Nat) (d : Nat) (v : Word) :
    x.WaveSteps (y.foldInto frags d v) w f := by
  unfold Core.foldInto
  refine ⟨.trans ?_ h.wave, .trans ?_ h.pend⟩
  · refine foldl_keeps (fun c : Core => c.wave? w) ?_ frags y
    exact fun _ _ => rfl
  · refine foldl_keeps Core.pend ?_ frags y
    exact fun _ _ => rfl

end Core.WaveSteps

/-! ## Registers of several names -/

theorem Wave.slot_putV (w : Wave) (h : Bool) (r l : Nat) (x : Word) (po : BitVec 2) : (w.putV h r l x po).slot = w.slot :=
  (congrArg Wave.slot (Wave.bare_putV w h r l x po) :)

theorem Wave.slot_putP (w : Wave) (h : Bool) (k : Nat) (m x : LaneMask) : (w.putP h k m x).slot = w.slot :=
  (congrArg Wave.slot (Wave.bare_putP w h k m x) :)

theorem Wave.slot_putS (w : Wave) (h : Bool) (r : Nat) (x : Word) (po : Bool) : (w.putS h r x po).slot = w.slot :=
  (congrArg Wave.slot (Wave.bare_putS w h r x po) :)

/-- The wave with the results of some registers, each a register, a lane and its value. -/
def Wave.putRegs (w : Wave) (h : Bool) (regs : List (Nat × Nat × Word)) : Wave :=
  regs.foldl (fun u r => u.putV h r.1 r.2.1 r.2.2 0) w

section
variable (h : Bool) {regs : List (Nat × Nat × Word)} (lanes : ∀ r ∈ regs, r.2.1 < 64)
include lanes

/-- A register and lane that no result names is as before. -/
theorem Wave.getV_putRegs_other {q l : Nat} (hl : l < 64) (hq : (q, l) ∉ regs.map fun r => (r.1, r.2.1)) (w : Wave) :
    (w.putRegs h regs).getV h q l = w.getV h q l := by
  induction regs generalizing w with
  | nil => rfl
  | cons e r ih =>
    simp only [List.map_cons, List.mem_cons, not_or, Prod.mk.injEq] at hq
    refine (ih (fun a ha => lanes a (List.mem_cons_of_mem _ ha)) hq.2 _).trans ?_
    rw [Wave.getV_putV _ _ _ _ _ _ _ _ (lanes e List.mem_cons_self) hl, if_neg fun k => hq.1 ⟨k.1.symm, k.2.symm⟩]

/-- Of results that name different registers or lanes, each is written. -/
theorem Wave.getV_putRegs (keys : (regs.map fun r => (r.1, r.2.1)).Nodup) {e : Nat × Nat × Word} (he : e ∈ regs) (w : Wave) :
    (w.putRegs h regs).getV h e.1 e.2.1 = e.2.2 := by
  induction regs generalizing w with
  | nil => exact absurd he List.not_mem_nil
  | cons a r ih =>
    obtain ⟨fresh, keys⟩ := List.nodup_cons.mp keys
    have rest : ∀ b ∈ r, b.2.1 < 64 := fun b hb => lanes b (List.mem_cons_of_mem _ hb)
    have ha := lanes a List.mem_cons_self
    obtain rfl | he := List.mem_cons.mp he
    · refine (Wave.getV_putRegs_other h rest ha fresh _).trans ?_
      rw [Wave.getV_putV _ _ _ _ _ _ _ _ ha ha, if_pos ⟨rfl, rfl⟩]
    · exact ih rest keys he _

end

/-- The wave with the results of some predicates: a mask without a lane is no write. -/
def Wave.putPreds (w : Wave) (h : Bool) (preds : List (Nat × LaneMask × LaneMask)) : Wave :=
  preds.foldl (fun u r => if r.1 = 0 ∨ r.2.1 = 0 then u else u.putP h r.1 r.2.1 r.2.2) w

section
variable {α : Type} (view : Wave → α) (h : Bool) (w : Wave)

theorem Wave.view_putRegs (keeps : ∀ u r l v, view (Wave.putV u h r l v 0) = view u) (regs : List (Nat × Nat × Word)) :
    view (w.putRegs h regs) = view w := foldl_keeps view (fun _ _ => keeps ..) regs w

theorem Wave.view_putPreds (keeps : ∀ u k m v, view (Wave.putP u h k m v) = view u)
    (preds : List (Nat × LaneMask × LaneMask)) : view (w.putPreds h preds) = view w :=
  foldl_keeps view (fun u r => by
    split
    · rfl
    · exact keeps ..) preds w

end

/-! ## A pending result as it is written -/

/-- The wave of a result once that has been written and its flags raised: a handler's raises none (R63, R83). -/
def Pend.written (p : Pend) (w : Wave) : Wave :=
  let u := (w.putRegs p.handler p.regs).putPreds p.handler p.preds
  if p.handler then u else { u with fpflags := u.fpflags ||| p.flags }

/-- What neither a predicate nor a flag is part of is as the registers leave it. -/
theorem Pend.view_written_regs {α : Type} (view : Wave → α) (p : Pend) (w : Wave)
    (preds : ∀ u k m v, view (Wave.putP u p.handler k m v) = view u)
    (flags : ∀ (u : Wave) f, view { u with fpflags := f } = view u) :
    view (p.written w) = view (w.putRegs p.handler p.regs) := by
  refine Eq.trans ?_ (Wave.view_putPreds view _ _ preds p.preds)
  unfold Pend.written
  split
  · rfl
  · exact flags ..

/-- What neither a vector register, nor a predicate, nor a flag is part of is as before. -/
theorem Pend.view_written {α : Type} (view : Wave → α) (p : Pend) (w : Wave)
    (regs : ∀ u r l v, view (Wave.putV u p.handler r l v 0) = view u)
    (preds : ∀ u k m v, view (Wave.putP u p.handler k m v) = view u)
    (flags : ∀ (u : Wave) f, view { u with fpflags := f } = view u) : view (p.written w) = view w :=
  (p.view_written_regs view w preds flags).trans (Wave.view_putRegs view _ _ regs _)

theorem Pend.getV_written (p : Pend) (w : Wave) (q l : Nat) :
    (p.written w).getV p.handler q l = (w.putRegs p.handler p.regs).getV p.handler q l :=
  p.view_written_regs (fun u => u.getV p.handler q l) w (fun _ _ _ _ => Wave.getV_putP ..) fun _ _ => rfl

theorem Pend.getS_written (p : Pend) (w : Wave) (q : Nat) : (p.written w).getS p.handler q = w.getS p.handler q :=
  p.view_written (fun u => u.getS p.handler q) w (fun _ _ _ _ => Wave.getS_putV ..) (fun _ _ _ _ => Wave.getS_putP ..)
    fun _ _ => rfl

theorem Pend.getA_written (p : Pend) (w : Wave) (q : Nat) : (p.written w).getA p.handler q = w.getA p.handler q :=
  p.view_written (fun u => u.getA p.handler q) w (fun _ _ _ _ => Wave.getA_putV ..) (fun _ _ _ _ => Wave.getA_putP ..)
    fun _ _ => rfl

theorem Pend.getP_written {p : Pend} (h : p.preds = []) (w : Wave) (q : Nat) :
    (p.written w).getP p.handler q = w.getP p.handler q := by
  refine Eq.trans ?_ (Wave.view_putRegs (fun u => u.getP p.handler q) p.handler w (fun _ _ _ _ => Wave.getP_putV ..) p.regs)
  rw [Pend.written, h]
  split <;> rfl

theorem Pend.rest_written (p : Pend) (w : Wave) : (p.written w).rest = w.rest :=
  p.view_written Wave.rest w (fun _ _ _ _ => Wave.rest_eq_of_bare (Wave.bare_putV ..))
    (fun _ _ _ _ => Wave.rest_eq_of_bare (Wave.bare_putP ..)) fun _ _ => rfl

theorem Pend.fpflags_written (p : Pend) (w : Wave) :
    (p.written w).fpflags = if p.handler then w.fpflags else w.fpflags ||| p.flags := by
  have kept : ((w.putRegs p.handler p.regs).putPreds p.handler p.preds).fpflags = w.fpflags :=
    (Wave.view_putPreds Wave.fpflags _ _ (fun _ _ _ _ => Wave.fpflags_eq_of_bare (Wave.bare_putP ..)) _).trans
      (Wave.view_putRegs Wave.fpflags _ _ (fun _ _ _ _ => Wave.fpflags_eq_of_bare (Wave.bare_putV ..)) _)
  unfold Pend.written
  split
  · exact kept
  · exact congrArg (· ||| p.flags) kept

theorem Core.waveSteps_putVectors (x : Core) (w : Nat) (h : Bool) (frags : List Nat) (regs : List (Nat × Nat × Word)) :
    x.WaveSteps (x.putVectors w h frags regs) w fun u => u.putRegs h regs := by
  have written : x.WaveSteps (x.updWave w fun u => u.putRegs h regs) w fun u => u.putRegs h regs :=
    .updWave x w fun u => Wave.view_putRegs Wave.slot h u (fun _ _ _ _ => Wave.slot_putV ..) regs
  unfold Core.putVectors
  dsimp only
  split
  · exact written
  · exact List.foldlRecOn (motive := fun y => x.WaveSteps y w _) _ _ written fun _ hy _ _ => hy.foldInto ..

theorem Core.waveSteps_putPreds (x : Core) (w : Nat) (h : Bool) (frags : List Nat)
    (preds : List (Nat × LaneMask × LaneMask)) :
    x.WaveSteps (x.putPreds w h frags preds) w fun u => u.putPreds h preds := by
  unfold Core.putPreds
  induction preds generalizing x with
  | nil => exact .refl x w
  | cons e r ih =>
    rw [List.foldl_cons]
    by_cases he : e.1 = 0 ∨ e.2.1 = 0
    · rw [if_pos he]
      refine .congr (ih x) fun u => ?_
      rw [Wave.putPreds, List.foldl_cons, if_pos he, Wave.putPreds]
    · rw [if_neg he]
      have step : x.WaveSteps (x.updWave w fun u => u.putP h e.1 e.2.1 e.2.2) w fun u => u.putP h e.1 e.2.1 e.2.2 :=
        .updWave x w fun _ => Wave.slot_putP ..
      refine .congr (.trans (f := fun u => u.putP h e.1 e.2.1 e.2.2) ?_ (ih _)) fun u => ?_
      · split
        · exact step
        · exact step.foldInto ..
      · rw [Wave.putPreds, List.foldl_cons, if_neg he]
        rfl

theorem Core.waveSteps_completePend (x : Core) (p : Pend) : x.WaveSteps (x.completePend p) p.wave p.written := by
  have regs := (x.waveSteps_putVectors p.wave p.handler p.frags p.regs).trans
    (Core.waveSteps_putPreds _ p.wave p.handler p.frags p.preds)
  unfold Core.completePend
  dsimp only
  split
  · next hh => exact regs.congr fun u => if_pos hh
  · next hh =>
    refine (regs.trans (k := fun u => { u with fpflags := u.fpflags ||| p.flags }) ?_).congr fun u => if_neg hh
    exact .updWave _ p.wave fun _ => rfl

/-! ## RDSRs that wait -/

/-- Results that are no RDSRs hear nothing. -/
theorem Pend.map_hear_of_none {l : List Pend} (h : ∀ q ∈ l, q.sr = none) (p : Pend) : (l.map fun q => q.hear p) = l := by
  refine (List.map_congr_left fun q hq => ?_).trans (List.map_id l)
  have quiet := h q hq
  cases q
  cases quiet
  unfold Pend.hear
  split <;> rfl

/-- Where no RDSR waits, none completes. -/
theorem Core.settleSr_of_none {x : Core} (h : ∀ q ∈ x.pend, q.sr = none) : x.settleSr = x := by
  have split : ∀ older l, (∀ q ∈ l, Pend.sr q = none) → splitSr older l = ([], l) := by
    intro older l
    induction l generalizing older with
    | nil => exact fun _ => rfl
    | cons q r ih =>
      intro hq
      rw [splitSr, ih _ fun a ha => hq a (List.mem_cons_of_mem _ ha), hq q List.mem_cons_self]
  rw [Core.settleSr, split [] x.pend h]
  rfl

/-- An RDSR that alone is pending waits for nothing more. -/
theorem Core.settleSr_single {x : Core} {q : Pend} {r : SrRead} (h : x.pend = [q]) (hq : q.sr = some r) :
    x.settleSr = { x with pend := [] }.writeSr q := by
  rw [Core.settleSr, h, splitSr, splitSr, hq]
  rfl

/-- The wave with what an RDSR has read of `w`: its uniform register, or the lanes that it captured. -/
def SrRead.write (r : SrRead) (h : Bool) (w u : Wave) : Wave :=
  if r.uk then u.putS h r.dest (r.value w ((lowLane r.lanes).getD 0)).1 ((r.value w ((lowLane r.lanes).getD 0)).2 != 0)
  else (lanesOf r.lanes).foldl (fun u l => u.putV h r.dest l (r.value w l).1 (r.value w l).2) u

section
variable (r : SrRead) (h : Bool) (w u : Wave)

theorem SrRead.bare_write : (r.write h w u).bare = u.bare := by
  unfold SrRead.write
  split
  · exact Wave.bare_putS ..
  · exact foldl_keeps Wave.bare (fun _ _ => Wave.bare_putV ..) _ u

theorem SrRead.getS_write (uk : r.uk = true) (d : Nat) :
    (r.write h w u).getS h d = if d = r.dest then (r.value w ((lowLane r.lanes).getD 0)).1 else u.getS h d := by
  rw [SrRead.write, if_pos uk, Wave.getS_putS]
  exact if_congr eq_comm rfl rfl

theorem SrRead.getV_write (uk : r.uk = false) {l : Nat} (hl : l < 64) :
    (r.write h w u).getV h r.dest l = if r.lanes.getLsbD l then (r.value w l).1 else u.getV h r.dest l := by
  rw [SrRead.write, if_neg (by simp [uk]), Wave.getV_foldl_putV _ (fun j hj => (mem_lanesOf.mp hj).1) _ _ _ _ _ _ _ hl]
  exact if_congr ((and_iff_right rfl).trans (mem_lanesOf_iff r.lanes hl)) rfl rfl

end

theorem Core.waveSteps_writeSr {x : Core} {p : Pend} {r : SrRead} {w : Wave} (hr : p.sr = some r)
    (hw : x.wave? p.wave = some w) : x.WaveSteps (x.writeSr p) p.wave (r.write p.handler w) := by
  have written : x.WaveSteps (x.updWave p.wave (r.write p.handler w)) p.wave (r.write p.handler w) :=
    .updWave x p.wave fun u => (congrArg Wave.slot (r.bare_write p.handler w u) :)
  unfold SrRead.write at written
  unfold Core.writeSr SrRead.write
  simp only [hr, hw]
  cases uk : r.uk
  · simp only [uk, Bool.false_eq_true, if_false, List.foldl_map] at written ⊢
    split
    · exact written
    · exact written.foldInto ..
  · simp only [uk, if_true] at written ⊢
    split
    · exact written
    · exact written.foldInto ..

end Sys2Proof.Machine
end

section
/-! PROOFS. Pending results as their steps write them, and the RDSR that waits for the last one (R63, R83, R93, R286, R294,
R309, R391). -/

open Sys2Proof Sys2Proof.Machine

namespace Sys2Proof.Claim

set_option Elab.async false

/-! ## The oldest result of a kind -/

/-- The core once the result at a position has been written, where no RDSR waits. -/
def pendTaken (x : Core) (pos : Nat) (p : Pend) : Core := { x with pend := x.pend.eraseIdx pos }.completePend p

section
variable {s : State} {c pos : Nat} {kind : PendKind} {p : Pend} {w : Wave} (h : Owed s c pos kind p w)
include h

theorem completeAt_of_owed : s.completeAt c pos kind = s.setCore c (pendTaken (s.core c) pos p) := by
  have oldest : ((s.core c).pend.take pos).any (fun q => q.kind == kind) = false :=
    List.any_eq_false.mpr fun q hq => by simpa using h.first q hq
  have quiet : ∀ q ∈ (s.core c).pend.drop (pos + 1), q.sr = none := fun q hq => h.noWait q (List.mem_of_mem_drop hq)
  have settled : (pendTaken (s.core c) pos p).settleSr = pendTaken (s.core c) pos p :=
    Core.settleSr_of_none fun q hq => by
      rw [pendTaken, (Core.waveSteps_completePend _ p).pend] at hq
      exact h.noWait q (List.mem_of_mem_eraseIdx hq)
  have other : (p.kind != kind) = false := by simp [h.ofKind]
  unfold State.completeAt
  simp only [h.at_, oldest, other, Bool.or_self, Bool.false_eq_true, if_false, Pend.map_hear_of_none quiet,
    ← List.eraseIdx_eq_take_drop_succ]
  exact congrArg (s.setCore c) settled

theorem written_of_owed : Written s (s.setCore c (pendTaken (s.core c) pos p)) c pos p w := by
  have steps := Core.waveSteps_completePend { s.core c with pend := (s.core c).pend.eraseIdx pos } p
  have rest := p.rest_written w
  refine ⟨rfl, fun d hd => State.core_setCore_ne s _ hd.symm, ?pend, p.written w, ?wave, fun r hr => ?own,
    fun q l hl hq => ?other, fun q => ⟨p.getS_written w q, p.getA_written w q⟩, fun hp q => Pend.getP_written hp w q,
    p.fpflags_written w, (congrArg Wave.ops rest :), (congrArg Wave.seq rest :), (congrArg Wave.hzn rest :)⟩
  case pend =>
    rw [State.core_setCore_self]
    exact steps.pend
  case wave =>
    rw [State.core_setCore_self]
    exact steps.wave.trans (congrArg (Option.map p.written) h.wave)
  case own => rw [Pend.getV_written, Wave.getV_putRegs _ h.lanes h.keys hr]
  case other => rw [Pend.getV_written, Wave.getV_putRegs_other _ h.lanes hl hq]

/-- A step that writes the oldest result of its kind. -/
theorem writes_of_owed {r : Host.Outcome State Fault Refusal}
    (hr : r = if coreCount ≤ c then .fault .noSuchUnit else .next (s.completeAt c pos kind)) :
    ∃ t, r = .next t ∧ Written s t c pos p w :=
  ⟨_, by rw [hr, if_neg h.core.not_ge, completeAt_of_owed h], written_of_owed h⟩

end

/-! ## The RDSR that waits for the last result -/

section
variable {s : State} {c : Nat} {p q : Pend} {r : SrRead} {w : Wave}

/-- The RDSR once it has heard the flags of the last result of its wave. -/
def heard (q p : Pend) (r : SrRead) : Pend := { q with sr := some { r with flags := r.flags ||| p.flags } }

theorem completeAt_of_waiting (pend : (s.core c).pend = [p, q]) (kind : p.kind = .sfu) (hp : p.handler = false)
    (hw : q.wave = p.wave) (hq : q.sr = some r) :
    s.completeAt c 0 .sfu = s.setCore c (({ s.core c with pend := [heard q p r] }.completePend p).settleSr) := by
  have hear : q.hear p = heard q p r := by simp [Pend.hear, heard, hw, hp, hq]
  unfold State.completeAt
  simp [pend, kind, hear]

end

theorem waitingReadsComplete : WaitingReadsComplete := by
  intro s c p q r w hc pend kind hp sr regs preds hwave hq hsr num wave
  let r' : SrRead := { r with flags := r.flags ||| p.flags }
  let u : Wave := { w with fpflags := w.fpflags ||| p.flags }
  have flags : p.written w = u := by simp [Pend.written, regs, preds, hp, Wave.putRegs, Wave.putPreds, u]
  have value (v : Wave) (l : Nat) : r'.value v l = ((r.flags ||| p.flags).zeroExtend 32, 0) := if_pos num
  have raised := Core.waveSteps_completePend { s.core c with pend := [heard q p r] } p
  generalize hx : { s.core c with pend := [heard q p r] }.completePend p = x at raised
  have there : { x with pend := [] }.wave? p.wave = some u := by
    rw [← flags]
    exact raised.wave.trans (congrArg (Option.map p.written) wave)
  have read := Core.waveSteps_writeSr (x := { x with pend := [] }) (p := heard q p r) (r := r') rfl (hwave ▸ there)
  have step : exec (.sfuComplete c 0) s = .next (s.setCore c ({ x with pend := [] }.writeSr (heard q p r))) := by
    refine (if_neg hc.not_ge).trans (congrArg Host.Outcome.next ?_)
    rw [completeAt_of_waiting pend kind hp hwave hsr, hx, Core.settleSr_single raised.pend rfl]
  have now : (heard q p r).handler = false := hq
  rw [now] at read
  refine ⟨_, r'.write false u u, step, ?pend, ?wave, ?flags, fun uk d => ?uniform, fun uk l hl => ?lanes⟩
  case pend =>
    rw [State.core_setCore_self]
    exact read.pend
  case wave =>
    rw [State.core_setCore_self, ← hwave]
    exact read.wave.trans (by rw [show (heard q p r).wave = p.wave from hwave, there]; rfl)
  case flags => exact Wave.fpflags_eq_of_bare (r'.bare_write false u u)
  case uniform =>
    rw [r'.getS_write false u u uk, value]
    rfl
  case lanes =>
    rw [r'.getV_write false u u uk hl, value]
    rfl

/-- Settles O32: a result by what its core writes of it, and the waiting RDSR by the kind of its destination. -/
theorem pendingResults : Obligations.PendingResults :=
  ⟨waitingReadsComplete, fun _ _ _ _ _ =>
    ⟨fun h => writes_of_owed h rfl, fun h => writes_of_owed h rfl, fun h => writes_of_owed h rfl⟩⟩

end Sys2Proof.Claim
end

section
/-! SUPPORT. What landings, acquires and records that leave their ring change of the cores: nothing of a Kiln (R170, R172,
R181, R192, R193, R216, R219). -/

namespace Sys2Proof.Machine

set_option Elab.async false

/-! ## What landings and acquires leave of a core -/

/-- A core without what a landing or an acquire may change of it: its blocks, its fault buffer, its L1 and its counts. -/
def Core.lasting (x : Core) : Core :=
  { x with blocks := [], shadows := [], l1 := [], faults := [], faultWait := [], nextCmd := 0, cnt := CoreCnt.zero }

/-- Every core is as before but for what a landing or an acquire may change of it, and the same group is served. Of what a
landing leaves this says more than `State.WavesKept`, which the killing of a wave keeps too. -/
structure State.LastingKept (s t : State) : Prop where
  lasting : ∀ c, (t.core c).lasting = (s.core c).lasting
  nextGroup : t.nextGroup = s.nextGroup

namespace State.LastingKept

theorem refl (s : State) : s.LastingKept s := ⟨fun _ => rfl, rfl⟩

theorem trans {s t u : State} (h : s.LastingKept t) (k : t.LastingKept u) : s.LastingKept u :=
  ⟨fun c => (k.lasting c).trans (h.lasting c), k.nextGroup.trans h.nextGroup⟩

theorem of_cores {s t u : State} (h : s.LastingKept t) (e : u.cores = t.cores) (n : u.nextGroup = t.nextGroup) :
    s.LastingKept u :=
  ⟨fun c => by rw [← h.lasting c, State.core, State.core, e], n.trans h.nextGroup⟩

theorem updCore {s t : State} (h : s.LastingKept t) (c : Nat) {f : Core → Core} (hf : ∀ x, (f x).lasting = x.lasting) :
    s.LastingKept (t.updCore c f) :=
  ⟨fun j => by
    rw [State.core_updCore]
    split
    · exact (hf _).trans (h.lasting j)
    · exact h.lasting j, h.nextGroup⟩

theorem updDie (s : State) (d : Nat) (f : Die → Die) : s.LastingKept (s.updDie d f) := (refl s).of_cores rfl rfl

theorem foldl {α : Type} {f : State → α → State} (h : ∀ s a, LastingKept s (f s a)) (l : List α) (s : State) :
    s.LastingKept (l.foldl f s) :=
  List.foldlRecOn (motive := s.LastingKept) l f (refl s) fun t ht a _ => ht.trans (h t a)

theorem kiln {s t : State} (h : s.LastingKept t) (c : Nat) : t.kiln c = s.kiln c :=
  (congrArg Core.kiln (h.lasting c) :)

/-! ### Landings -/

theorem takeFault (s : State) (c : Nat) (e : FaultEnt) : s.LastingKept (s.takeFault c e) := by
  unfold State.takeFault
  split
  · exact (refl s).updCore c fun _ => rfl
  · next k _ =>
    have taken : s.LastingKept (s.updCore c fun x => { x with faults := Map.put x.faults k e }) :=
      (refl s).updCore c fun _ => rfl
    exact taken.of_cores rfl rfl

theorem updAnyBlock (s : State) (c b : Nat) (f : Block → Block) :
    s.LastingKept (s.updCore c fun x => x.updAnyBlock b f) := (refl s).updCore c fun x => by
  unfold Core.updAnyBlock
  split <;> rfl

theorem countLandingDrop (s : State) (c : Nat) : s.LastingKept (s.countLandingDrop c) := (refl s).updCore c fun _ => rfl

theorem noteWrites (s : State) (h : Home) (lines : List Nat) (die : Option Nat) :
    s.LastingKept (s.noteWrites h lines die) := by
  unfold State.noteWrites
  split
  · exact refl s
  · split
    · exact (refl s).of_cores rfl rfl
    · cases h <;> exact (refl s).of_cores rfl rfl

theorem homeWrite (s : State) (h : Home) (bs : List Byte) : s.LastingKept (s.homeWrite h bs) := by
  cases h with
  | spad | allot => exact updAnyBlock ..
  | mem p => exact (refl s).of_cores rfl rfl

theorem countErrLost (s : State) (h : Home) (n : Nat) : s.LastingKept (s.countErrLost h n) := by
  unfold State.countErrLost
  split
  · exact refl s
  · cases h with
    | spad c | allot c => exact (refl s).updCore c fun _ => rfl
    | mem p => exact updDie ..

theorem updateFor (s : State) (own : Option (Nat × Nat)) (h : Home) (a n : Nat) (code : BitVec 16) (d : Dropped) :
    s.LastingKept (s.updateFor own h a n code d) := by
  unfold State.updateFor
  split
  · cases h with
    | spad => exact updAnyBlock ..
    | mem | allot => exact refl s
  · exact (homeWrite ..).trans (countErrLost ..)

theorem landNow (s : State) (c b : Nat) (l : Landing) : s.LastingKept (s.landNow c b l) := by
  unfold State.landNow
  split
  · exact (noteWrites ..).trans (updateFor ..)
  · split
    · exact updAnyBlock ..
    · dsimp only
      unfold State.unreached
      split
      · refine trans ?_ (updAnyBlock ..)
        exact (takeFault ..).updCore c fun _ => rfl
      · exact countLandingDrop ..

theorem landTask (s : State) (r : HRec) (n : Nat) (code : BitVec 16) (lines : List Nat) (die : Option Nat) :
    s.LastingKept (s.landTask r n code lines die) := by
  unfold State.landTask
  split
  · split
    · exact refl s
    · exact countLandingDrop ..
  · unfold State.land
    split
    · split
      · exact updAnyBlock ..
      · exact landNow ..
    · exact landNow ..

/-! ### Acquires -/

theorem dropL1 (s : State) (c : Nat) (q : Nat → CByte → Bool) :
    s.LastingKept (s.updCore c fun x => { x with l1 := dropBytes x.l1 q }) := (refl s).updCore c fun _ => rfl

theorem l1WriteBack (s : State) (c : Nat) (q : Nat → CByte → Bool) : s.LastingKept (s.l1WriteBack c q) := by
  unfold State.l1WriteBack
  refine (updDie ..).updCore c ?_
  exact fun _ => rfl

theorem l2WriteBack (s : State) (d : Nat) (q : Nat → CByte → Bool) : s.LastingKept (s.l2WriteBack d q) := by
  unfold State.l2WriteBack
  refine .trans (t := s.writeHome _) ?_ (updDie ..)
  exact (refl s).of_cores rfl rfl

theorem join (s : State) (c : Nat) (h : Home) : s.LastingKept (s.join c h) := by
  unfold State.join
  refine foldl (fun t r => ?_) _ s
  have own := (l1WriteBack t c fun k _ => r.lines.contains (k / 128)).trans (dropL1 _ c fun k _ => r.lines.contains (k / 128))
  dsimp only
  split
  · exact own
  · refine .trans (.trans ?_ (l2WriteBack ..)) (updDie ..)
    split
    · exact own.trans (l2WriteBack ..)
    · exact own

theorem discard (s : State) (c : Nat) (scope : Option (BitVec 3)) (q : Nat → CByte → Bool) :
    s.LastingKept (s.discard c scope q) := by
  unfold State.discard State.writeBack
  exact (((l1WriteBack ..).trans (l2WriteBack ..)).trans (dropL1 ..)).trans (updDie ..)

theorem acquire (s : State) (c : Nat) (ps : List Piece) (all : Bool) : s.LastingKept (s.acquire c ps all) := by
  have pages := foldl (fun t (p : Piece) => discard t c (some p.x.attr.scope) fun k _ => p.hasLine k) ps s
  unfold State.acquire
  cases all
  · exact pages
  · exact pages.trans (discard ..)

theorem gateAcquire (s : State) (r : HRec) : s.LastingKept (s.gateAcquire r) := by
  unfold State.gateAcquire
  split
  · exact refl s
  · split
    · dsimp only
      split
      · exact (join ..).trans (acquire ..)
      · exact join ..
    · exact refl s

/-! ### Records that leave their ring -/

theorem dropRec (s : State) (r : HRec) : s.LastingKept (s.dropRec r) := (refl s).of_cores rfl rfl

theorem refuseRec (s : State) (r : HRec) (code : BitVec 16) : s.LastingKept (s.refuseRec r code) :=
  (dropRec s r).trans (landTask ..)

end State.LastingKept

/-! ## Kilns -/

theorem State.kiln_updKiln (s : State) (c j : Nat) (f : Kiln → Kiln) :
    (s.updKiln c f).kiln j = if c = j then f (s.kiln j) else s.kiln j := by
  rw [State.kiln, State.updKiln, State.core_updCore]
  split <;> rfl

/-- The task that a record starts on the Kiln of a core, with the weights that are latched there (R345). -/
def State.started (s : State) (r : HRec) (c : Nat) (group : Option Nat) (leader : Option HRec) : KTask :=
  { task := { r with retried := false, fail := 0 }, kblock := 0, unit := 0, status := 0, lines := [], paused := false,
    stop := false, abandon := false, away := false, group := group, leader := leader,
    fmt := (s.kiln c).fmt, scaled := (s.kiln c).scaled, planes := (s.kiln c).planes }

section
variable (s : State) (r : HRec) (c : Nat) (group : Option Nat) (leader : Option HRec)

/-- What comes before the task starts: the acquire of its gate, and its tile set to zero. -/
theorem State.startTask_eq : ∃ t, s.LastingKept t ∧
    s.startTask r c group leader = t.updKiln c fun x =>
      { x with task := some (t.started r c group leader), reserved := none } := by
  have dropped := (State.LastingKept.gateAcquire s r).trans (.dropRec _ r)
  unfold State.startTask
  dsimp only
  split
  · refine ⟨_, dropped.updCore r.core ?_, rfl⟩
    exact fun _ => rfl
  · exact ⟨_, dropped, rfl⟩

theorem State.kiln_startTask (d : Nat) : (s.startTask r c group leader).kiln d
    = if c = d then { s.kiln d with task := some (s.started r c group leader), reserved := none } else s.kiln d := by
  obtain ⟨t, kept, e⟩ := s.startTask_eq r c group leader
  rw [e, State.kiln_updKiln, State.started, kept.kiln, kept.kiln]
  rfl

theorem State.nextGroup_startTask : (s.startTask r c group leader).nextGroup = s.nextGroup := by
  obtain ⟨t, kept, e⟩ := s.startTask_eq r c group leader
  rw [e]
  exact kept.nextGroup

end

/-- The members of a group start, each on its own core. -/
theorem State.kiln_startAll (leader : GroupReg → Option HRec) {gs : List GroupReg}
    (apart : (gs.map fun g => g.task.core).Nodup) (s : State) :
    let t := gs.foldl (fun s g => s.startTask g.task g.task.core (some s.nextGroup) (leader g)) s
    (∀ c, (∀ g ∈ gs, g.task.core ≠ c) → t.kiln c = s.kiln c) ∧
      ∀ g ∈ gs, (t.kiln g.task.core).task = some (s.started g.task g.task.core (some s.nextGroup) (leader g)) := by
  induction gs generalizing s with
  | nil => exact ⟨fun _ _ => rfl, fun _ h => absurd h List.not_mem_nil⟩
  | cons a r ih =>
    obtain ⟨fresh, apart⟩ := List.nodup_cons.mp apart
    obtain ⟨others, members⟩ := ih apart (s.startTask a.task a.task.core (some s.nextGroup) (leader a))
    have away (g : GroupReg) (hg : g ∈ r) : g.task.core ≠ a.task.core := fun e => fresh (List.mem_map.mpr ⟨g, hg, e⟩)
    refine ⟨fun c hc => ?_, fun g hg => ?_⟩
    · refine (others c fun g hg => hc g (List.mem_cons_of_mem _ hg)).trans ?_
      rw [State.kiln_startTask, if_neg (hc a List.mem_cons_self)]
    · obtain rfl | hg := List.mem_cons.mp hg
      · rw [List.foldl_cons, others _ away, State.kiln_startTask, if_pos rfl]
      · rw [List.foldl_cons, members g hg, State.started, State.started, State.nextGroup_startTask, State.kiln_startTask,
          if_neg (away g hg).symm]

/-! ## Kilns that a group reserves -/

/-- The Kilns of some cores that are free are reserved for the group that is served (R219). -/
def State.reserve (s : State) (cores : List Nat) (id : Nat) : State :=
  cores.foldl (fun s c => s.updKiln c fun k => if k.free then { k with reserved := some id } else k) s

section
variable (s : State) (cores : List Nat) (id : Nat)

/-- Nothing but Kilns changes. -/
theorem State.core_reserve (d : Nat) :
    (s.reserve cores id).core d = { s.core d with kiln := (s.reserve cores id).kiln d } := by
  obtain ⟨k, hk⟩ : ∃ k, (s.reserve cores id).core d = { s.core d with kiln := k } := by
    refine List.foldlRecOn (motive := fun t : State => ∃ k, t.core d = { s.core d with kiln := k }) _ _ ⟨_, rfl⟩ ?_
    rintro t ⟨k, hk⟩ c -
    rw [State.updKiln, State.core_updCore, hk]
    split
    · exact ⟨_, rfl⟩
    · exact ⟨k, rfl⟩
  rw [State.kiln, hk]

theorem State.nextGroup_reserve : (s.reserve cores id).nextGroup = s.nextGroup :=
  List.foldlRecOn (motive := fun t : State => t.nextGroup = s.nextGroup) _ _ rfl fun _ h _ _ => h

theorem State.kiln_reserve (c : Nat) : (s.reserve cores id).kiln c
    = if c ∈ cores ∧ (s.kiln c).free = true then { s.kiln c with reserved := some id } else s.kiln c := by
  induction cores generalizing s with
  | nil => simp [State.reserve]
  | cons d r ih =>
    rw [State.reserve, List.foldl_cons, ← State.reserve, ih, State.kiln_updKiln]
    by_cases hd : d = c
    · subst hd
      cases free : (s.kiln d).free
      · simp [free]
      · simp [Kiln.free]
    · simp [hd, Ne.symm hd]

end

/-- Reservations are no tasks. -/
theorem State.task_unreserve (s : State) (c : Nat) : (s.unreserve.kiln c).task = (s.kiln c).task :=
  State.view_mapCores (fun x => x.kiln.task) s s.unreserve rfl (fun e => by dsimp only; split <;> rfl) c

end Sys2Proof.Machine
end

section
/-! PROOFS. Records of the Hearth whose gates are checked, which are dispatched or registered, and the tasks of the Kilns
(R69, R99, R129, R140, R215 to R221, R345, R348). -/

open Sys2Proof Sys2Proof.Machine

namespace Sys2Proof.Claim

set_option Elab.async false

/-! ## Gates -/

/-- The check of the gate of a record that has none pending of its own. -/
theorem gateCheck_of_read {s : State} {cl pos : Nat} {r : HRec} (rec : (s.cluster cl).ring[pos]? = some r)
    (waits : r.eligible = false) (fault : r.inFault = false) (fail : r.fail = 0) (retried : r.retried = false)
    (runs : s.recRuns r = true) {h : Home} {bar : List Byte} (read : s.gateRead r = .ok (h, bar)) :
    s.gateCheck cl pos =
      if r.task.opens bar then s.updRec r fun r => { r with eligible := true, retried := false } else s := by
  unfold State.gateCheck
  simp [rec, waits, fault, fail, retried, runs, read]

theorem gatesAreChecked : GatesAreChecked := by
  refine ⟨fun x bs => beq_iff_eq, fun s cl pos r hcl rec waits fault fail retried runs e he => ?_⟩
  have checked : exec e s = .next (s.gateCheck cl pos) := by
    obtain rfl | rfl : e = .hearthGateCheck cl pos ∨ e = .hearthGateReread cl pos := by simpa using he
    · exact if_neg hcl.not_ge
    · exact if_neg hcl.not_ge
  have opens {bar : List Byte} : r.task.opens bar = true ↔ BitVec.ofNat 16 (recNat bar 12 2) ≠ r.task.gph - 1 := bne_iff_ne
  refine ⟨fun h bar read open_ => ?_, fun h bar read shut => ?_⟩ <;>
    rw [checked, gateCheck_of_read rec waits fault fail retried runs read]
  · rw [if_pos (opens.mpr open_)]
  · rw [if_neg fun o => opens.mp o shut]

/-! ## Dispatch -/

theorem hearthDispatch_of_ready {s : State} {cl pos j : Nat} {r : HRec} (rec : (s.cluster cl).ring[pos]? = some r)
    (ready : s.recReady r = true) (take : s.mayTake r (4 * cl + j) = true)
    (older : ∀ q ∈ (s.cluster cl).ring.take pos, s.recReady q = false ∨ ∀ c ∈ s.kilnsOf cl, s.mayTake q c = false) :
    s.hearthDispatch cl pos j = if s.recCheck r (s.kiln (4 * cl + j)) ≠ 0
      then s.refuseRec r (s.recCheck r (s.kiln (4 * cl + j))) else s.startTask r (4 * cl + j) none none := by
  have oldest : ((s.cluster cl).ring.take pos).any (fun q => s.recReady q && (s.kilnsOf cl).any (s.mayTake q)) = false := by
    refine List.any_eq_false.mpr fun q hq => ?_
    obtain notReady | none := older q hq
    · simp [notReady]
    · simpa using fun _ => none
  unfold State.hearthDispatch
  simp [rec, ready, take, oldest]

theorem recordsAreDispatched : RecordsAreDispatched := by
  intro s cl pos j r hcl hj rec ready take older
  have dispatched : exec (.hearthDispatch cl pos j) s = .next (s.hearthDispatch cl pos j) :=
    if_neg fun h => h.elim hcl.not_ge hj.not_ge
  rw [dispatched, hearthDispatch_of_ready rec ready take older]
  refine ⟨fun ok => ⟨_, rfl, ?_⟩, fun bad => congrArg Host.Outcome.next (if_pos bad)⟩
  rw [if_neg (not_not.mpr ok), State.kiln_startTask, if_pos rfl]
  rfl

/-! ## Groups -/

theorem registerRec_of_eligible {s : State} {cl pos : Nat} {r : HRec} (rec : (s.cluster cl).ring[pos]? = some r)
    (eligible : r.eligible = true) (new : r.registered = false) (fault : r.inFault = false) (fail : r.fail = 0)
    (several : 2 ≤ r.task.gr * r.task.gc) (runs : s.recRuns r = true) :
    (r.task.groupOk = false → s.registerRec cl pos = s.refuseRec r (s.recCheck r (s.kiln r.core))) ∧
    ∀ key, r.task.groupOk = true → s.gateKey r = some key →
      (∀ q ∈ s.groupRegs ++ s.groups.flatten, ¬ (q.gate = key ∧ q.phase = r.task.gph)) →
      s.registerRec cl pos = { s.updRec r fun r => { r with registered := true } with
        groupRegs := s.groupRegs ++
          [⟨key, r.task.gph, r.task.gr, r.task.gc, r.task.midx, cl, { r with registered := true }⟩] } := by
  have single : (r.task.gr * r.task.gc == 1) = false :=
    beq_eq_false_iff_ne.mpr (by omega)
  have free : (!r.eligible || r.registered || r.inFault || r.fail != 0 || r.task.gr * r.task.gc == 1
      || !s.recRuns r) = false := by
    rw [single]
    simp [eligible, new, fault, fail, runs]
  refine ⟨fun bad => ?_, fun key ok gate first => ?_⟩
  · unfold State.registerRec
    simp only [rec, free, bad, Bool.not_false, Bool.false_eq_true, if_false, if_true]
  · have none : (s.groupRegs ++ s.groups.flatten).filter (fun q => GroupReg.sameKey
        ⟨key, r.task.gph, r.task.gr, r.task.gc, r.task.midx, cl, { r with registered := true }⟩ q) = [] :=
      List.filter_eq_nil_iff.mpr fun q hq same => by
        obtain ⟨gate, phase⟩ : key = q.gate ∧ r.task.gph = q.phase := by simpa [GroupReg.sameKey] using same
        exact first q hq ⟨gate.symm, phase.symm⟩
    have more : 0 + 1 < r.task.gr * r.task.gc := several
    unfold State.registerRec
    simp only [rec, free, ok, gate, none, List.any_nil, List.length_nil, Bool.not_true, Bool.false_eq_true, if_false]
    exact if_pos more

theorem exec_groupRegistration {cl : Nat} (hcl : cl < clusterCount) (pos : Nat) (s : State) :
    exec (.groupRegistration cl pos) s = .next (s.registerRec cl pos) := if_neg hcl.not_ge

theorem task_none_of_free {k : Kiln} (h : k.free = true) : k.task = none := by
  simp only [Kiln.free, Bool.and_eq_true, Option.isNone_iff_eq_none] at h
  exact h.1

/-- A record's checks read the block of the record, and the format and the scales of the Kiln. -/
theorem recCheck_congr {s t : State} {r : HRec} {k k' : Kiln} (block : t.blockAt r.core r.block = s.blockAt r.core r.block)
    (fmt : k'.fmt = k.fmt) (scaled : k'.scaled = k.scaled) : t.recCheck r k' = s.recCheck r k := by
  have format (follows : Bool) : r.formatOk k' follows = r.formatOk k follows := by
    simp only [HRec.formatOk, fmt, scaled]
  unfold State.recCheck
  rw [block]
  simp only [format]

/-- The state in which the Kilns of the group that is served are reserved (R219). -/
def held (s : State) (gs : List GroupReg) : State := s.reserve (gs.map fun g => g.task.core) s.nextGroup

theorem blockAt_held (s : State) (gs : List GroupReg) (c b : Nat) : (held s gs).blockAt c b = s.blockAt c b := by
  rw [State.blockAt, held, State.core_reserve]
  rfl

section
variable {s : State} {gs : List GroupReg} {rest : List (List GroupReg)} (served : s.groups = gs :: rest)
  (runs : ∀ g ∈ gs, s.recRuns g.task = true ∧ (s.core g.task.core).enabled = true)
  (apart : (gs.map fun g => g.task.core).Nodup)
  (idle : ∀ g ∈ gs, (s.kiln g.task.core).free = true ∧ (s.core g.task.core).loading = false)

section
include idle

theorem kiln_held {g : GroupReg} (hg : g ∈ gs) :
    (held s gs).kiln g.task.core = { s.kiln g.task.core with reserved := some s.nextGroup } := by
  rw [held, State.kiln_reserve, if_pos ⟨List.mem_map.mpr ⟨g, hg, rfl⟩, (idle g hg).1⟩]

theorem recCheck_held {g : GroupReg} (hg : g ∈ gs) :
    (held s gs).recCheck g.task ((held s gs).kiln g.task.core) = s.recCheck g.task (s.kiln g.task.core) := by
  rw [kiln_held idle hg]
  exact recCheck_congr (blockAt_held ..) rfl rfl

end

include served runs apart idle in
/-- The group that is served starts once it holds all its Kilns. -/
theorem groupDispatch_of_idle :
    s.groupDispatch = { (held s gs).startGroup gs with groups := rest, nextGroup := s.nextGroup + 1 } := by
  have all : (gs.all fun g => s.recRuns g.task && (s.core g.task.core).enabled) = true :=
    List.all_eq_true.mpr fun g hg => by simp [runs g hg]
  have holds : (gs.map fun g => g.task.core).all (fun c => ((held s gs).kiln c).reserved == some s.nextGroup
      && ((held s gs).kiln c).task.isNone && !((held s gs).core c).loading) = true := by
    rw [List.all_map]
    refine List.all_eq_true.mpr fun g hg => ?_
    obtain ⟨free, quiet⟩ := idle g hg
    have quiet : ((held s gs).core g.task.core).loading = false := by
      rw [held, State.core_reserve]
      exact quiet
    simp [kiln_held idle hg, quiet, task_none_of_free free]
  unfold State.groupDispatch
  simp only [served, all, Bool.not_true, Bool.false_eq_true, if_false]
  exact if_pos ⟨apart, holds⟩

section
include idle

/-- Where every member passes its checks, each starts on its Kiln. -/
theorem startGroup_starts (apart : (gs.map fun g => g.task.core).Nodup)
    (ok : ∀ g ∈ gs, s.recCheck g.task (s.kiln g.task.core) = 0) {g : GroupReg} (hg : g ∈ gs) :
    (((held s gs).startGroup gs).kiln g.task.core).task
      = some (s.started g.task g.task.core (some s.nextGroup) (leaderOf gs g)) := by
  have all : (gs.all fun g => (held s gs).recCheck g.task ((held s gs).kiln g.task.core) == 0) = true :=
    List.all_eq_true.mpr fun g hg => by simp [recCheck_held idle hg, ok g hg]
  have same : (held s gs).nextGroup = s.nextGroup := State.nextGroup_reserve ..
  unfold State.startGroup
  simp only [all, if_true]
  rw [(State.kiln_startAll (leaderOf gs) apart (held s gs)).2 g hg, State.started, State.started, kiln_held idle hg, same]

/-- Where one does not, none starts. -/
theorem startGroup_refuses {q : GroupReg} (hq : q ∈ gs) (bad : s.recCheck q.task (s.kiln q.task.core) ≠ 0) {g : GroupReg}
    (hg : g ∈ gs) : (((held s gs).startGroup gs).kiln g.task.core).task = none := by
  have all : (gs.all fun g => (held s gs).recCheck g.task ((held s gs).kiln g.task.core) == 0) = false :=
    List.all_eq_false.mpr ⟨q, hq, by simpa [recCheck_held idle hq] using bad⟩
  unfold State.startGroup
  simp only [all, Bool.false_eq_true, if_false]
  rw [(State.LastingKept.foldl (fun t _ => .refuseRec t _ _) gs _).kiln, State.task_unreserve, kiln_held idle hg]
  exact (task_none_of_free (idle g hg).1 :)

end

end

theorem groupsRun : GroupsRun := by
  intro s
  refine ⟨fun cl pos r hcl rec eligible new fault fail several runs => ?_, fun none => ?_,
    fun gs rest served runs apart idle => ?_⟩
  · obtain ⟨refused, registered⟩ := registerRec_of_eligible rec eligible new fault fail several runs
    refine ⟨fun key ok gate first => ⟨_, exec_groupRegistration hcl pos s, ?_⟩, fun bad => ?_⟩
    · rw [registered key ok gate first]
      exact ⟨rfl, rfl⟩
    · rw [exec_groupRegistration hcl, refused bad]
  · show Host.Outcome.next s.groupDispatch = _
    rw [State.groupDispatch, none]
  · refine ⟨_, congrArg Host.Outcome.next (groupDispatch_of_idle served runs apart idle), rfl, rfl,
      fun ok g hg => startGroup_starts idle apart ok hg, ?_⟩
    rintro ⟨q, hq, bad⟩ g hg
    exact startGroup_refuses idle hq bad hg

/-! ## Tasks -/

section
variable {s : State} {c : Nat} {k : KTask}

theorem exec_kilnBoundary (hc : c < coreCount) (s : State) : exec (.kilnBoundary c) s = .next (s.kilnBoundary c) :=
  if_neg hc.not_ge

variable (task : (s.kiln c).task = some k)
include task

/-- What the boundary of a task finds first: that it stops, that it ends with a code, or that it waits. -/
theorem kilnBoundary_stops (stop : k.stop = true) : s.kilnBoundary c = s.endTask c := by
  unfold State.kilnBoundary
  simp only [task, stop, if_true]

theorem kilnBoundary_ends (stop : k.stop = false) (ends : (k.abandon || (!k.task.inFault && k.task.fail != 0)) = true) :
    s.kilnBoundary c = ((((s.updCore k.task.core fun x => x.dropFaults fun e => e.cmd == some k.task.id).refillFaults
      k.task.core).endTask c).landTask k.task k.task.count (if k.abandon then eCmdAbandoned else k.task.fail) k.lines
      k.writesAt) := by
  unfold State.kilnBoundary
  simp only [task, stop, ends, Bool.false_eq_true, if_false, if_true]

variable (stop : k.stop = false) (abandon : k.abandon = false)
include stop abandon

theorem kilnBoundary_waits (fault : k.task.inFault = true) : s.kilnBoundary c = s := by
  unfold State.kilnBoundary
  simp only [task, stop, abandon, fault, Bool.not_true, Bool.false_and, Bool.or_self, Bool.false_eq_true, if_false, if_true]

variable (fault : k.task.inFault = false) (fail : k.task.fail = 0) (alone : k.group = none)
include fault fail alone

/-- A task by itself advances and pauses with no other. -/
theorem kilnBoundary_alone : s.kilnBoundary c =
    if k.away || !s.recRuns k.task then s.updTask c fun k => { k with paused := true }
    else if k.paused then s.updTask c fun k => { k with paused := false }
    else if k.kblock < k.task.task.kb then s.kblockStep c k
    else if k.drained then s else s.drainStep c k := by
  have partners : s.partners c k = [(c, k)] := by rw [State.partners, alone]
  have away : s.groupAway k = false := by rw [State.groupAway, alone]; rfl
  have failed : (k.task.fail != 0) = false := by simp [fail]
  unfold State.kilnBoundary
  simp only [task, stop, abandon, fault, failed, partners, away, Bool.not_false, Bool.and_false, Bool.or_false,
    Bool.false_eq_true, if_false, List.any_cons, List.any_nil, List.foldl_cons, List.foldl_nil]
  refine if_congr Iff.rfl rfl (if_congr Iff.rfl rfl ?_)
  by_cases more : k.kblock < k.task.task.kb <;> simp [more]

end

/-- The next k-block of a task that uses its own activations. -/
theorem kblockStep_of_rows {s : State} {c : Nat} {k : KTask} {rows : List ActRow} {b : Block} (own : k.leader = none)
    (read : s.taskRows k = .ok rows) (block : s.blockAt k.task.core k.task.block = some b) :
    s.kblockStep c k = if b.accBad k.task.task.accoff k.task.task.tileBytes then
        s.updTask c fun k => { k with task := { k.task with fail := eSpadPoison } }
      else
        let u := tileUpdate { k.task.task with flags := (k.task.task.flags &&& 0xFE) + k.task.task.flags % 2 }
          (k.planes.getD (k.task.task.koff + k.kblock) Plane.zero) k.scaled rows b.acc
        (s.updCore k.task.core fun x => x.updBlock k.task.block fun b => { b with acc := u.1 }).updTask c fun k =>
          { k with kblock := k.kblock + 1, status := k.status ||| u.2 } := by
  unfold State.kblockStep
  simp only [read, block, own, Option.getD_none]

theorem kilnComplete_of_drained {s : State} {c : Nat} {k : KTask} (task : (s.kiln c).task = some k)
    (live : (k.stop || k.abandon || k.paused || k.task.inFault || k.task.fail != 0) = false)
    (all : k.task.task.kb ≤ k.kblock) (drained : k.drained = true) :
    s.kilnComplete c = (((if k.task.task.stat = 0xFFFFFFFF then s else
      s.updCore k.task.core fun x => x.updBlock k.task.block fun b =>
        b.spadWrite k.task.task.stat (toBytes 4 k.status.toNat)).endTask c).landTask k.task k.task.count 0 k.lines
      k.writesAt) := by
  have completes : (k.stop || k.abandon || k.paused || k.task.inFault || k.task.fail != 0
      || decide (k.kblock < k.task.task.kb) || !k.drained) = false := by
    rw [live, drained, decide_eq_false all.not_gt]
    rfl
  unfold State.kilnComplete
  simp only [task, completes, Bool.false_eq_true, if_false]

theorem kilnTasksRun : KilnTasksRun := by
  intro s c k hc task die t
  simp only [exec_kilnBoundary hc]
  refine ⟨fun stop => ?_, fun stop abandon => ?_, fun stop abandon fault fail => ?_, fun stop abandon fault => ?_,
    fun stop abandon fault fail => ⟨fun alone drained => ?_, fun rows b go alone own here runs more read block => ?_,
      fun go all drained => ?_⟩⟩
  · rw [kilnBoundary_stops task stop]
  · rw [kilnBoundary_ends task stop (by simp [abandon]), abandon]
    rfl
  · rw [kilnBoundary_ends task stop (by rw [abandon, fault]; exact bne_iff_ne.mpr fail), abandon]
    rfl
  · rw [kilnBoundary_waits task stop abandon fault]
  · rw [kilnBoundary_alone task stop abandon fault fail alone, drained]
    simp
  · rw [kilnBoundary_alone task stop abandon fault fail alone, here, runs, go, if_neg (by simp), if_neg (by simp),
      if_pos more, kblockStep_of_rows own read block]
    exact ⟨fun bad => by rw [if_pos bad], fun good => by rw [if_neg (by simp [good])]⟩
  · have live : (k.stop || k.abandon || k.paused || k.task.inFault || k.task.fail != 0) = false := by
      simp [stop, abandon, go, fault, fail]
    exact (if_neg hc.not_ge).trans (congrArg Host.Outcome.next (kilnComplete_of_drained task live all drained))

/-- Settles O42: gates by the phase that they show, records by the checks of their Kiln, groups by whether every member
passes, and tasks by what their boundary finds. -/
theorem hearthSteps : Obligations.HearthSteps :=
  ⟨gatesAreChecked, recordsAreDispatched, groupsRun, kilnTasksRun⟩

end Sys2Proof.Claim
end

section
/-! PROOFS. Every operation of the model on a state keeps the canonical form of the module's memory (log 3): those that
change another part of the state keep its memory as it is, and those that write the memory do so by Laws/Memory's
operations. The lemmas follow the files of the model; each is named after the function that it speaks of. -/

namespace Sys2Proof.Machine

set_option Elab.async false

/-! ## What an activity and an access answer -/

/-- If the step goes on, it is to a state whose memory is in canonical form. -/
def KeepsInv (r : Host.Outcome State Fault Refusal) : Prop :=
  match r with
  | .next t => t.Inv
  | _ => True

theorem KeepsInv.next {r : Host.Outcome State Fault Refusal} {t : State} (h : KeepsInv r) (e : r = .next t) :
    t.Inv := by
  rw [e] at h
  exact h

theorem KeepsInv.ite {c : Prop} [Decidable c] {a b : Host.Outcome State Fault Refusal} (ha : KeepsInv a)
    (hb : KeepsInv b) : KeepsInv (if c then a else b) := by
  split
  · exact ha
  · exact hb

/-- What an access answers, if it answers, has a property. -/
def EngRes.Holds {α : Type} (r : EngRes α) (P : α → Prop) : Prop := ∀ a, r = .ok a → P a

namespace EngRes.Holds

variable {α β : Type} {P : α → Prop} {Q : β → Prop}

theorem trivially (r : EngRes α) : r.Holds fun _ => True := fun _ _ => trivial

theorem ok {a : α} (h : P a) : (EngRes.ok a).Holds P := fun _ e => by
  cases e
  exact h

theorem fail {code : BitVec 16} : (EngRes.fail code : EngRes α).Holds P := fun _ e => nomatch e

theorem ite {c : Prop} [Decidable c] {r q : EngRes α} (hr : r.Holds P) (hq : q.Holds P) :
    (if c then r else q).Holds P := by
  split
  · exact hr
  · exact hq

theorem bind {r : EngRes α} {f : α → EngRes β} (hr : r.Holds P) (hf : ∀ a, P a → (f a).Holds Q) :
    (r.bind f).Holds Q := by
  cases r with
  | ok a => exact hf a (hr a rfl)
  | fail | replay | wait => exact fun _ e => nomatch e

theorem foldl {f : α → β → EngRes α} {l : List β} {r : EngRes α} (hf : ∀ a b, P a → (f a b).Holds P)
    (hr : r.Holds P) : (l.foldl (fun r b => r.bind fun a => f a b) r).Holds P := by
  induction l generalizing r with
  | nil => exact hr
  | cons b l ih => exact ih (hr.bind fun a ha => hf a b ha)

end EngRes.Holds

/-! ## The rules of the invariant, and the functions of each file -/

namespace State.Inv

variable {s : State}

/-! ### Rules -/

/-- A change of other parts of the state: the memory that is left is the one that was there. -/
theorem of_mem {t : State} (h : s.Inv) (e : t.mem = s.mem) : t.Inv := State.Inv_of_mem h e

/-- The memory of a state that a record update is made from, as the goal shows it once the update is unfolded. -/
theorem wf (h : s.Inv) : Memory.wf s.mem = true := h

theorem ite {c : Prop} [Decidable c] {a b : State} (ha : a.Inv) (hb : b.Inv) : (if c then a else b).Inv := by
  split
  · exact ha
  · exact hb

/-- Something more is done to a state, or nothing. -/
theorem ifThen {c : Prop} [Decidable c] {t : State} (ht : s.Inv → t.Inv) (h : s.Inv) : (if c then t else s).Inv :=
  ite (ht h) h

theorem ifElse {c : Prop} [Decidable c] {t : State} (ht : s.Inv → t.Inv) (h : s.Inv) : (if c then s else t).Inv :=
  ite h (ht h)

theorem foldl {α : Type} {l : List α} {f : State → α → State} (hf : ∀ s a, s.Inv → (f s a).Inv) (h : s.Inv) :
    (l.foldl f s).Inv := State.Inv_foldl _ _ hf h

/-- A fold that carries something beside the state. -/
theorem foldl_fst {α β : Type} {l : List α} {f : State × β → α → State × β} {r : State × β}
    (hf : ∀ r a, r.1.Inv → (f r a).1.Inv) (h : r.1.Inv) : (l.foldl f r).1.Inv :=
  List.foldlRecOn (motive := fun r => r.1.Inv) l f h fun r h a _ => hf r a h

/-! ### Regs -/

theorem setCore {c x} (h : s.Inv) : (s.setCore c x).Inv := of_mem h rfl

/-! ### Xlate -/

theorem fill {c a ps} (h : s.Inv) : (s.fill c a ps).Inv :=
  ifThen (Inv_updCore _ _) (ite (of_mem h rfl) h)

theorem writeCached {c a cells} (h : s.Inv) : (s.writeCached c a cells).Inv :=
  ite (of_mem h rfl) (ite (of_mem h rfl) (Inv_writeHome _ h))

theorem flushHome {c} {q : Nat → CByte → Bool} (h : s.Inv) : (s.flushHome c q).Inv :=
  Inv_updDie _ _ (Inv_updCore _ _ (Inv_l2WriteBack _ _ (of_mem h rfl)))

theorem cacheLeaf {c d root va} (h : s.Inv) : (s.cacheLeaf c d root va).Inv := by
  unfold State.cacheLeaf
  dsimp only
  split
  · exact h
  · split
    · exact h
    · split
      · exact of_mem h rfl
      · exact ite h (of_mem h rfl)

/-! ### Barrier -/

theorem takeFault {c e} (h : s.Inv) : (s.takeFault c e).Inv := by
  unfold State.takeFault
  dsimp only
  split
  · exact of_mem h rfl
  · exact of_mem h rfl

theorem refillFaults {c} (h : s.Inv) : (s.refillFaults c).Inv :=
  foldl (fun _ _ h => h.takeFault) (of_mem h rfl)

theorem noteWrites {h lines die} (hs : s.Inv) : (s.noteWrites h lines die).Inv := by
  unfold State.noteWrites
  dsimp only
  split
  · exact hs
  · split
    · exact of_mem hs rfl
    · split
      · exact hs
      · exact of_mem hs rfl

theorem countDropped {d} (h : s.Inv) : (s.countDropped d).Inv := by
  unfold State.countDropped
  dsimp only
  split
  · exact h
  · exact of_mem h rfl
  · exact of_mem h rfl
  · exact of_mem h rfl

theorem unreached {c f e} {wait : State → State} (h : s.Inv) (hwait : ∀ x, x.Inv → (wait x).Inv) :
    (s.unreached c f e wait).Inv :=
  ite (hwait _ h.takeFault) (of_mem h rfl)

theorem land {c b l} (h : s.Inv) : (s.land c b l).Inv := by
  unfold State.land
  split
  · exact ite (of_mem h rfl) (Inv_landNow _ _ _ h)
  · exact Inv_landNow _ _ _ h

theorem landCode {c b w num bar n code} (h : s.Inv) : (s.landCode c b w num bar n code).Inv :=
  land (of_mem h rfl)

theorem pumpCore {c} (h : s.Inv) : (s.pumpCore c).Inv :=
  foldl (fun _ _ h => Inv_landAgain _ _ h) h

theorem windowOp {c b e} (h : s.Inv) : (s.windowOp c b e).Inv := by
  unfold State.windowOp
  split
  · exact Inv_barUpdate _ _ _ _ h
  · exact Inv_homeWrite _ _ h

theorem dropWindow {y} (h : s.Inv) : (s.dropWindow y).Inv := by
  unfold State.dropWindow
  refine foldl (fun _ _ h => ?_) h
  split
  · exact h.countDropped
  · exact h

/-! ### Ops -/

theorem updWave {c w} {f : Wave → Wave} (h : s.Inv) : (s.updWave c w f).Inv := of_mem h rfl

theorem updOp {c w n} {f : Op → Op} (h : s.Inv) : (s.updOp c w n f).Inv := of_mem h rfl

theorem countLaunchErr (h : s.Inv) : s.countLaunchErr.Inv := of_mem h rfl

theorem launchFault {id code} (h : s.Inv) : (s.launchFault id code).Inv := by
  unfold State.launchFault
  split
  · exact h
  · exact ite (of_mem h rfl) (of_mem h rfl)

theorem landTask {r n code lines die} (h : s.Inv) : (s.landTask r n code lines die).Inv :=
  ite (ite h (of_mem h rfl)) h.land

theorem dropRec {r} (h : s.Inv) : (s.dropRec r).Inv := of_mem h rfl

theorem unregister {gone : HRec → Bool} (h : s.Inv) : (s.unregister gone).Inv := by
  unfold State.unregister
  dsimp only [State.Inv]
  refine wf ?_
  split
  · exact ite (of_mem h rfl) h
  · exact h

theorem refuseGroups {keys} {gone : HRec → Bool} (h : s.Inv) : (s.refuseGroups keys gone).Inv := by
  unfold State.refuseGroups
  refine foldl (fun _ _ h => landTask (of_mem h rfl)) ?_
  dsimp only [State.Inv]
  exact wf (ite (of_mem h rfl) h)

theorem breakGroups {gone : HRec → Bool} (h : s.Inv) : (s.breakGroups gone).Inv :=
  h.refuseGroups

theorem abandonWhere {c} {p : EngCmd → Bool} {q : HRec → Bool} (h : s.Inv) : (s.abandonWhere c p q).Inv :=
  foldl (fun _ _ h => of_mem h rfl) (foldl (fun _ _ h => h.landTask) (unregister (refillFaults (of_mem h rfl))))

theorem abandonEngine {c w n} (h : s.Inv) : (s.abandonEngine c w n).Inv :=
  h.abandonWhere

theorem trimTasks {gone : HRec → Bool} (h : s.Inv) : (s.trimTasks gone).Inv := of_mem h rfl

theorem stopEngines {c b} (h : s.Inv) : (s.stopEngines c b).Inv :=
  Inv_updCore _ _ (Inv_updDie _ _ (trimTasks (Inv_updCluster _ _ h.breakGroups)))

theorem endDrawn {ds} (h : s.Inv) : (s.endDrawn ds).Inv :=
  foldl (fun _ _ h => of_mem h rfl) h

theorem endWave {c w} (h : s.Inv) : (s.endWave c w).Inv := by
  unfold State.endWave
  split
  · exact h
  · exact updWave h.endDrawn

theorem abandonAll {c w} (h : s.Inv) : (s.abandonAll c w).Inv := by
  unfold State.abandonAll
  dsimp only
  split
  · exact h
  · exact updWave (Inv_updCore _ _ (foldl (fun _ _ h => ite h.abandonEngine h) h))

theorem killEngines {c w} (h : s.Inv) : (s.killEngines c w).Inv := by
  unfold State.killEngines
  split
  · exact h
  · exact ite h.abandonWhere h.stopEngines

theorem unstall {c w} (h : s.Inv) : (s.unstall c w).Inv :=
  foldl (fun _ _ h => of_mem h rfl) (of_mem h rfl)

theorem killWave {c w} (h : s.Inv) : (s.killWave c w).Inv := by
  unfold State.killWave
  exact endWave (updWave (refillFaults (unstall (Inv_updCore _ _ (abandonAll h.killEngines)))))

theorem nestedTrap {c w} (h : s.Inv) : (s.nestedTrap c w).Inv :=
  countLaunchErr (launchFault h.killWave)

theorem raise {x t} (h : s.Inv) : (s.raise x t).Inv :=
  ite h.nestedTrap (of_mem h rfl)

theorem finishOp {c w n} (h : s.Inv) : (s.finishOp c w n).Inv := by
  unfold State.finishOp
  dsimp only
  split
  · exact h
  · exact ite (updWave (ite (of_mem h rfl) h)) (updOp (ite (of_mem h rfl) h))

theorem failLasting {c w n code a} (h : s.Inv) : (s.failLasting c w n code a).Inv := by
  unfold State.failLasting
  split
  · exact h
  · exact ite h.nestedTrap (of_mem h rfl)

theorem failOp {c w n code a} (h : s.Inv) : (s.failOp c w n code a).Inv := by
  unfold State.failOp
  split
  · exact h
  · exact ite h.failLasting (of_mem h rfl)

theorem issueVector {g regs srcs} {k : Ctx → LaneMask → State} (h : s.Inv) (hk : ∀ x y, (k x y).Inv) :
    KeepsInv (issueVector s g regs srcs k) := by
  unfold Machine.issueVector
  split
  · exact trivial
  · exact KeepsInv.ite h.raise (KeepsInv.ite h.raise (hk _ _))

theorem issueUniform {g srcs} {k : Ctx → Ctx} (h : s.Inv) : KeepsInv (issueUniform s g srcs k) := by
  unfold Machine.issueUniform
  dsimp only
  split
  · exact trivial
  · exact KeepsInv.ite h.raise (KeepsInv.ite (of_mem h rfl) (of_mem h rfl))

theorem returnFromTrap {c w mask} (h : s.Inv) : (s.returnFromTrap c w mask).Inv := by
  unfold State.returnFromTrap
  dsimp only
  split
  · exact h
  · split
    · exact h
    · exact ifThen (Inv_updCore _ _)
        (Inv_updCore _ _ (updWave (Inv_updCore _ _ (Inv_updCore _ _ (foldl (fun _ _ h => ite h.abandonEngine h) h)))))

/-! ### Uniform -/

theorem execUni2 {g o} {f : Word → Word → Word} (h : s.Inv) : KeepsInv (execUni2 g o f s) :=
  h.issueUniform

theorem execAget {g o} (h : s.Inv) : KeepsInv (execAget g o s) := by
  unfold Machine.execAget
  exact h.issueUniform

/-! ### Integer -/

theorem execInt1 {g o} {f : Word → LaneRes} (h : s.Inv) : KeepsInv (execInt1 g o f s) :=
  h.issueVector fun _ _ => of_mem h rfl

theorem execInt2 {g o} {f : Word → Word → LaneRes} (h : s.Inv) : KeepsInv (execInt2 g o f s) :=
  h.issueVector fun _ _ => of_mem h rfl

theorem execInt3 {g o} {f : Word → Word → Word → LaneRes} (h : s.Inv) : KeepsInv (execInt3 g o f s) :=
  h.issueVector fun _ _ => of_mem h rfl

theorem execSel {g o} (h : s.Inv) : KeepsInv (execSel g o s) := by
  unfold Machine.execSel
  exact h.issueVector fun _ _ => of_mem h rfl

/-! ### FloatOps -/

theorem execF32x2 {g o} {f : Nat → Nat → Nat × BitVec 6} (h : s.Inv) : KeepsInv (execF32x2 g o f s) :=
  h.issueVector fun _ _ => of_mem h rfl

theorem execF32x1 {g o} {f : Nat → Nat × BitVec 6} (h : s.Inv) : KeepsInv (execF32x1 g o f s) :=
  h.issueVector fun _ _ => of_mem h rfl

theorem execF32x3 {g o} {f : Nat → Nat → Nat → Nat × BitVec 6} (h : s.Inv) : KeepsInv (execF32x3 g o f s) :=
  h.issueVector fun _ _ => of_mem h rfl

theorem execF64x2 {g o} {f : Nat → Nat → Nat × BitVec 6} (h : s.Inv) : KeepsInv (execF64x2 g o f s) :=
  h.issueVector fun _ _ => of_mem h rfl

theorem execF64x1 {g o} {f : Nat → Nat × BitVec 6} (h : s.Inv) : KeepsInv (execF64x1 g o f s) :=
  h.issueVector fun _ _ => of_mem h rfl

theorem execF64x3 {g o} {f : Nat → Nat → Nat → Nat × BitVec 6} (h : s.Inv) : KeepsInv (execF64x3 g o f s) :=
  h.issueVector fun _ _ => of_mem h rfl

theorem execPkx2 {g o} {f : Nat → Nat → Nat × BitVec 6} (h : s.Inv) : KeepsInv (execPkx2 g o f s) :=
  h.issueVector fun _ _ => of_mem h rfl

theorem execPkx1 {g o} {f : Nat → Nat × BitVec 6} (h : s.Inv) : KeepsInv (execPkx1 g o f s) :=
  h.issueVector fun _ _ => of_mem h rfl

theorem execPkx3 {g o} {f : Nat → Nat → Nat → Nat × BitVec 6} (h : s.Inv) : KeepsInv (execPkx3 g o f s) :=
  h.issueVector fun _ _ => of_mem h rfl

theorem execPkCmp {g o f} (h : s.Inv) : KeepsInv (execPkCmp g o f s) := by
  unfold Machine.execPkCmp
  exact h.issueVector fun _ _ => of_mem h rfl

/-! ### Convert -/

theorem execCvt {g o} (h : s.Inv) : KeepsInv (execCvt g o s) := by
  unfold Machine.execCvt
  exact h.issueVector (fun _ _ => ite (of_mem h rfl) (of_mem h rfl))

theorem execPack {g o} (h : s.Inv) : KeepsInv (execPack g o s) := by
  unfold Machine.execPack
  exact h.issueVector (fun _ _ => ite (of_mem h rfl) (of_mem h rfl))

theorem execSfu {g o} {f : Nat → Nat × BitVec 6} (h : s.Inv) : KeepsInv (execSfu g o f s) :=
  h.issueVector fun _ _ => of_mem h rfl

theorem execSfu64 {g o} {f : Nat → Nat × BitVec 6} (h : s.Inv) : KeepsInv (execSfu64 g o f s) :=
  h.issueVector fun _ _ => of_mem h rfl

/-! ### Places -/

theorem keepPieces {c root ps} (h : s.Inv) : (s.keepPieces c root ps).Inv :=
  foldl (fun _ _ h => h.cacheLeaf) h

theorem iinv {c v} (h : s.Inv) : (s.iinv c v).Inv :=
  ite h (ite (foldl (fun _ _ h => of_mem h rfl) (of_mem h rfl)) (of_mem h rfl))

theorem engAnswered {c k code} (h : s.Inv) : (s.engAnswered c k code).Inv :=
  foldl (fun _ _ h => of_mem h rfl) (of_mem h rfl)

theorem failAnswered {c e code} (h : s.Inv) : (s.failAnswered c e code).Inv := by
  unfold State.failAnswered
  split
  · split
    · exact finishOp h.landCode
    · exact h.failLasting
  · exact h.failLasting

theorem faultAnswered {c e failIt} (h : s.Inv) : (s.faultAnswered c e failIt).Inv := by
  unfold State.faultAnswered
  dsimp only
  split
  · exact h.engAnswered
  · exact ite (of_mem h rfl) (ite (failAnswered (of_mem h rfl)) (ite h (of_mem h rfl)))

theorem faultStatus {c e status} (h : s.Inv) : (s.faultStatus c e status).Inv := by
  unfold State.faultStatus
  split
  · exact h
  · exact ite (refillFaults (faultAnswered (of_mem h rfl))) h

theorem ctlWrite {c off bs} (h : s.Inv) : (s.ctlWrite c off bs).Inv :=
  ite (of_mem h rfl) (ite h.iinv (ite (of_mem h rfl) (ite h.faultStatus h)))

theorem pieceTouch {c p} (h : s.Inv) : (s.pieceTouch c p).Inv := by
  unfold State.pieceTouch
  dsimp only
  split
  · split
    · exact of_mem h rfl
    · exact h
  · exact ite h.fill h

theorem pieceWrite {c p bs} (h : s.Inv) : (s.pieceWrite c p bs).Inv := by
  unfold State.pieceWrite
  dsimp only
  split
  · split
    · exact h
    · exact Inv_homeWrite _ _ h
  · exact h.ctlWrite
  · exact h
  · exact h
  · exact of_mem h rfl
  · exact h.writeCached

/-! ### Results -/

theorem completeAt {c pos kind} (h : s.Inv) : (s.completeAt c pos kind).Inv := by
  unfold State.completeAt
  dsimp only
  split
  · exact h
  · exact ite h (of_mem h rfl)

/-! ### Sync -/

theorem settleWritten {c w} (h : s.Inv) : (s.settleWritten c w).Inv := of_mem h rfl

theorem release {c ps all} (h : s.Inv) : (s.release c ps all).Inv :=
  ifThen (fun h => Inv_writeBack _ _ _ h) (foldl (fun _ _ h => Inv_writeBack _ _ _ h) h)

theorem acquire {c ps all} (h : s.Inv) : (s.acquire c ps all).Inv :=
  ifThen (fun h => Inv_discard _ _ _ h) (foldl (fun _ _ h => Inv_discard _ _ _ h) h)

theorem join {c h} (hs : s.Inv) : (s.join c h).Inv := by
  unfold State.join
  refine foldl (fun _ _ h => ite (of_mem h rfl) (Inv_updDie _ _ (Inv_l2WriteBack _ _ ?_))) hs
  split
  · exact Inv_l2WriteBack _ _ (of_mem h rfl)
  · exact of_mem h rfl

theorem pushHome {c} {q : Nat → CByte → Bool} (h : s.Inv) : (s.pushHome c q).Inv :=
  Inv_l2WriteBack _ _ (of_mem h rfl)

theorem flushObj {c h} (hs : s.Inv) : (s.flushObj c h).Inv := by
  unfold State.flushObj
  split
  · exact hs.flushHome
  · exact hs

theorem withVerdict {α : Type} {c k} {v : Verdict α} {go : α → State} (h : s.Inv) (hgo : ∀ x, (go x).Inv) :
    (State.withVerdict s c k v go).Inv := by
  unfold State.withVerdict
  split
  · exact h
  · exact h.failOp
  · exact hgo _

theorem withObj {c k o acc n} {go : State → Home → State} (h : s.Inv) (hgo : ∀ x y, x.Inv → (go x y).Inv) :
    (s.withObj c k o acc n go).Inv :=
  h.withVerdict fun _ => hgo _ _ h.flushObj

theorem withBoth {c k o acc n} {go : State → List Piece → Home → State} (h : s.Inv)
    (hgo : ∀ x y z, x.Inv → (go x y z).Inv) :
    (s.withBoth c k o acc n go).Inv :=
  h.withVerdict fun _ => hgo _ _ _ h.flushObj

theorem askHost {c k a pss} (h : s.Inv) : (s.askHost c k a pss).Inv :=
  ite (of_mem h rfl) h.failOp

theorem askBehind {c k} (h : s.Inv) : (s.askBehind c k).Inv :=
  updOp h.askHost

theorem withRelease {c k ps all sys} {go : State → State} (h : s.Inv) (hgo : ∀ x, x.Inv → (go x).Inv) :
    (s.withRelease c k ps all sys go).Inv := by
  unfold State.withRelease
  dsimp only
  split
  · exact ite h h.failOp
  · exact ite (askBehind h.release) (hgo _ h.release)

/-! ### Memory -/

theorem issueOp {x sw m count kind lanes work commits} (h : s.Inv) :
    (issueOp s x sw m count kind lanes work commits).Inv :=
  ite (of_mem h rfl) (ite h (of_mem h rfl))

theorem execGather {g o} (h : s.Inv) : KeepsInv (execGather g o s) := by
  unfold Machine.execGather
  exact h.issueVector fun _ _ => h.issueOp

theorem execScatter {g o} (h : s.Inv) : KeepsInv (execScatter g o s) := by
  unfold Machine.execScatter
  exact h.issueVector fun _ _ => h.issueOp

theorem execLds {g o} (h : s.Inv) : KeepsInv (execLds g o s) := by
  unfold Machine.execLds
  refine h.issueVector fun _ _ => ?_
  split
  · exact h.raise
  · exact h.raise
  · exact ite h (of_mem h rfl)

theorem execSts {g o} (h : s.Inv) : KeepsInv (execSts g o s) := by
  unfold Machine.execSts
  refine h.issueVector fun _ _ => ?_
  split
  · exact h.raise
  · exact ite h (of_mem h rfl)

theorem performLoad {c w k pss answer} (h : s.Inv) : (s.performLoad c w k pss answer).Inv :=
  finishOp (Inv_updCore
    _ _ (foldl (fun _ _ h => foldl (fun _ _ h => h.pieceTouch) h) (foldl (fun _ _ h => h.keepPieces) h)))

theorem returnLoad {c w n} (h : s.Inv) : (s.returnLoad c w n).Inv := by
  unfold State.returnLoad
  split
  · exact h
  · split
    · split
      · exact h
      · split
        · exact h
        · exact h.failOp
        · exact ite h h.performLoad
    · split
      · exact h
      · split
        · exact h
        · exact h.failOp
        · exact ite h h.performLoad
    · exact h

theorem writeParts {c w l} (h : s.Inv) : (s.writeParts c w l).Inv :=
  updWave (Inv_writeHome _ (foldl (fun _ _ h => h.pieceWrite) h))

theorem acceptParts {c w k l} (h : s.Inv) : (s.acceptParts c w k l).Inv := by
  unfold State.acceptParts
  dsimp only
  split
  · exact h.failOp
  · exact ite (of_mem h rfl) (ifThen finishOp (updOp (Inv_updCore _ _ h.writeParts)))

theorem acceptStore {c w n} (h : s.Inv) : (s.acceptStore c w n).Inv := by
  unfold State.acceptStore
  dsimp only
  split
  · exact h
  · split
    · split
      · exact h
      · split
        · exact of_mem h rfl
        · exact failOp (of_mem h rfl)
        · exact acceptParts (foldl (fun _ _ h => h.keepPieces) (of_mem h rfl))
    · exact h

theorem issuedStores (h : s.Inv) : s.issuedStores.Inv :=
  foldl (fun _ _ h => h.acceptStore) h

theorem drainHeld {c w} (h : s.Inv) : (s.drainHeld c w).Inv := by
  unfold State.drainHeld
  dsimp only
  split
  · exact h
  · split
    · exact h
    · split
      · exact failOp (of_mem h rfl)
      · exact ifThen finishOp (writeParts (of_mem h rfl))
      · exact writeParts (of_mem h rfl)

/-! ### Atomics -/

theorem atomStep {h cas aop w64 a} (hs : s.Inv) : (s.atomStep h cas aop w64 a).1.Inv := by
  unfold State.atomStep
  dsimp only
  split
  · exact Inv_homeWrite _ _ hs
  · exact hs

theorem atomSteps {cas aop w64 l answer} (h : s.Inv) : (s.atomSteps cas aop w64 l answer).1.Inv :=
  foldl_fst (fun r e hr => by
    dsimp only
    split
    · exact atomStep hr
    · exact hr) h

theorem issueAtomic {g o ret cas} (h : s.Inv) : KeepsInv (issueAtomic s g o ret cas) :=
  h.issueVector (fun _ _ => ite (of_mem h rfl) (ite h (of_mem h rfl)))

theorem issueSpadAtomic {g o cas} (h : s.Inv) : KeepsInv (issueSpadAtomic s g o cas) := by
  unfold Machine.issueSpadAtomic
  refine h.issueVector fun _ _ => ?_
  split
  · exact h.raise
  · exact h.raise
  · exact ite (of_mem h rfl) (ite h (ite (ite h (of_mem h rfl)) (ite h (of_mem h rfl))))

theorem performAtomic {c k ret cas aop w64 ord pss ps answer} (h : s.Inv) :
    (s.performAtomic c k ret cas aop w64 ord pss ps answer).Inv := by
  unfold State.performAtomic
  dsimp only
  have home := flushHome (c := c) (q := fun key _ => pss.any fun l => l.any fun p => p.hasLine key)
    (foldl (l := pss) (fun _ ps h => keepPieces (c := c) (root := k.root) (ps := ps) h) h)
  split
  · exact home.failOp
  · split
    · exact home.failOp
    · next l _ _ _ =>
      have stepped := home.atomSteps (cas := cas) (aop := aop) (w64 := w64) (l := l)
        (answer := answerData (if w64 then 8 else 4) answer)
      have acquired := ite (c := ord.getLsbD 0 = true) (acquire (c := c) (ps := ps) (all := false) stepped) stepped
      refine finishOp ?_
      split
      · exact Inv_updCore _ _ acquired
      · exact acquired

theorem tryAtomic {c k} (h : s.Inv) : (s.tryAtomic c k).Inv := by
  unfold State.tryAtomic
  dsimp only
  split
  · split
    · exact h.withVerdict fun _ => h.performAtomic
    · exact h.withVerdict
        (fun _ => ite (h.withRelease (fun _ h => ite h.askHost h.performAtomic)) (ite h.askHost h.performAtomic))
  · exact h

theorem atomicAnswer {c k bs} (h : s.Inv) : (s.atomicAnswer c k bs).Inv := by
  unfold State.atomicAnswer
  dsimp only
  split
  · exact of_mem h rfl
  · exact tryAtomic (of_mem h rfl)

theorem collierAtomic {c w n} (h : s.Inv) : (s.collierAtomic c w n).Inv := by
  unfold State.collierAtomic
  split
  · exact h
  · exact ite h.tryAtomic h

/-- Whether it releases first or not, the operation then steps its lanes, and discards where it acquires. -/
theorem trySpadAtomic {c k ret cas aop w64 ord} (h : s.Inv) : (s.trySpadAtomic c k ret cas aop w64 ord).Inv := by
  have acquired {s : State} (h : s.Inv) (x : Block) (ps : List Piece) : (if ord.getLsbD 0 = true then
      (s.updCore c fun y => y.setBlock x).acquire c ps false else s.updCore c fun y => y.setBlock x).Inv :=
    ite (acquire (of_mem h rfl)) (of_mem h rfl)
  refine h.withVerdict fun ps => ite (h.withRelease fun s h => ?_) ?_
  all_goals
    dsimp only
    split
    · exact h
    · refine finishOp ?_
      split
      · exact Inv_updCore _ _ (acquired h _ ps)
      · exact acquired h _ ps

/-! ### Control -/

theorem issueFragment {g srcs} {k : Ctx → LaneMask → State} (h : s.Inv) (hk : ∀ x y, (k x y).Inv) :
    KeepsInv (issueFragment s g srcs k) := by
  unfold Machine.issueFragment
  dsimp only
  split
  · exact trivial
  · exact KeepsInv.ite h.raise (KeepsInv.ite (of_mem h rfl) (hk _ _))

theorem execBrc {g o} (h : s.Inv) : KeepsInv (execBrc g o s) := by
  unfold Machine.execBrc
  dsimp only
  split
  · exact trivial
  · exact KeepsInv.ite h.raise (KeepsInv.ite h.raise (of_mem h rfl))

theorem execBrx {g o} (h : s.Inv) : KeepsInv (execBrx g o s) := by
  unfold Machine.execBrx
  dsimp only
  split
  · exact trivial
  · exact KeepsInv.ite h.raise (KeepsInv.ite h.raise (of_mem h rfl))

theorem execRcv {g o} (h : s.Inv) : KeepsInv (execRcv g o s) := by
  unfold Machine.execRcv
  refine h.issueFragment fun x _ => ?_
  dsimp only
  split
  · exact ite (of_mem h rfl) (of_mem h rfl)
  · exact ite (of_mem h rfl) (of_mem h rfl)
  · exact ite (of_mem h rfl) (of_mem h rfl)
  · exact of_mem h rfl

theorem endIfEmpty {c w} (h : s.Inv) : (s.endIfEmpty c w).Inv :=
  ite h.endWave h

theorem endHandled {c w} (h : s.Inv) : (s.endHandled c w).Inv :=
  endWave (Inv_updCore _ _ (returnFromTrap (of_mem h rfl)))

theorem execExit {g _o} (h : s.Inv) : KeepsInv (execExit g _o s) := by
  unfold Machine.execExit
  refine h.issueFragment fun _ _ => ite (of_mem h rfl) ?_
  split
  · exact of_mem h rfl
  · exact ite (ite h h.endHandled) (endIfEmpty (of_mem h rfl))

theorem execRte {g o} (h : s.Inv) : KeepsInv (execRte g o s) := by
  unfold Machine.execRte
  split
  · exact trivial
  · exact KeepsInv.ite h.raise (h.issueFragment (fun _ _ => ite h (returnFromTrap (of_mem h rfl))))

theorem execClauseHeader {h} (hs : s.Inv) : KeepsInv (execClauseHeader h s) := by
  unfold Machine.execClauseHeader
  dsimp only
  split
  · exact trivial
  · split
    · exact hs
    · exact hs.raise
    · split
      · exact hs.raise
      · exact of_mem hs rfl

/-! ### Objects -/

theorem issueObject {g o regs srcs align n reads} {k : Ctx → LaneMask → Obj → State} (h : s.Inv)
    (hk : ∀ x y z, (k x y z).Inv) :
    KeepsInv (issueObject s g o regs srcs align n reads k) := by
  unfold Machine.issueObject
  split
  · exact trivial
  · refine KeepsInv.ite h.raise (h.issueFragment fun _ _ => ?_)
    split
    · exact h.raise
    · exact hk _ _ _

theorem performFence {c k} (h : s.Inv) : (s.performFence c k).Inv :=
  h.withVerdict (fun _ => h.withRelease (fun _ h => finishOp (settleWritten h.acquire)))

theorem execBind {g o} (h : s.Inv) : KeepsInv (execBind g o s) := by
  unfold Machine.execBind
  refine h.issueObject fun _ _ _ => ite (of_mem h rfl) ?_
  split
  · exact h.raise
  · exact of_mem h rfl

theorem tryAcq {c k} (h : s.Inv) : (s.tryAcq c k).Inv := by
  unfold State.tryAcq
  dsimp only
  split
  · refine ite h (h.withBoth fun _ _ _ h => finishOp ?_)
    split
    · exact Inv_updCore _ _ h.acquire
    · exact h.acquire
  · exact h

theorem attempt {c w n} {f : State → OpCtx → State} (h : s.Inv) (hf : ∀ x y, x.Inv → (f x y).Inv) :
    (s.attempt c w n f).Inv := by
  unfold State.attempt
  split
  · exact h
  · exact hf _ _ h

theorem execAcq {g o} (h : s.Inv) : KeepsInv (execAcq g o s) := by
  unfold Machine.execAcq
  exact h.issueObject (fun _ _ _ => ite h (attempt (of_mem h rfl) (fun _ _ h => h.tryAcq)))

theorem tryRel {c k} (h : s.Inv) : (s.tryRel c k).Inv := by
  unfold State.tryRel
  dsimp only
  split
  · exact h.withBoth (fun _ _ _ h => h.withRelease (fun _ h => finishOp (Inv_homeWrite _ _ h)))
  · exact h

theorem execRel {g o} (h : s.Inv) : KeepsInv (execRel g o s) := by
  unfold Machine.execRel
  exact h.issueObject
    (fun _ _ _ => ite h.raise (ite h (ite (attempt (of_mem h rfl) (fun _ _ h => ite h.tryRel h)) (of_mem h rfl))))

theorem execBinit {g o} (h : s.Inv) : KeepsInv (execBinit g o s) := by
  unfold Machine.execBinit
  refine h.issueObject fun _ _ _ => ?_
  split
  · exact ite h (of_mem h rfl)
  · exact ite h (of_mem h rfl)
  · exact of_mem h rfl

theorem performBinit {c k} (h : s.Inv) : (s.performBinit c k).Inv := by
  unfold State.performBinit
  split
  · exact h.withObj fun _ _ h => finishOp (Inv_homeWrite _ _ h)
  · exact h

theorem arriveAt {h n expect} (hs : s.Inv) : (s.arriveAt h n expect).Inv :=
  Inv_barUpdate _ _ _ _ hs

theorem performArrive {c k} (h : s.Inv) : (s.performArrive c k).Inv := by
  unfold State.performArrive
  split
  · exact h.withBoth fun _ _ _ h => h.withRelease (fun _ h => finishOp h.arriveAt)
  · exact h

theorem askArrive {x} (h : s.Inv) : (s.askArrive x).Inv :=
  ite (of_mem h rfl) h

theorem execArrive {g o} (h : s.Inv) : KeepsInv (execArrive g o s) := by
  unfold Machine.execArrive
  refine h.issueObject fun _ _ _ => ite (ite h (of_mem h rfl)) ?_
  split
  · exact ite (ite h.askArrive h) (arriveAt (ite (release (of_mem h rfl)) (of_mem h rfl)))
  · exact of_mem h rfl

theorem tryWaitph {c k} (h : s.Inv) : (s.tryWaitph c k).Inv := by
  unfold State.tryWaitph
  split
  · exact ite h (h.withObj (fun _ _ h => ite h (h.withVerdict (fun _ => finishOp (join h.acquire)))))
  · exact h

theorem waitphWake {c f} (h : s.Inv) : (s.waitphWake c f).Inv := by
  unfold State.waitphWake
  dsimp only
  split
  · exact h
  · split
    · split
      · exact ite (of_mem h rfl) (ifThen (Inv_updCore _ _) (h.attempt (fun _ _ h => h.tryWaitph)))
      · exact ite h (Inv_updCore _ _ h.join)
    · exact h

theorem execWaitph {g o} (h : s.Inv) : KeepsInv (execWaitph g o s) := by
  have waits {t : State} {c w n} (h : t.Inv) : (t.attempt c w n fun s k => s.tryWaitph c k).Inv :=
    h.attempt fun _ _ h => h.tryWaitph
  exact h.issueObject fun _ _ _ =>
    ite (ite h (ite (waits (of_mem h rfl)) (waits (of_mem h rfl)))) (ite h (ite (of_mem h rfl) (join (of_mem h rfl))))

theorem tryTryph {c k} (h : s.Inv) : (s.tryTryph c k).Inv := by
  unfold State.tryTryph
  dsimp only
  split
  · exact ite h (h.withBoth (fun _ _ _ h => finishOp (Inv_updCore _ _ (ifThen join h.acquire))))
  · exact h

theorem execTryph {g o} (h : s.Inv) : KeepsInv (execTryph g o s) := by
  unfold Machine.execTryph
  exact h.issueObject
    (fun _ _ _ => ite (ite h (attempt (of_mem h rfl) (fun _ _ h => h.tryTryph)))
    (ite h (ite (join (of_mem h rfl)) (of_mem h rfl))))

theorem barrierUpdate {c w n} (h : s.Inv) : (s.barrierUpdate c w n).Inv := by
  unfold State.barrierUpdate
  refine h.attempt fun _ _ h => ite h ?_
  split
  · exact h.performBinit
  · exact h.performArrive
  · exact h

theorem execQwait {g o} (h : s.Inv) : KeepsInv (execQwait g o s) := by
  unfold Machine.execQwait
  exact h.issueObject fun _ _ _ => ite h (of_mem h rfl)

theorem putHomeWord {h v} (hs : s.Inv) : (s.putHomeWord h v).Inv :=
  Inv_homeWrite _ _ hs

theorem linkRecord {c k record head rec} (h : s.Inv) : (s.linkRecord c k record head rec).Inv :=
  ite (finishOp (putHomeWord (putHomeWord h.putHomeWord)))
    (h.withVerdict (fun _ => finishOp (putHomeWord (putHomeWord h.putHomeWord))))

theorem collierLink {c w n} (h : s.Inv) : (s.collierLink c w n).Inv := by
  unfold State.collierLink
  refine h.attempt fun _ _ h => ?_
  split
  · exact ite h (h.withVerdict fun _ => linkRecord (flushObj h.flushObj))
  · exact h

theorem wakeArrival {d root wakeb} (h : s.Inv) : (s.wakeArrival d root wakeb).Inv := by
  unfold State.wakeArrival
  split
  · exact h.countDropped
  · split
    · exact h.countDropped
    · exact Inv_updateFor _ _ _ _ _ _ h

theorem unlink {own d root head n} (h : s.Inv) : (s.unlink own d root head n).1.Inv := by
  induction n generalizing s with
  | zero => exact h
  | succ n ih =>
    unfold State.unlink
    dsimp only
    split
    · exact h
    · split
      · exact h
      · exact h
      · exact ih (wakeArrival (ite (putHomeWord h.putHomeWord) h.putHomeWord))

theorem collierUnlink {c w n} (h : s.Inv) : (s.collierUnlink c w n).Inv := by
  refine h.attempt fun s k h => ?_
  split
  · refine ite h (h.withVerdict fun home => ?_)
    dsimp only
    split
    · exact finishOp (unlink h.flushObj)
    · exact failOp (unlink h.flushObj)
    · exact updOp (unlink h.flushObj)
  · exact h

/-! ### CrossLane -/

theorem execShfl {g o mode} (h : s.Inv) : KeepsInv (execShfl g o mode s) := by
  unfold Machine.execShfl
  dsimp only
  split
  · exact trivial
  · exact KeepsInv.ite h.raise (KeepsInv.ite h.raise (of_mem h rfl))

theorem execVotePred {g o srcs regs} {f : Ctx → LaneMask → Nat → Bool} (h : s.Inv) :
    KeepsInv (execVotePred g o srcs regs f s) :=
  h.issueVector fun _ _ => of_mem h rfl

/-! ### Engine -/

theorem engTouch {e l n} (h : s.Inv) : (s.engTouch e l n).Inv := by
  unfold State.engTouch
  dsimp only
  split
  · split
    · exact foldl (fun _ _ h => h.pieceTouch) h.keepPieces
    · exact h
  · exact h

theorem engPut {c home p bs} (h : s.Inv) : (s.engPut c home p bs).Inv :=
  ite h.pieceWrite (ite (of_mem h rfl) (Inv_writeHome _ h.flushHome))

theorem engWrite {e home l ps bs} (h : s.Inv) : (s.engWrite e home l ps bs).Inv := by
  unfold State.engWrite
  split
  · exact of_mem h rfl
  · exact foldl (fun _ _ h => h.engPut) h
  · exact h

theorem engLand {e id bar n code lines die loads} (h : s.Inv) : (s.engLand e id bar n code lines die loads).Inv :=
  h.land

theorem engFault {e id write va f t} (h : s.Inv) (ht : s.engFault e id write va f = some t) : t.Inv := by
  unfold State.engFault at ht
  split at ht
  · cases ht
  · cases ht
    exact h.takeFault

/-! ### Barrow -/

theorem issueEC {g o kind} (h : s.Inv) : KeepsInv (issueEC s g o kind) := by
  unfold Machine.issueEC
  refine h.issueFragment fun x _ => ?_
  dsimp only
  split
  · exact h.raise
  · exact ite h (of_mem h rfl)

theorem issueED {g o kind} (h : s.Inv) : KeepsInv (issueED s g o kind) := by
  unfold Machine.issueED
  refine h.issueFragment fun _ _ => ?_
  split
  · exact h.raise
  · exact ite h (of_mem h rfl)

theorem updCmd {c id} {f : EngCmd → EngCmd} (h : s.Inv) : (s.updCmd c id f).Inv := of_mem h rfl

theorem dropCmd {c id} (h : s.Inv) : (s.dropCmd c id).Inv := of_mem h rfl

theorem endCmd {c k code} (h : s.Inv) : (s.endCmd c k code).Inv :=
  dropCmd (engLand (refillFaults (of_mem h rfl)))

theorem failCmd {c k code} (h : s.Inv) : (s.failCmd c k code).Inv :=
  ite (of_mem h rfl) h.endCmd

theorem stallCmd {c k write va f} (h : s.Inv) : (s.stallCmd c k write va f).Inv := by
  unfold State.stallCmd
  split
  · exact h
  · next t ht => exact of_mem (h.engFault ht) rfl

theorem cmdGo {α : Type} {c k} {r : EngRes α} {go : α → State} (h : s.Inv) (hgo : ∀ x, (go x).Inv) :
    (State.cmdGo s c k r go).Inv := by
  unfold State.cmdGo
  split
  · exact hgo _
  · exact h.failCmd
  · exact h.stallCmd
  · exact h

theorem landUnit {c k n lines die} (h : s.Inv) : (s.landUnit c k n lines die).Inv :=
  ite (updCmd (engLand (ite (of_mem h rfl) h))) (dropCmd (engLand (ite (of_mem h rfl) h)))

theorem keepRead {c k} {f : EngCmd → EngCmd} (h : s.Inv) : (s.keepRead c k f).Inv :=
  updCmd (ite (of_mem h rfl) h)

theorem readUnit {c k u} (h : s.Inv) : (s.readUnit c k u).1.Inv := by
  unfold State.readUnit
  dsimp only
  split
  · split
    · exact h.pushHome
    · exact h
  · exact h.engTouch

theorem writeUnit {c k u bs} (h : s.Inv) : (s.writeUnit c k u bs).Inv :=
  h.cmdGo fun _ => landUnit h.engWrite

theorem stepCopy {c k} (h : s.Inv) : (s.stepCopy c k).Inv := by
  unfold State.stepCopy
  dsimp only
  split
  · exact h.cmdGo fun _ => h.writeUnit
  · refine h.cmdGo fun _ => ite h.endCmd ?_
    split
    · exact writeUnit (keepRead h.readUnit)
    · exact failCmd h.readUnit
    · exact stallCmd h.readUnit
    · exact h

theorem stepCpyt {c k} (h : s.Inv) : (s.stepCpyt c k).Inv :=
  h.cmdGo fun _ => h.cmdGo (fun _ => landUnit h.engWrite)

theorem cmdStep {c k} (h : s.Inv) : (s.cmdStep c k).Inv := by
  unfold State.cmdStep
  dsimp only
  split
  · exact h.endCmd
  · split
    · exact h
    · split
      · exact h.endCmd
      · split
        · exact h.cmdGo fun _ => keepRead h.engTouch
        · split
          · exact h.endCmd
          · split
            · exact h.endCmd
            · split
              · exact h.endCmd
              · split
                · exact h.stepCpyt
                · exact ite h (h.cmdGo (fun _ => keepRead h.engTouch))
                · exact h.stepCopy

theorem barrowLanding {c id} (h : s.Inv) : (s.barrowLanding c id).Inv := by
  unfold State.barrowLanding
  split
  · exact h
  · exact h.cmdStep

theorem wloadLatch {c} (h : s.Inv) : (s.wloadLatch c).Inv := by
  unfold State.wloadLatch
  dsimp only
  split
  · exact h
  · exact ite h (landUnit (of_mem h rfl))

/-! ### Hearth -/

theorem execMtask {g o} (h : s.Inv) : KeepsInv (execMtask g o s) := by
  unfold Machine.execMtask
  refine h.issueFragment fun _ _ => ?_
  split
  · exact h.raise
  · split
    · exact h.raise
    · exact ite h (of_mem h rfl)

theorem execQcfg {g o} (h : s.Inv) : KeepsInv (execQcfg g o s) := by
  unfold Machine.execQcfg
  refine h.issueFragment fun _ _ => ?_
  split
  · exact h.raise
  · exact ite h (of_mem h rfl)

theorem updRec {r} {f : HRec → HRec} (h : s.Inv) : (s.updRec r f).Inv := of_mem h rfl

theorem refuseRec {r code} (h : s.Inv) : (s.refuseRec r code).Inv :=
  landTask (of_mem h rfl)

theorem stallRec {r write va f} {mark : State → State} (h : s.Inv) (hmark : ∀ t, t.Inv → (mark t).Inv) :
    (s.stallRec r write va f mark).Inv := by
  unfold State.stallRec
  split
  · exact h
  · next t ht => exact hmark t (h.engFault ht)

theorem gateCheck {k pos} (h : s.Inv) : (s.gateCheck k pos).Inv := by
  unfold State.gateCheck
  split
  · exact h
  · split
    · exact h
    · split
      · exact h.refuseRec
      · split
        · exact h
        · split
          · exact h
          · exact ite (updRec (ite (of_mem h rfl) h)) h
          · exact ite (of_mem h rfl) h.refuseRec
          · exact h.stallRec fun _ h => of_mem h rfl

theorem updKiln {c} {f : Kiln → Kiln} (h : s.Inv) : (s.updKiln c f).Inv := of_mem h rfl

theorem gateAcquire {r} (h : s.Inv) : (s.gateAcquire r).Inv := by
  unfold State.gateAcquire
  dsimp only
  split
  · exact h
  · split
    · split
      · exact acquire h.join
      · exact h.join
    · exact h

theorem startTask {r c group leader} (h : s.Inv) : (s.startTask r c group leader).Inv :=
  updKiln (ifThen (Inv_updCore _ _) (dropRec h.gateAcquire))

theorem hearthDispatch {k pos j} (h : s.Inv) : (s.hearthDispatch k pos j).Inv := by
  unfold State.hearthDispatch
  dsimp only
  split
  · exact h
  · exact ite h (ite h.refuseRec h.startTask)

theorem registerRec {k pos} (h : s.Inv) : (s.registerRec k pos).Inv := by
  unfold State.registerRec
  dsimp only
  split
  · exact h
  · split
    · exact h
    · split
      · exact h.refuseRec
      · split
        · exact h
        · exact ite h.refuseRec (ite (of_mem h rfl) (of_mem h rfl))

theorem startGroup {gs} (h : s.Inv) : (s.startGroup gs).Inv :=
  ite (foldl (fun _ _ h => h.startTask) h) (foldl (fun _ _ h => h.refuseRec) (of_mem h rfl))

theorem groupDispatch (h : s.Inv) : s.groupDispatch.Inv := by
  unfold State.groupDispatch
  dsimp only
  split
  · exact h
  · refine ite h (ifThen (fun h => ?_) (foldl (fun _ _ h => of_mem h rfl) h))
    dsimp only [State.Inv]
    exact wf (startGroup h)

theorem updTask {c} {f : KTask → KTask} (h : s.Inv) : (s.updTask c f).Inv := of_mem h rfl

theorem endTask {c} (h : s.Inv) : (s.endTask c).Inv := of_mem h rfl

theorem kblockStep {c k} (h : s.Inv) : (s.kblockStep c k).Inv := by
  unfold State.kblockStep
  dsimp only
  split
  · exact ite (of_mem h rfl) (of_mem h rfl)
  · exact of_mem h rfl
  · exact h

theorem drainRow {d : Drain} {r b bias i} (h : d.s.Inv) : (d.row r b bias i).Holds fun d => d.s.Inv := by
  unfold Drain.row
  exact .bind (.trivially _) fun ps _ => .bind (.trivially _) fun old _ => .ok (engWrite (ite h.flushHome h))

theorem drainStep {c k} (h : s.Inv) : (s.drainStep c k).Inv := by
  have rows (b : Block) (bias : List Nat) (is : List Nat) {r : EngRes Drain} (hr : r.Holds fun d => d.s.Inv) :
      (is.foldl (fun (a : EngRes Drain) i => a.bind fun d => d.row k.task b bias i) r).Holds fun d => d.s.Inv :=
    .foldl (fun _ _ hd => drainRow hd) hr
  unfold State.drainStep
  dsimp only
  split
  · exact h
  · split
    · exact h
    · exact ite (of_mem h rfl) (of_mem h rfl)
    · exact h.stallRec fun _ h => of_mem h rfl
    · next d hd =>
      have hd : d.s.Inv := by
        split at hd
        · cases hd
        · exact EngRes.Holds.bind (.trivially _) (fun bias _ => rows _ bias _ (.ok h)) d hd
      exact updTask (ite (of_mem hd rfl) hd)

theorem kilnBoundary {c} (h : s.Inv) : (s.kilnBoundary c).Inv := by
  unfold State.kilnBoundary
  dsimp only
  split
  · exact h
  · refine ite (of_mem h rfl) (ite (landTask (endTask (refillFaults (of_mem h rfl)))) (ite h ?_))
    refine ite (foldl (fun _ _ h => of_mem h rfl) h) (ite (foldl (fun _ _ h => of_mem h rfl) h) ?_)
    exact ite (ite h (foldl (fun _ _ h => h.kblockStep) h)) (ite h h.drainStep)

theorem kilnComplete {c} (h : s.Inv) : (s.kilnComplete c).Inv := by
  unfold State.kilnComplete
  dsimp only
  split
  · exact h
  · exact ite h (landTask (endTask (ite h (of_mem h rfl))))

/-! ### Bellows -/

theorem collRead {c root block l n} (h : s.Inv) : (s.collRead c root block l n).Holds fun t => t.1.Inv := by
  unfold State.collRead
  split
  · split
    · exact .fail
    · exact .ite .fail (.ite .fail (.ok h))
  · exact .bind (.trivially _) fun ps _ => .foldl (fun t p ht => .bind (.trivially _) fun bs _ => .ok ht)
      (.ok (Inv_l1WriteBack _ _ h))
  · exact .fail

theorem collWrite {c root block l bs} (h : s.Inv) : (s.collWrite c root block l bs).Holds fun t => t.1.Inv := by
  unfold State.collWrite
  split
  · split
    · exact .fail
    · exact .ite .fail (.ok (of_mem h rfl))
  · refine .bind (.trivially _) fun ps _ => ?_
    split
    · exact .fail
    · exact .ok (foldl (fun _ _ h => h.engPut) h)
  · exact .fail

theorem landOwed {m o} (h : s.Inv) : (s.landOwed m o).1.Inv := by
  unfold State.landOwed
  dsimp only
  split
  · exact Inv_updateFor _ _ _ _ _ _ h.noteWrites
  · exact h.unreached fun _ h => h

theorem keepOwed {c} {r : State × List MatchLand} (h : r.1.Inv) : (State.keepOwed r c).Inv := of_mem h rfl

theorem execMatchArm {g o} (h : s.Inv) : KeepsInv (execMatchArm g o s) := by
  unfold Machine.execMatchArm
  refine h.issueFragment fun _ _ => ?_
  split
  · exact h.raise
  · exact ite h (of_mem h rfl)

theorem armMatch {c k desc bar aux} (h : s.Inv) : (s.armMatch c k desc bar aux).Inv := by
  unfold State.armMatch
  dsimp only
  split
  · exact h
  · exact h
  · exact ite h.failOp (finishOp (landCode (of_mem h rfl)))
  · next t bs ht =>
    have ht : t.Inv := by
      split at ht
      · cases ht
        exact h
      · exact h.collRead _ ht
    split
    · exact finishOp (landCode (of_mem ht rfl))
    · exact ite (failOp (of_mem ht rfl)) (finishOp (of_mem ht rfl))

theorem tryMessage {m} (h : s.Inv) : (s.tryMessage m).1.Inv := by
  unfold State.tryMessage
  dsimp only
  split
  · exact h
  · split
    · split
      · exact of_mem h rfl
      · exact h.landOwed
    · split
      · exact h.landOwed
      · split
        · next t lines ht =>
          have ht : t.Inv := h.collWrite _ ht
          exact landOwed (ite (of_mem ht rfl) ht)
        · split
          · exact h
          · exact h.landOwed
        · exact h
        · exact h.takeFault

theorem messageLand {d} (h : s.Inv) : (s.messageLand d).Inv :=
  foldl (fun _ _ h => Inv_updDie _ _ h.tryMessage) (of_mem h rfl)

theorem deliver {d node tag data} (h : s.Inv) : (s.deliver d node tag data).1.Inv := by
  unfold State.deliver
  dsimp only
  split
  · exact of_mem h rfl
  · exact Inv_updDie _ _ (tryMessage (of_mem h rfl))

theorem setComm {d i k} (h : s.Inv) : (s.setComm d i k).Inv := of_mem h rfl

theorem updComm {d i} {f : Comm → Comm} (h : s.Inv) : (s.updComm d i f).Inv := of_mem h rfl

theorem issueComm {g o op} (h : s.Inv) : KeepsInv (issueComm s g o op) := by
  unfold Machine.issueComm
  refine h.issueFragment fun _ _ => ?_
  split
  · exact h.raise
  · exact ite h (of_mem h rfl)

theorem execCommClose {g o} (h : s.Inv) : KeepsInv (execCommClose g o s) := by
  unfold Machine.execCommClose
  refine h.issueFragment fun _ _ => ?_
  split
  · exact h.raise
  · exact ite h (of_mem h rfl)

theorem collDone {k code} (h : s.Inv) : (s.collDone k code).Inv :=
  keepOwed h.landOwed

theorem enterComm {c k i op pri desc bar aux} (h : s.Inv) : (s.enterComm c k i op pri desc bar aux).Inv :=
  ite h (finishOp (ite (of_mem h rfl) (collDone (of_mem h rfl))))

theorem applyRel {k e lines} (h : s.Inv) : (s.applyRel k e lines).Inv := by
  unfold State.applyRel
  dsimp only
  split
  · exact h.countDropped
  · exact Inv_updateFor _ _ _ _ _ _ h.noteWrites

theorem applyStep {m k step lines} (h : s.Inv) : (s.applyStep m k step lines).Inv :=
  foldl (fun _ _ h => h.applyRel) h

theorem applyRest {m k} (h : s.Inv) : (s.applyRest m k).Inv :=
  ite h (foldl (fun _ _ h => h.applyRel) h)

theorem endColl {d i k code} (h : s.Inv) : (s.endColl d i k code).Inv :=
  collDone (updComm (ite h h.applyRest))

theorem updHead {d i} {f : CollCmd → CollCmd} (h : s.Inv) : (s.updHead d i f).Inv := of_mem h rfl

/-- An access keeps the form in what it answers (`P`), in its failure, and where it waits or takes an entry. -/
theorem collGo {α : Type} {P : α → Prop} {d i k step} {r : EngRes α} {fail : BitVec 16 → State}
    {go : α → State} (h : s.Inv) (hr : r.Holds P) (hfail : ∀ e, (fail e).Inv) (hgo : ∀ a, P a → (go a).Inv) :
    (s.collGo d i k step r fail go).Inv := by
  unfold State.collGo
  split
  · next a => exact hgo a (hr a rfl)
  · exact h
  · exact ite (of_mem h rfl) (hfail _)
  · exact updHead h.takeFault

theorem collGood {d i k step} (h : s.Inv) : (s.collGood d i k step).Inv :=
  ite (of_mem h rfl) h

theorem endOpen {d i k code} (h : s.Inv) : (s.endOpen d i k code).Inv :=
  collDone (of_mem h rfl)

theorem commOpenApply {d i} (h : s.Inv) : (s.commOpenApply d i).Inv := by
  unfold State.commOpenApply
  dsimp only
  split
  · exact h
  · next k _ =>
    refine ite h
      (ite h.endOpen (ite h.endOpen (h.collGo (P := fun t => t.1.Inv) ?_ (fun _ => h.endOpen) fun t ht => ?_)))
    · split
      · exact .ok h
      · exact h.collRead
    · have kept := updHead (d := d) (i := i) (f := fun k => { k with fields := some t.2 })
        (ite (c := (k.fields.isNone && k.retried) = true) (ht.collGood (d := d) (i := i) (k := k) (step := false)) ht)
      refine ite kept.endOpen (kept.collGo kept.collRead (fun _ => h.endOpen) fun t ht => ?_)
      refine kept.collGo ht.collRead (fun _ => h.endOpen) fun u hu => ?_
      split
      · exact endOpen hu.collGood
      · exact endOpen (setComm hu.collGood)

theorem commCloseApply {d i} (h : s.Inv) : (s.commCloseApply d i).Inv := by
  unfold State.commCloseApply
  dsimp only
  split
  · exact ite h (ite (collDone (of_mem h rfl)) (ite (collDone (of_mem h rfl)) h))
  · exact ite (of_mem h rfl) h

theorem sendHeader {d i m k faulty t} (h : s.Inv) (ht : s.sendHeader d i m k faulty = some t) : t.Inv := by
  unfold State.sendHeader at ht
  dsimp only at ht
  split at ht
  · cases ht
  · cases ht
    exact updHead (foldl (fun _ _ h => of_mem h rfl) h)

theorem headerExchange {d i others} (h : s.Inv) : (s.headerExchange d i others).Inv := by
  unfold State.headerExchange
  dsimp only
  split
  · exact h
  · refine ite h (ite (collDone (of_mem h rfl)) (ite (ite ?_ ?_) (ite ?_ (ite h (ite (of_mem h rfl) h.endColl)))))
    · split
      · next t ht => exact (h.sendHeader ht).endColl
      · exact h
    · exact h.collGo h.collRead (fun _ => of_mem h rfl) fun t ht => updHead ht.collGood
    · split
      · exact h
      · next t ht => exact ite (h.sendHeader ht).endColl (h.sendHeader ht)

theorem turnBytes {k ps} (h : s.Inv) : (s.turnBytes k ps).Holds fun t => t.1.Inv :=
  .foldl (fun _ _ ht => .ite (.ok ht) (.bind ht.collRead fun _ hu => .ok hu)) (.ok h)

theorem sendData {d i m k q bs} (h : s.Inv) : (s.sendData d i m k q bs).Inv := by
  unfold State.sendData
  split
  · exact of_mem h rfl
  · split
    · exact of_mem h rfl
    · exact h

theorem bellowsChunk {d} (h : s.Inv) : (s.bellowsChunk d).Inv := by
  unfold State.bellowsChunk
  dsimp only
  split
  · exact h
  · next i _ =>
    have turned : (s.updDie d fun x => x.turned (s.comm d i).hipri i).Inv := of_mem h rfl
    split
    · exact turned
    · exact ite turned.endColl (turned.collGo turned.turnBytes (fun _ => turned.endColl) fun u hu =>
        updHead (Inv_updDie _ _ (foldl (fun _ _ h => h.sendData) hu.collGood)))

theorem offer {m k others t} (h : s.Inv) (ht : s.offer m k others = some t) : t.1.Inv := by
  unfold State.offer at ht
  split at ht
  · obtain ⟨e, _, rfl⟩ := Option.map_eq_some_iff.mp ht
    exact h
  · cases ht
    exact h.deliver

theorem stepDone {d i lines} (h : s.Inv) : (s.stepDone d i lines).Inv := by
  unfold State.stepDone
  dsimp only
  split
  · exact h
  · exact updHead h.applyStep

theorem bellowsStep {d i others} (h : s.Inv) : (s.bellowsStep d i others).Inv := by
  unfold State.bellowsStep
  dsimp only
  split
  · exact h
  · refine ite h (ite h.endColl (ite (ite h.endColl h) (ite (ite h (ite ?_ h.stepDone)) (ite h ?_))))
    · split
      · exact h
      · next t ht =>
        have ht := h.offer ht
        exact ite (stepDone (ite (of_mem ht rfl) ht)) (ite ht.endColl (of_mem ht rfl))
    · exact h.collGo (.bind (.trivially _) fun _ _ => h.collWrite) (fun _ => h.endColl) fun _ ht => stepDone
        ht.collGood

theorem bellowsTimeout {d i} (h : s.Inv) : (s.bellowsTimeout d i).Inv := by
  unfold State.bellowsTimeout
  dsimp only
  split
  · exact h
  · exact ite h h.endColl

/-! ### Fetch -/

theorem fillLine {c n scope l0} (h : s.Inv) : (s.fillLine c n scope l0).Inv := by
  unfold State.fillLine
  refine ifThen (Inv_updCore _ _) (Inv_updCluster _ _ ?_)
  split
  · exact h
  · exact of_mem h rfl

theorem fetchKeep {c root va} (h : s.Inv) : (s.fetchKeep c root va).Inv := by
  unfold State.fetchKeep
  dsimp only
  split
  · exact h
  · exact ifElse fillLine h.cacheLeaf

/-! ### Remote -/

theorem issueRmo {g o op} (h : s.Inv) : KeepsInv (issueRmo s g o op) := by
  unfold Machine.issueRmo
  refine h.issueVector fun _ _ => ?_
  split
  · exact h.raise
  · exact ite (of_mem h rfl) (ite h (of_mem h rfl))

theorem flushPlaces {c ps} (h : s.Inv) : (s.flushPlaces c ps).Inv :=
  h.flushHome

theorem sendRst {c k t w64 flush} (h : s.Inv) : (s.sendRst c k t w64 flush).Inv :=
  ite h (h.withVerdict (fun _ => updOp (Inv_updCore _ _ h.flushPlaces)))

theorem sendRmo {c k op desc} (h : s.Inv) : (s.sendRmo c k op desc).Inv :=
  h.withVerdict fun _ => updOp h.flushPlaces

theorem storeAt {p bs} (h : s.Inv) : (s.storeAt p bs).Inv := by
  unfold State.storeAt
  split
  · exact Inv_homeWrite _ _ h
  · exact h

theorem performOwn {c t} (h : s.Inv) : (s.performOwn c t).Inv := by
  have performed {st q i} : (State.performOwn.perform c t s st q i).Inv := Inv_updCore _ _ h.storeAt
  unfold State.performOwn
  dsimp only
  split
  · exact h
  · split
    · refine ite h ?_
      split
      · exact failOp (ite (of_mem h rfl) h)
      · exact performed
    · exact performed

theorem drainRemote {fuel r} (h : s.Inv) : (s.drainRemote fuel r).Inv := by
  induction fuel generalizing s r with
  | zero => exact of_mem h rfl
  | succ fuel ih =>
    unfold State.drainRemote
    split
    · exact of_mem h rfl
    · exact ite (of_mem h rfl) (ih (ite h (Inv_checkGates h.storeAt)))

theorem drainRemotes (h : s.Inv) : s.drainRemotes.Inv :=
  foldl (fun _ _ h => h.drainRemote) h

theorem remoteStore {src} (h : s.Inv) : (s.remoteStore src).Inv := by
  unfold State.remoteStore
  dsimp only
  split
  · exact h.performOwn
  · exact ite h h.drainRemote

theorem execRemoteStorePerform {src} (h : s.Inv) : KeepsInv (execRemoteStorePerform src s) := by
  unfold Machine.execRemoteStorePerform
  split
  · exact KeepsInv.ite trivial h.remoteStore
  · exact h.remoteStore

theorem remoteAck {c t} (h : s.Inv) : (s.remoteAck c t).Inv :=
  ite (of_mem h rfl) h

theorem remoteAckTimer {c t} (h : s.Inv) : (s.remoteAckTimer c t).Inv :=
  ite (of_mem h rfl) h

theorem retireRsts {c t} (h : s.Inv) : (s.retireRsts c t).Inv :=
  foldl (fun _ _ h => h.finishOp) h

theorem ackTo {c t count} (h : s.Inv) : (s.ackTo c t count).Inv :=
  ite h (retireRsts (of_mem h rfl))

theorem ackArrival {c t count} (h : s.Inv) : (s.ackArrival c t count).Inv :=
  ite (of_mem h rfl) h.ackTo

theorem multicastAck {c t bitmap members} (h : s.Inv) : (s.multicastAck c t bitmap members).Inv := by
  unfold State.multicastAck
  dsimp only
  split
  · exact h
  · split
    · split
      · exact ite h (failOp (ite (of_mem h rfl) h))
      · exact of_mem h rfl
    · exact ackTo (ite (of_mem h rfl) (of_mem h rfl))

theorem putFar {p v} (h : s.Inv) : (s.putFar p v).Inv := Inv_writeHome _ h

theorem rmoCas4 {a r x} (h : s.Inv) (hx : s.rmoCas4 a r = .ok x) : x.s.Inv := by
  unfold State.rmoCas4 at hx
  dsimp only at hx
  split at hx
  · cases hx
    exact h
  · split at hx
    · cases hx
    · split at hx
      · cases hx
      · cases hx
        exact ite (foldl (fun _ _ h => h.putFar) h) h

theorem rmoEnq {a re r x} (h : s.Inv) (hx : s.rmoEnq a re r = .ok x) : x.s.Inv := by
  unfold State.rmoEnq at hx
  split at hx
  · cases hx
    exact h
  · split at hx
    · dsimp only at hx
      split at hx
      · cases hx
      · cases hx
        exact putFar (putFar h.putFar)
    · cases hx
    · cases hx

theorem rmoChase {a r x} (h : s.Inv) (hx : s.rmoChase a r = .ok (.done x)) : x.s.Inv := by
  unfold State.rmoChase at hx
  dsimp only at hx
  split at hx
  · cases hx
    exact h
  · split at hx
    · split at hx <;> cases hx
    · split at hx
      · cases hx
      · cases hx
        exact h

theorem rmoLane {op a r x} (h : s.Inv) (hx : s.rmoLane op a r = .ok (.done x)) : x.s.Inv := by
  unfold State.rmoLane at hx
  split at hx
  · cases he : s.rmoCas4 a.cmp.toNat r with
    | error e => rw [he] at hx; cases hx
    | ok y => rw [he] at hx; cases hx; exact h.rmoCas4 he
  · cases he : s.rmoEnq a.cmp.toNat a.data.toNat r with
    | error e => rw [he] at hx; cases hx
    | ok y => rw [he] at hx; cases hx; exact h.rmoEnq he
  · exact h.rmoChase hx

theorem rmoFar {op a r remote x} (h : s.Inv) (hx : s.rmoFar op a r remote = some x) : x.s.Inv := by
  unfold State.rmoFar at hx
  split at hx
  · cases hx
    exact h
  · split at hx
    · cases hx
    · split at hx
      · cases hx
      · cases hx
        exact h

theorem rmoPerform {c w n remote} (h : s.Inv) : (s.rmoPerform c w n remote).Inv := by
  unfold State.rmoPerform
  dsimp only
  split
  · exact h
  · split
    · refine ite h ?_
      split
      · exact h.failOp
      · split
        · exact h.failOp
        · exact of_mem h rfl
        · next x hx =>
          have hx : x.s.Inv := by
            split at hx
            · exact h.rmoLane hx
            · split at hx
              · next y hy => cases hx; exact h.rmoFar hy
              · cases hx
          exact of_mem hx rfl
    · exact h

theorem rmoResponse {c w n} (h : s.Inv) : (s.rmoResponse c w n).Inv := by
  unfold State.rmoResponse
  dsimp only
  split
  · exact h
  · split
    · exact ite h (finishOp (of_mem h rfl))
    · exact h

theorem rmoRequest {node seq op lanes} (h : s.Inv) : (s.rmoRequest node seq op lanes).Inv :=
  ite (of_mem h rfl) (of_mem h rfl)

theorem rmoNext {r} (h : s.Inv) : (s.rmoNext r).1.Inv := by
  unfold State.rmoNext
  dsimp only
  split
  · split
    · exact h
    · split
      · exact h
      · exact h
      · next x hx => exact h.rmoLane hx
  · exact h

theorem rmoServe {node seq} (h : s.Inv) : (s.rmoServe node seq).Inv := by
  unfold State.rmoServe
  dsimp only
  split
  · exact h
  · exact of_mem h.rmoNext rfl

theorem flueTimeout {c w n} (h : s.Inv) : (s.flueTimeout c w n).Inv := by
  unfold State.flueTimeout
  dsimp only
  split
  · exact h
  · split
    · exact h
    · split
      · split
        · exact h
        · exact failOp (ite (of_mem h rfl) h)
      · split
        · exact h
        · exact h.failOp
      · exact h

/-! ### Work -/

theorem prefetch {c root va l0} (h : s.Inv) : (s.prefetch c root va l0).1.Inv := by
  unfold State.prefetch
  split
  · exact of_mem h rfl
  · split
    · exact of_mem h rfl
    · exact fillLine h.cacheLeaf

theorem setLevel {c cluster m} (h : s.Inv) : (s.setLevel c cluster m).Inv :=
  ite (of_mem h rfl) (of_mem h rfl)

theorem pinRange {c root vas cluster room} (h : s.Inv) : (s.pinRange c root vas cluster room).1.Inv :=
  foldl_fst (fun r va hr => by
    dsimp only
    split
    · exact hr.prefetch
    · split
      · exact hr.prefetch
      · exact setLevel hr.prefetch) h

theorem issueLines {g o} {k : State → Ctx → List DWord → State} (h : s.Inv)
    (hk : ∀ x y z, x.Inv → (k x y z).Inv) : KeepsInv (issueLines s g o k) :=
  h.issueFragment fun _ _ => hk _ _ _ (of_mem h rfl)

theorem execPin {g o} (h : s.Inv) : KeepsInv (execPin g o s) :=
  h.issueLines (fun _ _ _ h => ifElse (Inv_updCore _ _) (ifThen (Inv_updCluster _ _) h.pinRange))

theorem unpinLine {c b cl n} (h : s.Inv) : (s.unpinLine c b cl n).Inv := by
  unfold State.unpinLine
  split
  · exact h
  · exact ite (Inv_updCore _ _ h.setLevel) h

theorem execUnpin {g o} (h : s.Inv) : KeepsInv (execUnpin g o s) := by
  unfold Machine.execUnpin
  refine h.issueLines fun _ _ _ h => foldl (fun _ _ h => ?_) h
  split
  · exact of_mem h rfl
  · exact h.unpinLine

theorem dropPins {c b} (h : s.Inv) : (s.dropPins c b).Inv :=
  foldl (fun _ _ h => h.setLevel) h

theorem enterQueue {c k q a bs} (h : s.Inv) : (s.enterQueue c k q a bs).Inv :=
  ite h.failOp (finishOp (of_mem h rfl))

theorem sendLaunch {c k a q answer} (h : s.Inv) : (s.sendLaunch c k a q answer).Inv := by
  have enters {s : State} (h : s.Inv) {ps : List Piece} {bs : List Byte} :
      ((ps.foldl (fun s p => s.pieceTouch c p) (s.keepPieces c k.root ps)).enterQueue c k q a bs).Inv :=
    enterQueue (foldl (fun _ _ h => h.pieceTouch) h.keepPieces)
  refine ite (h.withVerdict fun _ => ite h.askHost (enters h)) (h.withVerdict fun _ => h.withRelease fun t h => ?_)
  have settled : (t.settleWritten c k.w.slot).Inv := of_mem h rfl
  exact settled.withVerdict fun _ => ite settled.askHost (enters settled)

theorem execShape {g o} (h : s.Inv) : KeepsInv (execShape g o s) := by
  unfold Machine.execShape
  exact h.issueFragment (fun _ _ => ite h.raise (ite h (of_mem h rfl)))

theorem performShape {c k a t} (h : s.Inv) : (s.performShape c k a t).Inv := by
  unfold State.performShape
  refine h.withBoth fun _ _ _ h => h.withRelease fun _ h => finishOp ?_
  dsimp only [State.Inv]
  exact wf (Inv_homeWrite _ _ h)

theorem endDrawnOf {c w launch} (h : s.Inv) : (s.endDrawnOf c w launch).Inv := by
  unfold State.endDrawnOf
  dsimp only
  split
  · exact updWave h.endDrawn
  · exact h

theorem execFetchw {g o} (h : s.Inv) : KeepsInv (execFetchw g o s) := by
  unfold Machine.execFetchw
  refine h.issueFragment fun _ _ => ite h.raise (ite h.raise (ifElse (fun h => ?_) (endDrawnOf (of_mem h rfl))))
  dsimp only [State.Inv]
  exact wf h

theorem execFreea {g o} (h : s.Inv) : KeepsInv (execFreea g o s) :=
  h.issueFragment (fun _ _ => ite h (ite (of_mem h rfl) (ite h (of_mem h rfl))))

/-! ### Stoker -/

theorem stokerArrive {root va code} (h : s.Inv) : (s.stokerArrive root va code).Inv := by
  unfold State.stokerArrive
  split
  · exact h
  · split
    · exact of_mem h rfl
    · split
      · exact Inv_updateFor _ _ _ _ _ _ h
      · exact of_mem h rfl

theorem hostPost {q r} (h : s.Inv) : (s.hostPost q r).Inv :=
  ite (of_mem h rfl) (ite (of_mem h rfl) (of_mem h rfl))

theorem refuseLaunch {root r} (h : s.Inv) : (s.refuseLaunch root r).Inv :=
  ite (of_mem h rfl) (stokerArrive (of_mem h rfl))

theorem acceptLaunch {q r root tfpb word} (h : s.Inv) : (s.acceptLaunch q r root tfpb word).Inv := of_mem h rfl

theorem stokerTake (h : s.Inv) : s.stokerTake.Inv := by
  unfold State.stokerTake
  dsimp only
  split
  · exact h
  · split
    · exact h
    · refine ite (refuseLaunch (of_mem h rfl)) (ite (acceptLaunch (of_mem h rfl)) ?_)
      split
      · exact h
      · exact refuseLaunch (of_mem h rfl)
      · exact acceptLaunch (of_mem h rfl)

theorem setLaunch {l} (h : s.Inv) : (s.setLaunch l).Inv := of_mem h rfl

theorem blocksGone {id n} (h : s.Inv) : (s.blocksGone id n).Inv := of_mem h rfl

theorem launchEnd {id} (h : s.Inv) : (s.launchEnd id).Inv := by
  unfold State.launchEnd
  dsimp only
  split
  · exact h
  · exact ite h (of_mem h.stokerArrive rfl)

theorem blockPlacement {c} (h : s.Inv) : (s.blockPlacement c).Inv := by
  unfold State.blockPlacement
  dsimp only
  split
  · exact h
  · split
    · exact h
    · split
      · dsimp only [State.Inv]
        exact wf (setLaunch (Inv_updCore _ _ h.acquire))
      · exact h

theorem allotmentGrant {c} (h : s.Inv) : (s.allotmentGrant c).Inv := by
  unfold State.allotmentGrant
  dsimp only
  split
  · exact h
  · split
    · exact of_mem h rfl
    · exact ite h (of_mem h rfl)

/-! ### Blocks -/

theorem removeBlock {c b} (h : s.Inv) : (s.removeBlock c b).Inv := by
  unfold State.removeBlock
  refine refillFaults (Inv_updCore _ _ ?_)
  dsimp only [State.Inv]
  exact wf (Inv_updDie _ _ h.dropPins)

theorem blockEnd {c slot} (h : s.Inv) : (s.blockEnd c slot).Inv := by
  unfold State.blockEnd
  split
  · exact h
  · exact ite h (blocksGone h.removeBlock)

theorem terminateWave {c w} (h : s.Inv) : (s.terminateWave c w).Inv := by
  unfold State.terminateWave
  split
  · exact h
  · exact ite h h.killWave

theorem releaseWindow {c b} (h : s.Inv) : (s.releaseWindow c b).Inv := by
  unfold State.releaseWindow
  dsimp only
  split
  · exact h
  · exact foldl (fun _ _ h => Inv_checkGates h.windowOp) (Inv_updCore _ _ (Inv_checkGates (Inv_landAgain _ _ h)))

theorem released {c slot} (h : s.Inv) : (s.released c slot).Inv :=
  drainRemotes (releaseWindow (of_mem h rfl))

theorem confirmBlock {c slot} (h : s.Inv) : (s.confirmBlock c slot).Inv :=
  released (of_mem h rfl)

theorem trimBlock {c b} (h : s.Inv) : (s.trimBlock c b).Inv :=
  drainRemotes (blocksGone (removeBlock (stopEngines h.dropWindow)))

theorem settleCore {c v} (h : s.Inv) : (s.settleCore c v).Inv :=
  foldl (fun _ _ h => ite h.confirmBlock h.trimBlock) h

theorem stopAway {v slot} (h : s.Inv) : (s.stopAway v slot).Inv :=
  foldl (fun _ _ h => of_mem h rfl) (of_mem h rfl)

theorem dropSaved {v b} (h : s.Inv) : (s.dropSaved v b).Inv :=
  blocksGone (refuseGroups (Inv_updDie _ _ (stopAway (dropPins h.dropWindow))))

theorem updShadow {c k} {f : SavedCtx → SavedCtx} (h : s.Inv) : (s.updShadow c k f).Inv := of_mem h rfl

theorem settleShadow {c v b stays} (h : s.Inv) : (s.settleShadow c v b stays).Inv :=
  ite (released (of_mem h rfl)) (drainRemotes (Inv_updCore _ _ (updShadow h.dropSaved)))

theorem settleShadows {c q} (h : s.Inv) : (s.settleShadows c q).Inv :=
  Inv_updCore _ _ (foldl (fun _ _ h => foldl (fun _ _ h => h.settleShadow) h) h)

theorem settleAt {i v b stays} (h : s.Inv) : (s.settleAt i v b stays).Inv :=
  ite (of_mem h rfl) (of_mem h.dropSaved rfl)

theorem settleStreamed {q} (h : s.Inv) : (s.settleStreamed q).Inv := by
  unfold State.settleStreamed
  dsimp only [State.Inv]
  exact wf (foldl (fun _ _ h => foldl (fun _ _ h => h.settleAt) h) h)

theorem settleSavedDrawn {c v q} (h : s.Inv) : (s.settleSavedDrawn c v q).1.Inv :=
  of_mem h rfl

theorem settleSavedMails {q} (h : s.Inv) : (s.settleSavedMails q).Inv := by
  unfold State.settleSavedMails
  dsimp only [State.Inv]
  refine wf (foldl_fst (fun _ _ h => of_mem h rfl) (foldl (fun s e h => ?_) h))
  exact Inv_updCore _ _ (foldl_fst (fun _ _ h => of_mem h rfl) h)

theorem settle {q} (h : s.Inv) : (s.settle q).Inv :=
  settleStreamed
    (foldl (fun _ _ h => settleShadows h.settleCore) (settleSavedMails (foldl (fun _ _ h => of_mem h rfl) h)))

theorem publish {id v} (h : s.Inv) : (s.publish id v).Inv := by
  unfold State.publish
  dsimp only
  split
  · exact h
  · refine settle ?_
    dsimp only [State.Inv]
    exact wf (ite (launchFault (of_mem h rfl)) (of_mem h rfl))

theorem applyNotice (h : s.Inv) : s.applyNotice.Inv := by
  unfold State.applyNotice
  dsimp only
  split
  · exact h
  · split
    · exact h
    · exact of_mem h rfl
    · exact ite (of_mem h rfl) (foldl (fun _ _ h => h.publish) (of_mem h rfl))

theorem shapeTimeout {id} (h : s.Inv) : (s.shapeTimeout id).Inv := by
  unfold State.shapeTimeout
  dsimp only
  split
  · exact h
  · exact ite h (settle (launchFault (of_mem h rfl)))

theorem answerDraw {q w wid status} (h : s.Inv) : (s.answerDraw q w wid status).Inv := by
  unfold State.answerDraw
  dsimp only
  split
  · exact of_mem h rfl
  · exact ite (Inv_countErrLost _ _ (of_mem h rfl)) (of_mem h rfl)

theorem keepDrawn {q w l o} (h : s.Inv) : (s.keepDrawn q w l o).Inv :=
  ite (of_mem h rfl) (of_mem h rfl)

theorem drawLost {q} (h : s.Inv) : (s.drawLost q).Inv := by
  unfold State.drawLost
  dsimp only
  split
  · exact of_mem h rfl
  · exact of_mem h rfl

theorem fetchwDraw (h : s.Inv) : s.fetchwDraw.Inv := by
  unfold State.fetchwDraw
  dsimp only
  split
  · exact h
  · split
    · exact drawLost (of_mem h rfl)
    · split
      · exact answerDraw (of_mem h rfl)
      · split
        · exact answerDraw (of_mem h rfl)
        · exact answerDraw (keepDrawn (of_mem h rfl))

/-! ### Trap -/

theorem noFrame {c w} (h : s.Inv) : (s.noFrame c w).Inv :=
  countLaunchErr (launchFault h.killWave)

theorem writeFrame {c ps bs} (h : s.Inv) : (s.writeFrame c ps bs).Inv :=
  foldl (fun _ _ h => h.pieceWrite) h

theorem enterHandler {c w e f ctxid} (h : s.Inv) : (s.enterHandler c w e f ctxid).Inv :=
  Inv_updCore _ _ (updWave (Inv_updCore _ _ (writeFrame h.pieceTouch)))

theorem frameMiss {c w ctxid m} (h : s.Inv) : (s.frameMiss c w ctxid m).Inv := by
  unfold State.frameMiss
  dsimp only
  split
  · exact h.noFrame
  · exact of_mem h rfl
  · exact of_mem h rfl
  · exact ite h.noFrame (of_mem h rfl)
  · exact ite (of_mem h rfl) (takeFault (of_mem h rfl))

theorem enterTrap {c w} (h : s.Inv) : (s.enterTrap c w).Inv := by
  unfold State.enterTrap
  dsimp only
  split
  · exact h
  · split
    · exact h
    · split
      · exact h
      · split
        · exact h
        · split
          · exact h.noFrame
          · split
            · exact h
            · split
              · exact h.enterHandler
              · exact h.frameMiss

/-! ### Progress -/

theorem askLoad {c k} (h : s.Inv) : (s.askLoad c k).Inv := by
  unfold State.askLoad
  split
  · exact ite h.askHost h
  · exact h

theorem proceed {c k} (h : s.Inv) : (s.proceed c k).Inv := by
  unfold State.proceed
  split
  · exact h.askLoad
  · exact h.askLoad
  · exact h.trySpadAtomic
  · exact h.tryAcq
  · exact h.tryTryph
  · exact h.tryRel
  · exact h.performFence
  · exact h.performShape
  · exact h.sendLaunch
  · exact h.sendRst
  · exact h.sendRmo
  · exact h.enterComm
  · exact h.armMatch
  · exact h

theorem heldProceed {c w n} (h : s.Inv) : (s.heldProceed c w n).Inv :=
  h.attempt fun _ _ h => ite h.proceed h

theorem loadAnswer {c k bs} (h : s.Inv) : (s.loadAnswer c k bs).Inv :=
  h.withVerdict fun _ => h.performLoad

theorem hostData {c k bs} (h : s.Inv) : (s.hostData c k bs).Inv := by
  unfold State.hostData
  split
  · exact of_mem h rfl
  · exact h.loadAnswer
  · exact h.loadAnswer
  · exact h.atomicAnswer
  · exact h.sendLaunch
  · exact h

theorem clearAok {c root va} (h : s.Inv) : (s.clearAok c root va).Inv :=
  Inv_updDie _ _ (Inv_updCore _ _ h.cacheLeaf)

theorem hostRefused {c k} (h : s.Inv) : (s.hostRefused c k).Inv := by
  unfold State.hostRefused
  dsimp only
  split
  · split
    · exact failOp h.clearAok
    · exact h.failOp
  · exact h.failOp

theorem hostCompletion {c w n a} (h : s.Inv) : (s.hostCompletion c w n a).Inv := by
  unfold State.hostCompletion
  dsimp only
  split
  · exact ite (hostData h) (of_mem h rfl)
  · exact ite (hostRefused h) (of_mem h rfl)
  · exact ite h.failOp (of_mem h rfl)
  · exact of_mem h rfl
  · exact of_mem h rfl

theorem hostLost {c w n} (h : s.Inv) : (s.hostLost c w n).Inv := by
  unfold State.hostLost
  split
  · exact ite h.failOp (of_mem h rfl)
  · exact of_mem h rfl

theorem hostDown (h : s.Inv) : s.hostDown.Inv :=
  foldl (fun _ _ h => foldl (fun _ _ h => ifThen updWave (foldl (fun _ _ h => hostLost h) h)) h) (of_mem h rfl)

theorem leaveBuffer {c w n} (h : s.Inv) : (s.leaveBuffer c w n).Inv :=
  updOp (refillFaults (of_mem h rfl))

theorem faultEntry {c w n} (h : s.Inv) : (s.faultEntry c w n).Inv :=
  h.attempt
    (fun _ _ h => ite h (ite h.leaveBuffer (ite (updOp (foldl (fun _ _ h => h.takeFault) h)) (ite (of_mem h rfl) h))))

theorem lateFailure {c w n code} (h : s.Inv) : (s.lateFailure c w n code).Inv :=
  updWave (Inv_updCore _ _ (ifThen countLaunchErr h.launchFault))

theorem resolveHorizon {c w} (h : s.Inv) : (s.resolveHorizon c w).Inv := by
  unfold State.resolveHorizon
  dsimp only
  split
  · exact h
  · split
    · exact h
    · split
      · exact of_mem h rfl
      · exact ite (lateFailure (of_mem h rfl)) (ifElse (Inv_updCore _ _) (ite (of_mem h rfl) (of_mem h rfl)))

theorem trapStep {c w} (h : s.Inv) : (s.trapStep c w).Inv := by
  unfold State.trapStep
  split
  · exact h
  · split
    · exact h
    · exact ite h h.enterTrap

/-! ### Contexts -/

theorem priorityPreempt {id c k} (h : s.Inv) : (s.priorityPreempt id c k).Inv := by
  unfold State.priorityPreempt
  dsimp only
  split
  · exact h
  · exact ite h (of_mem h rfl)

theorem markAway {cores away} (h : s.Inv) : (s.markAway cores away).Inv :=
  foldl (fun _ _ h => of_mem h rfl) h

theorem saveContext {c k} (h : s.Inv) : (s.saveContext c k).Inv := by
  unfold State.saveContext
  refine refillFaults ?_
  dsimp only [State.Inv]
  exact wf (Inv_updCore _ _ (markAway (Inv_updDie _ _ (Inv_updCluster _ _ h.unregister))))

theorem renameLeaders {v k} (h : s.Inv) : (s.renameLeaders v k).Inv := of_mem h rfl

theorem rekeyComms {v k} (h : s.Inv) : (s.rekeyComms v k).Inv := of_mem h rfl

theorem rekeyAway {v k} (h : s.Inv) : (s.rekeyAway v k).Inv :=
  foldl (fun _ _ h => of_mem h rfl) h

theorem enterCore {c slot v} (h : s.Inv) : (s.enterCore c slot v).1.Inv := by
  unfold State.enterCore
  dsimp only [State.Inv]
  exact wf (Inv_updCore _ _ (rekeyAway (rekeyComms (renameLeaders (ite h h.flushHome)))))

theorem releaseConfirmed {c v} (h : s.Inv) : (s.releaseConfirmed c v).Inv :=
  foldl (fun _ _ h => h.released) h

theorem makeActive {c v} (h : s.Inv) : (s.makeActive c v).Inv := by
  unfold State.makeActive
  refine releaseConfirmed (foldl (fun _ _ h => h.takeFault) ?_)
  dsimp only [State.Inv]
  exact wf (Inv_updDie _ _ (Inv_updCluster _ _ (markAway (of_mem h rfl))))

theorem enterContext {c slot v} (h : s.Inv) : (s.enterContext c slot v).Inv :=
  ite h.makeActive (makeActive h.enterCore)

theorem enterShadow {c slot v} (h : s.Inv) : (s.enterShadow c slot v).Inv :=
  releaseConfirmed (Inv_updCore _ _ h.enterCore)

theorem reportRestore {c ctxid} (h : s.Inv) : (s.reportRestore c ctxid).Inv := of_mem h rfl

theorem contextRestore {c ctxid} (h : s.Inv) : (s.contextRestore c ctxid).Inv := by
  unfold State.contextRestore
  dsimp only
  split
  · exact h
  · split
    · exact ite (reportRestore h.enterContext) h
    · split
      · exact ite (reportRestore (enterContext (of_mem h rfl))) (ite (enterShadow (of_mem h rfl)) h)
      · exact h

theorem restoreWrite {v} (h : s.Inv) : (s.restoreWrite v).Inv := by
  unfold State.restoreWrite
  dsimp only
  split
  · exact h
  · exact ite h (of_mem h rfl)

theorem drainComplete {c k} (h : s.Inv) : (s.drainComplete c k).Inv := by
  unfold State.drainComplete
  dsimp only
  split
  · exact h
  · split
    · exact ifElse contextRestore h.saveContext
    · exact h.saveContext

theorem streamOut {c k} (h : s.Inv) : (s.streamOut c k).Inv := by
  unfold State.streamOut
  dsimp only
  split
  · exact h
  · refine ite h ?_
    dsimp only [State.Inv]
    exact wf (Inv_updCore _ _ (foldl (fun _ _ h => h.dropPins) h.flushHome))

theorem xinvComplete {c} (h : s.Inv) : (s.xinvComplete c).Inv := by
  unfold State.xinvComplete
  split
  · exact h
  · exact of_mem h rfl

/-! ### Errors -/

theorem updCnt {c} {f : CoreCnt → CoreCnt} (h : s.Inv) : (s.updCnt c f).Inv := of_mem h rfl

theorem rfError {c w p} (h : s.Inv) : (s.rfError c w p).Inv := by
  unfold State.rfError
  split
  · exact h
  · exact ite h (of_mem h rfl)

theorem execBackgroundScrub {core finding} (h : s.Inv) : KeepsInv (execBackgroundScrub core finding s) := by
  unfold Machine.execBackgroundScrub
  split
  · exact trivial
  · split
    · exact of_mem h rfl
    · exact h.rfError

theorem spadError {c b n} (h : s.Inv) : (s.spadError c b n).Inv := by
  unfold State.spadError
  split
  · exact h
  · exact ite h (of_mem h rfl)

theorem accError {c b n} (h : s.Inv) : (s.accError c b n).Inv := by
  unfold State.accError
  split
  · exact h
  · exact ite h (of_mem h rfl)

theorem poisonHome {keys} (h : s.Inv) : (s.poisonHome keys).Inv :=
  foldl (fun _ _ h => ite (of_mem h rfl) (of_mem h rfl)) h

theorem loseDirty {held} (h : s.Inv) : (s.loseDirty held).Inv :=
  poisonHome (Inv_writeHome _ h)

theorem loseSectors {c sectors} (h : s.Inv) : (s.loseSectors c sectors).Inv :=
  updCnt (poisonHome (loseDirty (of_mem h rfl)))

theorem l1LineError {c line} (h : s.Inv) : (s.l1LineError c line).Inv :=
  ite (of_mem h rfl) (loseSectors (of_mem h rfl))

theorem heldError {c line w} (h : s.Inv) : (s.heldError c line w).Inv :=
  loseSectors (of_mem h rfl)

theorem l1Error {c line} (h : s.Inv) : (s.l1Error c line).Inv := by
  unfold State.l1Error
  dsimp only
  split
  · exact h
  · exact h.l1LineError
  · exact heldError h

theorem l2Error {d line c} (h : s.Inv) : (s.l2Error d line c).Inv :=
  ite h (ite (Inv_updDie _ _ (loseDirty (of_mem h rfl))) (of_mem h rfl))

theorem l0Error {c line} (h : s.Inv) : (s.l0Error c line).Inv := by
  unfold State.l0Error
  dsimp only
  split
  · exact h
  · exact of_mem h rfl

theorem clError {k line} (h : s.Inv) : (s.clError k line).Inv := by
  unfold State.clError
  dsimp only
  split
  · exact h
  · exact of_mem h rfl

theorem execCacheUncorrectableError {unit line} (h : s.Inv) : KeepsInv (execCacheUncorrectableError unit line s) := by
  unfold Machine.execCacheUncorrectableError
  split
  · exact trivial
  · split
    · exact h.l1Error
    · exact h.l2Error
    · exact h.l0Error
    · exact h.clError

theorem evict {u line} (h : s.Inv) : (s.evict u line).Inv := by
  unfold State.evict
  dsimp only
  split
  · exact Inv_updCore _ _ (Inv_l1WriteBack _ _ (Inv_writeBack _ _ _ h))
  · exact Inv_updDie _ _ (Inv_l2WriteBack _ _ h)
  · exact of_mem h rfl
  · exact of_mem h rfl

theorem updMemCnt {p} {f : DieCnt → Nat → DieCnt} (h : s.Inv) : (s.updMemCnt p f).Inv := of_mem h rfl

theorem memCorrected {p} (h : s.Inv) : (s.memCorrected p).Inv :=
  ite h (of_mem h rfl)

theorem memUncorrectable {p} (h : s.Inv) : (s.memUncorrectable p).Inv :=
  ite h (updMemCnt h.poisonHome)

theorem expanderPoisoned {p} (h : s.Inv) : (s.expanderPoisoned p).Inv :=
  ite h h.poisonHome

theorem execTranslationCacheDrop {unit ctx page} (h : s.Inv) :
    KeepsInv (execTranslationCacheDrop unit ctx page s) := by
  unfold Machine.execTranslationCacheDrop
  split
  · exact KeepsInv.ite trivial (of_mem h rfl)
  · exact KeepsInv.ite trivial (of_mem h rfl)

/-! ### Fabric -/

theorem onPort {port} (h : t.Inv) : KeepsInv (onPort port t) :=
  KeepsInv.ite trivial h

theorem opAttempts {c w n f} (h : s.Inv) (hf : f ∈ Machine.opAttempts c w n) : (f s).Inv := by
  simp only [Machine.opAttempts, List.mem_cons, List.not_mem_nil, or_false] at hf
  rcases hf with rfl | rfl | rfl | rfl | rfl | rfl | rfl | rfl
  · exact h.returnLoad
  · exact h.acceptStore
  · exact h.collierAtomic
  · exact h.barrierUpdate
  · exact h.collierLink
  · exact h.collierUnlink
  · exact h.heldProceed
  · exact h.attempt fun _ _ h => h.tryWaitph

theorem loseOp {c w n} (h : s.Inv) : (s.loseOp c w n).Inv := by
  unfold State.loseOp
  split
  · next f hf => exact h.opAttempts (List.mem_of_find?_eq_some hf)
  · exact h

theorem loseCmd {up c id} (h : s.Inv) : (s.loseCmd up c id).Inv :=
  ite h.barrowLanding h

theorem portFail {p} (h : s.Inv) : (s.portFail p).Inv :=
  foldl (fun _ _ h => foldl (fun _ _ h => h.loseCmd) h)
    (foldl (fun _ _ h => foldl (fun _ _ h => foldl (fun _ _ h => h.loseOp) h) h) (of_mem h rfl))

/-! ### Host -/

theorem spclr {v} (h : s.Inv) : (s.spclr v).Inv :=
  ite (of_mem h rfl) h

theorem bar0Write {off width v} (h : s.Inv) : (s.bar0Write off width v).Inv := by
  unfold State.bar0Write
  split
  · exact h
  · split
    · exact of_mem h rfl
    · split
      · exact h.spclr
      · exact of_mem h rfl
      · exact h.restoreWrite
      · exact of_mem h rfl

theorem bar0Read {off width} (h : s.Inv) : (s.bar0Read off width).Inv := by
  unfold State.bar0Read
  dsimp only
  split
  · exact of_mem h rfl
  · exact ite (of_mem h rfl) (of_mem h rfl)

theorem execRegisterWrite {target value} (h : s.Inv) : KeepsInv (execRegisterWrite target value s) := by
  unfold Machine.execRegisterWrite
  dsimp only
  split
  · exact h.bar0Write
  · exact KeepsInv.ite trivial (ite h.ctlWrite h)
  · exact of_mem h rfl

theorem eventRecordWrite (h : s.Inv) : s.eventRecordWrite.Inv := by
  unfold State.eventRecordWrite
  dsimp only
  split
  · exact h
  · exact ite h (of_mem h rfl)

theorem l2Discard {lines} (h : s.Inv) : (s.l2Discard lines).Inv :=
  foldl (fun _ _ h => Inv_updDie _ _ (Inv_l2WriteBack _ _ h)) h

theorem hostWrite {off bs} (h : s.Inv) : (s.hostWrite off bs).Inv := by
  unfold State.hostWrite
  dsimp only
  split
  · exact h
  · split
    · split
      · exact ite (Inv_intoWindow _ _ h) (Inv_homeWrite _ _ h)
      · exact h
    · exact ite h.ctlWrite h
    · exact Inv_writeHome _ h.l2Discard

theorem hostRead {off n} (h : s.Inv) : (s.hostRead off n).Inv := by
  unfold State.hostRead
  split
  · exact ite h (of_mem h rfl)
  · exact of_mem h rfl

/-! ### PairOps -/

theorem execPairWord {sw l r} (h : s.Inv) : KeepsInv (execPairWord sw l r s) := by
  unfold Machine.execPairWord
  dsimp only
  split
  · exact trivial
  · exact KeepsInv.ite h.raise (KeepsInv.ite h.raise (KeepsInv.ite h.raise (of_mem h rfl)))

/-! ### Special -/

theorem execRdsr {g o} (h : s.Inv) : KeepsInv (execRdsr g o s) := by
  unfold Machine.execRdsr
  refine h.issueVector fun _ _ => ite (of_mem h rfl) ?_
  split
  · exact h.raise
  · exact ite (ite h (of_mem h rfl)) (ite h.raise (of_mem h rfl))

theorem execWrsr {g o} (h : s.Inv) : KeepsInv (execWrsr g o s) := by
  unfold Machine.execWrsr
  refine h.issueVector fun _ _ => ite (of_mem h rfl) ?_
  split
  · exact h.raise
  · refine ite h.raise ?_
    split
    · exact h.raise
    · exact ite h (of_mem h rfl)

/-! ### Staram -/

theorem updStaram {f : Staram → Staram} (h : s.Inv) : (s.updStaram f).Inv := of_mem h rfl

theorem answer {r} (h : s.Inv) : (s.answer r).Inv := of_mem h rfl

theorem report {r} (h : s.Inv) : (s.report r).Inv := of_mem h rfl

theorem startJob (h : s.Inv) : s.startJob.Inv := by
  unfold State.startJob
  split
  · exact h
  · refine foldl (fun _ _ h => ?_) h
    split
    · exact of_mem h rfl
    · exact h

theorem addJob {j} (h : s.Inv) : (s.addJob j).Inv :=
  ifThen startJob (updStaram (ite (of_mem h rfl) h))

theorem evacuate {c} (h : s.Inv) : (s.evacuate c).Inv := by
  unfold State.evacuate
  refine Inv_updCore _ _ (foldl (fun _ _ h => ?_) (of_mem h rfl))
  split
  · exact of_mem h rfl
  · exact h

theorem emptyRegion {d} (h : s.Inv) : (s.emptyRegion d).Inv :=
  foldl (fun _ _ h => Inv_updDie _ _ (Inv_l2WriteBack _ _ h))
    (foldl (fun _ _ h => of_mem h rfl) (foldl (fun _ _ h => of_mem h rfl) h))

theorem emptyLines {d} (h : s.Inv) : (s.emptyLines d).Inv := of_mem h rfl

theorem updPorts {d} {f : Nat → FlueDir → FlueDir} (h : s.Inv) : (s.updPorts d f).Inv :=
  foldl (fun _ _ h => of_mem h rfl) h

theorem powerOff {d} (h : s.Inv) : (s.powerOff d).Inv := by
  unfold State.powerOff
  dsimp only [State.Inv]
  exact wf (Inv_updDie _ _ h.updPorts)

theorem applyChange {j} (h : s.Inv) : (s.applyChange j).Inv := by
  unfold State.applyChange
  dsimp only
  split
  · exact of_mem h rfl
  · exact of_mem h rfl
  · exact foldl (fun _ _ h => ite (evacuate (of_mem h rfl)) (of_mem h rfl)) h
  · exact powerOff (emptyLines h.emptyRegion)

theorem resumeCore {c} (h : s.Inv) : (s.resumeCore c).Inv := by
  unfold State.resumeCore
  dsimp only
  split
  · exact h
  · exact contextRestore (of_mem h rfl)

theorem finishJob {j rest} (h : s.Inv) : (s.finishJob j rest).Inv :=
  startJob (foldl (fun _ _ h => h.resumeCore) (updStaram h.applyChange))

theorem setDiePoint {d mhz asked} (h : s.Inv) : (s.setDiePoint d mhz asked).Inv :=
  ite h h.addJob

theorem answerLater (h : s.Inv) : s.answerLater.Inv :=
  ite h (of_mem h rfl)

theorem opSet {mask mhz} (h : s.Inv) : (s.opSet mask mhz).Inv :=
  ite (of_mem h rfl) (answerLater (foldl (fun _ _ h => setDiePoint (of_mem h rfl)) h))

theorem capSet {w} (h : s.Inv) : (s.capSet w).Inv :=
  ite (of_mem h rfl) (of_mem h rfl)

theorem stepDown {d} (h : s.Inv) : (s.stepDown d).Inv :=
  ite h (report (setDiePoint (of_mem h rfl)))

theorem stepUp (h : s.Inv) : s.stepUp.Inv := by
  unfold State.stepUp
  dsimp only
  split
  · exact h
  · exact ite (of_mem h rfl) (report (setDiePoint (of_mem h rfl)))

theorem measure {powers watts junctions} (h : s.Inv) : (s.measure powers watts junctions).Inv := by
  unfold State.measure
  refine ifThen stepUp (foldl (fun _ _ h => h.stepDown) (ite ?_ (of_mem h rfl)))
  split
  · exact stepDown (of_mem h rfl)
  · exact of_mem h rfl

theorem lowerCeiling {k mhz} (h : s.Inv) : (s.lowerCeiling k mhz).Inv :=
  addJob (of_mem h rfl)

theorem retireCluster {k} (h : s.Inv) : (s.retireCluster k).Inv :=
  ite h (addJob (of_mem h rfl))

theorem ageing {k birth now} (h : s.Inv) : (s.ageing k birth now).Inv :=
  ite h (ifThen retireCluster (ite h.lowerCeiling h))

theorem retireLane {c l asked} (h : s.Inv) : (s.retireLane c l asked).Inv :=
  addJob (of_mem h rfl)

theorem laneRetire {core l} (h : s.Inv) : (s.laneRetire core l).Inv := by
  unfold State.laneRetire
  split
  · exact of_mem h rfl
  · exact ite (of_mem h rfl) (ite (of_mem h rfl) h.retireLane)

theorem laneTrip {c l} (h : s.Inv) : (s.laneTrip c l).Inv :=
  ite (retireLane (of_mem h rfl)) (of_mem h rfl)

theorem clusterTrip {k} (h : s.Inv) : (s.clusterTrip k).Inv :=
  ite (lowerCeiling (of_mem h rfl)) (of_mem h rfl)

theorem trip {c lane} (h : s.Inv) : (s.trip c lane).Inv := by
  unfold State.trip
  dsimp only
  split
  · exact laneTrip (of_mem h rfl)
  · exact clusterTrip (of_mem h rfl)

theorem gate {d} (h : s.Inv) : (s.gate d).Inv :=
  ite (of_mem h rfl) (ite (of_mem h rfl) (ite (of_mem h rfl) (addJob (of_mem h rfl))))

theorem writeDieLanes {d} (h : s.Inv) : (s.writeDieLanes d).Inv :=
  foldl (fun _ _ h => of_mem h rfl) h

theorem powerOn {d mhz} (h : s.Inv) : (s.powerOn d mhz).Inv :=
  updStaram (writeDieLanes (Inv_zeroRegion _ (of_mem h rfl)))

theorem joinPorts {d} (h : s.Inv) : (s.joinPorts d).Inv :=
  h.updPorts

theorem wake {d} (h : s.Inv) : (s.wake d).Inv :=
  ite (of_mem h rfl) (ite (of_mem h rfl) (answer (joinPorts h.powerOn)))

theorem clearCounters {u} (h : s.Inv) : (s.clearCounters u).Inv := by
  unfold State.clearCounters
  dsimp only
  split
  · exact of_mem h rfl
  · exact of_mem h rfl
  · exact of_mem h rfl
  · exact of_mem h rfl
  · exact of_mem h rfl

theorem countersRead {u clear} (h : s.Inv) : (s.countersRead u clear).Inv :=
  answer (ite h.clearCounters h)

theorem reportRead (h : s.Inv) : s.reportRead.Inv := by
  unfold State.reportRead
  split
  · exact of_mem h rfl
  · exact of_mem h rfl

theorem handle {r} (h : s.Inv) : (s.handle r).Inv := by
  unfold State.handle
  split
  · exact h.opSet
  · exact h.capSet
  · exact h.gate
  · exact h.wake
  · exact h.countersRead
  · exact of_mem h rfl
  · exact h.laneRetire
  · exact of_mem h rfl
  · exact h.reportRead
  · exact of_mem h rfl

theorem request {r} (h : s.Inv) : (s.request r).Inv := by
  unfold State.request
  dsimp only
  split
  · split
    · exact of_mem h rfl
    · exact of_mem h rfl
  · exact ite h (ite (handle h) (ite (of_mem h rfl) (of_mem h rfl)))

theorem serveQueue {fuel} (h : s.Inv) : (s.serveQueue fuel).Inv := by
  induction fuel generalizing s with
  | zero => exact h
  | succ fuel ih =>
    unfold State.serveQueue
    split
    · exact h
    · exact ite h (ih (handle (of_mem h rfl)))

theorem completeJob {j} (h : s.Inv) : (s.completeJob j).Inv :=
  ite h (serveQueue (of_mem h rfl))

theorem runJob (h : s.Inv) : s.runJob.Inv := by
  unfold State.runJob
  dsimp only
  split
  · exact h
  · split
    · exact h
    · split
      · exact of_mem h rfl
      · exact completeJob h.finishJob

theorem identity {r} (h : s.Inv) : (s.identity r).Inv :=
  ite (of_mem h rfl) (ite h (of_mem h rfl))

theorem recover (h : s.Inv) : s.recover.Inv := of_mem h rfl

theorem powerDies (h : s.Inv) : s.powerDies.Inv := by
  unfold State.powerDies
  dsimp only [State.Inv]
  exact wf (updStaram (foldl (fun _ _ h => h.powerOn) h))

theorem powerUp (h : s.Inv) : s.powerUp.Inv := by
  unfold State.powerUp
  dsimp only
  split
  · exact recover (foldl (fun _ _ h => of_mem h rfl) (Inv_cleared h))
  · exact ite (powerDies (updStaram (foldl (fun _ _ h => of_mem h rfl) (Inv_cleared h))))
      (recover (foldl (fun _ _ h => of_mem h rfl) (updStaram (foldl (fun _ _ h => of_mem h rfl) (Inv_cleared h)))))

theorem bringUp (h : s.Inv) : s.bringUp.Inv := by
  unfold State.bringUp
  dsimp only
  split
  · exact updStaram (foldl (fun _ _ h => ite h h.joinPorts) h)
  · exact updStaram (foldl (fun _ _ h => h.setDiePoint) h)
  · exact ite (of_mem h rfl) h
  · exact h

theorem incident {i} (h : s.Inv) : (s.incident i).Inv := by
  unfold State.incident
  split
  · exact ite (of_mem h rfl) h
  · exact ite (of_mem h rfl) h
  · exact h.memCorrected
  · exact h.memUncorrectable
  · exact h.expanderPoisoned
  · exact ite (of_mem h rfl) h
  · exact ite (of_mem h rfl) h
  · exact h.runJob
  · exact h.bringUp
  · exact h.request
  · exact h.rmoRequest
  · exact h.rmoServe
  · exact ite h.messageLand h
  · exact ite (of_mem h rfl) h
  · exact ite h.accError h
  · exact h.bar0Read

/-! ### Dispatch -/

/-- The meaning of every instruction keeps the form. -/
theorem exec {i} (h : s.Inv) : KeepsInv (Machine.exec i s) := by
  cases i <;> dsimp only [Machine.exec]
  case umov | umovi | usel | addpc | aadd | aset | acpy | rdhz => exact h.issueUniform
  case uadd | usub | umul | umulh | uand | uor | uxor | ushl | ushr | usra | umin | umax | ucmp =>
    exact h.execUni2
  case aget => exact h.execAget
  case mov | iabs | ineg | not | popc | clz | brev => exact h.execInt1
  case movi | icmp | plop | fcmp | fcmpF64 | fclassF64 | voteBallot | redl | scanl =>
    exact h.issueVector fun _ _ => of_mem h rfl
  case iadd | isub | imul | imulh | imulhu | imin | imax | iminu | imaxu | and | or | xor | ishl | ishr | isra |
      irol => exact h.execInt2
  case imad | bfe | bfi | idot4 | idot2 => exact h.execInt3
  case sel => exact h.execSel
  case fadd | fsub | fmul | fmin | fmax => exact h.execF32x2
  case ffma => exact h.execF32x3
  case fabs | fneg | fclass | frnd => exact h.execF32x1
  case faddF64 | fsubF64 | fmulF64 | fminF64 | fmaxF64 => exact h.execF64x2
  case ffmaF64 => exact h.execF64x3
  case fabsF64 | fnegF64 | frndF64 => exact h.execF64x1
  case faddF16 | fsubF16 | fmulF16 | fminF16 | fmaxF16 | faddBf16 | fsubBf16 | fmulBf16 | fminBf16 | fmaxBf16 =>
    exact h.execPkx2
  case ffmaF16 | ffmaBf16 => exact h.execPkx3
  case fabsF16 | fnegF16 | fclassF16 | frndF16 | fabsBf16 | fnegBf16 | fclassBf16 | frndBf16 => exact h.execPkx1
  case fcmpF16 | fcmpBf16 => exact h.execPkCmp
  case cvt => exact h.execCvt
  case pack => exact h.execPack
  case rcp | rsq | sqrt | exp2 | log2 | sin | cos | tanh => exact h.execSfu
  case rcpF64 | sqrtF64 => exact h.execSfu64
  case shflIdx | shflUp | shflDown | shflXor => exact h.execShfl
  case voteAny | voteAll | voteEq => exact h.execVotePred
  case pairWord => exact h.execPairWord
  case ld | st | uld => exact h.issueVector fun _ _ => h.issueOp
  case lds => exact h.execLds
  case sts => exact h.execSts
  case gather => exact h.execGather
  case scatter => exact h.execScatter
  case atom | atomn | cas => exact h.issueAtomic
  case atoms | cass => exact h.issueSpadAtomic
  case fence | rflush | launch => exact h.issueFragment fun _ _ => ite h (of_mem h rfl)
  case bind => exact h.execBind
  case unbind => exact h.issueObject fun _ _ _ => of_mem h rfl
  case acq => exact h.execAcq
  case rel => exact h.execRel
  case binit => exact h.execBinit
  case arrive => exact h.execArrive
  case waitph => exact h.execWaitph
  case tryph => exact h.execTryph
  case qwait => exact h.execQwait
  case wake => exact h.issueObject fun _ _ _ => ite h (of_mem h rfl)
  case bra | call | ret | yield | nop | waithz => exact h.issueFragment fun _ _ => of_mem h rfl
  case cpy | tierp | tiere => exact h.issueEC
  case cpy2 | cpyt | cpyg | wload => exact h.issueED
  case mtask => exact h.execMtask
  case qcfg => exact h.execQcfg
  case commOpen | collRs | collAg | collAr | collBc | collBar | collSend | collRecv => exact h.issueComm
  case commClose => exact h.execCommClose
  case rmoCas4 | rmoEnq | rmoChase => exact h.issueRmo
  case rst => exact h.issueVector (fun _ _ => ite (of_mem h rfl) (ite h (of_mem h rfl)))
  case matchArm => exact h.execMatchArm
  case brc => exact h.execBrc
  case brx => exact h.execBrx
  case bhz | alloc => exact h.issueFragment (fun _ _ => ite (of_mem h rfl) (of_mem h rfl))
  case rcv => exact h.execRcv
  case exit => exact h.execExit
  case prefi => exact h.issueLines fun _ _ _ h => foldl (fun _ _ h => h.prefetch) h
  case pin => exact h.execPin
  case unpin => exact h.execUnpin
  case fetchw => exact h.execFetchw
  case freea => exact h.execFreea
  case shape => exact h.execShape
  case trap => exact h.issueFragment fun _ _ => h.raise
  case rte => exact h.execRte
  case rdsr => exact h.execRdsr
  case wrsr => exact h.execWrsr
  case clauseHeader => exact h.execClauseHeader
  case loadReturn => exact KeepsInv.ite trivial h.returnLoad
  case storeAccept => exact KeepsInv.ite trivial h.acceptStore
  case collierAtomic => exact KeepsInv.ite trivial h.collierAtomic
  case barrierUpdate => exact KeepsInv.ite trivial h.barrierUpdate
  case collierLink => exact KeepsInv.ite trivial h.collierLink
  case collierUnlink => exact KeepsInv.ite trivial h.collierUnlink
  case heldOperationProceed => exact KeepsInv.ite trivial (heldProceed h)
  case faultBufferEntry => exact KeepsInv.ite trivial h.faultEntry
  case rmoPerform => exact KeepsInv.ite trivial h.rmoPerform
  case rmoResponse => exact KeepsInv.ite trivial h.rmoResponse
  case failureRetry => exact KeepsInv.ite trivial (ite (of_mem h rfl) h)
  case horizonResolution => exact KeepsInv.ite trivial h.resolveHorizon
  case heldLineDrain => exact KeepsInv.ite trivial h.drainHeld
  case trapEntry => exact KeepsInv.ite trivial h.trapStep
  case waitphWake => exact KeepsInv.ite trivial h.waitphWake
  case scratchpadLoadResult | sfuComplete | crossLaneComplete => exact KeepsInv.ite trivial h.completeAt
  case barrowLanding => exact KeepsInv.ite trivial h.barrowLanding
  case wloadLatch => exact KeepsInv.ite trivial h.wloadLatch
  case kilnBoundary => exact KeepsInv.ite trivial h.kilnBoundary
  case kilnTaskComplete => exact KeepsInv.ite trivial h.kilnComplete
  case allotmentGrant => exact KeepsInv.ite trivial h.allotmentGrant
  case xinvComplete => exact KeepsInv.ite trivial h.xinvComplete
  case preemptionDrain | xinvWrite | cxlRetrain => exact KeepsInv.ite trivial (of_mem h rfl)
  case drainComplete => exact KeepsInv.ite trivial h.drainComplete
  case blockEnd => exact KeepsInv.ite trivial h.blockEnd
  case remoteStorePerform => exact h.execRemoteStorePerform
  case remoteAck => exact KeepsInv.ite trivial h.remoteAck
  case remoteAckTimer => exact KeepsInv.ite trivial h.remoteAckTimer
  case acknowledgementArrival => exact KeepsInv.ite trivial h.ackArrival
  case groupRegistration => exact KeepsInv.ite trivial h.registerRec
  case hearthGateCheck | hearthGateReread => exact KeepsInv.ite trivial h.gateCheck
  case hearthDispatch => exact KeepsInv.ite trivial (hearthDispatch h)
  case bellowsChunk => exact KeepsInv.ite trivial h.bellowsChunk
  case commOpenApply => exact KeepsInv.ite trivial h.commOpenApply
  case commCloseApply => exact KeepsInv.ite trivial h.commCloseApply
  case bellowsHeaderExchange => exact KeepsInv.ite trivial (headerExchange h)
  case bellowsStepComplete => exact KeepsInv.ite trivial h.bellowsStep
  case launchEnd => exact h.launchEnd
  case blockPlacement => exact KeepsInv.ite trivial h.blockPlacement
  case contextStreamOut => exact KeepsInv.ite trivial h.streamOut
  case contextRestore => exact KeepsInv.ite trivial h.contextRestore
  case hostPost => exact KeepsInv.ite trivial (hostPost h)
  case stokerTake => exact h.stokerTake
  case priorityPreemptionRequest => exact KeepsInv.ite trivial h.priorityPreempt
  case shapeNotification => exact h.applyNotice
  case shapeTimeout => exact h.shapeTimeout
  case fetchwDraw => exact h.fetchwDraw
  case groupDispatch => exact h.groupDispatch
  case faultStatusWrite => exact KeepsInv.ite trivial h.faultStatus
  case iinvWrite => exact KeepsInv.ite trivial h.iinv
  case registerWrite => exact h.execRegisterWrite
  case spclrWrite => exact h.spclr
  case preemptWrite => exact of_mem h rfl
  case restoreWrite => exact h.restoreWrite
  case eventRecordWrite => exact h.eventRecordWrite
  case hostApertureWrite => exact hostWrite h
  case hostApertureRead => exact hostRead h
  case hostCompletion => exact KeepsInv.ite trivial (hostCompletion h)
  case hostCompletionTimeout => exact KeepsInv.ite trivial (hostLost h)
  case bellowsTimeout => exact KeepsInv.ite trivial h.bellowsTimeout
  case multicastAck => exact KeepsInv.ite trivial h.multicastAck
  case messageArrival => exact KeepsInv.ite trivial h.deliver
  case flueTimeout => exact KeepsInv.ite trivial h.flueTimeout
  case keySwitchMarker | invctrThreshold | flitReceive | linkRetrain => exact onPort (of_mem h rfl)
  case keyLoad => exact KeepsInv.ite trivial (onPort (of_mem h rfl))
  case cxlPortFail => exact KeepsInv.ite trivial h.portFail
  case rfUncorrectableError => exact KeepsInv.ite trivial h.rfError
  case backgroundScrub => exact h.execBackgroundScrub
  case spadUncorrectableError => exact KeepsInv.ite trivial h.spadError
  case cacheUncorrectableError => exact h.execCacheUncorrectableError
  case opSet | capSet | dieGate | dieWake | countersRead | telemetryRead | laneRetire | fwUpdate | reportRead =>
    exact h.request
  case powerMeasurement => exact ite h.measure h
  case ageingCheck => exact KeepsInv.ite trivial (ite h.ageing h)
  case shadowLatchTrip => exact KeepsInv.ite trivial h.trip
  case getDigests | getCertificate | challenge | getMeasurements => exact h.identity
  case powerUp => exact h.powerUp
  case cacheEviction => exact KeepsInv.ite trivial h.evict
  case translationCacheDrop => exact h.execTranslationCacheDrop
  case waveTermination => exact KeepsInv.ite trivial h.terminateWave
  case hostLinkDown => exact hostDown h

/-! ### Sched -/

theorem runWord {c f word} (h : s.Inv) : KeepsInv (s.runWord c f word) := by
  unfold State.runWord
  dsimp only
  split
  · exact of_mem h rfl
  · split
    · split
      · exact exec (of_mem h rfl)
      · exact raise (of_mem h rfl)
    · split
      · exact raise (of_mem h rfl)
      · split
        · exact exec (of_mem h rfl)
        · exact raise (of_mem h rfl)

theorem fetchStep {c fid} (h : s.Inv) : KeepsInv (s.fetchStep c fid) := by
  unfold State.fetchStep
  dsimp only
  split
  · exact h
  · split
    · exact h
    · split
      · split
        · exact h
        · exact runWord h.fetchKeep
      · split
        · exact h
        · exact raise (of_mem h rfl)

theorem issueStep {c k} (h : s.Inv) : KeepsInv (s.issueStep c k) := by
  unfold State.issueStep
  dsimp only
  split
  · exact h
  · split
    · exact runWord (setCore h.fetchKeep)
    · exact h

theorem eventStep {i} (h : s.Inv) : KeepsInv (s.eventStep i) :=
  KeepsInv.ite h h.exec

theorem firstUnit {l t} (h : s.Inv) (ht : s.firstUnit l = some t) : t.Inv := by
  induction l with
  | nil => cases ht
  | cons i r ih =>
    unfold State.firstUnit at ht
    split at ht
    · next u hu =>
      split at ht
      · exact ih ht
      · cases ht
        exact h.eventStep.next hu
    · exact ih ht

theorem firstIncident {l t} (h : s.Inv) (ht : s.firstIncident l = some t) : t.Inv := by
  induction l with
  | nil => cases ht
  | cons i r ih =>
    unfold State.firstIncident at ht
    split at ht
    · exact ih ht
    · cases ht
      exact h.incident

theorem autoStep (h : s.Inv) : KeepsInv s.autoStep := by
  unfold State.autoStep
  split
  · next t _ ht => exact h.firstIncident ht
  · exact h.fetchStep
  · split
    · next t ht => exact h.firstUnit ht
    · split
      · exact h
      · exact issueStep (of_mem h rfl)

theorem act (h : s.Inv) : KeepsInv s.act := by
  unfold State.act
  split
  · exact h.autoStep
  · exact eventStep (of_mem h rfl)
  · exact incident (of_mem h rfl)
  · exact fetchStep (of_mem h rfl)
  · exact issueStep (of_mem h rfl)

theorem advance (h : s.Inv) : KeepsInv s.advance := by
  unfold State.advance
  split
  · next t ht => exact Inv_tidy (issuedStores (h.act.next ht))
  · trivial
  · trivial

end State.Inv

theorem step_keepsInv {s : State} (h : s.Inv) : KeepsInv (step s) := h.advance

end Sys2Proof.Machine

namespace Sys2Proof.Claim

open Sys2Proof Sys2Proof.Machine

/-- Settles O60: whichever activity a step takes keeps the form, and so does its end. -/
theorem everyStepKeepsMemoryCanonical : Obligations.EveryStepKeepsMemoryCanonical :=
  fun _ _ inv next => (step_keepsInv inv).next next

end Sys2Proof.Claim
end

section
/-! PROOFS. Bytes of a memory after writes, and the scratchpad words. -/

open Sys2Proof Sys2Proof.Machine

set_option Elab.async false

namespace Sys2Proof.Machine

/-! ## Bytes written to a memory -/

theorem length_toBytes (n v : Nat) : (toBytes n v).length = n := by
  induction n generalizing v with
  | zero => rfl
  | succ n ih => simp [toBytes, ih]

theorem getElem?_toBytes {n k : Nat} (v : Nat) (hk : k < n) :
    (toBytes n v)[k]? = some (BitVec.ofNat 8 (v / 256 ^ k)) := by
  induction n generalizing v k with
  | zero => omega
  | succ n ih =>
    cases k with
    | zero => simp [toBytes]
    | succ k => simp [toBytes, ih (v / 256) (Nat.lt_of_succ_lt_succ hk), Nat.div_div_eq_div_mul, Nat.pow_succ']

theorem leNat_lt (bs : List Byte) : leNat bs < 256 ^ bs.length := by
  induction bs with
  | nil => simp [leNat]
  | cons b r ih =>
    have := b.isLt
    rw [leNat, List.length_cons, Nat.pow_succ']
    omega

theorem Memory.get_write_outside {m : Memory} {a j : Nat} {bs : List Byte} (h : ¬ (a ≤ j ∧ j < a + bs.length)) :
    Memory.get (Memory.write m a bs) j = Memory.get m j := by
  induction bs generalizing m a with
  | nil => rfl
  | cons b r ih =>
    rw [List.length_cons] at h
    rw [Memory.write, ih (by omega), Memory.get_put, if_neg (by omega)]

theorem Memory.get_write_inside {m : Memory} {a k : Nat} {bs : List Byte} {b : Byte} (h : bs[k]? = some b) :
    Memory.get (Memory.write m a bs) (a + k) = b := by
  induction bs generalizing m a k with
  | nil => simp at h
  | cons c r ih =>
    cases k with
    | zero =>
      have hb : c = b := by simpa using h
      rw [Memory.write, Memory.get_write_outside (by omega), Memory.get_put, if_pos (by simp), hb]
    | succ k =>
      rw [Memory.write, ← Nat.add_assoc, Nat.add_right_comm]
      exact ih (by simpa using h)

theorem Memory.length_read (m : Memory) (a n : Nat) : (Memory.read m a n).length = n := by
  simp [Memory.read]

end Sys2Proof.Machine

namespace Sys2Proof.Claim

/-! ## A committed store -/

theorem promoted_eq_undemoted (f : Frag) : f.promoted = undemoted f := rfl

theorem demotesSibling_iff (x : Ctx) : x.demotesSibling = true ↔
    ∃ f ∈ x.core.frags, f.wave = x.wave.slot ∧ f.id ≠ x.frag.id ∧ f.damper.dem = true := by
  simp [Ctx.demotesSibling, and_assoc]

theorem clearDemotion_eq (x : Core) (w : Nat) : x.clearDemotion w
    = { x with frags := x.frags.map fun f => if f.wave = w then undemoted f else f } := by
  simp [Core.clearDemotion, promoted_eq_undemoted]

theorem commitStore_eq_committed (x : Ctx) : x.commitStore = committed x := by
  unfold Ctx.commitStore committed
  simp only [demotesSibling_iff, clearDemotion_eq, promoted_eq_undemoted]

/-! ## What a scratchpad word looks at before it takes effect -/

section
variable {x : Ctx} {g : Ctl} {ea : Nat → DWord} {n : Nat}

theorem firstBad_none (ok : ∀ l, (x.active g).getLsbD l → x.block.spadOk (ea l).toNat n = true) :
    x.firstBad (x.active g) ea n = none :=
  List.find?_eq_none.mpr fun l hl => by simp [ok l (mem_lanesOf.mp hl).2]

theorem firstPoisoned_none (good : ∀ l, (x.active g).getLsbD l → x.block.spadBad (ea l).toNat n = false) :
    x.firstPoisoned (x.active g) ea n = none :=
  List.find?_eq_none.mpr fun l hl => by simp [good l (mem_lanesOf.mp hl).2]

theorem pairwise_lanesOf (m : LaneMask) : (lanesOf m).Pairwise (· < ·) :=
  List.pairwise_lt_range.filter _

/-- The lane that traps is the lowest one out of bounds (R303). -/
theorem firstBad_lowest {l : Nat} (act : (x.active g).getLsbD l = true) (bad : x.block.spadOk (ea l).toNat n = false)
    (ok : ∀ j, j < l → (x.active g).getLsbD j → x.block.spadOk (ea j).toNat n = true) :
    x.firstBad (x.active g) ea n = some l := by
  have mem : l ∈ lanesOf (x.active g) := mem_lanesOf.mpr ⟨BitVec.lt_of_getLsbD act, act⟩
  obtain ⟨pre, post, split⟩ := List.append_of_mem mem
  have below : ∀ j ∈ pre, j < l := by
    have := pairwise_lanesOf (x.active g)
    rw [split, List.pairwise_append] at this
    exact fun j hj => this.2.2 j hj l (by simp)
  rw [Ctx.firstBad, List.find?_eq_some_iff_append]
  refine ⟨by simp [bad], pre, post, split, fun j hj => ?_⟩
  have act : (x.active g).getLsbD j = true := (mem_lanesOf.mp (split ▸ List.mem_append_left _ hj)).2
  simp [ok j (below j hj) act]

theorem spadSpans_eq_spadLanes (x : Ctx) (g : Ctl) (ea : Nat → DWord) (n : Nat) :
    spadSpans (x.active g) ea n = spadLanes x g ea n := rfl

theorem spadWaits_of_clear {rs : List (Nat × Nat)} (h : clear x rs) : x.spadWaits rs = false := by
  rw [Ctx.spadWaits, List.any_eq_false]
  intro p hp
  by_cases own : p.unresolved = true ∧ p.handler = x.frag.handler
  · obtain ⟨noAcq, apart⟩ := h p hp own.1 own.2
    simp only [own.1, own.2, beq_self_eq_true, Bool.and_self, noAcq, Bool.false_or, Bool.true_and, Bool.and_eq_true,
      List.any_eq_true, decide_eq_true_eq, not_and, not_exists]
    intro settles a ha b hb
    have := apart settles a ha b hb
    omega
  · simp only [Bool.and_eq_true, beq_iff_eq]
    exact fun k => own k.1

end

/-! ## LDS -/

theorem exec_lds (g : Ctl) (o : MG) (s : State) : exec (.lds g o) s = execLds g o s := rfl
theorem exec_sts (g : Ctl) (o : MG) (s : State) : exec (.sts g o) s = execSts g o s := rfl

theorem pendEffect_pendResult {s : State} {x : Ctx} (hx : s.ctx? = some x) (g : Ctl) (kind : PendKind)
    (regs : List (Nat × Nat × Word)) (some : x.active g ≠ 0) :
    PendEffect s (s.save ((x.pendResult kind (x.active g) regs [] 0).done g.sw)) x
      ((x.pendResult kind (x.active g) regs [] 0).issued g.sw) g
      { kind := kind, wave := x.wave.slot, frags := [x.frag.id], handler := x.frag.handler, regs := regs,
        preds := [], flags := 0, sr := none } := by
  have w := Ctx.writes_pendResult x kind (x.active g) regs [] 0
  refine { outside := w.outside hx g.sw, core := ?_, frag := w.moved g.sw, wave := ?_ }
  · rw [w.core_issued, Ctx.pendResult_eq, if_neg some, if_neg some]
  · rw [Ctx.issued_wave, Ctx.pendResult_eq]

theorem scratchpadLoadCompletes : ScratchpadLoadCompletes := by
  intro g o s x h ok good room apart some
  have hexec : exec (.lds g o) s = .next (s.save ((x.pendResult .spad (x.active g)
      ((lanesOf (x.active g)).flatMap fun l => laneWords o.d.toNat l (loadWords o.sz.toNat o.sx
        (Memory.read x.block.spad (mgEA x o l).toNat (2 ^ o.sz.toNat)))) [] 0).done g.sw)) := by
    rw [exec_lds, execLds, issueVector_of_ready h]
    simp only [firstBad_none ok, firstPoisoned_none good, spadSpans_eq_spadLanes, spadWaits_of_clear apart,
      decide_eq_false room.not_ge, Bool.or_self, Bool.and_false, Bool.false_eq_true, if_false, Block.spadRead]
  exact ⟨_, _, hexec, pendEffect_pendResult h.ctx g .spad _ some⟩

/-! ## STS -/

/-- The bytes that the lanes of a store write, lane by lane. -/
def laneBytes (ea : Nat → DWord) (n : Nat) (v : Nat → Nat) (l : Nat) : Nat × List Byte :=
  ((ea l).toNat, toBytes n (v l))

theorem spadStores_eq (b : Block) (ws : List (Nat × List Byte)) :
    b.spadStores ws = { b with spad := (b.spadStores ws).spad, spadPoison := (b.spadStores ws).spadPoison } := by
  induction ws generalizing b with
  | nil => rfl
  | cons e r ih => exact (ih (b.spadWrite e.1 e.2) :)

theorem get_spadStores_outside {b : Block} {ws : List (Nat × List Byte)} {a : Nat}
    (h : ∀ e ∈ ws, ¬ (e.1 ≤ a ∧ a < e.1 + e.2.length)) :
    Memory.get (b.spadStores ws).spad a = Memory.get b.spad a := by
  induction ws generalizing b with
  | nil => rfl
  | cons e r ih =>
    rw [List.forall_mem_cons] at h
    exact (ih h.2).trans (Memory.get_write_outside h.1)

theorem get_spadStores_last {b : Block} {pre post : List (Nat × List Byte)} {e : Nat × List Byte} {k : Nat} {v : Byte}
    (here : e.2[k]? = some v) (after : ∀ f ∈ post, ¬ (f.1 ≤ e.1 + k ∧ e.1 + k < f.1 + f.2.length)) :
    Memory.get (b.spadStores (pre ++ e :: post)).spad (e.1 + k) = v := by
  rw [Block.spadStores, List.foldl_append, List.foldl_cons]
  exact (get_spadStores_outside after).trans (Memory.get_write_inside here)

theorem scratchpadStoreCompletes : ScratchpadStoreCompletes := by
  intro g o s x h ok room apart some
  let ws := (lanesOf (x.active g)).map (laneBytes (mgEA x o) (2 ^ o.sz.toNat) fun l =>
    (storeData x o.d.toNat o.sz.toNat l).toNat)
  refine ⟨x.block.spadStores ws, ?_, spadStores_eq .., fun a untouched => ?_, fun l k act hk last => ?_⟩
  · rw [exec_sts, execSts, issueVector_of_ready h]
    simp only [firstBad_none ok, spadSpans_eq_spadLanes, spadWaits_of_clear apart, decide_eq_false room.not_ge,
      beq_eq_false_iff_ne.mpr some, Bool.or_self, Bool.and_false, Bool.false_eq_true, if_false,
      commitStore_eq_committed]
    rfl
  · refine get_spadStores_outside fun e he => ?_
    obtain ⟨l, hl, rfl⟩ := List.mem_map.mp he
    simpa only [laneBytes, length_toBytes] using untouched l (mem_lanesOf.mp hl).2
  · obtain ⟨pre, post, split⟩ := List.append_of_mem (mem_lanesOf.mpr ⟨BitVec.lt_of_getLsbD act, act⟩)
    have above : ∀ j ∈ post, l < j := by
      have := pairwise_lanesOf (x.active g)
      rw [split, List.pairwise_append, List.pairwise_cons] at this
      exact this.2.1.1
    simp only [ws, split, List.map_append, List.map_cons]
    refine get_spadStores_last (e := laneBytes ..) (getElem?_toBytes _ hk) fun e he => ?_
    obtain ⟨j, hj, rfl⟩ := List.mem_map.mp he
    have mem : j ∈ lanesOf (x.active g) := split ▸ List.mem_append_right _ (List.mem_cons_of_mem _ hj)
    simpa only [laneBytes, length_toBytes] using last j (above j hj) (mem_lanesOf.mp mem).2

theorem scratchpadBoundsTrap : ScratchpadBoundsTrap := by
  intro g o s x l act bad ok
  have first := firstBad_lowest act bad ok
  constructor
  · intro h
    rw [exec_lds, execLds, issueVector_of_ready h]
    simp only [first]
  · intro h
    rw [exec_sts, execSts, issueVector_of_ready h]
    simp only [first]

/-! ## ATOMS and CASS -/

theorem toInt_signExtend_word (v : Word) : (v.signExtend 64).toInt = v.toInt :=
  BitVec.toInt_signExtend_of_le (by decide)

/-- One step of an atomic writes what R310 says. -/
theorem atomNew_eq_atomicResult {cas : Bool} {aop : BitVec 4} {w64 : Bool} {old x k : DWord} :
    atomNew cas aop w64 old x k = atomicResult cas aop w64 old x k := by
  unfold atomNew atomicResult
  cases cas with
  | true => rfl
  | false =>
    simp only [Bool.false_eq_true, if_false]
    cases w64 <;>
      simp only [Bool.false_eq_true, if_false, if_true, BitVec.slt, BitVec.ult, decide_eq_true_eq,
        toInt_signExtend_word] <;>
      rcases aop.toNat with _ | _ | _ | _ | _ | _ | _ | _ | _ | n <;> rfl

theorem exec_of_spadAtomic {i : Instr} {g : Ctl} {o : MA} {cas : Bool} (h : spadAtomic i = some (g, o, cas))
    (s : State) : exec i s = issueSpadAtomic s g o cas := by
  unfold spadAtomic at h
  split at h <;> cases h <;> rfl

/-- A fold that leaves what it has found and only adds to it, with what it has found before split off. -/
theorem foldl_found {α β γ : Type} {f : α × List γ → β → α × List γ}
    (adds : ∀ a found b, f (a, found) b = ((f (a, []) b).1, found ++ (f (a, []) b).2)) (l : List β) (a : α)
    (found : List γ) : l.foldl f (a, found) = ((l.foldl f (a, [])).1, found ++ (l.foldl f (a, [])).2) := by
  induction l generalizing a found with
  | nil => simp
  | cons b r ih =>
    rw [List.foldl_cons, List.foldl_cons, adds, ih, ih (f (a, []) b).1 (f (a, []) b).2, List.append_assoc]

theorem atomSteps_cons (b : Block) (cas : Bool) (aop : BitVec 4) (w64 : Bool) (e : LaneAcc) (r : List LaneAcc) :
    b.atomSteps cas aop w64 (e :: r) = (((b.atomSteps cas aop w64 [e]).1.atomSteps cas aop w64 r).1,
      (b.atomSteps cas aop w64 [e]).2 ++ ((b.atomSteps cas aop w64 [e]).1.atomSteps cas aop w64 r).2) := by
  refine foldl_found (fun b found a => ?_) r _ _
  dsimp only
  split <;> simp

/-- The datum of a lane as an operation captures it. -/
def datumAcc (x : Ctx) (o : MA) (l : Nat) : LaneAcc :=
  { lane := l, ea := maEA x o l, data := (datum x o.w64 o.s l).zeroExtend 128, cmp := datum x o.w64 o.k l }

theorem maLanes_eq (x : Ctx) (o : MA) (m : LaneMask) : maLanes x o m = (lanesOf m).map (datumAcc x o) := rfl

theorem atomSteps_lane (cas : Bool) (o : MA) (x : Ctx) (l : Nat) (b : Block) :
    b.atomSteps cas o.aop o.w64 [datumAcc x o l] = atomicRun cas o x [l] b := by
  have data : (datumAcc x o l).data.extractLsb' 0 64 = datum x o.w64 o.s l := by
    ext k hk
    simp only [datumAcc, BitVec.getElem_extractLsb', BitVec.zeroExtend_eq_setWidth, BitVec.getLsbD_setWidth]
    simp only [zero_add, show k < 128 by omega, decide_true, Bool.true_and, BitVec.getLsbD_eq_getElem hk]
  simp only [Block.atomSteps, List.foldl_cons, List.foldl_nil, data, atomNew_eq_atomicResult, atomicRun]
  dsimp only [datumAcc, Block.spadRead]
  split <;> simp_all

theorem atomicRun_cons (cas : Bool) (o : MA) (x : Ctx) (l : Nat) (r : List Nat) (b : Block) :
    atomicRun cas o x (l :: r) b = ((atomicRun cas o x r (atomicRun cas o x [l] b).1).1,
      (atomicRun cas o x [l] b).2 ++ (atomicRun cas o x r (atomicRun cas o x [l] b).1).2) := rfl

/-- The bank's steps are those of R310, in lane order. -/
theorem atomSteps_eq_atomicRun (cas : Bool) (o : MA) (x : Ctx) (ls : List Nat) (b : Block) :
    b.atomSteps cas o.aop o.w64 (ls.map (datumAcc x o)) = atomicRun cas o x ls b := by
  induction ls generalizing b with
  | nil => rfl
  | cons l r ih => rw [List.map_cons, atomSteps_cons, atomicRun_cons, atomSteps_lane, ih]

/-- A scratchpad atomic whose lanes are in order and that waits for nothing: it goes on by its ordering component. -/
theorem exec_spadAtomic {i : Instr} {g : Ctl} {o : MA} {cas : Bool} {s : State} {x : Ctx}
    (hi : spadAtomic i = some (g, o, cas)) (h : Ready s x g (maRegs o true cas) (maSrcs o cas))
    (ok : ∀ l, (x.active g).getLsbD l → x.block.spadOk (maEA x o l).toNat (if o.w64 then 8 else 4) = true)
    (good : ∀ l, (x.active g).getLsbD l → x.block.spadBad (maEA x o l).toNat (if o.w64 then 8 else 4) = false)
    (some : x.active g ≠ 0) (apart : clear x (spadLanes x g (maEA x o) (if o.w64 then 8 else 4))) :
    exec i s = .next (
      if !(maRegions x o (x.active g) true).isEmpty then
        if !x.opRoom .ld then s
        else s.save ((x.addOp .ld 1 (maLanes x o (x.active g))
          (.atomic true (Option.some o.d.toNat) cas o.aop o.w64 o.ord)
          (maRegions x o (x.active g) true)).commitStore.done g.sw)
      else if 63 ≤ x.core.countOf x.frag .ld then s
      else
        let r := atomicRun cas o x (lanesOf (x.active g)) x.block
        s.save ((({ x with block := r.1 } : Ctx).pendResult .spad (x.active g)
          (datumWrites o.w64 o.d.toNat r.2) [] 0).commitStore.done g.sw)) := by
  rw [exec_of_spadAtomic hi, issueSpadAtomic, issueVector_of_ready h]
  simp only [firstBad_none ok, firstPoisoned_none good, spadSpans_eq_spadLanes, spadWaits_of_clear apart,
    beq_eq_false_iff_ne.mpr some, Bool.false_eq_true, if_false, maLanes_eq, atomSteps_eq_atomicRun]

theorem scratchpadAtomicsComplete : ScratchpadAtomicsComplete := by
  intro i g o cas s x hi h ok good some apart unbound room
  rw [exec_spadAtomic hi h ok good some apart, unbound, if_neg (by simp), if_neg room.not_ge]
  simp only [Ctx.pendResult_eq, if_neg some, commitStore_eq_committed]
  rfl

theorem boundScratchpadAtomicsIssue : BoundScratchpadAtomicsIssue := by
  intro i g o cas s x hi h ok good apart bound room
  rw [exec_spadAtomic hi h.ready ok good h.some apart, if_pos (by simpa using bound), room, if_neg (by simp),
    commitStore_eq_committed]
  rfl

/-- Settles O12: the lanes are in bounds and nothing holds the word back, so it is the fold of its lanes' accesses that
decides; the bytes of a store are those of the last lane that covers them. -/
theorem scratchpadWords : Obligations.ScratchpadWords :=
  ⟨scratchpadLoadCompletes, scratchpadStoreCompletes, scratchpadBoundsTrap, scratchpadAtomicsComplete,
    boundScratchpadAtomicsIssue⟩

end Sys2Proof.Claim
end

section
/-! SUPPORT. What reading steps leave unchanged, and how an operation resolves (R119, R127, R228, R235, R302). -/

open Sys2Proof Sys2Proof.Machine

set_option Elab.async false

namespace Sys2Proof.Machine

/-! ## Steps that read -/

/-- No byte of memory, no wave and no held line changes. -/
structure State.ReadOnly (s t : State) : Prop where
  mem : t.mem = s.mem
  waves : ∀ c, (t.core c).waves = (s.core c).waves
  held : ∀ c, (t.core c).held = (s.core c).held

namespace State.ReadOnly

theorem refl (s : State) : s.ReadOnly s := ⟨rfl, fun _ => rfl, fun _ => rfl⟩

theorem trans {s t u : State} (h : s.ReadOnly t) (k : t.ReadOnly u) : s.ReadOnly u :=
  ⟨k.mem.trans h.mem, fun c => (k.waves c).trans (h.waves c), fun c => (k.held c).trans (h.held c)⟩

theorem wave? {s t : State} (h : s.ReadOnly t) (c w : Nat) : (t.core c).wave? w = (s.core c).wave? w :=
  congrArg (List.find? fun y : Wave => y.slot == w) (h.waves c)

theorem updCore (s : State) (c : Nat) {f : Core → Core} (waves : ∀ x, (f x).waves = x.waves)
    (held : ∀ x, (f x).held = x.held) : s.ReadOnly (s.updCore c f) := by
  refine ⟨rfl, fun d => ?_, fun d => ?_⟩ <;> rw [State.core_updCore] <;> split
  · exact waves _
  · rfl
  · exact held _
  · rfl

theorem updDie (s : State) (d : Nat) (f : Die → Die) : s.ReadOnly (s.updDie d f) := ⟨rfl, fun _ => rfl, fun _ => rfl⟩

theorem foldl {α : Type} {f : State → α → State} (h : ∀ s a, ReadOnly s (f s a)) (l : List α) (s : State) :
    s.ReadOnly (l.foldl f s) := by
  induction l generalizing s with
  | nil => exact refl s
  | cons a r ih => exact (h s a).trans (ih _)

theorem of_codeOnly {s t : State} (h : Claim.CodeOnly s t) : s.ReadOnly t :=
  ⟨h.mem, fun d => (congrArg Core.waves (h.core d) :), fun d => (congrArg Core.held (h.core d) :)⟩

theorem keepPieces (s : State) (c root : Nat) (ps : List Piece) : s.ReadOnly (s.keepPieces c root ps) := by
  unfold State.keepPieces
  refine foldl (fun t p => of_codeOnly ?_) ps s
  exact .cacheLeaf t c (dieOf c) root p.va

theorem fill (s : State) (c : Nat) (a : Attr) (ps : List Nat) : s.ReadOnly (s.fill c a ps) := by
  have l2 : s.ReadOnly (if a.inL2 then s.fillL2 (dieOf c) a.scope ps else s) := by
    split
    · unfold State.fillL2
      exact updDie ..
    · exact refl s
  unfold State.fill
  dsimp only
  split
  · exact l2.trans (updCore _ c (fun _ => rfl) fun _ => rfl)
  · exact l2

theorem pieceTouch (s : State) (c : Nat) (p : Piece) : s.ReadOnly (s.pieceTouch c p) := by
  unfold State.pieceTouch
  split
  · split
    · exact updCore s _ (fun _ => rfl) fun _ => rfl
    · exact refl s
  · split
    · exact fill ..
    · exact refl s

/-- The translations of a load are kept, and its caches are filled (R119, R127). -/
theorem touched (s : State) (c root : Nat) (pss : List (List Piece)) :
    s.ReadOnly (pss.foldl (fun s ps => ps.foldl (fun s p => s.pieceTouch c p) s)
      (pss.foldl (fun s ps => s.keepPieces c root ps) s)) :=
  (foldl (fun t ps => ReadOnly.keepPieces t c root ps) pss s).trans
    (foldl (fun t ps => foldl (fun u p => ReadOnly.pieceTouch u c p) ps t) pss _)

end State.ReadOnly

/-! ## The operation that a step concerns -/

section
variable {s : State} {c w : Nat} {n : HNum} {k : OpCtx}

theorem State.opCtx?_found (h : s.opCtx? c w n = some k) :
    (s.core c).wave? w = some k.w ∧ k.w.op? n = some k.o ∧ (s.core c).block? k.w.block = some k.b ∧
      k.root = (s.core c).rootOf k.b.ctx := by
  unfold State.opCtx? at h
  dsimp only at h
  split at h
  · cases h
  · next y hy =>
    split at h
    · next o b ho hb =>
      cases h
      exact ⟨hy, ho, hb, rfl⟩
    · cases h

theorem Wave.num_of_op? {y : Wave} {o : Op} (h : y.op? n = some o) : o.num = n := by
  simpa using List.find?_some h

end

theorem Wave.op?_updOp (y : Wave) (n : HNum) {f : Op → Op} (hf : ∀ o, (f o).num = o.num) :
    (y.updOp n f).op? n = (y.op? n).map f :=
  find?_updFirst _ f _ fun o ho => by simpa [hf o] using ho

theorem State.wave?_updOp {s : State} {c w : Nat} {y : Wave} (h : (s.core c).wave? w = some y) (n : HNum) (f : Op → Op) :
    ((s.updOp c w n f).core c).wave? w = some (y.updOp n f) :=
  State.wave?_updWave h fun _ => rfl

/-- The wave once an operation of it has succeeded: a handler's operation is gone (R228, R235). -/
def Wave.resolved (y : Wave) (o : Op) (n : HNum) : Wave :=
  if o.handler then { y with ops := y.ops.filter fun p => !(p.handler && p.num == n) } else y.updOp n Op.succeed

theorem Wave.resolved_eq (y : Wave) (o : Op) (n : HNum) : y.resolved o n = { y with ops := (y.resolved o n).ops } := by
  unfold Wave.resolved
  split <;> rfl

section
variable {s : State} {c w : Nat} {n : HNum} {y : Wave} {o : Op} (hy : (s.core c).wave? w = some y) (ho : y.op? n = some o)
include hy ho

/-- A success of the retry is counted; then the wave's operation has resolved. -/
theorem State.finishOp_eq : s.finishOp c w n = (if o.retried then
    s.updCore c fun x => { x with cnt := { x.cnt with transient := satInc x.cnt.transient } } else s).updWave c w
      fun y => y.resolved o n := by
  unfold State.finishOp
  rw [hy, Option.bind_some, ho]
  cases hh : o.handler <;> simp only [hh, Wave.resolved, Bool.false_eq_true, if_false, if_true]; rfl

theorem State.wave?_finishOp : ((s.finishOp c w n).core c).wave? w = some (y.resolved o n) := by
  rw [State.finishOp_eq hy ho]
  refine State.wave?_updWave ?_ fun u => by rw [Wave.resolved_eq]
  split
  · rw [State.core_updCore_self]
    exact hy
  · exact hy

theorem State.mem_finishOp : (s.finishOp c w n).mem = s.mem := by
  rw [State.finishOp_eq hy ho]
  split <;> rfl

theorem State.held_finishOp (d : Nat) : ((s.finishOp c w n).core d).held = (s.core d).held := by
  have kept (t : State) : ((t.updWave c w fun y => y.resolved o n).core d).held = (t.core d).held := by
    rw [State.updWave, State.core_updCore]
    split <;> rfl
  rw [State.finishOp_eq hy ho, kept]
  split
  · rw [State.core_updCore]
    split <;> rfl
  · rfl

theorem State.ended_finishOp : Claim.Ended (s.finishOp c w n) c w o := by
  refine ⟨_, State.wave?_finishOp hy ho, fun hh => ⟨o.succeed, ?_, rfl, rfl⟩, fun hh p hp => ?_⟩
  · rw [Wave.resolved, hh, Wave.num_of_op? ho, if_neg (by simp), Wave.op?_updOp y n (f := Op.succeed) (fun _ => rfl), ho]
    rfl
  · rw [Wave.resolved, hh, if_pos rfl, List.mem_filter] at hp
    rw [Wave.num_of_op? ho]
    rintro ⟨own, here⟩
    simp [own, here] at hp

end

/-! ## Several verdicts as one -/

theorem Verdict.all_go {α : Type} {l : List (Verdict α)} {xs : List α} (h : Verdict.all l = .go xs) :
    xs.length = l.length := by
  induction l generalizing xs with
  | nil =>
    cases h
    rfl
  | cons v r ih =>
    rw [Verdict.all] at h
    split at h
    · next x ys both =>
      cases h
      cases v <;> cases rest : Verdict.all r <;> simp only [Verdict.both, rest, Verdict.go.injEq, reduceCtorEq] at both
      obtain ⟨-, rfl⟩ := Prod.mk.inj both
      rw [List.length_cons, List.length_cons, ih rest]
    · cases h
    · cases h

end Sys2Proof.Machine
end

section
/-! PROOFS. The step of a load: its bytes reach the registers that it names, or its failure is kept (R119, R228, R302, R305,
R308). -/

open Sys2Proof Sys2Proof.Machine

set_option Elab.async false

namespace Sys2Proof.Claim

/-! ## The registers of a load -/

theorem length_loadWords (sz : Nat) (sx : Bool) (bs : List Byte) : (loadWords sz sx bs).length = max 1 (2 ^ sz / 4) := by
  unfold loadWords
  match sz with
  | 0 => rfl
  | 1 => rfl
  | sz + 2 =>
    have : 1 ≤ 2 ^ sz := Nat.one_le_two_pow
    simp only [List.length_map, List.length_range]
    rw [Nat.pow_add]
    omega

/-- The registers that the lanes of a load write. -/
def loadRegs (d sz : Nat) (sx : Bool) (ls : List LaneAcc) (data : List (List Byte)) : List (Nat × Nat × Word) :=
  (ls.zip data).flatMap fun e => laneWords d e.1.lane (loadWords sz sx e.2)

theorem mem_laneWords {d l q j : Nat} {v : Word} {ws : List Word} :
    (q, j, v) ∈ laneWords d l ws ↔ ∃ i, ∃ h : i < ws.length, q = d + i ∧ j = l ∧ v = ws[i] := by
  simp only [laneWords, List.mem_mapIdx, Prod.mk.injEq, eq_comm]

theorem mem_loadRegs {d sz q j : Nat} {sx : Bool} {v : Word} {ls : List LaneAcc} {data : List (List Byte)} :
    (q, j, v) ∈ loadRegs d sz sx ls data ↔ ∃ a bs, (a, bs) ∈ ls.zip data ∧ a.lane = j ∧
      ∃ i, i < max 1 (2 ^ sz / 4) ∧ q = d + i ∧ v = (loadWords sz sx bs).getD i 0 := by
  simp only [loadRegs, List.mem_flatMap, mem_laneWords, Prod.exists]
  refine exists_congr fun a => exists_congr fun bs => and_congr_right fun _ => ⟨?_, ?_⟩
  · rintro ⟨i, hi, rfl, rfl, rfl⟩
    exact ⟨rfl, i, by rwa [length_loadWords] at hi, rfl, by simp [List.getD, hi]⟩
  · rintro ⟨rfl, i, hi, rfl, rfl⟩
    rw [← length_loadWords sz sx bs] at hi
    exact ⟨i, hi, rfl, rfl, by simp [List.getD, hi]⟩

/-- Each lane writes registers of its own, and each of them once. -/
theorem nodup_loadRegs (d sz : Nat) (sx : Bool) {ls : List LaneAcc} (data : List (List Byte))
    (h : (ls.map fun a => a.lane).Nodup) : ((loadRegs d sz sx ls data).map fun r => (r.1, r.2.1)).Nodup := by
  induction ls generalizing data with
  | nil => exact List.nodup_nil
  | cons a r ih =>
    obtain ⟨fresh, rest⟩ := List.nodup_cons.mp h
    cases data with
    | nil => exact List.nodup_nil
    | cons bs data =>
      rw [loadRegs, List.zip_cons_cons, List.flatMap_cons, List.map_append]
      refine List.nodup_append.mpr ⟨?_, ih data rest, ?_⟩
      · rw [laneWords]
        refine List.nodup_iff_injective_get.mpr fun i j hij => Fin.ext ?_
        simpa using hij
      · rintro x hx y hy rfl
        obtain ⟨⟨q, l, v⟩, hv, rfl⟩ := List.mem_map.mp hx
        obtain ⟨⟨q', l', v'⟩, hv', same⟩ := List.mem_map.mp hy
        obtain ⟨-, -, -, rfl, -⟩ := mem_laneWords.mp hv
        obtain ⟨b, bs', mem, lane, -⟩ := mem_loadRegs.mp hv'
        refine fresh (List.mem_map.mpr ⟨b, (List.of_mem_zip mem).1, lane.trans ?_⟩)
        exact congrArg Prod.snd same

theorem length_loadBytes (s : State) (c : Nat) (k : OpCtx) (pss : List (List Piece)) (answer : List Byte) :
    (s.loadBytes c k pss answer).length = pss.length := by
  have fold (f : List (List Byte) × List Byte → List Piece → List (List Byte) × List Byte)
      (one : ∀ r ps, (f r ps).1.length = r.1.length + 1) (r : List (List Byte) × List Byte) :
      (pss.foldl f r).1.length = r.1.length + pss.length := by
    induction pss generalizing r with
    | nil => rfl
    | cons ps rest ih => rw [List.foldl_cons, ih, one, List.length_cons]; omega
  refine (fold _ (fun r ps => ?_) _).trans (Nat.zero_add _)
  exact List.length_append

/-! ## The step -/

theorem exec_loadReturn (c w : Nat) (n : HNum) (s : State) : exec (.loadReturn c w n) s = execLoadReturn c w n s := rfl

section
variable {s : State} {c w : Nat} {n : HNum} {k : OpCtx} (h : Attempt s c w n k)
include h

theorem Attempt.num : k.o.num = n := Wave.num_of_op? (State.opCtx?_found h.op).2.1

/-- The load's lanes all translate, none of them in host memory: it is performed. -/
theorem exec_loadReturn_of_go {pss : List (List Piece)}
    (load : (∃ d sz sx, k.o.work = .load d sz sx) ∨ ∃ code sz, k.o.work = .uload code sz)
    (go : s.tryAll c k.root k.b.slot (k.o.reaches .read) = .go pss) (own : anyHost pss = false) :
    exec (.loadReturn c w n) s = .next (s.performLoad c w k pss []) := by
  rw [exec_loadReturn, execLoadReturn, if_neg h.core.not_ge, State.returnLoad, h.op]
  obtain ⟨d, sz, sx, work⟩ | ⟨code, sz, work⟩ := load <;>
    simp only [work, h.may, go, own, Bool.not_true, Bool.false_eq_true, if_false]

/-- A load that is performed writes what `f` writes to its wave, and resolves. -/
theorem performLoad_resolves {pss : List (List Piece)} {f : Wave → Wave}
    (writes : ∀ x : Core, x.WaveSteps (x.loadResult k.o w (s.loadBytes c k pss [])) w f)
    (rest : ∀ u, (f u).rest = u.rest) :
    ∃ y, (s.performLoad c w k pss []).mem = s.mem ∧ Ended (s.performLoad c w k pss []) c w k.o ∧
      ((s.performLoad c w k pss []).core c).wave? w = some y ∧ y = { f k.w with ops := y.ops } := by
  obtain ⟨hw, ho, -, -⟩ := State.opCtx?_found h.op
  have touched := State.ReadOnly.touched s c k.root pss
  let t := (pss.foldl (fun s ps => ps.foldl (fun s p => s.pieceTouch c p) s)
    (pss.foldl (fun s ps => s.keepPieces c k.root ps) s)).updCore c fun x => x.loadResult k.o w (s.loadBytes c k pss [])
  have wave : (t.core c).wave? w = some (f k.w) := by
    rw [State.core_updCore_self, (writes _).wave, touched.wave?, hw]
    rfl
  have op : (f k.w).op? k.o.num = some k.o := by
    have ops : (f k.w).ops = k.w.ops := (congrArg Wave.ops (rest k.w) :)
    rw [Wave.op?, ops, h.num]
    exact ho
  refine ⟨(f k.w).resolved k.o k.o.num, (State.mem_finishOp wave op).trans touched.mem, State.ended_finishOp wave op,
    State.wave?_finishOp wave op, Wave.resolved_eq ..⟩

end

theorem reaches_length {o : Op} {d sz : Nat} {sx : Bool} (work : o.work = .load d sz sx) (acc : Access) :
    (o.reaches acc).length = o.lanes.length := by
  simp [Op.reaches, Op.ranges, work]

theorem loadsReturn_vector {s : State} {c w : Nat} {n : HNum} {k : OpCtx} {pss : List (List Piece)}
    (h : Attempt s c w n k) (go : s.tryAll c k.root k.b.slot (k.o.reaches .read) = .go pss) (own : anyHost pss = false)
    {d sz : Nat} {sx : Bool} (work : k.o.work = .load d sz sx) (apart : (k.o.lanes.map fun a => a.lane).Nodup)
    (lanes : ∀ a ∈ k.o.lanes, a.lane < 64) :
    let bytes := s.loadBytes c k pss []
    ∃ t y, exec (.loadReturn c w n) s = .next t ∧ t.mem = s.mem ∧ Ended t c w k.o ∧ (t.core c).wave? w = some y ∧
      (∀ i a, k.o.lanes[i]? = some a → ∀ j, j < max 1 (2 ^ sz / 4) →
        y.getV k.o.handler (d + j) a.lane = (loadWords sz sx (bytes.getD i [])).getD j 0) ∧
      (∀ q l, l < 64 → ¬ (d ≤ q ∧ q < d + max 1 (2 ^ sz / 4) ∧ ∃ a ∈ k.o.lanes, a.lane = l) →
        y.getV k.o.handler q l = k.w.getV k.o.handler q l) ∧
      (∀ q, y.getS k.o.handler q = k.w.getS k.o.handler q ∧ y.getA k.o.handler q = k.w.getA k.o.handler q ∧
        y.getP k.o.handler q = k.w.getP k.o.handler q) := by
  intro bytes
  let regs := loadRegs d sz sx k.o.lanes bytes
  have writes (x : Core) : x.WaveSteps (x.loadResult k.o w bytes) w fun u => u.putRegs k.o.handler regs := by
    rw [Core.loadResult, work]
    exact x.waveSteps_putVectors w k.o.handler k.o.frags regs
  have below : ∀ r ∈ regs, r.2.1 < 64 := by
    rintro ⟨q, l, v⟩ hr
    obtain ⟨a, bs, mem, rfl, -⟩ := mem_loadRegs.mp hr
    exact lanes a (List.of_mem_zip mem).1
  obtain ⟨y, mem, ended, wave, hy⟩ := performLoad_resolves h writes fun u =>
    Wave.view_putRegs Wave.rest _ u (fun _ _ _ _ => Wave.rest_eq_of_bare (Wave.bare_putV ..)) regs
  refine ⟨_, y, exec_loadReturn_of_go h (.inl ⟨d, sz, sx, work⟩) go own, mem, ended, wave, fun i a hi j hj => ?_,
    fun q l hl outside => ?_, fun q => ⟨?_, ?_, ?_⟩⟩ <;> rw [hy]
  · have count : bytes.length = k.o.lanes.length := by
      rw [length_loadBytes, Verdict.all_go go, List.length_map, reaches_length work]
    obtain ⟨hlt, rfl⟩ := List.getElem?_eq_some_iff.mp hi
    have mem : (d + j, k.o.lanes[i].lane, (loadWords sz sx (bytes.getD i [])).getD j 0) ∈ regs :=
      mem_loadRegs.mpr ⟨k.o.lanes[i], bytes.getD i [], List.mem_iff_getElem.mpr
        ⟨i, by simp [count, hlt], by simp [List.getD, count, hlt]⟩, rfl, j, hj, rfl, rfl⟩
    exact Wave.getV_putRegs k.o.handler below (nodup_loadRegs d sz sx bytes apart) mem k.w
  · refine Wave.getV_putRegs_other k.o.handler below hl (fun hq => outside ?_) k.w
    obtain ⟨⟨q', l', v⟩, hv, same⟩ := List.mem_map.mp hq
    obtain ⟨rfl, rfl⟩ := Prod.mk.inj same
    obtain ⟨a, bs, mem, rfl, i, hi, rfl, -⟩ := mem_loadRegs.mp hv
    exact ⟨by omega, by omega, a, (List.of_mem_zip mem).1, rfl⟩
  · exact Wave.view_putRegs (fun u => u.getS k.o.handler q) _ k.w (fun _ _ _ _ => Wave.getS_putV ..) regs
  · exact Wave.view_putRegs (fun u => u.getA k.o.handler q) _ k.w (fun _ _ _ _ => Wave.getA_putV ..) regs
  · exact Wave.view_putRegs (fun u => u.getP k.o.handler q) _ k.w (fun _ _ _ _ => Wave.getP_putV ..) regs

/-! ## ULD -/

/-- The wave with the result of a ULD in its uniform code. -/
def putUniformCode (u : Wave) (h : Bool) (code : BitVec 8) (v : DWord) : Wave :=
  if code.getLsbD 7 then u.putA h (code.extractLsb' 0 4).toNat v else u.putS h code.toNat (v.extractLsb' 0 32) false

theorem bare_putUniformCode (u : Wave) (h : Bool) (code : BitVec 8) (v : DWord) :
    (putUniformCode u h code v).bare = u.bare := by
  unfold putUniformCode
  split
  · exact Wave.bare_putA ..
  · exact Wave.bare_putS ..

theorem waveSteps_putUniform (x : Core) (w : Nat) (h : Bool) (frags : List Nat) (code : BitVec 8) (v : DWord) :
    x.WaveSteps (x.putUniform w h frags code v) w fun u => putUniformCode u h code v := by
  have written : x.WaveSteps (x.updWave w fun u => putUniformCode u h code v) w fun u => putUniformCode u h code v :=
    .updWave x w fun u => (congrArg Wave.slot (bare_putUniformCode u h code v) :)
  unfold putUniformCode at written ⊢
  unfold Core.putUniform
  cases hc : code.getLsbD 7 <;> simp only [hc, Bool.false_eq_true, if_false, if_true] at written ⊢ <;> split
  · exact written
  · exact written.foldInto ..
  · exact written
  · exact (written.foldInto ..).foldInto ..

theorem loadsReturn_uniform {s : State} {c w : Nat} {n : HNum} {k : OpCtx} {pss : List (List Piece)}
    (h : Attempt s c w n k) (go : s.tryAll c k.root k.b.slot (k.o.reaches .read) = .go pss) (own : anyHost pss = false)
    {code : BitVec 8} {sz : Nat} (work : k.o.work = .uload code sz) :
    let bytes := s.loadBytes c k pss []
    ∃ t y, exec (.loadReturn c w n) s = .next t ∧ t.mem = s.mem ∧ Ended t c w k.o ∧ (t.core c).wave? w = some y ∧
      (∀ q, y.getS k.o.handler q = if code.getLsbD 7 = false ∧ q = code.toNat
        then BitVec.ofNat 32 (leNat (bytes.headD [])) else k.w.getS k.o.handler q) ∧
      (∀ q, y.getA k.o.handler q = if code.getLsbD 7 = true ∧ q = (code.extractLsb' 0 4).toNat
        then BitVec.ofNat 64 (leNat (bytes.headD [])) else k.w.getA k.o.handler q) ∧
      (∀ q l, y.getV k.o.handler q l = k.w.getV k.o.handler q l) := by
  intro bytes
  have writes (x : Core) : x.WaveSteps (x.loadResult k.o w bytes) w fun u =>
      putUniformCode u k.o.handler code (BitVec.ofNat 64 (leNat (bytes.headD []))) := by
    rw [Core.loadResult, work]
    exact waveSteps_putUniform ..
  obtain ⟨y, mem, ended, wave, hy⟩ := performLoad_resolves h writes fun u =>
    Wave.rest_eq_of_bare (bare_putUniformCode ..)
  refine ⟨_, y, exec_loadReturn_of_go h (.inr ⟨code, sz, work⟩) go own, mem, ended, wave, ?_⟩
  rw [hy]
  cases hc : code.getLsbD 7 <;> simp only [putUniformCode, hc, Bool.false_eq_true, if_false, if_true, false_and, true_and]
  · refine ⟨fun q => ?_, fun q => Wave.getA_putS .., fun q l => Wave.getV_putS ..⟩
    rw [← extractLsb'_ofNat_low]
    exact (Wave.getS_putS ..).trans (if_congr eq_comm rfl rfl)
  · exact ⟨fun q => Wave.getS_putA .., fun q => (Wave.getA_putA ..).trans (if_congr eq_comm rfl rfl),
      fun q l => Wave.getV_putA ..⟩

theorem loadsReturn : LoadsReturn := fun _ _ _ _ _ _ h go own =>
  ⟨fun _ _ _ work apart lanes => loadsReturn_vector h go own work apart lanes,
    fun _ _ work => loadsReturn_uniform h go own work⟩

/-! ## Failures -/

theorem failedAttempts : FailedAttempts := by
  rintro s c w n k code a h ⟨d, sz, sx, work⟩ hh fail
  obtain ⟨hw, ho, -, -⟩ := State.opCtx?_found h.op
  let status : Status := if k.o.retried then .failed code a else .failing code a
  have fails : s.failOp c w n code a = s.updOp c w n fun o => { o with status := status } := by
    unfold State.failOp State.failLasting
    cases hr : k.o.retried <;> simp only [hw, ho, hh, hr, status, Option.bind_some, Bool.false_eq_true, if_false, if_true]
  have step : exec (.loadReturn c w n) s = .next (s.updOp c w n fun o => { o with status := status }) := by
    rw [exec_loadReturn, execLoadReturn, if_neg h.core.not_ge, State.returnLoad, h.op]
    simp only [work, h.may, fail, Bool.not_true, Bool.false_eq_true, if_false, fails]
  have op : (k.w.updOp n fun o => { o with status := status }).op? n = some { k.o with status := status } :=
    (Wave.op?_updOp k.w n (f := fun o => { o with status := status }) fun _ => rfl).trans (congrArg (Option.map _) ho)
  exact ⟨_, _, _, step, rfl, State.wave?_updOp hw n _, op, rfl, rfl, rfl, rfl⟩

/-- Settles O33: the caches that a load fills are no wave and no byte of memory, so that its wave holds just what its lanes
have written; a failure leaves the registers alone. -/
theorem loadAttempts : Obligations.LoadAttempts := ⟨loadsReturn, failedAttempts⟩

end Sys2Proof.Claim
end

section
/-! PROOFS. The steps of a store: accepted where its pages put it, held, and drained (R107, R131, R173, R301, R302, R306). -/

open Sys2Proof Sys2Proof.Machine

set_option Elab.async false

namespace Sys2Proof.Claim

theorem exec_storeAccept (c w : Nat) (n : HNum) (s : State) : exec (.storeAccept c w n) s = execStoreAccept c w n s := rfl

theorem exec_heldLineDrain {c : Nat} (hc : c < coreCount) (w : Nat) (s : State) :
    exec (.heldLineDrain c w) s = .next (s.drainHeld c w) :=
  (if_neg hc.not_ge :)

/-! ## STORE_ACCEPT -/

/-- The state with the KIND of a store and the translations of its lanes kept. -/
def storeTranslated (s : State) (c w : Nat) (n : HNum) (k : OpCtx) (pss : List (List Piece)) : State :=
  let kind := s.storeKind c k.root k.o
  pss.foldl (fun s ps => s.keepPieces c k.root ps) (s.updOp c w n fun o => { o with kind := kind })

section
variable {s : State} {c w : Nat} {n : HNum} {k : OpCtx} {sz : Nat} {pss : List (List Piece)}

theorem exec_storeAccept_of_go (h : Attempt s c w n k) (work : k.o.work = .store sz)
    (fresh : (s.core c).holdsStore w n = false)
    (go : s.tryAll c k.root k.b.slot (k.o.reaches .write) = .go pss) : exec (.storeAccept c w n) s
      = .next ((storeTranslated s c w n k pss).acceptParts c w k (storeParts k.o pss (2 ^ sz))) := by
  rw [exec_storeAccept, execStoreAccept, if_neg h.core.not_ge, State.acceptStore, h.op]
  simp only [work, h.may, fresh, go, Bool.not_true, Bool.or_self, Bool.false_eq_true, if_false]
  rfl

/-- A store that is no longer provisional is performed as a whole. -/
theorem acceptParts_of_oldest (t : State) (oldest : k.w.oldest k.o = true) (l : List StorePart) :
    (t.partsFault l = none → (t.core c).heldRoom [] k.b.tent = true → t.acceptParts c w k l
      = (((t.writeParts c w l).updCore c fun x => x).updOp c w k.o.num fun o =>
          { o with stall := false, escaped := false }).finishOp c w k.o.num) ∧
    (∀ e a, t.partsFault l = some (e, a) → t.acceptParts c w k l = t.failOp c w k.o.num e a) := by
  have now : (l.filter fun e => !!k.w.oldest k.o || (!k.b.tent && e.p.x.attr.ev)) = l := by
    simp [oldest]
  have later : (l.filter fun e => !k.w.oldest k.o && (k.b.tent || !e.p.x.attr.ev)) = [] := by
    simp [oldest]
  unfold State.acceptParts
  simp only [now, later]
  refine ⟨fun fine room => ?_, fun e a bad => ?_⟩
  · simp only [fine, List.map_nil, room, oldest, Bool.not_true, Bool.false_and, Bool.false_eq_true, if_false, List.all_nil,
      if_true, List.foldl_nil]
  · simp only [bad]

theorem storesAreAccepted : StoresAreAccepted := by
  intro s c w n k sz pss h num work fresh oldest go kind t l
  rw [exec_storeAccept_of_go h work fresh go]
  obtain ⟨accepted, failed⟩ := acceptParts_of_oldest (c := c) (w := w) (storeTranslated s c w n k pss) oldest l
  rw [num] at accepted failed
  exact ⟨fun fine room => congrArg _ (accepted fine room), fun e a bad => congrArg _ (failed e a bad)⟩

/-- A provisional store of a tentative block is held as a whole: it enters the held lines and resolves, or waits for room. -/
theorem acceptParts_of_tentative (t : State) (young : k.w.oldest k.o = false) (tent : k.b.tent = true) {l : List StorePart}
    (below : ∀ e ∈ l, placeClass e.p.x.place < 4) :
    let held := l.map fun e => e.p.held w k.o.num true e.ea e.bytes
    t.acceptParts c w k l = if !(t.core c).heldRoom held true then t.updOp c w k.o.num fun o => { o with stall := true }
      else (((t.writeParts c w []).updCore c fun x => { x with held := held.foldl (insertHeld k.w) x.held }).updOp c w
        k.o.num fun o => { o with stall := false, escaped := false }).finishOp c w k.o.num := by
  intro held
  have now : (l.filter fun e => !!k.w.oldest k.o || (!k.b.tent && e.p.x.attr.ev)) = [] := by
    simp [young, tent]
  have later : (l.filter fun e => !k.w.oldest k.o && (k.b.tent || !e.p.x.attr.ev)) = l := by
    simp [young, tent]
  have low : (l.all fun e => decide (placeClass e.p.x.place < 4)) = true :=
    List.all_eq_true.mpr fun e he => decide_eq_true (below e he)
  unfold State.acceptParts
  simp only [now, later]
  simp only [low, tent, State.partsFault, List.foldl_nil, List.isEmpty_nil, Bool.not_true, Bool.and_false, if_true]
  rfl

theorem storesAreHeld : StoresAreHeld := by
  intro s c w n k sz pss h num work fresh young tent go below kind t held
  have step : exec (.storeAccept c w n) s = .next (t.acceptParts c w k (storeParts k.o pss (2 ^ sz))) :=
    exec_storeAccept_of_go h work fresh go
  rw [step, acceptParts_of_tentative t young tent below, num]
  refine ⟨fun room => ?_, fun full => ?_⟩
  · obtain ⟨hw, ho, -, -⟩ := State.opCtx?_found h.op
    have kept : State.ReadOnly (s.updOp c w n fun o => { o with kind := kind }) t :=
      .foldl (fun u ps => State.ReadOnly.keepPieces u c k.root ps) pss _
    let marked := k.w.updOp n fun o => { o with kind := kind }
    have wave : (t.core c).wave? w = some marked := (kept.wave? c w).trans (State.wave?_updOp hw n _)
    have op : marked.op? n = some { k.o with kind := kind } :=
      (Wave.op?_updOp k.w n (f := fun o => { o with kind := kind }) fun _ => rfl).trans (congrArg (Option.map _) ho)
    let u := (t.writeParts c w []).updCore c fun x => { x with held := held.foldl (insertHeld k.w) x.held }
    have wave : (u.core c).wave? w = some (marked.stored []) := by
      rw [State.core_updCore_self]
      exact State.wave?_updWave (s := t.writeHome []) wave fun _ => rfl
    have accepted := State.wave?_updOp wave n fun o => { o with stall := false, escaped := false }
    have op : ((marked.stored []).updOp n fun o => { o with stall := false, escaped := false }).op? n
        = some { k.o with kind := kind, stall := false, escaped := false } :=
      (Wave.op?_updOp (marked.stored []) n (f := fun o => { o with stall := false, escaped := false }) fun _ => rfl).trans
        (congrArg (Option.map _) op)
    rw [room, Bool.not_true, if_neg (by simp)]
    refine ⟨_, rfl, (State.mem_finishOp accepted op).trans kept.mem, ?_, (State.ended_finishOp accepted op :)⟩
    rw [State.held_finishOp accepted op, State.updOp, State.updWave, State.core_updCore_self]
    show (u.core c).held = _
    rw [State.core_updCore_self, State.writeParts, State.updWave, State.core_updCore_self]
    rfl
  · rw [full, Bool.not_false, if_pos rfl]

/-! ## HELD_LINE_DRAIN -/

theorem holdsStore_eq_false_iff (x : Core) (w : Nat) (n : HNum) :
    x.holdsStore w n = false ↔ (x.held.filter fun h => h.wave == w && h.num == n) = [] := by
  simp [Core.holdsStore]

theorem heldLinesDrain : HeldLinesDrain := by
  intro s c w y hc hw
  have drain : exec (.heldLineDrain c w) s = .next (s.drainHeld c w) := exec_heldLineDrain hc w s
  rw [drain, State.drainHeld, hw]
  refine ⟨fun idle => ?_, fun o shp ho holds => ?_⟩
  · have nothing : (y.shp || ((s.core c).held.filter fun h => h.wave == w && h.num == y.hzn).isEmpty) = true := by
      simpa [holdsStore_eq_false_iff] using idle
    simp only [nothing, if_true]
  · have some : ((s.core c).held.filter fun h => h.wave == w && h.num == y.hzn).isEmpty = false := by
      rw [← Bool.not_eq_true, List.isEmpty_iff, ← holdsStore_eq_false_iff, holds]
      simp
    simp only [shp, some, ho, Bool.or_self, Bool.false_eq_true, if_false]
    simp only [beq_eq_decide, Bool.decide_and, decide_not]
    refine ⟨fun fine waits => ?_, fun fine done => ?_, fun e a bad => ?_⟩
    · simp only [fine, waits, if_true]
    · simp only [fine, done, if_false]
    · simp only [bad, bne, beq_eq_decide]

end

/-- Settles O34: which parts of a store are performed now and which are held is one filter, all or nothing in each of the
three cases; the rest is the step as it stands. -/
theorem storesReachHomes : Obligations.StoresReachHomes := ⟨storesAreAccepted, storesAreHeld, heldLinesDrain⟩

end Sys2Proof.Claim
end

section
/-! PROOFS. A STATUS of 2 on the entry of a MATCH.ARM's descriptor (R129, R336): the failure goes into the barrier of the word,
which resolves; so not every operation that waits in the buffer fails with the code of its entry. -/

open Sys2Proof Sys2Proof.Machine

set_option Elab.async false

namespace Sys2Proof.Claim

/-- A MATCH.ARM whose descriptor stands in an unmapped page: its operation waits in entry 0 of the buffer. -/
def armOp : Op :=
  { num := 1, handler := false, frags := [0], count := .eng, counted := true, kind := 11, pc := 0x30008, fmask := 1,
    lanes := [], work := .matchArm (.glob 0x50000) 0x60000 none, regions := [], retried := false, status := .inFault,
    escaped := false, stall := false, results := [], reach := [], answer := none, mark := none, behind := false }

/-- The entry that it has taken (R128). -/
def armFault : FaultEnt :=
  { va := 0x50000, entry := 0, hnum := 1, kind := 3, wave := 0, level := 0, perm := false, ctx := 1, cmd := none, frame := false }

def armWave : Wave := { Wave.start 0 0 0 32 0 false 0 with seq := 2, hzn := 1, ops := [armOp] }

/-- Core 0 of a module after reset, with the wave and the entry. -/
def armWaits : State := State.reset.setCore 0 { Core.reset with waves := [armWave], faults := [(0, armFault)] }

/-- The status of operation 1 of wave 0 of core 0 after a step. -/
def statusAfter (r : Host.Outcome State Fault Refusal) : Option Status :=
  match r with
  | .next t => (((t.core 0).wave? 0).bind fun y => y.op? 1).map fun o => o.status
  | _ => none

theorem armOp_resolves : statusAfter (exec (.faultStatusWrite 0 0 2) armWaits) = some .done := by decide +kernel

/-- Refutes O39: where STATUS 2 answers the entry of a MATCH.ARM's descriptor, the operation has not failed with the entry's
code, as FaultStatusWrites claims of every operation in the buffer. Its code lands on its barrier, and it is done. -/
theorem not_faultBuffer : ¬ Obligations.FaultBuffer := by
  rintro ⟨-, answers⟩
  obtain ⟨-, entry⟩ := answers armWaits 0 0 2 (by decide) (by decide)
  obtain ⟨-, fails⟩ := entry armFault armWave armOp (by decide +kernel) (by decide +kernel) rfl rfl (by decide +kernel)
    (by decide +kernel) rfl rfl
  obtain ⟨t, y, a, step, -, wave, op⟩ := fails rfl
  have done := armOp_resolves
  rw [step, statusAfter, show (t.core 0).wave? 0 = some y from wave, Option.bind_some, show y.op? 1 = _ from op] at done
  cases done

end Sys2Proof.Claim
end

section
/-! PROOFS. The steps of the Barrow: how its commands begin and go on, and what their landings leave (R128, R154, R170, R172,
R193, R199, R336, R338 to R342, R344, R345). -/

open Sys2Proof Sys2Proof.Machine

set_option Elab.async false

namespace Sys2Proof.Machine

/-! ## What the joins of a barrier remember is no core -/

theorem State.cores_noteWrites (s : State) (h : Home) (lines : List Nat) (die : Option Nat) :
    (s.noteWrites h lines die).cores = s.cores := by
  unfold State.noteWrites
  split
  · rfl
  · split
    · rfl
    · cases h <;> rfl

theorem State.heldWindow_of_cores {s t : State} (e : t.cores = s.cores) (own : Option (Nat × Nat)) (h : Home) :
    t.heldWindow own h = s.heldWindow own h := by
  have blocks (c b : Nat) : t.blockAt c b = s.blockAt c b := by
    rw [State.blockAt, State.blockAt, State.core, State.core, e]
  cases h <;> simp only [State.heldWindow, blocks]

/-! ## States that differ in the order of their cores only -/

/-- Every core, and all else but the list of cores, is the same. -/
structure State.SameCores (s t : State) : Prop where
  rest : t = { s with cores := t.cores }
  core : ∀ c, t.core c = s.core c

namespace State.SameCores

variable {s t : State} (h : s.SameCores t)
include h

theorem blockAt (c b : Nat) : t.blockAt c b = s.blockAt c b := by rw [State.blockAt, h.core, State.blockAt]

theorem mem : t.mem = s.mem := by rw [h.rest]

theorem placeFault (p : Nat) : t.placeFault p = s.placeFault p := by rw [h.rest]; rfl

theorem l2Fault (d : Nat) (scope : BitVec 3) (p : Nat) : t.l2Fault d scope p = s.l2Fault d scope p := by
  rw [h.rest]; rfl

theorem l2Word (d p : Nat) : t.l2Word d p = s.l2Word d p := by rw [h.rest]; rfl

theorem pteBad (level e : Nat) : t.pteBad level e = s.pteBad level e := by rw [h.rest]; rfl

theorem tableOk (p : Nat) : t.tableOk p = s.tableOk p := by rw [h.rest]; rfl

theorem homeWriteFault (p : Nat) : t.homeWriteFault p = s.homeWriteFault p := by rw [h.rest]; rfl

theorem walkFrom (d va left table : Nat) : t.walkFrom d va left table = s.walkFrom d va left table := by
  induction left generalizing table with
  | zero => unfold State.walkFrom; simp only [h.placeFault, h.l2Fault, h.l2Word, h.pteBad]
  | succ left ih => unfold State.walkFrom; simp only [h.placeFault, h.l2Fault, h.l2Word, h.pteBad, ih]

theorem leafFor (c : Option Nat) (d root : Nat) (va : DWord) : t.leafFor c d root va = s.leafFor c d root va := by
  have die : t.die d = s.die d := by rw [h.rest]; rfl
  unfold State.leafFor State.walk
  simp only [h.core, die, h.tableOk, h.walkFrom]

theorem translate (c : Option Nat) (d root : Nat) (acc : Access) (va : DWord) :
    t.translate c d root acc va = s.translate c d root acc va := by
  unfold State.translate State.translateTo State.translateLeaf State.entryPlace
  simp only [h.leafFor, h.l2Word, h.placeFault]

theorem homeOfPlace (p n : Nat) : t.homeOfPlace p n = s.homeOfPlace p n := by
  unfold State.homeOfPlace
  simp only [h.core]

theorem elocHome (c b : Nat) (l : ELoc) (n : Nat) : t.elocHome c b l n = s.elocHome c b l n := by
  unfold State.elocHome
  simp only [h.core, h.blockAt, h.translate, h.homeOfPlace, h.homeWriteFault]

theorem heldWindow (own : Option (Nat × Nat)) (o : Home) : t.heldWindow own o = s.heldWindow own o := by
  cases o <;> simp only [State.heldWindow, h.blockAt]

theorem homeRead (o : Home) (n : Nat) : t.homeRead o n = s.homeRead o n := by
  cases o <;> simp only [State.homeRead, State.homeByte, h.blockAt, h.mem]

theorem barAt (o : Home) : t.barAt o = s.barAt o := by rw [State.barAt, h.homeRead, State.barAt]

theorem updCore (c : Nat) (f : Core → Core) : (s.updCore c f).SameCores (t.updCore c f) := by
  refine ⟨?_, fun d => ?_⟩
  · rw [h.rest]; rfl
  · rw [State.core_updCore, State.core_updCore, h.core]

theorem updDie (d : Nat) (f : Die → Die) : (s.updDie d f).SameCores (t.updDie d f) := by
  refine ⟨?_, h.core⟩
  rw [h.rest]; rfl

theorem writeHome (cells : List (Nat × Byte)) : (s.writeHome cells).SameCores (t.writeHome cells) := by
  refine ⟨?_, h.core⟩
  rw [h.rest]; rfl

theorem homeWrite (o : Home) (bs : List Byte) : (s.homeWrite o bs).SameCores (t.homeWrite o bs) := by
  cases o with
  | spad c b off => exact h.updCore c fun x => x.updAnyBlock b fun y => y.spadWrite off bs
  | mem p => exact h.writeHome _
  | allot c b =>
    exact h.updCore c fun x => x.updAnyBlock b fun y => { y with allotPhase := BitVec.ofNat 16 (recNat bs 12 2) }

theorem countErrLost (o : Home) (n : Nat) : (s.countErrLost o n).SameCores (t.countErrLost o n) := by
  unfold State.countErrLost
  split
  · exact h
  · cases o with
    | spad c b off => exact h.updCore ..
    | mem p => exact h.updDie ..
    | allot c b => exact h.updCore ..

theorem barUpdate (o : Home) (a n : Nat) (code : BitVec 16) :
    (s.barUpdate o a n code).SameCores (t.barUpdate o a n code) := by
  unfold State.barUpdate
  rw [h.barAt]
  exact (h.homeWrite ..).countErrLost ..

end State.SameCores

end Sys2Proof.Machine

namespace Sys2Proof.Claim

/-! ## Commands -/

/-- The step of a command that is one of the first eight (R343). -/
theorem exec_barrowLanding {s : State} {c id : Nat} {k : EngCmd} (hc : c < coreCount)
    (found : ((s.core c).cmds.take 8).find? (fun k => k.id == id) = some k) :
    exec (.barrowLanding c id) s = .next (s.cmdStep c k) := by
  show execBarrowLanding c id s = _
  rw [execBarrowLanding, if_neg hc.not_ge, State.barrowLanding, found]

/-- A command that is not abandoned, has not failed, and waits for nothing. -/
structure CmdRuns (s : State) (c : Nat) (k : EngCmd) : Prop where
  kept : k.abandon = false
  answered : k.inFault = false
  fine : k.err = 0
  landed : (s.core c).landStalls k = false
  forked : s.engForked (k.eng c) = true

/-- The next unit of a command, by its kind. -/
def unitStep (s : State) (c : Nat) (k : EngCmd) : State :=
  match k.kind with
  | .cpyt => s.stepCpyt c k
  | .wload =>
    if k.buf.isSome then s
    else s.cmdGo c k (s.wloadBytes c k) fun bs =>
      (s.engTouch (k.eng c) (k.loc 0 true) 1).keepRead c k fun k => { k with buf := some bs }
  | _ => s.stepCopy c k

section
variable {s : State} {c : Nat} {k : EngCmd}

theorem cmdStep_abandoned (h : k.abandon = true) : s.cmdStep c k = s.endCmd c (s.described c k) eCmdAbandoned := by
  rw [State.cmdStep, h, if_pos rfl]

theorem cmdStep_waits (kept : k.abandon = false)
    (waits : k.inFault = true ∨ (s.core c).landStalls k = true ∨ s.engForked (k.eng c) = false) : s.cmdStep c k = s := by
  have waits : (k.inFault || (s.core c).landStalls k || !s.engForked (k.eng c)) = true := by
    simpa [or_assoc] using waits
  unfold State.cmdStep
  simp only [kept, waits, Bool.false_eq_true, if_false, if_true]

theorem cmdStep_failed (kept : k.abandon = false) (answered : k.inFault = false) (landed : (s.core c).landStalls k = false)
    (forked : s.engForked (k.eng c) = true) (failed : k.err ≠ 0) : s.cmdStep c k = s.endCmd c k k.err := by
  unfold State.cmdStep
  simp only [kept, answered, landed, forked, bne_iff_ne.mpr failed, Bool.not_true, Bool.or_self, Bool.false_eq_true,
    if_false, if_true]

variable (runs : CmdRuns s c k)
include runs

theorem cmdStep_reads {bs : List Byte} (described : k.isEC = false) (unread : k.fields = none)
    (read : s.engRead (k.eng c) k.desc 32 = .ok bs) : s.cmdStep c k
      = (s.engTouch (k.eng c) k.desc 32).keepRead c k fun k => { k with fields := some bs } := by
  unfold State.cmdStep
  simp only [runs.kept, runs.answered, runs.landed, runs.forked, runs.fine, described, unread, read, State.cmdGo,
    Bool.not_true, Bool.or_self, Bool.not_false, Option.isNone_none, Bool.and_self, bne_self_eq_false, Bool.false_eq_true,
    if_false, if_true]

variable (fields : k.isEC = true ∨ k.fields ≠ none)
include fields

/-- With its descriptor at hand, a command is checked, and then its next unit is due. -/
theorem cmdStep_of_fields : s.cmdStep c k =
    if k.refused != 0 then s.endCmd c k k.refused
    else if k.isTier && k.unit == 0 && s.tierWrong c k k.src k.dst k.len then s.endCmd c k eOperandBounds
    else if k.units = 0 then s.endCmd c k 0
    else unitStep s c k := by
  have known : (!k.isEC && k.fields.isNone) = false := by
    obtain ec | read := fields
    · simp [ec]
    · simp [Option.isSome_iff_ne_none.mpr read]
  unfold State.cmdStep
  simp only [runs.kept, runs.answered, runs.landed, runs.forked, runs.fine, known, Bool.not_true, Bool.or_self,
    bne_self_eq_false, Bool.false_eq_true, if_false]
  rfl

theorem cmdStep_refused (refused : k.refused ≠ 0) : s.cmdStep c k = s.endCmd c k k.refused := by
  rw [cmdStep_of_fields runs fields, if_pos (bne_iff_ne.mpr refused)]

theorem cmdStep_wrongClass (accepted : k.refused = 0) (tier : k.isTier = true) (first : k.unit = 0)
    (wrong : s.tierWrong c k k.src k.dst k.len = true) : s.cmdStep c k = s.endCmd c k eOperandBounds := by
  rw [cmdStep_of_fields runs fields, if_neg (by simp [accepted]), if_pos (by simp [tier, first, wrong])]

theorem cmdStep_empty (accepted : k.refused = 0)
    (classes : k.isTier = false ∨ k.unit ≠ 0 ∨ s.tierWrong c k k.src k.dst k.len = false) (none : k.units = 0) :
    s.cmdStep c k = s.endCmd c k 0 := by
  have classes : ¬ (k.isTier && k.unit == 0 && s.tierWrong c k k.src k.dst k.len) = true := by
    obtain h | h | h := classes <;> simp [h]
  rw [cmdStep_of_fields runs fields, if_neg (by simp [accepted]), if_neg classes, if_pos none]

end

theorem commandsBegin : CommandsBegin := by
  intro s c id k hc found
  rw [exec_barrowLanding hc found]
  refine ⟨fun abandoned => ?_, fun kept waits => ?_, fun kept answered landed forked =>
    ⟨fun failed => ?_, fun bs fine described unread read => ?_, fun fine fields =>
      have runs : CmdRuns s c k := ⟨kept, answered, fine, landed, forked⟩
      ⟨fun refused => ?_, fun accepted tier first wrong => ?_, fun accepted classes none => ?_⟩⟩⟩
  · rw [cmdStep_abandoned abandoned]
  · rw [cmdStep_waits kept waits]
  · rw [cmdStep_failed kept answered landed forked failed]
  · rw [cmdStep_reads ⟨kept, answered, fine, landed, forked⟩ described unread read]
  · rw [cmdStep_refused runs fields refused]
  · rw [cmdStep_wrongClass runs fields accepted tier first wrong]
  · rw [cmdStep_empty runs fields accepted classes none]

/-! ## Units -/

section
variable {s : State} {c id : Nat} {k : EngCmd} (due : UnitDue s c id k)
include due

/-- A command whose next unit is due goes on by its kind. -/
theorem exec_barrowLanding_of_due : exec (.barrowLanding c id) s = .next (unitStep s c k) := by
  obtain ⟨kept, answered, fine⟩ := due.live
  have classes : ¬ (k.isTier && k.unit == 0 && s.tierWrong c k k.src k.dst k.len) = true := by
    obtain h | h := due.classes <;> simp [h]
  rw [exec_barrowLanding due.core due.cmd, cmdStep_of_fields ⟨kept, answered, fine, due.landed, due.forked⟩ due.fields,
    if_neg (by simp [due.accepted]), if_neg classes, if_neg due.units]

theorem exec_barrowLanding_copy (cpyt : k.kind ≠ .cpyt) (wload : k.kind ≠ .wload) :
    exec (.barrowLanding c id) s = .next (s.stepCopy c k) := by
  rw [exec_barrowLanding_of_due due, unitStep]
  split
  · next h => exact absurd h cpyt
  · next h => exact absurd h wload
  · rfl

end

/-- What a command has read does not change whom it acts for, or what it is. -/
theorem eng_withBuf (k : EngCmd) (b : Option (List Byte)) (r : Bool) (c : Nat) :
    ({ k with buf := b, retried := r } : EngCmd).eng c = k.eng c := rfl

theorem isTier_withBuf (k : EngCmd) (b : Option (List Byte)) (r : Bool) :
    ({ k with buf := b, retried := r } : EngCmd).isTier = k.isTier := rfl

theorem copiesGoOn : CopiesGoOn := by
  intro s c id k u bs due cpyt wload unit
  rw [exec_barrowLanding_copy due cpyt wload, State.stepCopy]
  refine ⟨fun unread classes read => ?_, fun kept => ?_⟩
  · have classes : ¬ (k.isTier && s.tierWrong c k u.src u.dst u.n) = true := by
      obtain h | h := classes <;> simp [h]
    rw [unread]
    simp only [unit, State.cmdGo, if_neg classes, read]
    refine ⟨fun ps writable => ?_, fun waits => ?_⟩
    · simp only [State.writeUnit, State.cmdGo, eng_withBuf, isTier_withBuf, writable]
    · simp only [State.writeUnit, State.cmdGo, eng_withBuf, isTier_withBuf, waits]
  · rw [kept]
    simp only [unit, State.cmdGo, State.writeUnit]
    exact ⟨fun ps writable => by rw [writable], fun waits => by rw [waits]⟩

theorem recordsAndWeights : RecordsAndWeights := by
  intro s c id k due
  rw [exec_barrowLanding_of_due due, unitStep]
  refine ⟨fun l bs ps cpyt record writable => ?_, fun bs wload unread read => ?_, fun wload kept => ?_⟩
  · simp only [cpyt, State.stepCpyt, State.cmdGo, record, writable]
  · simp only [wload, unread, read, State.cmdGo, Option.isSome_none, Bool.false_eq_true, if_false]
  · simp only [wload, Option.isSome_iff_ne_none.mpr kept, if_true]

theorem weightsAreLatched : WeightsAreLatched := by
  intro s c k bs hc found buf kept fine
  have latches : exec (.wloadLatch c) s = .next (
      if (s.core c).kiln.running || (s.core c).landStalls k then s
      else (s.updCore c fun x => { x with kiln := k.latched bs x.kiln }).landUnit c k k.total [] none) := by
    show execWloadLatch c s = _
    rw [execWloadLatch, if_neg hc.not_ge, State.wloadLatch]
    simp only [found, buf, kept, fine, bne_self_eq_false, Bool.or_false, Option.getD_some]
  rw [latches]
  refine ⟨fun t task runs => ?_, fun landed paused => ?_⟩
  · rw [if_pos (by simp [Kiln.running, task, runs])]
  · have idle : (s.core c).kiln.running = false := by
      rw [Kiln.running, Option.any_eq_false]
      exact fun t task => by simp [paused t task]
    rw [if_neg (by simp [idle, landed])]

/-! ## Landings -/

section
variable {s : State} {c b : Nat} {y : Block} {l : Landing} (at_ : s.blockAt c b = some y) (confirmed : y.tent = false)
  (none : y.lands = [])
include at_ confirmed none

/-- A landing of a confirmed block, of which no landing waits, is made now. -/
theorem land_eq_landNow : s.land c b l = s.landNow c b l := by
  have now : (y.tent || y.lands.any fun k => k.cmd == l.cmd) = false := by
    simp [confirmed, none]
  unfold State.land
  rw [at_]
  cases l.bar <;> simp only [now, Bool.false_eq_true, if_false]

/-- On a barrier that can be reached it is an update there. -/
theorem land_reached {h : Home} (reached : s.elocHome c b l.bar 16 = .ok h) (free : s.heldWindow (some (c, b)) h = false) :
    s.land c b l = (s.noteWrites h l.lines l.die).barUpdate h l.a l.n l.code := by
  have free : (s.noteWrites h l.lines l.die).heldWindow (some (c, b)) h = false := by
    rw [← free]
    exact State.heldWindow_of_cores (State.cores_noteWrites ..) _ _
  rw [land_eq_landNow at_ confirmed none, State.landNow, reached]
  show State.landAt _ _ _ _ _ = _
  rw [State.landAt, State.updateFor, free, if_neg (by simp)]

theorem land_dropped {f : XFail} (lost : s.elocHome c b l.bar 16 = .error f) (lasting : f.replay = false) :
    s.land c b l = s.countLandingDrop c := by
  rw [land_eq_landNow at_ confirmed none, State.landNow, lost]
  simp only [lasting, Bool.false_and, Bool.false_eq_true, if_false, State.unreached]

end

theorem takeFault_lowest {s : State} {c i : Nat} (e : FaultEnt) (hi : i < 64) (free : Map.find (s.core c).faults i = none)
    (taken : ∀ j, j < i → Map.find (s.core c).faults j ≠ none) : s.takeFault c e
      = { s.updCore c fun x => { x with faults := Map.put x.faults i e } with
          eventQ := s.eventQ ++ [⟨1, BitVec.ofNat 16 e.ctx, ccid c, i⟩] } := by
  have first : ((List.range 64).find? fun k => (Map.find (s.core c).faults k).isNone) = some i := by
    rw [List.find?_range_eq_some]
    exact ⟨by simp [free], by simpa using hi, fun j hj => by simpa [Option.isSome_iff_ne_none] using taken j hj⟩
  rw [State.takeFault, first]
  rfl

theorem core_takeFault_lowest {s : State} {c i : Nat} (e : FaultEnt) (hi : i < 64)
    (free : Map.find (s.core c).faults i = none) (taken : ∀ j, j < i → Map.find (s.core c).faults j ≠ none) :
    (s.takeFault c e).core c = { s.core c with faults := Map.put (s.core c).faults i e } := by
  rw [takeFault_lowest e hi free taken]
  exact (State.core_updCore_self s c fun x => { x with faults := Map.put x.faults i e } :)

theorem block?_updAnyBlock {x : Core} {b : Nat} {y : Block} (h : x.block? b = some y) {f : Block → Block}
    (hf : ∀ y, (f y).slot = y.slot) : (x.updAnyBlock b f).block? b = some (f y) := by
  rw [Core.updAnyBlock, h]
  exact (find?_updFirst _ f _ fun z hz => by simpa [hf z] using hz).trans (congrArg (Option.map f) h)

theorem landingsWait : LandingsWait := by
  intro s c b y l at_ confirmed none fresh
  refine ⟨fun h reached free => land_reached at_ confirmed none reached free,
    fun f lost lasting => land_dropped at_ confirmed none lost lasting, ?_⟩
  intro f i lost replay here hi free taken id e
  have lands : s.land c b l = ((s.takeFault c e).updCore c fun x => { x with nextCmd := max x.nextCmd (id + 1) }).keepLanding
      c b { l with fault := some id } := by
    rw [land_eq_landNow at_ confirmed none, State.landNow, lost]
    simp only [replay, here, fresh, at_, State.unreached, Option.isNone_some, Option.getD_none, Bool.and_false,
      Bool.false_eq_true, if_false, if_true]
    rfl
  let x : Core := { s.core c with faults := Map.put (s.core c).faults i e, nextCmd := max (s.core c).nextCmd (id + 1) }
  let keep (y : Block) : Block := { y with lands := y.lands ++ [{ l with fault := some id }] }
  have core : (s.land c b l).core c = x.updAnyBlock b keep := by
    rw [lands, State.keepLanding, State.core_updCore_self, State.core_updCore_self, core_takeFault_lowest e hi free taken]
  have here : x.block? b = some y := here
  rw [core]
  refine ⟨?_, ?_, ?_⟩
  · refine (block?_updAnyBlock (f := keep) here fun _ => rfl).trans (congrArg some ?_)
    show { y with lands := y.lands ++ [{ l with fault := some id }] } = _
    rw [none, List.nil_append]
  · rw [Core.updAnyBlock, here]
    rfl
  · rw [lands, takeFault_lowest e hi free taken]
    rfl

/-! ## A unit that has landed, and a command that ends -/

theorem landUnit_reached {s : State} {c n : Nat} {k : EngCmd} {b : Block} {h : Home} {lines : List Nat} {die : Option Nat}
    (at_ : s.blockAt c k.block = some b) (confirmed : b.tent = false) (none : b.lands = [])
    (free : s.heldWindow (some (c, k.block)) h = false) (first : k.retried = false)
    (reached : s.elocHome c k.block k.bar 16 = .ok h) :
    let t := (s.noteWrites h lines die).barUpdate h 0 n 0
    s.landUnit c k n lines die = if k.unit + 1 < k.units then
      t.updCmd c k.id fun _ => { k with unit := k.unit + 1, buf := Option.none, landed := k.landed + n, retried := false }
    else t.dropCmd c k.id := by
  intro t
  let l : Landing := ⟨k.bar, 0, n, 0, lines, die, k.wave, k.num, k.id, k.kind == .wload, Option.none⟩
  have land : s.engLand (k.eng c) k.id k.bar n 0 lines die (k.kind == .wload) = t :=
    land_reached (l := l) at_ confirmed none reached free
  simp only [State.landUnit, first, Bool.false_eq_true, if_false, land]

/-- Where no access of a core waits in the buffer, no entry is dropped or taken. -/
theorem dropFaults_of_none {x : Core} (faults : x.faults = []) (waits : x.faultWait = []) (q : FaultEnt → Bool) :
    x.dropFaults q = x := by
  cases x
  cases faults
  cases waits
  rfl

theorem sameCores_drop {s : State} {c : Nat} (faults : (s.core c).faults = []) (waits : (s.core c).faultWait = [])
    (q : FaultEnt → Bool) : s.SameCores ((s.updCore c fun x => x.dropFaults q).refillFaults c) := by
  have dropped : (s.updCore c fun x => x.dropFaults q).core c = s.core c := by
    rw [State.core_updCore_self, dropFaults_of_none faults waits]
  have kept : { s.core c with faultWait := [] } = s.core c := by
    rw [← waits]
  unfold State.refillFaults
  rw [dropped, waits, List.foldl_nil]
  refine ⟨rfl, fun d => ?_⟩
  rw [State.core_updCore]
  split
  · next h =>
    subst h
    rw [dropped, kept]
  · next h => rw [State.core_updCore, if_neg h]

theorem unitsLand : UnitsLand := by
  intro s c n k b h at_ confirmed none free
  refine ⟨fun lines die first reached => ?_, fun code reached faults waits => ?_⟩
  · have lands := landUnit_reached (n := n) (lines := lines) (die := die) at_ confirmed none free first reached
    exact ⟨fun more => lands.trans (if_pos more), fun last => lands.trans (if_neg last.not_gt)⟩
  · let t := ((s.updCore c fun x => x.dropFaults fun e => e.cmd == some k.id).refillFaults c)
    have same : s.SameCores t := sameCores_drop faults waits _
    let l : Landing := ⟨k.bar, 0, k.total - k.landed, code, [], Option.none, k.wave, k.num, k.id, false, Option.none⟩
    have land : t.engLand (k.eng c) k.id k.bar (k.total - k.landed) code [] Option.none
        = t.barUpdate h 0 (k.total - k.landed) code :=
      land_reached (l := l) ((same.blockAt ..).trans at_) confirmed none ((same.elocHome ..).trans reached)
        ((same.heldWindow ..).trans free)
    refine ⟨t.barUpdate h 0 (k.total - k.landed) code, ?_, ?_, ?_⟩
    · rw [State.endCmd, land]
    · exact (same.barUpdate h 0 (k.total - k.landed) code).mem
    · exact (same.barUpdate h 0 (k.total - k.landed) code).barAt h

/-- Settles O41: a command goes on by one chain of checks, and a landing of a block that is confirmed is its update, a drop or
an entry of the fault buffer. -/
theorem barrowSteps : Obligations.BarrowSteps :=
  ⟨commandsBegin, copiesGoOn, recordsAndWeights, unitsLand, landingsWait, weightsAreLatched⟩

end Sys2Proof.Claim
end

section
/-! PROOFS. Messages that arrive, remote stores and their acknowledgements (R128, R146, R159, R160, R172, R175, R200,
R203, R228, R362, R368, R405, R407, R408). -/

open Sys2Proof Sys2Proof.Machine

set_option Elab.async false

namespace Sys2Proof.Claim

/-! ## Messages -/

/-- Whether an armed entry takes messages of a node with a tag (R159). -/
def takesFrom (node : Nat) (tag : Word) (e : MatchEnt) : Bool := e.tag == tag && (e.src == 0xFFFF || e.src.toNat == node)

/-- The state in which a message meets its entry: that has left the table, and its core has given an identifier. -/
def messageMet (s : State) (d node : Nat) (tag : Word) (e : MatchEnt) : State :=
  (s.updDie d fun x => { x with arms := x.arms.eraseP (takesFrom node tag) }).updCore e.core fun x =>
    { x with nextCmd := x.nextCmd + 1 }

/-- What a message lands, with what it owes to its entry's barrier. -/
def messageOf (s : State) (d node : Nat) (tag : Word) (e : MatchEnt) (data : List Byte)
    (owed : Option (Nat × Nat × BitVec 16)) : MatchLand :=
  { ent := e, data := data, owed := owed, lines := [],
    id := ((s.updDie d fun x => { x with arms := x.arms.eraseP (takesFrom node tag) }).core e.core).nextCmd,
    retried := false, inFault := false, err := 0 }

section
variable {s : State} {d node : Nat} {tag : Word} {data : List Byte} (hd : d < dieCount)
include hd

theorem exec_messageArrival : exec (.messageArrival d node tag data) s = .next (s.deliver d node tag data).1 :=
  (if_neg hd.not_ge :)

theorem exec_messageArrival_refused (none : (s.die d).arms.find? (takesFrom node tag) = none) :
    exec (.messageArrival d node tag data) s
      = .next (s.updDie d fun x => { x with cnt := { x.cnt with matchRefused := satInc x.cnt.matchRefused } }) := by
  rw [exec_messageArrival hd, State.deliver]
  simp only [show (s.die d).arms.find? (fun e => e.tag == tag && (e.src == 0xFFFF || e.src.toNat == node)) = Option.none
    from none]

variable {e : MatchEnt} (found : (s.die d).arms.find? (takesFrom node tag) = some e)
include found

/-- A message that an entry takes is tried at once, and what is left of it stays with the die. -/
theorem exec_messageArrival_taken {u : State} {left : List MatchLand} {owed : Option (Nat × Nat × BitVec 16)}
    (length : owed = if data.length = e.len then none else some (0, e.len, eMatchLength))
    (tried : (messageMet s d node tag e).tryMessage (messageOf s d node tag e data owed) = (u, left)) :
    exec (.messageArrival d node tag data) s = .next (u.updDie d fun x => { x with landing := x.landing ++ left }) := by
  rw [exec_messageArrival hd, State.deliver]
  simp only [show (s.die d).arms.find? (fun e => e.tag == tag && (e.src == 0xFFFF || e.src.toNat == node)) = some e
    from found]
  subst length
  exact congrArg (fun r : State × List MatchLand =>
    Host.Outcome.next (r.1.updDie d fun x => { x with landing := x.landing ++ r.2 })) tried

end

/-! ### One attempt -/

section
variable {u : State} {m : MatchLand}

theorem landOwed_reached {h : Home} (o : Nat × Nat × BitVec 16)
    (reached : u.collHome m.ent.core m.ent.root.toNat m.ent.block (elocOf m.ent.bar) = .ok h) : u.landOwed m o
      = ((u.noteWrites h m.lines none).updateFor none h o.1 o.2.1 o.2.2 (.landing m.ent.core), []) := by
  rw [State.landOwed]
  simp only [reached]

theorem landOwed_dropped {f : XFail} (o : Nat × Nat × BitVec 16)
    (lost : u.collHome m.ent.core m.ent.root.toNat m.ent.block (elocOf m.ent.bar) = .error f) (lasting : f.replay = false) :
    u.landOwed m o = (u.countLandingDrop m.ent.core, []) := by
  rw [State.landOwed]
  simp only [lost, State.unreached, lasting, Bool.false_eq_true, if_false]

theorem landOwed_waits {f : XFail} (o : Nat × Nat × BitVec 16)
    (lost : u.collHome m.ent.core m.ent.root.toNat m.ent.block (elocOf m.ent.bar) = .error f) (replay : f.replay = true) :
    u.landOwed m o = (u.takeFault m.ent.core
      { va := m.ent.bar, entry := f.entry, hnum := 0, kind := 4, wave := m.ent.wave, level := f.level,
        perm := f.code == eXlatePerm, ctx := m.ent.ctxid.toNat, cmd := some m.id, frame := false },
      [{ m with owed := some o, inFault := true, err := 0 }]) := by
  rw [State.landOwed]
  simp only [lost, State.unreached, replay, if_true]

variable (fresh : m.inFault = false) (fine : m.err = 0)
include fresh fine

theorem tryMessage_owed {o : Nat × Nat × BitVec 16} (owed : m.owed = some o) : u.tryMessage m = u.landOwed m o := by
  rw [State.tryMessage]
  simp only [fresh, fine, owed, Bool.false_and, bne_self_eq_false, Bool.false_eq_true, if_false]

variable (owed : m.owed = none)
include owed

theorem tryMessage_written {v : State} {lines : List Nat} (first : m.retried = false)
    (w : u.collWrite m.ent.core m.ent.root.toNat m.ent.block (.glob m.ent.dest) m.data = .ok (v, lines)) :
    u.tryMessage m = v.landOwed { m with lines := lines } (0, m.ent.len, 0) := by
  rw [State.tryMessage]
  simp only [fresh, fine, owed, first, w, Bool.false_and, bne_self_eq_false, Bool.false_eq_true, if_false]

theorem tryMessage_waits (w : u.collWrite m.ent.core m.ent.root.toNat m.ent.block (.glob m.ent.dest) m.data = .wait) :
    u.tryMessage m = (u, [m]) := by
  rw [State.tryMessage]
  simp only [fresh, fine, owed, w, Bool.false_and, bne_self_eq_false, Bool.false_eq_true, if_false]

theorem tryMessage_retries {code : BitVec 16} (first : m.retried = false) (again : retryable code = true)
    (w : u.collWrite m.ent.core m.ent.root.toNat m.ent.block (.glob m.ent.dest) m.data = .fail code) :
    u.tryMessage m = (u, [{ m with retried := true }]) := by
  rw [State.tryMessage]
  simp only [fresh, fine, owed, first, again, w, Bool.false_and, bne_self_eq_false, Bool.not_false, Bool.and_self,
    Bool.false_eq_true, if_false, if_true]

end

/-- A message of which nothing is left leaves the list of the die as it is. -/
theorem landing_append_nil (u : State) (d : Nat) :
    (u.updDie d fun x => { x with landing := x.landing ++ [] }) = u.updDie d fun x => x := by
  simp only [List.append_nil]

theorem messagesArrive : MessagesArrive := by
  intro s d node tag data hd
  refine ⟨fun none => exec_messageArrival_refused hd none, fun e found length => ?_, fun e h found length => ?_⟩
  · intro u m w
    have taken {v : State} {left : List MatchLand} (tried : u.tryMessage m = (v, left)) :
        exec (.messageArrival d node tag data) s = .next (v.updDie d fun x => { x with landing := x.landing ++ left }) :=
      exec_messageArrival_taken hd found (if_pos length).symm tried
    refine ⟨fun v lines written => ?_, fun waits => taken (tryMessage_waits rfl rfl rfl waits),
      fun code fails again => taken (tryMessage_retries rfl rfl rfl rfl again fails)⟩
    have lands := tryMessage_written (u := u) (m := m) rfl rfl rfl rfl written
    refine ⟨fun h reached => ?_, fun f lost lasting => ?_, fun f lost replay => ?_⟩
    · rw [taken (lands.trans (landOwed_reached _ reached)), landing_append_nil]
    · rw [taken (lands.trans (landOwed_dropped _ lost lasting)), landing_append_nil]
    · exact taken (lands.trans (landOwed_waits _ lost replay))
  · intro u reached
    have tried := (tryMessage_owed (u := messageMet s d node tag e)
      (m := messageOf s d node tag e data (some (0, e.len, eMatchLength))) rfl rfl rfl).trans (landOwed_reached _ reached)
    rw [exec_messageArrival_taken hd found (if_neg length).symm tried, landing_append_nil]
    rfl

/-! ## Remote stores -/

section
variable {s : State} {node core stream num p : Nat} {bs : List Byte}

theorem exec_remoteStore_other : exec (.remoteStorePerform (.other node core stream num p bs)) s
    = .next (s.remoteStore (.other node core stream num p bs)) := rfl

theorem remoteStore_old (old : num < (s.remoteIn node core stream).next) :
    s.remoteStore (.other node core stream num p bs) = s :=
  if_pos (.inl old)

/-- A store of a stream of which none waits joins those that are due. -/
theorem remoteStore_due (due : (s.remoteIn node core stream).next ≤ num) (none : (s.remoteIn node core stream).early = []) :
    s.remoteStore (.other node core stream num p bs)
      = s.drainRemote 2 { s.remoteIn node core stream with early := [(num, p, bs)] } := by
  have new : ¬ (num < (s.remoteIn node core stream).next ∨
      (s.remoteIn node core stream).early.any (fun e => e.1 == num) = true) := by
    simp [none, due]
  rw [State.remoteStore]
  simp only [if_neg new]
  rw [none]
  rfl

theorem drainRemote_done (s : State) (n : Nat) {r : RemoteIn} (none : (r.early.find? fun e => e.1 == r.next) = none) :
    s.drainRemote (n + 1) r = s.setRemoteIn r := by
  rw [State.drainRemote, none]

theorem drainRemote_performs (n : Nat) {r : RemoteIn} {h : Home} (early : r.early = [(r.next, p, bs)])
    (own : s.isOwn p = true) (place : s.placeFault p = none) (free : s.storeWaits p bs.length = false)
    (fine : s.storeFaultAt p bs.length = none) (home : s.homeOfPlace p bs.length = .ok h) :
    s.drainRemote (n + 1) r = (s.homeWrite h bs).checkGates.drainRemote n { r with next := r.next + 1, early := [] } := by
  have written : s.storeAt p bs = s.homeWrite h bs := by rw [State.storeAt, home]
  rw [State.drainRemote, early]
  simp only [List.find?_cons, List.filter_cons, List.filter_nil, beq_self_eq_true, bne_self_eq_false, free, own, place, fine,
    written, Option.isSome_none, Bool.not_true, Bool.or_self, Bool.false_eq_true, if_false]

end

theorem exec_remoteStore_own {s : State} {c t : Nat} (hc : c < coreCount) (ht : t < 16) :
    exec (.remoteStorePerform (.own c t)) s = .next (s.performOwn c t) :=
  (if_neg (not_or.mpr ⟨hc.not_ge, ht.not_ge⟩) :)

theorem remoteStoresPerformed : RemoteStoresPerformed := by
  intro s
  refine ⟨fun node core stream num p bs => ?_, fun c t i q h w o hc ht first wave op sent free fine home => ?_⟩
  · intro r
    rw [exec_remoteStore_other]
    refine ⟨fun old => ?_, fun h turn none own place free fine home => ?_, fun early none => ?_⟩
    · rw [remoteStore_old old]
    · rw [remoteStore_due turn.ge none, drainRemote_performs 1 (by rw [turn]) own place free fine home,
        drainRemote_done _ 0 rfl]
      show _ = Host.Outcome.next (State.setRemoteIn _ { r with next := r.next + 1 })
      rw [show r = { r with early := [] } by rw [← none]]
    · rw [remoteStore_due early.le none, drainRemote_done _ 1 (List.find?_eq_none.mpr fun e he => ?_)]
      rw [List.mem_singleton.mp he]
      simpa using early.ne'
  · intro st
    have written : s.storeAt q.place q.bytes = s.homeWrite h q.bytes := by rw [State.storeAt, home]
    rw [exec_remoteStore_own hc ht, State.performOwn, first]
    simp only [wave, op, sent, free, fine, Option.bind_some, bne_self_eq_false, Bool.or_self, Bool.false_eq_true, if_false,
      State.performOwn.perform, written]
    rfl

/-! ## Acknowledgements -/

section
variable {s : State} {c t : Nat} (hc : c < coreCount) (ht : t < 16)
include hc ht

theorem exec_remoteAck : exec (.remoteAck c t) s = .next (s.remoteAck c t) :=
  (if_neg (not_or.mpr ⟨hc.not_ge, ht.not_ge⟩) :)

theorem exec_remoteAckTimer : exec (.remoteAckTimer c t) s = .next (s.remoteAckTimer c t) :=
  (if_neg (not_or.mpr ⟨hc.not_ge, ht.not_ge⟩) :)

theorem exec_acknowledgementArrival (count : Word) : exec (.acknowledgementArrival c t count) s
    = .next (s.ackArrival c t count) := (if_neg (not_or.mpr ⟨hc.not_ge, ht.not_ge⟩) :)

theorem exec_multicastAck (bitmap members : DWord) : exec (.multicastAck c t bitmap members) s
    = .next (s.multicastAck c t bitmap members) := (if_neg (not_or.mpr ⟨hc.not_ge, ht.not_ge⟩) :)

end

theorem remoteAcknowledgements : RemoteAcknowledgements := by
  intro s c t hc ht st u
  rw [exec_remoteAck hc ht, exec_remoteAckTimer hc ht, State.remoteAck, State.remoteAckTimer]
  refine ⟨fun owes due => ?_, fun owes early few => ?_, fun owes => ?_, fun idle => ⟨?_, ?_⟩⟩
  · exact congrArg _ (if_pos (by simp only [st] at owes due; simpa [owes] using due))
  · exact congrArg _ (if_neg (by simp [st, early, few]))
  · exact congrArg _ (if_pos owes)
  · exact congrArg _ (if_neg (by simp [st, idle]))
  · exact congrArg _ (if_neg (by simp [st, idle]))

/-- A count within the stream's window retires the stores before it. -/
theorem ackTo_of_inWindow {s : State} {c t : Nat} {count : Word}
    (window : (count - ((s.core c).stream t).ack).toNat ≤ ((s.core c).stream t).queue.length) : s.ackTo c t count
      = (s.updCore c fun x => x.setStream t { (s.core c).stream t with
          ack := count, queue := ((s.core c).stream t).queue.drop (count - ((s.core c).stream t).ack).toNat,
          acks := ((s.core c).stream t).acks.filter fun a => a ≠ count }).retireRsts c t := by
  rw [State.ackTo]
  simp only [if_neg window.not_gt, bne, beq_eq_decide, decide_not]

theorem acknowledgementsArrive : AcknowledgementsArrive := by
  intro s c t hc ht st
  refine ⟨fun count window performed => ?_, fun count old => ?_, fun bitmap members q i first performed => ?_⟩
  · have now : ¬ ((decide (st.queue.length < (count - st.ack).toNat) ||
        (st.queue.take (count - st.ack).toNat).any fun q => !q.performed && s.isOwn q.place) = true) := by
      simp only [Bool.or_eq_true, decide_eq_true_eq, window.not_gt, false_or, List.any_eq_true, not_exists, not_and]
      intro q hq
      obtain h | h := performed q hq <;> simp [h]
    rw [exec_acknowledgementArrival hc ht, State.ackArrival]
    exact congrArg _ ((if_neg now).trans (ackTo_of_inWindow window))
  · rw [exec_acknowledgementArrival hc ht, State.ackArrival]
    refine congrArg _ ((if_pos (Bool.or_eq_true_iff.mpr (.inl (decide_eq_true old)))).trans ?_)
    simp only [bne, beq_eq_decide, decide_not, st]
  · rw [exec_multicastAck hc ht, State.multicastAck]
    simp only [show ((s.core c).stream t).queue.zipIdx.find? (fun e => !e.1.performed && isGroupPlace e.1.place) = some (q, i)
      from first, if_neg performed]
    rfl

/-- Settles O44: a message is one attempt whose verdict decides what the die keeps, and a stream performs, counts and retires
its stores in their order. -/
theorem remoteStoresAndMessages : Obligations.RemoteStoresAndMessages :=
  ⟨messagesArrive, remoteStoresPerformed, remoteAcknowledgements, acknowledgementsArrive⟩

end Sys2Proof.Claim
end

section
/-! PROOFS. BAR0, the event ring, the aperture and the invalidations of core control space (R110, R131, R154, R155, R158, R396 to
R399, R401). -/

open Sys2Proof Sys2Proof.Machine

set_option Elab.async false

namespace Sys2Proof.Claim

/-! ## Invalidations -/

section
variable {c : Nat} (hc : c < coreCount) (s : State)
include hc

theorem exec_xinvWrite (v : DWord) : exec (.xinvWrite c v) s = .next (s.xinvPush c v) := (if_neg hc.not_ge :)

theorem exec_xinvComplete : exec (.xinvComplete c) s = .next (s.xinvComplete c) := (if_neg hc.not_ge :)

theorem exec_iinvWrite (v : Word) : exec (.iinvWrite c v) s = .next (s.iinv c v.toNat) := (if_neg hc.not_ge :)

end

theorem invalidationsReachTheCaches : InvalidationsReachTheCaches := by
  intro s c hc
  refine ⟨exec_xinvWrite hc s, fun none => ?_, fun v r oldest => ?_, exec_iinvWrite hc s⟩
  · rw [exec_xinvComplete hc, State.xinvComplete, none]
  · let invalidate (x : Core) : Core := { x with xinv := r, tlb := xinvLeaves v x.tlb }
    let t := (s.updCore c invalidate).updDie (dieOf c) fun d => { d with tlb := xinvLeaves v d.tlb }
    have step : exec (.xinvComplete c) s = .next t := by
      rw [exec_xinvComplete hc, State.xinvComplete, oldest]
    have core : t.core c = invalidate (s.core c) := State.core_updCore_self s c invalidate
    have die : t.die (dieOf c) = { s.die (dieOf c) with tlb := xinvLeaves v (s.die (dieOf c)).tlb } :=
      (State.die_updDie (s.updCore c invalidate) (dieOf c) (dieOf c) _).trans (if_pos rfl)
    exact ⟨t, step, rfl, by rw [core], by rw [core], by rw [die]⟩

/-! ## BAR0 -/

/-- The registers of BAR0 that a write of 8 or 4 bytes at these offsets meets. -/
theorem bar0At_found : bar0At 0x10200 8 = some (0x10200, 8, .savetab) ∧ bar0At 0x10208 8 = some (0x10208, 8, .ctxtab) ∧
    bar0At 0x10400 8 = some (0x10400, 8, .evbase) ∧ bar0At 0x10508 4 = some (0x10508, 4, .hto) ∧
    bar0At 0x10300 8 = some (0x10300, 8, .preempt) ∧ bar0At 0x10308 8 = some (0x10308, 8, .restore) ∧
    bar0At 0x10200 4 = some (0x10200, 8, .savetab) := by decide +kernel

theorem exec_bar0Write (s : State) (off width : Nat) (v : DWord) :
    exec (.registerWrite (.bar0 off width) v) s = .next (s.bar0Write off width v) := rfl

theorem registersAreWritten : RegistersAreWritten := by
  intro s v
  obtain ⟨savetab, ctxtab, evbase, hto, preempt, restore, narrow⟩ := bar0At_found
  simp only [exec_bar0Write, State.bar0Write, savetab, ctxtab, evbase, hto, preempt, restore, narrow]
  exact ⟨rfl, rfl, rfl, rfl, rfl, rfl, rfl, rfl, fun _ => rfl⟩

/-! ## The event ring -/

theorem exec_eventRecordWrite (s : State) : exec .eventRecordWrite s = .next s.eventRecordWrite := rfl

theorem eventsAreRecorded : EventsAreRecorded := by
  intro s e r oldest
  rw [exec_eventRecordWrite, State.eventRecordWrite, oldest]
  refine ⟨fun shut => ?_, fun up room => ?_⟩
  · have shut : (!s.linkUp || s.host.evFull) = true := by
      obtain h | h := shut <;> simp [h]
    simp only [shut, if_true]
  · intro head tail
    simp only [up, room, Bool.not_true, Bool.or_self, Bool.false_eq_true, if_false]
    refine ⟨_, rfl, rfl, rfl, rfl, ?_, rfl, rfl⟩
    simp only [beq_iff_eq]
    rfl

/-! ## The aperture -/

section
variable {s : State} {off p : Nat}

theorem exec_hostApertureWrite (bs : List Byte) : exec (.hostApertureWrite off bs) s = .next (s.hostWrite off bs) := rfl

theorem exec_hostApertureRead (n : Nat) : exec (.hostApertureRead off n) s = .next (s.hostRead off n) := rfl

/-- A place of class 0 or 1 lies in no scratchpad window. -/
theorem inTentative_of_memory (memory : placeClass p ≤ 1) : s.inTentative p = false := by
  have : (placeClass p == 2) = false := beq_eq_false_iff_ne.mpr (by omega)
  rw [State.inTentative, this, Bool.false_and]

theorem hostWrite_of_memory {bs : List Byte} (here : s.aperture off bs.length = some p) (memory : placeClass p ≤ 1) :
    s.hostWrite off bs = (s.l2Discard ((cellsFrom p bs).map fun c => placeKey c.1 / 128)).writeHome (cellsFrom p bs) := by
  rw [State.hostWrite, here]
  dsimp only
  split
  · next window => omega
  · next control => omega
  · rfl

theorem hostRead_of_memory {n : Nat} (here : s.aperture off n = some p) (memory : placeClass p ≤ 1)
    (readable : ∀ k, k < n → s.homeReadFault (p + k) = none) :
    s.hostRead off n = { s with hostReply := (List.range n).map fun k => s.homeByte (p + k) } := by
  have whole : ((List.range n).any fun k => (s.homeReadFault (p + k)).isSome) = false :=
    List.any_eq_false.mpr fun k hk => by simp [readable k (List.mem_range.mp hk)]
  have bytes : s.hostBytes off n = some ((List.range n).map fun k => s.homeByte (p + k)) := by
    rw [State.hostBytes, here]
    dsimp only
    split
    · next window => omega
    · next control => omega
    · rw [whole, if_neg (by simp)]
  rw [State.hostRead, here]
  simp only [inTentative_of_memory memory, bytes, Option.getD_some, Bool.false_eq_true, if_false]

end

theorem apertureAccesses : ApertureAccesses := by
  intro s off bs n
  refine ⟨fun none => ?_, fun p here memory => ?_, fun none => ?_, fun p here memory readable => ?_⟩
  · rw [exec_hostApertureWrite, State.hostWrite, none]
  · rw [exec_hostApertureWrite, hostWrite_of_memory here memory]
  · rw [exec_hostApertureRead, State.hostRead, none]
  · rw [exec_hostApertureRead, hostRead_of_memory here memory readable]

/-- Settles O50: each step is its one change, made where its register, its record or its entry stands. -/
theorem hostInterface : Obligations.HostInterface :=
  ⟨invalidationsReachTheCaches, registersAreWritten, eventsAreRecorded, apertureAccesses⟩

end Sys2Proof.Claim
end

section
/-! PROOFS. MTASK, QCFG, RFLUSH and COMM.CLOSE at issue (R139, R337, R346, R349, R355, R363). -/

open Sys2Proof Sys2Proof.Machine

set_option Elab.async false

namespace Sys2Proof.Claim

/-! ## MTASK and QCFG -/

/-- An engine word leaves its wave the same, whether its operation is counted or it is a handler's (R173, R235, R343). -/
theorem engineOp_eq (x : Ctx) : x.engineOp = { x with wave := engineWave x } := by
  cases handler : x.frag.handler <;> simp only [Ctx.engineOp, engineWave, handler, if_true, Bool.false_eq_true, if_false]
  simp only [Ctx.addOp, numberedWave, handler]
  rfl

theorem exec_mtask (s : State) (g : Ctl) (o : ED) : exec (.mtask g o) s = execMtask g o s := rfl

theorem exec_qcfg (s : State) (g : Ctl) (o : ED) : exec (.qcfg g o) s = execQcfg g o s := rfl

theorem hearthWordsComplete : HearthWordsComplete := by
  intro g o s x bs h
  refine ⟨fun read aligned room free ring own => ?_, fun read free => ?_⟩
  · rw [exec_mtask, execMtask, issueFragment_of_ready h]
    simp only [read, aligned, room, spadWaits_of_clear free, ring.not_ge, own.not_ge, decide_false, Bool.not_true,
      Bool.or_self, Bool.false_eq_true, if_false, engineOp_eq]
    rfl
  · rw [exec_qcfg, execQcfg, issueFragment_of_ready h]
    simp only [read, spadWaits_of_clear free, Bool.false_eq_true, if_false]
    rfl

/-! ## RFLUSH and COMM.CLOSE -/

theorem exec_rflush (s : State) (g : Ctl) (o : ER) : exec (.rflush g o) s = execRflush g o s := rfl

theorem exec_commClose (s : State) (g : Ctl) (o : ED) : exec (.commClose g o) s = execCommClose g o s := rfl

theorem directEngineWordsComplete : DirectEngineWordsComplete := by
  intro g s x none
  refine ⟨fun o h => ?_, fun o h reached => ?_⟩
  · rw [exec_rflush, execRflush, issueFragment_of_ready h]
    simp only [none, Bool.false_eq_true, if_false]
    rfl
  · rw [exec_commClose, execCommClose, issueFragment_of_ready h]
    simp only [reached, none, Bool.false_eq_true, if_false]
    rfl

/-- Settles O30: nothing holds the words back, and each leaves its one change: a record of the ring, a control block, a flush
or a close. -/
theorem hearthAndFabricWords : Obligations.HearthAndFabricWords := ⟨hearthWordsComplete, directEngineWordsComplete⟩

end Sys2Proof.Claim
end

section
/-! PROOFS. The steps of waiter queues and of waits for a phase, and fences, launches and shapes that nothing holds any more
(R133, R141 to R143, R169, R190 to R192, R209, R318, R327, R328, R383, R388). -/

open Sys2Proof Sys2Proof.Machine

set_option Elab.async false

namespace Sys2Proof.Claim

/-! ## What an operation reaches -/

section
variable {α β : Type} {s : State} {c w : Nat} {n : HNum} {k : OpCtx}

theorem both_go (x : α) (y : β) : (Verdict.go x).both (Verdict.go y) = .go (x, y) := rfl

theorem withVerdict_go (x : α) (go : α → State) : s.withVerdict c k (.go x) go = go x := rfl

theorem tryMem_of_mem {va : DWord} {acc : Access} {p : Nat} (go : s.tryObj c k (.glob va) acc 16 = .go (.mem p)) :
    s.tryMem c k va acc = .go (.mem p) := by
  rw [State.tryMem, go]
  rfl

variable (h : Attempt s c w n k)
include h

theorem Attempt.slot : k.w.slot = w := Core.wave?_slot (State.opCtx?_found h.op).1

theorem attempt_eq (f : State → OpCtx → State) : s.attempt c w n f = f s k := by
  rw [State.attempt, h.op]

theorem withVerdict_fail (e : BitVec 16) (a : DWord) (go : α → State) :
    s.withVerdict c k (.fail e a) go = s.failOp c w n e a := by
  rw [State.withVerdict, h.slot, h.num]

end

/-! ## Waiter queues -/

section
variable {s : State} {c w : Nat} {n : HNum} {k : OpCtx} (h : Attempt s c w n k)
include h

theorem exec_collierLink_of_go {head record : DWord} {p q : Nat} (work : k.o.work = .qwait head record)
    (first : s.tryObj c k (.glob head) .atomic 16 = .go (.mem p))
    (second : s.tryObj c k (.glob record) .write 16 = .go (.mem q)) : exec (.collierLink c w n) s
      = .next (((s.flushObj c (.mem p)).flushObj c (.mem q)).linkRecord c k record (.mem p) (.mem q)) := by
  show execCollierLink c w n s = _
  rw [execCollierLink, if_neg h.core.not_ge, State.collierLink, attempt_eq h]
  simp only [work, h.may, tryMem_of_mem first, tryMem_of_mem second, both_go, withVerdict_go, Bool.not_true,
    Bool.false_eq_true, if_false]

/-- What a WAKE leaves of the state that its unlinks end in. -/
def woken (t : State × Verdict Unit × Nat) (c w : Nat) (n : HNum) (count : Nat) : State :=
  match t.2.1 with
  | .go _ => t.1.finishOp c w n
  | .fail e a => t.1.failOp c w n e a
  | .wait => t.1.updOp c w n fun o => { o with results := [(0, BitVec.ofNat 64 (count - t.2.2))] }

theorem exec_collierUnlink_of_go {head : DWord} {m p : Nat} (work : k.o.work = .wake head m) (fresh : k.o.results = [])
    (reached : s.tryObj c k (.glob head) .atomic 16 = .go (.mem p)) : exec (.collierUnlink c w n) s
      = .next (woken ((s.flushObj c (.mem p)).unlink (c, k.b.slot) (colliers p) k.root (.mem p) m) c w n m) := by
  have none : k.o.unlinked = 0 := by rw [Op.unlinked, fresh]; rfl
  show execCollierUnlink c w n s = _
  rw [execCollierUnlink, if_neg h.core.not_ge, State.collierUnlink, attempt_eq h]
  simp only [work, h.may, tryMem_of_mem reached, none, withVerdict_go, Bool.not_true, Bool.false_eq_true, if_false]
  rfl

end

theorem queueLink : QueueLink := by
  intro s c w n k head record p q h work first second t empty
  rw [exec_collierLink_of_go h work first second, State.linkRecord, h.slot, h.num]
  exact congrArg _ (if_pos empty)

section
variable {u : State} {own : Nat × Nat} {d root p m : Nat}

theorem unlink_none (h : m = 0 ∨ u.homeWord (.mem p) = 0) : u.unlink own d root (.mem p) m = (u, .go (), 0) := by
  cases m with
  | zero => rfl
  | succ m =>
    obtain zero | empty := h
    · cases zero
    · rw [State.unlink]
      exact if_pos empty

theorem unlink_unread {e : BitVec 16} (some : m ≠ 0) (first : u.homeWord (.mem p) ≠ 0)
    (bad : u.colHome d root .read (u.homeWord (.mem p)) 16 = .error e) :
    u.unlink own d root (.mem p) m = (u, .fail e (u.homeWord (.mem p)), m) := by
  obtain ⟨m, rfl⟩ := Nat.exists_eq_succ_of_ne_zero some
  rw [State.unlink]
  simp only [first, State.colReach, bad, if_false]

/-- The first record leaves its queue, and its barrier is woken. -/
theorem unlink_one {r : Home} (first : u.homeWord (.mem p) ≠ 0)
    (reached : u.colHome d root .read (u.homeWord (.mem p)) 16 = .ok r) (free : u.heldWindow (some own) r = false) :
    let next := u.homeWord r
    let t := u.homeWrite (.mem p) (toBytes 8 next.toNat)
    u.unlink own d root (.mem p) 1 = ((if next = 0 then t.homeWrite (.mem (p + 8)) (toBytes 8 0) else t).wakeArrival d root
      (u.homeWord (r.plus 8)), .go (), 0) := by
  intro next t
  rw [State.unlink]
  simp only [first, State.colReach, reached, free, Bool.false_eq_true, if_false, State.unlink]
  rfl

end

theorem queueUnlink : QueueUnlink := by
  intro s c w n k head m p h work fresh reached u first
  rw [exec_collierUnlink_of_go h work fresh reached]
  refine ⟨fun none => ?_, fun r one some record free => ?_, fun e count some bad => ?_⟩
  · rw [unlink_none none]
    rfl
  · subst one
    rw [unlink_one some record free]
    rfl
  · rw [unlink_unread count some bad]
    rfl

/-! ## Waits for a phase -/

theorem waitphWakes : WaitphWakes := by
  intro s c f fr w obj ph hc frag wave park
  have step : exec (.waitphWake c f) s = .next (if s.phaseAt (ownHome c w.block obj) = ph.toNat then s
      else (s.join c (ownHome c w.block obj)).updCore c fun x => x.updFrag f Frag.unpark) := by
    show execWaitphWake c f s = _
    rw [execWaitphWake, if_neg hc.not_ge, State.waitphWake]
    simp only [frag, park, wave]
  rw [step]
  exact ⟨fun same => by rw [if_pos same], fun past => by rw [if_neg past]; rfl⟩

/-- Settles O36: a link by whether its queue is empty, a wake by its first record, and a wait for a phase by the phase that
shows. -/
theorem queuesAndWakes : Obligations.QueuesAndWakes := ⟨queueLink, queueUnlink, waitphWakes⟩

/-! ## Operations that were held -/

section
variable {s : State} {c w : Nat} {n : HNum} {k : OpCtx} (h : Attempt s c w n k)
include h

theorem exec_heldOperationProceed_of_may : exec (.heldOperationProceed c w n) s = .next (s.proceed c k) := by
  show execHeldOperationProceed c w n s = _
  rw [execHeldOperationProceed, if_neg h.core.not_ge, State.heldProceed, attempt_eq h, if_pos h.may]

end

/-- A release whose dirty bytes can all be written back, of a wave that the host owes nothing, is followed by the rest. -/
theorem withRelease_of_none {s : State} {c : Nat} {k : OpCtx} {ps : List Piece} {all : Bool} (sys : Bool)
    (fine : s.releaseFault c ps all = none) (owed : k.w.hostOwed = false) (go : State → State) :
    s.withRelease c k ps all sys go = go (s.release c ps all) := by
  unfold State.withRelease
  simp only [fine, Wave.owesHost, owed, Bool.false_and, Bool.false_eq_true, if_false]

section
variable {s : State} {c w : Nat} {n : HNum} {k : OpCtx} (h : Attempt s c w n k)
include h

theorem performFence_fail {e : BitVec 16} {a : DWord} (bad : s.opPages c k = .fail e a) :
    s.performFence c k = s.failOp c w n e a := by
  rw [State.performFence, bad, withVerdict_fail h]

variable {rs : List Piece} (pages : s.opPages c k = .go rs) (fine : s.releaseFault c [] true = none)
  (owed : k.w.hostOwed = false)
include pages fine owed

theorem performFence_go : s.performFence c k
    = (((s.release c [] true).acquire c [] true).settleWritten c w).finishOp c w n := by
  rw [State.performFence, pages, withVerdict_go, withRelease_of_none _ fine owed, h.slot, h.num]

/-- A LAUNCH whose record lies in the module reads it behind its release, and sends it to its queue. -/
theorem sendLaunch_go {a : DWord} {q : Nat} {ps : List Piece}
    (reached : (s.release c [] true).tryReach c k.root k.b.slot ⟨a, 128, .read⟩ = .go ps) (own : anyHost [ps] = false) :
    let t := (s.release c [] true).settleWritten c w
    s.sendLaunch c k a q none = (ps.foldl (fun s p => s.pieceTouch c p) (t.keepPieces c k.root ps)).enterQueue c k q a
      (t.loadBytes c k [ps] []).flatten := by
  intro t
  unfold State.sendLaunch
  simp only [pages, withVerdict_go, withRelease_of_none _ fine owed, h.slot, reached, own, Option.isSome_none, Bool.false_and,
    Bool.false_eq_true, if_false, Option.getD_none]
  rfl

end

section
variable {s : State} {c w : Nat} {n : HNum} {k : OpCtx} (h : Attempt s c w n k)
include h

theorem enterQueue_of_room (u : State) {q : Nat} (a : DWord) (bs : List Byte) (room : (u.stokeQ.getD q []).length < 512) :
    u.enterQueue c k q a bs = State.finishOp { u with stokeQ := updAt u.stokeQ q fun l =>
      l ++ [{ bytes := bs, ctxid := some ((u.core c).ctxSlot k.b.ctx).ctxid }] } c w n := by
  rw [State.enterQueue, if_neg room.not_ge, h.slot, h.num]

theorem enterQueue_of_full (u : State) {q : Nat} (a : DWord) (bs : List Byte) (full : 512 ≤ (u.stokeQ.getD q []).length) :
    u.enterQueue c k q a bs = u.failOp c w n eStokeFull a := by
  rw [State.enterQueue, if_pos full, h.slot, h.num]

end

theorem heldOperationsProceed : HeldOperationsProceed := by
  intro s c w n k h
  rw [exec_heldOperationProceed_of_may h]
  refine ⟨fun e a work bad => ?_, fun rs work pages fine owed => ?_,
    fun a q ps rs work pages fine owed reached own => ?_⟩
  · have fence : s.proceed c k = s.performFence c k := by rw [State.proceed, work]
    rw [fence, performFence_fail h bad]
  · have fence : s.proceed c k = s.performFence c k := by rw [State.proceed, work]
    rw [fence, performFence_go h pages fine owed]
  · intro t bs u
    have sends : s.proceed c k = u.enterQueue c k q a bs := by
      rw [State.proceed, work]
      exact sendLaunch_go h pages fine owed reached own
    rw [sends]
    exact ⟨fun room => by rw [enterQueue_of_room h u a bs room], fun full => by rw [enterQueue_of_full h u a bs full]⟩

/-! ## Shapes -/

/-- An operation without bound pages, that writes back no more than its own, has none to translate. -/
theorem opPages_of_none (s : State) (c : Nat) {k : OpCtx} (regions : k.o.regions = []) (all : k.o.writesAll = false) :
    s.opPages c k = .go [] := by
  have none : s.writtenPages c k = [] := by
    rw [State.writtenPages, all, Bool.false_and, if_neg Bool.false_ne_true]
  unfold State.opPages State.tryRegions
  simp only [regions, none, List.flatMap_nil, State.tryPages, List.map_nil, Verdict.all, ite_self, Verdict.both]

theorem shapePublished : ShapePublished := by
  intro s c w n k a t home h work regions owed reached u
  have pages : s.opPages c k = .go [] := opPages_of_none s c regions (by rw [Op.writesAll, work])
  have shape : s.proceed c k = s.performShape c k a t := by rw [State.proceed, work]
  rw [exec_heldOperationProceed_of_may h, shape, State.performShape, State.withBoth, pages, reached, both_go, withVerdict_go,
    withRelease_of_none _ rfl owed, h.slot, h.num]
  rfl

/-- Settles O37: each operation that nothing holds goes on through its pages, its release and its home, in the order of its
definition, and the conditions say what each of them answers. -/
theorem heldOperations : Obligations.HeldOperations := ⟨heldOperationsProceed, shapePublished⟩

end Sys2Proof.Claim
end

section
/-! PROOFS. The steps of the Bellows: communicators that open and close, headers that are compared, chunks that go by flits, and
steps and commands that end (R145, R161, R162, R334, R336, R354 to R356, R358 to R361, R404, R438). -/

open Sys2Proof Sys2Proof.Machine

set_option Elab.async false

namespace Sys2Proof.Claim

/-! ## The access of a command -/

section
variable {α : Type} {s : State} {d i : Nat} {k : CollCmd} {step : Bool}

theorem collGo_ok (x : α) (fail : BitVec 16 → State) (go : α → State) :
    s.collGo d i k step (.ok x) fail go = go x := rfl

/-- An access that was made for the first time is no retry to count. -/
theorem collGood_first (first : k.tried step = false) : s.collGood d i k step = s :=
  if_neg (Bool.eq_false_iff.mp first)

end

/-! ## The steps of a communicator -/

section
variable {s : State} {d i : Nat} (hd : d < dieCount) (hi : i < commCount)
include hd hi

theorem exec_commOpenApply : exec (.commOpenApply d i) s = .next (s.commOpenApply d i) :=
  (if_neg (not_or.mpr ⟨hd.not_ge, hi.not_ge⟩) :)

theorem exec_commCloseApply : exec (.commCloseApply d i) s = .next (s.commCloseApply d i) :=
  (if_neg (not_or.mpr ⟨hd.not_ge, hi.not_ge⟩) :)

theorem exec_bellowsHeaderExchange (others : List (Nat × CollHeader)) :
    exec (.bellowsHeaderExchange d i others) s = .next (s.headerExchange d i others) :=
  (if_neg (not_or.mpr ⟨hd.not_ge, hi.not_ge⟩) :)

theorem exec_bellowsStepComplete (others : List (Nat × List Byte)) :
    exec (.bellowsStepComplete d i others) s = .next (s.bellowsStep d i others) :=
  (if_neg (not_or.mpr ⟨hd.not_ge, hi.not_ge⟩) :)

theorem exec_bellowsTimeout : exec (.bellowsTimeout d i) s = .next (s.bellowsTimeout d i) :=
  (if_neg (not_or.mpr ⟨hd.not_ge, hi.not_ge⟩) :)

end

theorem exec_bellowsChunk {d : Nat} (hd : d < dieCount) (s : State) : exec (.bellowsChunk d) s = .next (s.bellowsChunk d) :=
  (if_neg hd.not_ge :)

/-! ## Opens -/

section
variable {s : State} {d i : Nat} {k : CollCmd} (head : (s.comm d i).queue.head? = some k) (op : k.op = 7)
  (answered : k.inFault = false) (fine : k.err = 0)
include head op answered fine

theorem commOpenApply_again (isOpen : (s.comm d i).isOpen = true) :
    s.commOpenApply d i = s.endOpen d i k eOperandBounds := by
  unfold State.commOpenApply
  simp only [head, op, answered, fine, isOpen, ne_eq, not_true, decide_false, Bool.or_self, Bool.false_eq_true,
    bne_self_eq_false, if_false, if_true]

/-- The first attempt at an open whose descriptor is at hand, whose fields are in range, and whose tables are read and in
order. -/
theorem commOpenApply_opened {s0 s1 s2 s3 : State} {bs mem rel : List Byte} {q : CollCmd} {m : Comm}
    (closed : (s.comm d i).isOpen = false) (first : k.retried = false)
    (desc : (k.fields = none ∧ s.collRead k.core k.root.toNat k.block k.desc 32 = .ok (s0, bs)) ∨
      (k.fields = some bs ∧ s0 = s))
    (described : q = { k with fields := some bs }) (kept : s1 = s0.updHead d i fun k => { k with fields := some bs })
    (inRange : q.openOk = true)
    (members : s1.collRead k.core k.root.toNat k.block (.glob (BitVec.ofNat 64 (recNat bs 0 8))) (4 * recNat bs 16 2)
      = .ok (s2, mem))
    (releases : s2.collRead k.core k.root.toNat k.block (.glob (BitVec.ofNat 64 (recNat bs 8 8))) (16 * recNat bs 20 1)
      = .ok (s3, rel))
    (opened : s3.opened d (s3.comm d i) q mem rel = some m) :
    s.commOpenApply d i = (s3.setComm d i m).endOpen d i q 0 := by
  subst described kept
  have noRetry : (k.fields.isNone && k.retried) = false := by rw [first, Bool.and_false]
  have field (off n : Nat) : ({ k with fields := some bs } : CollCmd).fld off n = recNat bs off n := rfl
  have counted : s3.collGood d i { k with fields := some bs } false = s3 := collGood_first first
  unfold State.commOpenApply
  simp only [head, noRetry, Bool.not_false, Bool.and_true, Bool.false_eq_true, if_false]
  rw [if_neg (by simp [op, answered]), if_neg (by simp [fine]), if_neg (by simp [closed])]
  obtain ⟨unread, read⟩ | ⟨here, rfl⟩ := desc
  · simp only [unread, read, collGo_ok, inRange, field, members, releases, counted, opened, Bool.not_true, Bool.false_eq_true,
      if_false]
  · simp only [here, collGo_ok, inRange, field, members, releases, counted, opened, Bool.not_true, Bool.false_eq_true,
      if_false]

end

/-! ## Closes -/

section
variable {s : State} {d i : Nat} {k : CollCmd} {r : List CollCmd} (closing : (s.comm d i).closing = k :: r)
include closing

theorem commCloseApply_behind {q : CollCmd} (queued : q ∈ (s.comm d i).queue) (op : q.op = 7) (own : q.ctxid = k.ctxid) :
    s.commCloseApply d i = s := by
  have behind : ((s.comm d i).queue.any fun q => q.op == 7 && q.ctxid == k.ctxid) = true :=
    List.any_eq_true.mpr ⟨q, queued, by simp [op, own]⟩
  unfold State.commCloseApply
  simp only [closing, behind, if_true]

variable (first : ∀ q ∈ (s.comm d i).queue, ¬ (q.op = 7 ∧ q.ctxid = k.ctxid))
include first

/-- A close that no open of its context comes before. -/
theorem commCloseApply_eq : s.commCloseApply d i =
    if !(s.comm d i).openTo k then (s.setComm d i { s.comm d i with closing := r }).collDone k eOperandBounds
    else if (s.comm d i).queue.isEmpty then (s.setComm d i { Comm.closed with closing := r }).collDone k 0
    else s := by
  have free : ((s.comm d i).queue.any fun q => q.op == 7 && q.ctxid == k.ctxid) = false :=
    List.any_eq_false.mpr fun q hq => by simpa using first q hq
  unfold State.commCloseApply
  simp only [closing, free, Bool.false_eq_true, if_false]

end

theorem communicatorsOpenAndClose : CommunicatorsOpenAndClose := by
  intro s d i k r hd hi
  rw [exec_commOpenApply hd hi, exec_commCloseApply hd hi]
  refine ⟨fun head op answered fine => ⟨fun isOpen => ?_, fun s0 s2 s3 bs mem rel m closed first desc tables => ?_⟩,
    fun closing => ⟨fun own empty => ?_, fun behind => ?_, fun stranger first => ?_⟩⟩
  · rw [commOpenApply_again head op answered fine isOpen]
  · obtain ⟨inRange, members, releases, opened⟩ := tables
    rw [commOpenApply_opened head op answered fine closed first desc rfl rfl inRange members releases opened]
  · rw [commCloseApply_eq closing (by simp [empty]), own, empty]
    rfl
  · obtain ⟨q, queued, op, own⟩ := behind
    rw [commCloseApply_behind closing queued op own]
  · rw [commCloseApply_eq closing first, stranger]
    rfl

/-! ## Headers -/

section
variable {s : State} {d i : Nat} {k : CollCmd} (head : (s.comm d i).queue.head? = some k) (op : k.op ≠ 7)
  (answered : k.inFault = false) (apart : k.agreed = false) (own : (s.comm d i).openTo k = true)
include head op answered apart own

theorem headerExchange_reads (others : List (Nat × CollHeader)) {t : State} {bs : List Byte} (unread : k.fields = none)
    (fine : k.err = 0) (first : k.retried = false)
    (read : s.collRead k.core k.root.toNat k.block k.desc 32 = .ok (t, bs)) :
    s.headerExchange d i others = t.updHead d i fun k => { k with fields := some bs } := by
  have counted : t.collGood d i k false = t := collGood_first first
  unfold State.headerExchange
  simp only [head, op, answered, apart, own, unread, fine, read, collGo_ok, counted, Option.isNone_none, decide_false,
    Bool.or_self, Bool.not_true, bne_self_eq_false, Bool.false_eq_true, if_false, if_true]

variable (read : k.fields ≠ none)
include read

theorem headerExchange_sends (others : List (Nat × CollHeader)) {t : State} (sent : k.sent = false)
    (ok : s.collOk (s.comm d i) k = true) (sends : s.sendHeader d i (s.comm d i) k false = some t) :
    s.headerExchange d i others = t := by
  have read : k.fields.isNone = false := Option.isNone_eq_false_iff.mpr (Option.isSome_iff_ne_none.mpr read)
  unfold State.headerExchange
  simp only [head, op, answered, apart, own, read, sent, ok, sends, decide_false, Bool.or_self, Bool.not_true,
    Bool.not_false, Bool.false_eq_true, if_false, if_true]

theorem headerExchange_compares {others : List (Nat × CollHeader)} {hs : List CollHeader} (sent : k.sent = true)
    (headers : ((s.comm d i).parties k).map (s.headerOf (s.comm d i) others) = hs.map some) :
    s.headerExchange d i others = if (s.comm d i).verdict k hs = 0 then s.updHead d i fun k => { k with agreed := true }
      else s.endColl d i k ((s.comm d i).verdict k hs) := by
  have read : k.fields.isNone = false := Option.isNone_eq_false_iff.mpr (Option.isSome_iff_ne_none.mpr read)
  have all : ((hs.map some).any Option.isNone) = false := by simp
  have same : (hs.map some).filterMap id = hs := by simp
  unfold State.headerExchange
  simp only [head, op, answered, apart, own, read, sent, headers, all, same, decide_false, Bool.or_self, Bool.not_true,
    Bool.false_eq_true, if_false]

end

theorem headersAreExchanged : HeadersAreExchanged := by
  intro s d i k others hd hi head op answered apart own
  rw [exec_bellowsHeaderExchange hd hi]
  refine ⟨fun t bs unread fine first read => ?_, fun t read sent ok sends => ?_, fun hs read sent headers =>
    ⟨fun agree => ?_, fun differ => ?_⟩⟩
  · rw [headerExchange_reads head op answered apart own others unread fine first read]
  · rw [headerExchange_sends head op answered apart own read others sent ok sends]
  · rw [headerExchange_compares head op answered apart own read sent headers, if_pos agree]
  · rw [headerExchange_compares head op answered apart own read sent headers, if_neg differ]

/-! ## Chunks by flits -/

/-- The flits of a message carry all its bytes (R404). -/
theorem le_flitBytes_mul_flitCount (n : Nat) : n ≤ flitBytes * flitCount n := by
  simp only [flitBytes, flitCount]
  omega

theorem flitCount_pos (n : Nat) : 0 < flitCount n := by
  simp only [flitCount]
  omega

/-- A message whose flits all go now goes whole, and the turn goes on with the next one. -/
theorem turnOf_cons_of_whole {own : Nat → Bool} {skip : Nat} {credit : Option Nat} {p : Sends}
    (left : skip < flitCount p.n) (all : own p.rank = true ∨ ∀ c, credit = some c → flitCount p.n - skip ≤ c)
    (r : List Sends) :
    let t := turnOf own 0 (if own p.rank then credit else credit.map fun c => c - (flitCount p.n - skip)) r
    turnOf own skip credit (p :: r)
      = { t with parts := ⟨p.rank, p.off + 224 * skip, p.n - 224 * skip⟩ :: t.parts,
                 flits := flitCount p.n - skip + t.flits } := by
  intro t
  have may : (if own p.rank then flitCount p.n - skip
      else min (flitCount p.n - skip) (credit.getD (flitCount p.n - skip))) = flitCount p.n - skip := by
    obtain mine | reaches := all
    · rw [if_pos mine]
    · cases credit with
      | none => simp
      | some c => simp [reaches c rfl]
  have bytes : min (p.n - 224 * skip) (224 * (flitCount p.n - skip)) = p.n - 224 * skip := by
    have : p.n ≤ 224 * flitCount p.n := le_flitBytes_mul_flitCount p.n
    omega
  rw [turnOf, if_neg left.not_ge]
  simp only [may, lt_irrefl, if_false, flitBytes, bytes]
  rfl

/-- A message that the credit does not reach to the end of is cut at a flit, and the turn is over. -/
theorem turnOf_cons_of_short {own : Nat → Bool} {skip c : Nat} {p : Sends} (other : own p.rank = false)
    (short : c < flitCount p.n - skip) (r : List Sends) : turnOf own skip (some c) (p :: r)
      = ⟨if c = 0 then [] else [⟨p.rank, p.off + 224 * skip, min (p.n - 224 * skip) (224 * c)⟩], c, some 0, false⟩ := by
  rw [turnOf, if_neg (by omega)]
  simp only [other, Bool.false_eq_true, if_false, Option.getD_some, min_eq_right short.le, short, if_true, flitBytes,
    Option.map_some]

theorem turnOf_unbounded (own : Nat → Bool) (ms : List Sends) :
    (turnOf own 0 none ms).parts = ms ∧ (turnOf own 0 none ms).whole = true ∧ (turnOf own 0 none ms).credit = none := by
  induction ms with
  | nil => exact ⟨rfl, rfl, rfl⟩
  | cons p r ih =>
    obtain ⟨parts, whole, credit⟩ := ih
    rw [turnOf_cons_of_whole (flitCount_pos p.n) (.inr fun c h => by cases h)]
    simp only [Option.map_none, ite_self, parts, whole, credit, Nat.mul_zero, Nat.add_zero, Nat.sub_zero, and_self]

theorem chunksGoByFlits : ChunksGoByFlits := by
  intro own p
  refine ⟨turnOf_unbounded own, fun c mine => ?_, fun skip c other begun => ?_⟩
  · rw [turnOf_cons_of_whole (flitCount_pos p.n) (.inl mine)]
    simp only [mine, if_true, turnOf, Nat.mul_zero, Nat.add_zero, Nat.sub_zero, and_self]
  · intro t left
    refine ⟨fun short => ?_, fun reaches => ?_⟩
    · simp only [t, turnOf_cons_of_short other short, and_self]
    · have all : own p.rank = true ∨ ∀ e, some c = some e → flitCount p.n - skip ≤ e :=
        .inr fun e h => Option.some.inj h ▸ reaches
      simp only [t, turnOf_cons_of_whole begun all, other, Bool.false_eq_true, if_false, turnOf, Option.map_some, Nat.add_zero,
        left, and_self]

/-! ## Chunks -/

section
variable {s : State} {d i : Nat} {k : CollCmd} (served : s.nextComm d = some i) (head : (s.comm d i).queue.head? = some k)
include served head

theorem bellowsChunk_failed (failed : k.err ≠ 0) :
    s.bellowsChunk d = (s.updDie d fun x => x.turned (s.comm d i).hipri i).endColl d i k k.err := by
  unfold State.bellowsChunk
  simp only [served, head, bne_iff_ne.mpr failed, if_true]

variable {u : State} (fine : k.err = 0) (first : k.retried = false)
  (turned : u = s.updDie d fun x => x.turned (s.comm d i).hipri i)
include fine first turned

/-- The bytes of a turn go to the members that they are for, and the credit that it leaves is noted. -/
theorem bellowsChunk_sends {v : State} {sent : List (Nat × List Byte)}
    (bytes : u.turnBytes k (u.chunkTurn d i (s.comm d i) k).parts = .ok (v, sent)) :
    s.bellowsChunk d = ((sent.foldl (fun r e => r.sendData d i (s.comm d i) k e.1 e.2) v).updDie d fun x =>
      x.spent i (u.chunkTurn d i (s.comm d i) k).credit).updHead d i fun q => q.afterTurn (u.chunkTurn d i (s.comm d i) k) := by
  subst turned
  have counted : v.collGood d i k false = v := collGood_first first
  unfold State.bellowsChunk
  simp only [served, head, fine, bytes, collGo_ok, counted, bne_self_eq_false, Bool.false_eq_true, if_false]

end

theorem afterTurn_of_whole {t : Turn} (whole : t.whole = true) (k : CollCmd) :
    k.afterTurn t = { k with chunks := k.chunks + 1, flits := 0, aside := false } := if_pos whole

theorem afterTurn_of_part {t : Turn} (part : t.whole = false) (k : CollCmd) :
    k.afterTurn t = { k with flits := k.flits + t.flits, aside := true } := if_neg (Bool.eq_false_iff.mp part)

theorem turnBytes_single {u v : State} {k : CollCmd} {p : Sends} {bs : List Byte} (some : p.n ≠ 0)
    (read : u.collRead k.core k.root.toNat k.block (k.src.plus (k.base p.rank + p.off)) p.n = .ok (v, bs)) :
    u.turnBytes k [p] = .ok (v, [(p.rank, bs)]) := by
  simp only [State.turnBytes, List.foldl_cons, List.foldl_nil, EngRes.bind, some, if_false, read, List.nil_append]

/-- Bytes for a rank of the own node stand in its communicator, where that is open. -/
theorem sendData_own {v : State} {d i q f : Nat} {m : Comm} {k : CollCmd} {bs : List Byte} (plain : k.matched = false)
    (rank : v.ownRank m q = some f) (isOpen : (v.comm f i).isOpen = true) : v.sendData d i m k q bs
      = v.updComm f i fun r => { r with data := r.data ++ [⟨m.doneCount, m.rank, bs⟩] } := by
  unfold State.sendData
  simp only [plain, rank, State.updComm, isOpen, Bool.false_eq_true, if_false, if_true]

/-- A chunk that is one message for a rank of the own node goes whole, and takes no credit. -/
theorem chunkTurn_own {u : State} {d i q f off n : Nat} {m : Comm} {k : CollCmd} (begun : k.flits = 0)
    (message : m.chunkMsgs k = [⟨q, off, n⟩]) (rank : u.ownRank m q = some f) :
    u.chunkTurn d i m k = ⟨[⟨q, off, n⟩], flitCount n, (u.die d).flits i, true⟩ := by
  rw [State.chunkTurn, begun, message, turnOf_cons_of_whole (flitCount_pos n) (.inl (by simp [rank]))]
  simp only [turnOf, rank, Option.isSome_some, if_true, Nat.mul_zero, Nat.add_zero, Nat.sub_zero]

theorem chunksAreSent : ChunksAreSent := by
  intro s d i k hd hi m u t
  rw [exec_bellowsChunk hd]
  refine ⟨fun idle => ?_, fun served head => ⟨fun failed => ?_, fun v sent fine first bytes => ?_,
    fun v q f off n bs fine first begun plain message some read rank still isOpen => ?_⟩⟩
  · rw [State.bellowsChunk, idle]
  · rw [bellowsChunk_failed served head failed]
  · intro w
    have sends : s.bellowsChunk d = w.updHead d i fun q => q.afterTurn t :=
      bellowsChunk_sends served head fine first rfl bytes
    rw [sends]
    exact ⟨fun whole => by simp only [afterTurn_of_whole whole], fun part => by simp only [afterTurn_of_part part]⟩
  · have turn : t = ⟨[⟨q, off, n⟩], flitCount n, (u.die d).flits i, true⟩ := chunkTurn_own begun message rank
    have bytes : u.turnBytes k t.parts = .ok (v, [(q, bs)]) := by
      rw [turn]
      exact turnBytes_single (p := ⟨q, off, n⟩) some read
    have sends : s.bellowsChunk d = ((v.sendData d i m k q bs).updDie d fun x => x.spent i t.credit).updHead d i fun q =>
        q.afterTurn t := bellowsChunk_sends served head fine first rfl bytes
    rw [sends, sendData_own plain still isOpen, turn]
    rfl

/-! ## Steps -/

section
variable {s : State} {d i : Nat} {k : CollCmd} (head : (s.comm d i).queue.head? = some k)
include head

section
variable (agreed : k.agreed = true) (answered : k.inFault = false) (fine : k.err = 0)
include agreed answered fine

/-- After the last step and the last chunk a command ends. -/
theorem bellowsStep_ends (others : List (Nat × List Byte)) (steps : (s.comm d i).stepCount k ≤ k.steps)
    (chunks : (s.comm d i).chunkCount k ≤ k.chunks) : s.bellowsStep d i others = s.endColl d i k 0 := by
  unfold State.bellowsStep
  simp only [head, agreed, answered, fine, steps, chunks, Bool.not_true, Bool.or_self, bne_self_eq_false, Bool.false_eq_true,
    if_false, if_true]

/-- A step of the data of one rank, whose own chunk has run, writes its bytes and is complete. -/
theorem bellowsStep_writes {others : List (Nat × List Byte)} {bs : List Byte} {t : State} {lines : List Nat}
    (first : k.stepRetried = false) (left : k.steps < (s.comm d i).stepCount k) (some : k.destBytes (s.comm d i).nr ≠ 0)
    (source : (s.comm d i).sources k = [k.peer]) (run : k.mayWrite = true)
    (data : s.contribution (s.comm d i) k others k.peer = .ok bs)
    (written : s.collWrite k.core k.root.toNat k.block (k.dst.plus ((s.comm d i).stepRange k k.steps).1)
      ((s.comm d i).stepBytes k [bs]) = .ok (t, lines)) : s.bellowsStep d i others = t.stepDone d i lines := by
  have counted : t.collGood d i k true = t := collGood_first first
  unfold State.bellowsStep
  simp only [head, agreed, answered, fine, left.not_ge, some, source, run, data, written, counted, collGo_ok, EngRes.bind,
    List.foldl_cons, List.foldl_nil, List.nil_append, Bool.not_true, Bool.or_self, bne_self_eq_false, Bool.false_eq_true,
    if_false]

end

theorem bellowsTimeout_waits (op : k.op ≠ 7) (own : (s.comm d i).openTo k = true) (answered : k.inFault = false)
    (waits : k.fields = none ∨ k.steps < (s.comm d i).stepCount k) :
    s.bellowsTimeout d i = s.endColl d i k (if k.err ≠ 0 then k.err
      else if k.fields ≠ none ∧ s.collOk (s.comm d i) k = false then eOperandBounds else eFlueLink) := by
  have waits : (k.fields.isSome && decide ((s.comm d i).stepCount k ≤ k.steps)) = false := by
    obtain unread | left := waits
    · simp [unread]
    · simp [left]
  unfold State.bellowsTimeout
  simp only [head, op, own, answered, waits, decide_false, Bool.not_true, Bool.or_self, Bool.false_eq_true, if_false,
    bne_iff_ne, Bool.and_eq_true, Option.isSome_iff_ne_none, Bool.not_eq_true']

end

theorem collectivesRun : CollectivesRun := by
  intro s d i k others hd hi head
  rw [exec_bellowsStepComplete hd hi, exec_bellowsTimeout hd hi]
  refine ⟨fun agreed answered fine steps chunks => ?_,
    fun bs t lines agreed answered fine first left some source run data written => ?_, fun op own answered waits => ?_⟩
  · rw [bellowsStep_ends head agreed answered fine others steps chunks]
  · rw [bellowsStep_writes head agreed answered fine first left some source run data written]
  · rw [bellowsTimeout_waits head op own answered waits]

/-! ## Ends -/

theorem commandsEnd : CommandsEnd := by
  intro s d i k m
  simp only [State.endColl, State.updComm, if_true, bne, beq_eq_decide, ne_eq, decide_not]
  rfl

/-- Settles O43: each step of a communicator is one chain of checks, which the conditions decide; a chunk is a fold over its
messages, and its turn is one of them that goes whole, or is cut where the credit ends. -/
theorem bellowsSteps : Obligations.BellowsSteps :=
  ⟨communicatorsOpenAndClose, headersAreExchanged, chunksAreSent, chunksGoByFlits, collectivesRun, commandsEnd⟩

end Sys2Proof.Claim
end

section
/-! PROOFS. The keys of the Flue links, flits as they are received, and the ports of the capacity tier (R163, R164, R178, R403,
R409, R410). -/

open Sys2Proof Sys2Proof.Machine

set_option Elab.async false

namespace Sys2Proof.Machine

/-! ## The directions of a port -/

theorem flueKey_inj {p : Nat} {r q : Bool} : flueKey p r = flueKey p q ↔ r = q := by
  cases r <;> cases q <;> simp [flueKey]

/-- A change of one direction of a port leaves the other. -/
theorem State.dir_updDir (s : State) (p : Nat) (r q : Bool) (f : FlueDir → FlueDir) :
    (s.updDir p r f).dir p q = if r = q then f (s.dir p q) else s.dir p q := by
  rw [State.updDir, State.dir, Map.get_put]
  simp only [flueKey_inj]
  split
  · next same => rw [same]
  · rfl

theorem State.updDir_congr {s : State} {p : Nat} {r : Bool} {f g : FlueDir → FlueDir} (h : f (s.dir p r) = g (s.dir p r)) :
    s.updDir p r f = s.updDir p r g := by
  rw [State.updDir, h, ← State.updDir]

/-- A step of one of the 16 ports that changes one direction. -/
theorem onPort_updDir {s : State} {p : Nat} {r : Bool} {f g : FlueDir → FlueDir} (hp : p < 16)
    (h : f (s.dir p r) = g (s.dir p r)) : onPort p (s.updDir p r f) = .next (s.updDir p r g) := by
  rw [onPort, if_neg hp.not_ge, State.updDir_congr h]

/-! ## Keys -/

section
variable {d : FlueDir} {a b : KeySlot} (slots : d.slots = [a, b]) (live : a.state = keyLive)
include slots live

theorem FlueDir.switch_of_live (standby : b.state = keyStandby) :
    d.switch = { d with slots := [{ a with state := keyDrain }, { b with state := keyLive }] } := by
  have second : [a, b].findIdx? (fun k => k.state == keyStandby) = some 1 := by
    simp [List.findIdx?_cons, live, standby, keyLive, keyStandby]
  have other : b.state ≠ keyLive := by rw [standby]; decide
  rw [FlueDir.switch, slots, second]
  simp only [List.map_cons, List.map_nil, updAt, if_pos live, if_neg other]

/-- Below the first threshold, the counter of the LIVE slot reaches it. -/
theorem FlueDir.threshold_of_live (other : b.state ≠ keyLive) (below : a.invctr.toNat < keyAskAt) :
    d.threshold = { d with slots := [{ a with invctr := BitVec.ofNat 64 keyAskAt }, b], keyAsked := true } := by
  have first : d.liveSlot = some a := by simp [FlueDir.liveSlot, slots, live]
  simp only [FlueDir.threshold, first, if_pos below, FlueDir.countTo, slots, List.map_cons, List.map_nil, if_pos live,
    if_neg other, if_true]

end

/-- A retrain resets the slots of either direction of its port, and nothing else of them but the request for a key. -/
theorem State.dir_retrain (s : State) (p : Nat) (r : Bool) : (s.retrain p).dir p r = (s.dir p r).retrained := by
  rw [State.retrain, dir_updDir, dir_updDir]
  cases r <;> rfl

/-! ## Flits -/

section
variable {d : FlueDir} {f : Flit} {k : KeySlot} (slot : d.slots[f.slot]? = some k)
include slot

theorem FlueDir.receive_discards (h : k.state = keyEmpty ∨ f.counter ≤ k.rxctr.toNat) : d.receive f = d := by
  have none : (d.removed || k.state == keyEmpty || decide (f.counter ≤ k.rxctr.toNat)) = true := by
    obtain empty | old := h
    · simp [empty]
    · simp [old]
  simp only [FlueDir.receive, slot, none, if_true]

/-- A new flit under a key is judged by whether it is authentic, and by whether it had been resent. -/
theorem FlueDir.receive_of_new (plane : d.removed = false) (key : k.state ≠ keyEmpty) (new : k.rxctr.toNat < f.counter) :
    d.receive f = if f.authentic = true then
        { d with slots := updAt d.slots f.slot fun k => { k with rxctr := BitVec.ofNat 64 f.counter } }
      else if f.resent = true then { d with flitDrop := satInc d.flitDrop }
      else { d with authRetry := satInc d.authRetry } := by
  have taken : (d.removed || k.state == keyEmpty || decide (f.counter ≤ k.rxctr.toNat)) = false := by
    simp [plane, key, new]
  simp only [FlueDir.receive, slot, taken, Bool.false_eq_true, if_false]
  cases f.authentic <;> rfl

end

/-! ## Ports of the capacity tier -/

/-- A fold over entries that each leave the state leaves it. -/
theorem foldl_eq_of_fixed {α σ : Type} {f : σ → α → σ} {l : List α} {s : σ} (h : ∀ a ∈ l, f s a = s) : l.foldl f s = s :=
  List.foldlRecOn (motive := fun t => t = s) l f rfl fun t ht a ha => by rw [ht, h a ha]

/-- With no operation and no command outstanding, no access is lost with the port. -/
theorem State.portFail_of_idle {s : State} (idle : ∀ e ∈ s.cores, e.2.cmds = [] ∧ ∀ w ∈ e.2.waves, w.ops = []) (p : Nat) :
    s.portFail p = { s with cxlUp := updAt s.cxlUp p fun _ => false } := by
  unfold State.portFail
  dsimp only
  rw [foldl_eq_of_fixed (l := s.cores) fun e he => ?_, foldl_eq_of_fixed fun e he => ?_]
  · exact foldl_eq_of_fixed fun w hw => by rw [(idle e he).2 w hw]; rfl
  · rw [(idle e he).1]
    rfl

end Sys2Proof.Machine

namespace Sys2Proof.Claim

theorem exec_keyLoad {s : State} {p slot : Nat} (hp : p < 16) (hs : slot < 2) (rx : Bool) (key : BitVec 256) (salt : Word)
    (id : Byte) : exec (.keyLoad p rx slot key salt id) s
      = .next (s.updDir p rx fun d => d.load slot (KeySlot.loaded key salt id)) := by
  show execKeyLoad p rx slot key salt id s = _
  rw [execKeyLoad, if_neg hs.not_ge, onPort_updDir hp rfl]

theorem exec_linkRetrain {s : State} {p : Nat} (hp : p < 16) : exec (.linkRetrain p) s = .next (s.retrain p) :=
  if_neg hp.not_ge

theorem keysAreSwitched : KeysAreSwitched := by
  intro s p rx hp
  refine ⟨fun slot key salt id hs => exec_keyLoad hp hs rx key salt id, fun a b slots live standby => ?_,
    fun a b slots live other below => ?_, s.retrain p, exec_linkRetrain hp, fun r => ?_⟩
  · exact onPort_updDir hp (FlueDir.switch_of_live slots live standby)
  · exact onPort_updDir hp (FlueDir.threshold_of_live slots live other below)
  · rw [State.dir_retrain]
    exact ⟨rfl, rfl, rfl⟩

theorem flitsAreChecked : FlitsAreChecked := by
  intro s p f k hp slot
  refine ⟨fun h => onPort_updDir hp (FlueDir.receive_discards slot h), fun plane key new => ?_⟩
  have judged := FlueDir.receive_of_new slot plane key new
  refine ⟨fun good => ?_, fun bad first => ?_, fun bad again => ?_⟩ <;> refine onPort_updDir hp (judged.trans ?_)
  · rw [if_pos good]
  · rw [if_neg (by simp [bad]), if_neg (by simp [first])]
  · rw [if_neg (by simp [bad]), if_pos again]

theorem portsFailAndReturn : PortsFailAndReturn := by
  intro s p hp
  refine ⟨if_neg hp.not_ge, fun idle => ?_⟩
  show execCxlPortFail p s = _
  rw [execCxlPortFail, if_neg hp.not_ge, State.portFail_of_idle idle]

/-- Settles O51: each step changes one direction of one port as its slots decide, and a port of the capacity tier loses just
what is outstanding to it. -/
theorem linkSteps : Obligations.LinkSteps := ⟨keysAreSwitched, flitsAreChecked, portsFailAndReturn⟩

end Sys2Proof.Claim
end

section
/-! PROOFS. A scratchpad-only REL behind a FENCE that is open (R190, R321): it takes its number and waits, so that it has not
released at its issue. -/

open Sys2Proof Sys2Proof.Machine

set_option Elab.async false

namespace Sys2Proof.Claim

/-- A FENCE that has not been performed. -/
def openFence : Op :=
  { num := 1, handler := false, frags := [0], count := .none, counted := false, kind := 5, pc := 0x30008,
    fmask := BitVec.allOnes 64, lanes := [], work := .fence, regions := [], retried := false, status := .waiting,
    escaped := false, stall := false, results := [], reach := [], answer := none, mark := none, behind := false }

/-- The wave that has issued it. -/
def fencedWave : Wave := { Wave.start 0 0 0 256 0 false 0 with seq := 2, ops := [openFence] }

/-- Core 0, with the fragment of that wave at a REL. -/
def fencedCore : Core := { loadCore with waves := [fencedWave] }

def fencedState : State := { State.reset with cores := [(0, fencedCore)], cur := some (0, 0, 0) }

/-- The context of that word. -/
def fencedCtx : Ctx :=
  { c := 0, core := fencedCore, wave := fencedWave, block := Block.placed 0 0 0 0 [] loadRecord false 0, word := 0
    frag := { id := 0, wave := 0, mask := BitVec.allOnes 64, loc := .word (BitVec.ofNat 64 loadCode) .mixed 0 0, waits := none,
              stack := [], park := .none, marked := false, damper := Damper.reset, skip := 0, yielded := false, holds := false,
              handler := false } }

/-- The operands of the REL: the first eight bytes of the scratchpad, which no binding names, with no value and without ALL. -/
def relObj : MB := { spc := true, obj := 0, low := 0 }

theorem fencedRel_ready : OpReady fencedState fencedCtx (relRule plainCtl relObj) :=
  ⟨⟨by decide +kernel, fun r hr => absurd hr List.not_mem_nil, by decide +kernel, by decide +kernel⟩, by decide +kernel,
    by decide +kernel, by decide +kernel⟩

/-- The byte at the offset 0 of block 0 of core 0 after a step. -/
def syncByte (r : Host.Outcome State Fault Refusal) : Option Byte :=
  match r with
  | .next t => ((t.core 0).block? 0).map fun b => Memory.get b.spad 0
  | _ => none

/-- The REL has not written its word: `execRel` asks first whether the operation may be attempted. -/
theorem fencedRel_waits : syncByte (exec (.rel plainCtl relObj) fencedState) = some 0 := by decide +kernel

/-- An attempt that does not ask would have added 1 to it. -/
theorem fencedRel_attempted : syncByte (.next ((fencedState.save ((relRule plainCtl relObj).after fencedCtx)).attempt 0 0 2
    fun s k => s.tryRel 0 k)) = some 1 := by decide +kernel

/-- Refutes O14: behind an open FENCE of its wave a scratchpad-only REL waits, as item 5 of R190 asks, where
ScratchpadRelCompletes has it attempted at issue whatever is open. -/
theorem not_entryConsistency : ¬ Obligations.EntryConsistency := by
  rintro ⟨-, -, releases, -⟩
  have step := releases plainCtl relObj fencedState fencedCtx 0 fencedRel_ready (by decide +kernel) (by decide +kernel)
    (by decide +kernel) (by decide +kernel)
  have written := (congrArg syncByte step).trans fencedRel_attempted
  rw [fencedRel_waits] at written
  exact absurd written (by decide)

end Sys2Proof.Claim
end

section
/-! SUPPORT. Words on objects as they issue, and what a save and a write-back leave of the blocks of a core (R97, R168, R181,
R188, R303, R317). -/

open Sys2Proof Sys2Proof.Machine

set_option Elab.async false

namespace Sys2Proof.Machine

/-! ## Blocks that stand as before -/

theorem Core.anyBlock?_of_block? {x : Core} {k : Nat} {b : Block} (h : x.block? k = some b) : x.anyBlock? k = some b := by
  rw [Core.anyBlock?, h]

/-- The context of a word that has issued holds its own block. -/
theorem Ctx.block?_saved {z : Ctx} {b : Block} (h : z.core.block? z.block.slot = some b) :
    z.saved.block? z.block.slot = some z.block := by
  refine (find?_updFirst _ _ _ fun y hy => by simp).trans ?_
  rw [Core.setWave_blocks, show z.core.blocks.find? (fun y => y.slot == z.block.slot) = some b from h]
  rfl

theorem State.blockAt_save {s : State} {z : Ctx} {b : Block} (h : z.core.block? z.block.slot = some b) :
    (s.save z).blockAt z.c z.block.slot = some z.block := by
  rw [State.blockAt, State.save, State.core_setCore_self]
  exact Core.anyBlock?_of_block? (Ctx.block?_saved h)

theorem State.core_l1WriteBack (s : State) (c d : Nat) (q : Nat → CByte → Bool) : (s.l1WriteBack c q).core d
    = if c = d then { s.core d with l1 := cleanBytes (s.core d).l1 q } else s.core d :=
  State.core_updCore ..

theorem State.core_l2WriteBack (s : State) (e d : Nat) (q : Nat → CByte → Bool) : (s.l2WriteBack e q).core d = s.core d := rfl

theorem State.blockAt_writeBack (s : State) (c d b : Nat) (scope : BitVec 3) (q : Nat → CByte → Bool) :
    (s.writeBack c scope q).blockAt d b = s.blockAt d b := by
  rw [State.blockAt, State.writeBack, State.core_l2WriteBack, State.core_l1WriteBack]
  split <;> rfl

/-- What a release writes back is no block's scratchpad (R97, R181). -/
theorem State.blockAt_release_all (s : State) (c d b : Nat) : (s.release c [] true).blockAt d b = s.blockAt d b :=
  State.blockAt_writeBack ..

/-- The barrier at an offset of a block's scratchpad. -/
theorem State.barAt_spad {s : State} {c b off : Nat} {y : Block} (h : s.blockAt c b = some y) :
    s.barAt (.spad c b off) = Bar.ofBytes (Memory.read y.spad off 16) := by
  rw [State.barAt, State.homeRead, h]
  rfl

/-! ## The context of a fragment -/

theorem Core.frag?_mapFrags {x : Core} {k : Nat} {f : Frag} (found : x.frag? k = some f) {u : Frag → Frag}
    (ids : ∀ f, (u f).id = f.id) : ({ x with frags := x.frags.map u } : Core).frag? k = some (u f) := by
  have same : (fun y : Frag => y.id == k) ∘ u = fun y => y.id == k := funext fun y => by rw [Function.comp, ids]
  show (x.frags.map u).find? (fun y => y.id == k) = _
  rw [List.find?_map, same, show x.frags.find? (fun y => y.id == k) = some f from found]
  rfl

theorem State.ctx?_of_found {s : State} {x : Ctx} {f : Nat} (cur : s.cur = some (x.c, f, x.word)) (core : s.core x.c = x.core)
    (frag : x.core.frag? f = some x.frag) (wave : x.core.wave? x.frag.wave = some x.wave)
    (block : x.core.block? x.wave.block = some x.block) : s.ctx? = some x := by
  simp only [State.ctx?, cur, core, frag, wave, block]

end Sys2Proof.Machine

namespace Sys2Proof.Claim

/-! ## Words on objects -/

theorem issueObject_of_ready {s : State} {x : Ctx} {g : Ctl} {o : MB} {regs : List Nat} {srcs : List Src} {align n : Nat}
    {reads : Bool} (h : ObjReady s x g o regs srcs align n reads) (k : Ctx → LaneMask → Obj → State) :
    issueObject s g o regs srcs align n reads k = .next (k x (x.active g) (mbObj x o)) := by
  rw [issueObject_eq_issueChecked, issueChecked_of_regs _ h.frag.ctx (List.all_eq_true.mpr h.budget),
    issueFragment_of_ready h.frag, h.object]

/-- A word with the rule of an object word finds its object in order. -/
theorem objReady_of_opReady {s : State} {x : Ctx} {g : Ctl} {o : MB} {srcs : List Src} {count : Count} {kind : Nat}
    {commits : Bool} {align n : Nat} {reads : Bool} {work : Ctx → Work} {regions : Ctx → List (DWord × Nat)}
    {needs : State → Ctx → Prop} (h : OpReady s x (objectOp g o srcs count kind commits align n reads work regions needs)) :
    ObjReady s x g o [] srcs align n reads where
  frag := ⟨h.ready.ctx, h.some, h.ready.guard, h.ready.clean⟩
  budget := h.ready.budget
  object := h.needs.1

/-- The wait of a word that is performed at its issue, as the claims say it. -/
theorem spadWaits_iff_not_clear (x : Ctx) (rs : List (Nat × Nat)) : x.spadWaits rs = true ↔ ¬ clear x rs := by
  refine ⟨fun waits free => by simp [spadWaits_of_clear free] at waits, fun held => ?_⟩
  simp only [clear, not_forall, not_and_or] at held
  obtain ⟨p, mem, unresolved, own, held⟩ := held
  rw [Ctx.spadWaits, List.any_eq_true]
  refine ⟨p, mem, ?_⟩
  simp only [unresolved, own, beq_self_eq_true, Bool.and_self, Bool.true_and, Bool.or_eq_true, Bool.and_eq_true,
    List.any_eq_true, decide_eq_true_eq]
  obtain acquires | ⟨settles, a, ha, b, hb, overlap⟩ := held
  · exact .inl (by simpa using acquires)
  · exact .inr ⟨settles, a, ha, b, hb, by omega⟩

end Sys2Proof.Claim
end

section
/-! PROOFS. BINIT and ARRIVE in scratchpad, and the update of a barrier (R165, R166, R188, R189, R191, R197, R298, R318, R323,
R324, R400). -/

open Sys2Proof Sys2Proof.Machine

set_option Elab.async false

namespace Sys2Proof.Claim

/-! ## BINIT -/

theorem exec_binit (s : State) (g : Ctl) (o : MB) : exec (.binit g o) s = execBinit g o s := rfl

theorem init_eq_freshBar (a b : Nat) : Bar.init a b = freshBar a b := rfl

theorem scratchpadBinitCompletes : ScratchpadBinitCompletes := by
  intro g o s x off h
  refine ⟨fun obj free => ?_, fun obj held => ?_⟩ <;> rw [exec_binit, execBinit, issueObject_of_ready h, obj]
  · have free : x.spadWaits [(Obj.spad off).range 16] = false := spadWaits_of_clear free
    simp only [free, Bool.false_eq_true, if_false, commitStore_eq_committed, init_eq_freshBar]
    rfl
  · have held : x.spadWaits [(Obj.spad off).range 16] = true := (spadWaits_iff_not_clear ..).mpr held
    simp only [held, if_true]

/-! ## ARRIVE -/

theorem exec_arrive (s : State) (g : Ctl) (o : MB) : exec (.arrive g o) s = execArrive g o s := rfl

/-- Nothing holds back an arrival that takes no number, with ALL neither (R168, R188 to R191, R400). -/
theorem arriveWaits_of_clear {s : State} {x : Ctx} {off : Nat} {all : Bool} (free : clear x (spadAt off 16))
    (settled : all = true → (x.frag.handler = true ∨ x.wave.shp = false ∧ x.wave.hzn = x.wave.seq) ∧
      x.wave.hostOwed = false ∧ s.releaseFault x.c [] true = none) : s.arriveWaits x (.spad off) all = false := by
  have free : x.spadWaits [(Obj.spad off).range 16] = false := spadWaits_of_clear free
  rw [State.arriveWaits, free, Bool.false_or]
  cases all with
  | false => rfl
  | true =>
    obtain ⟨oldest, owed, fault⟩ := settled rfl
    have closed : (!x.frag.handler && (x.wave.shp || x.wave.openCount != 0)) = false := by
      obtain handler | ⟨shp, reached⟩ := oldest
      · simp [handler]
      · simp [shp, Wave.openCount, reached]
    simp [closed, Wave.owesHost, owed, fault]

/-- The code of an arrival is that of the target that it expects (R324). -/
def targetCode (expect : Option (BitVec 16)) (atgt : Nat) : BitVec 16 :=
  match expect with
  | some t => if t.toNat = atgt then 0 else eBarrierTarget
  | none => 0

theorem arriveAt_eq (s : State) (h : Home) (n : Nat) (expect : Option (BitVec 16)) :
    s.arriveAt h n expect = s.barUpdate h n 0 (targetCode expect (s.barAt h).atgt) := rfl

theorem targetCode_cases (expect : Option (BitVec 16)) (atgt : Nat) :
    targetCode expect atgt = 0 ∨ targetCode expect atgt = eBarrierTarget := by
  unfold targetCode
  split
  · split
    · exact .inl rfl
    · exact .inr rfl
  · exact .inl rfl

theorem targetCode_eq_iff (on : Bool) (t : BitVec 16) (atgt : Nat) :
    targetCode (if on then some t else none) atgt = eBarrierTarget ↔ on = true ∧ t.toNat ≠ atgt := by
  have differ : ¬ 0#16 = eBarrierTarget := by decide
  cases on with
  | false => simpa [targetCode] using differ
  | true =>
    by_cases same : t.toNat = atgt
    · simpa [targetCode, same] using differ
    · simp [targetCode, same]

/-- A committed store changes fragments only (R179). -/
theorem committed_eq (x : Ctx) :
    ∃ frags frag, committed x = { x with core := { x.core with frags := frags }, frag := frag } := by
  unfold committed
  split
  · exact ⟨_, _, rfl⟩
  · exact ⟨_, _, rfl⟩

/-- An arrival leaves the bytes of its barrier to its one update: neither its fragment's step nor its write-back changes
them. -/
theorem barAt_arrive {s : State} {x : Ctx} (hx : s.ctx? = some x) (sw all : Bool) (off : Nat) :
    let t := s.save ((committed x).done sw)
    (if all then t.release x.c [] true else t).barAt (.spad x.c x.block.slot off)
      = Bar.ofBytes (Memory.read x.block.spad off 16) := by
  intro t
  obtain ⟨-, -, -, found⟩ := State.ctx?_eq hx
  rw [← Core.block?_slot found] at found
  have own : t.blockAt x.c x.block.slot = some x.block := by
    obtain ⟨frags, frag, same⟩ := committed_eq x
    show (s.save ((committed x).done sw)).blockAt x.c x.block.slot = some x.block
    rw [same]
    exact State.blockAt_save (z := Ctx.done _ sw) found
  cases all with
  | false => exact State.barAt_spad own
  | true => exact State.barAt_spad ((State.blockAt_release_all ..).trans own)

theorem scratchpadArriveCompletes : ScratchpadArriveCompletes := by
  intro g o s x off h obj unbound free settled t
  have plain : numbered (.spad off) (x.core.regionsOf x.block.slot (.spad off)) = false := by
    rw [bound, obj] at unbound
    simp only [numbered, unbound]
    rfl
  refine ⟨targetCode (if mbBit o 28 then some (o.low.extractLsb' 12 16) else none)
    (recNat (Memory.read x.block.spad off 16) 0 2), ?_, targetCode_eq_iff .., targetCode_cases ..⟩
  rw [exec_arrive, execArrive, issueObject_of_ready h, obj]
  simp only [plain, arriveWaits_of_clear free settled, Bool.false_eq_true, if_false, commitStore_eq_committed, arriveAt_eq]
  have bar := barAt_arrive h.frag.ctx g.sw (mbBit o 11) off
  simp only at bar
  rw [bar]
  rfl

/-! ## The update of a barrier -/

/-- A barrier after the codes that an update records: its own code, then that of an overrun (R166). -/
def recorded (b : Bar) (a n : Nat) (code : BitVec 16) : Bar × Nat :=
  let x := if code ≠ 0 then Bar.recordErr (b, 0) code else (b, 0)
  if a > b.apend ∨ n > b.bpend then Bar.recordErr x eBarrierOverrun else x

section
variable (b : Bar) (a n : Nat) (code : BitVec 16)

theorem update_of_ends (ends : b.apend ≤ a ∧ b.bpend ≤ n) : (b.update a n code).1 = { (recorded b a n code).1 with
    phase := (b.phase + 1) % 65536, apend := b.atgt, bpend := b.btgt } := by
  have zero : b.apend - min a b.apend = 0 ∧ b.bpend - min n b.bpend = 0 := by omega
  exact congrArg Prod.fst (if_pos zero)

theorem update_of_goesOn (goesOn : ¬ (b.apend ≤ a ∧ b.bpend ≤ n)) : (b.update a n code).1 = { (recorded b a n code).1 with
    apend := b.apend - a, bpend := b.bpend - n } := by
  have nonzero : ¬ (b.apend - min a b.apend = 0 ∧ b.bpend - min n b.bpend = 0) := by omega
  have left : b.apend - min a b.apend = b.apend - a ∧ b.bpend - min n b.bpend = b.bpend - n := by omega
  rw [← left.1, ← left.2]
  exact congrArg Prod.fst (if_neg nonzero)

theorem update_err : (b.update a n code).1.err = (recorded b a n code).1.err := by
  by_cases ends : b.apend ≤ a ∧ b.bpend ≤ n
  · rw [update_of_ends b a n code ends]
  · rw [update_of_goesOn b a n code ends]

end

/-- A recorded code is the barrier's error where it had none, and lost otherwise. -/
theorem recordErr_if (p : Prop) [Decidable p] (x : Bar × Nat) (code : BitVec 16) :
    (if p then Bar.recordErr x code else x).1 = { x.1 with err := if p ∧ x.1.err = 0 then code.toNat else x.1.err } := by
  by_cases records : p
  · by_cases clean : x.1.err = 0
    · simp only [Bar.recordErr, records, clean, and_self, if_true]
    · simp only [Bar.recordErr, records, clean, and_false, if_true, if_false]
  · simp only [records, false_and, if_false]

/-- The error of a barrier after an update: its first one, then the update's own code, then that of an overrun. -/
def firstErr (b : Bar) (a n : Nat) (code : BitVec 16) : Nat :=
  let own := if code ≠ 0 ∧ b.err = 0 then code.toNat else b.err
  if (a > b.apend ∨ n > b.bpend) ∧ own = 0 then eBarrierOverrun.toNat else own

theorem recorded_fst (b : Bar) (a n : Nat) (code : BitVec 16) :
    (recorded b a n code).1 = { b with err := firstErr b a n code } := by
  rw [recorded, recordErr_if, recordErr_if]
  rfl

theorem barrierUpdateRule : BarrierUpdateRule := by
  intro b a n code u
  have err : u.1.err = firstErr b a n code := (update_err b a n code).trans (congrArg Bar.err (recorded_fst b a n code))
  have targets : u.1.atgt = b.atgt ∧ u.1.btgt = b.btgt := by
    by_cases ends : b.apend ≤ a ∧ b.bpend ≤ n
    · simp only [u, update_of_ends b a n code ends, recorded_fst, and_self]
    · simp only [u, update_of_goesOn b a n code ends, recorded_fst, and_self]
  refine ⟨targets.1, targets.2, fun ends => ?_, fun goesOn => ?_, fun erred => ?_, fun clean coded => ?_,
    fun clean uncoded overrun => ?_, fun clean uncoded arrivals bytes => ?_⟩
  · simp only [u, update_of_ends b a n code ends, and_self]
  · simp only [u, update_of_goesOn b a n code goesOn, recorded_fst, and_self]
  · simp [err, firstErr, erred]
  · have nonzero : ¬ code.toNat = 0 := fun z => coded (BitVec.eq_of_toNat_eq z)
    simp only [err, firstErr, clean, nonzero, ne_eq, coded, not_false_eq_true, and_self, and_false, if_true, if_false]
  · simp only [err, firstErr, clean, uncoded, overrun, gt_iff_lt, ne_eq, not_true_eq_false, false_and, and_self, if_true,
      if_false]
  · simp only [err, firstErr, clean, uncoded, arrivals.not_gt, bytes.not_gt, ne_eq, not_true_eq_false, false_and, or_self,
      if_false]

/-- Settles O16: a word on an object in scratchpad finds its bytes as they were before its own fragment's step, and an update
records its codes before it counts. -/
theorem scratchpadBarriers : Obligations.ScratchpadBarriers :=
  ⟨scratchpadBinitCompletes, scratchpadArriveCompletes, barrierUpdateRule⟩

end Sys2Proof.Claim
end

section
/-! PROOFS. WAITPH, TRYPH and WAITHZ, which park or go on (R169 to R171, R192, R298, R325, R326, R329). -/

open Sys2Proof Sys2Proof.Machine

set_option Elab.async false

namespace Sys2Proof.Claim

/-! ## WAITPH -/

theorem exec_waitph (s : State) (g : Ctl) (o : MB) : exec (.waitph g o) s = execWaitph g o s := rfl

theorem waitphCompletes : WaitphCompletes := by
  intro g o s x h plain free home
  have plain : numbered (mbObj x o) (x.core.regionsOf x.block.slot (mbObj x o)) = false := plain
  refine ⟨fun same => ?_, fun past => ?_⟩ <;>
    rw [exec_waitph, execWaitph, issueObject_of_ready h] <;>
    simp only [plain, spadWaits_of_clear free, Bool.false_eq_true, if_false]
  · rw [if_pos same]
    rfl
  · rw [if_neg past]
    rfl

theorem numberedWaitphCompletes : NumberedWaitphCompletes := by
  intro g o s x h room num y tried
  have num : numbered (mbObj x o) (x.core.regionsOf x.block.slot (mbObj x o)) = true := num
  have step : exec (.waitph g o) s = .next (if (tried y).opOver x.c x.wave.slot x.wave.seq then tried y
      else tried (withFrag y (parked x g.sw (.waitph (mbObj x o) (mbPhase x o) (some x.wave.seq))).frag)) := by
    rw [exec_waitph, execWaitph, issueObject_of_ready (objReady_of_opReady h)]
    simp only [num, room, Bool.not_true, Bool.false_eq_true, if_false, if_true]
    rfl
  exact ⟨fun ends => by rw [step, if_pos ends], fun goesOn => by rw [step, goesOn, if_neg Bool.false_ne_true]⟩

/-! ## TRYPH -/

theorem exec_tryph (s : State) (g : Ctl) (o : MB) : exec (.tryph g o) s = execTryph g o s := rfl

/-- A predicate written in the lanes of a mask takes of its new value those lanes only (R74). -/
theorem putP_congr {m v u : LaneMask} (same : v &&& m = u &&& m) (w : Wave) (h : Bool) (k : Nat) :
    w.putP h k m v = w.putP h k m u := by
  simp only [Wave.putP, same]

theorem setP_congr {m v u : LaneMask} (same : v &&& m = u &&& m) (x : Ctx) (d : Nat) : x.setP d m v = x.setP d m u := by
  simp only [Ctx.setP, putP_congr same]

theorem raiseFlags_zero (x : Ctx) : x.raiseFlags 0 = x := by
  unfold Ctx.raiseFlags
  split
  · rfl
  · rw [show x.wave.fpflags ||| 0 = x.wave.fpflags from BitVec.or_zero]

/-- One truth value for every active lane, as a predicate word writes it. -/
theorem setP_eq_setPredLanes (x : Ctx) (d : Nat) (m : LaneMask) (past : Bool) :
    x.setP d m (if past then BitVec.allOnes 64 else 0) = x.setPredLanes d m fun _ => (past, 0) := by
  rw [Ctx.setPredLanes_eq, allFlags_zero, raiseFlags_zero]
  refine setP_congr (BitVec.eq_of_getLsbD_eq fun l hl => ?_) x d
  rw [BitVec.getLsbD_and, BitVec.getLsbD_and, getLsbD_maskOf _ hl]
  cases past with
  | false => simp
  | true =>
    have ones : (BitVec.allOnes 64).getLsbD l = true := by rw [BitVec.getLsbD_allOnes, decide_eq_true hl]
    simp only [if_true, ones, Bool.true_and, Bool.and_true, Bool.and_self]

/-- A TRYPH on an object that takes no number writes at once whether the phase has passed. -/
theorem exec_tryph_of_plain {s : State} {x : Ctx} {g : Ctl} {o : MB} (h : ObjReady s x g o [] (phaseSrcs o) 16 16 true)
    (plain : numbered (mbObj x o) (bound x o) = false) (free : clear x [(mbObj x o).range 16]) {past : Bool}
    (phase : (s.phaseAt (ownHome x.c x.block.slot (mbObj x o)) != (mbPhase x o).toNat) = past) :
    let t := s.save ((x.setPredLanes (o.low.extractLsb' 9 3).toNat (x.active g) fun _ => (past, 0)).done g.sw)
    exec (.tryph g o) s = .next (if past then t.join x.c (ownHome x.c x.block.slot (mbObj x o)) else t) := by
  have plain : numbered (mbObj x o) (x.core.regionsOf x.block.slot (mbObj x o)) = false := plain
  rw [exec_tryph, execTryph, issueObject_of_ready h]
  simp only [plain, spadWaits_of_clear free, phase, setP_eq_setPredLanes, Bool.false_eq_true, if_false]

theorem tryphCompletes : TryphCompletes := by
  intro g o s x h
  refine ⟨fun plain free same => ?_, fun plain free past => ?_, fun num room => ?_⟩
  · exact ⟨_, _, exec_tryph_of_plain (past := false) h plain free (by simpa using same),
      predEffect_setPredLanes h.frag.ctx g _ _⟩
  · exact ⟨_, _, exec_tryph_of_plain (past := true) h plain free (by simpa using past),
      predEffect_setPredLanes h.frag.ctx g _ _⟩
  · have num : numbered (mbObj x o) (x.core.regionsOf x.block.slot (mbObj x o)) = true := num
    rw [exec_tryph, execTryph, issueObject_of_ready h]
    simp only [num, room, Bool.not_true, Bool.false_eq_true, if_false, if_true]
    rfl

/-! ## WAITHZ -/

theorem exec_waithz (s : State) (g : Ctl) (o : MB) : exec (.waithz g o) s = execWaithz g o s := rfl

/-- Where no entry of a list passes a test, only the entry that replaces one of them may. -/
theorem filter_updFirst {α : Type} {p q : α → Bool} {l : List α} {a b : α} (found : l.find? p = some a)
    (none : ∀ y ∈ l, q y = false) : (updFirst p (fun _ => b) l).filter q = if q b then [b] else [] := by
  induction l with
  | nil => cases found
  | cons y r ih =>
    have rest : ∀ z ∈ r, q z = false := fun z hz => none z (List.mem_cons_of_mem _ hz)
    by_cases hp : p y = true
    · have : r.filter q = [] := List.filter_eq_nil_iff.mpr fun z hz => by simp [rest z hz]
      rw [updFirst, if_pos hp, List.filter_cons, this]
    · rw [updFirst, if_neg hp, List.filter_cons, none y List.mem_cons_self, if_neg Bool.false_ne_true]
      exact ih (by simpa [hp] using found) rest

theorem updFirst_self {α : Type} (p : α → Bool) (l : List α) : updFirst p (fun y => y) l = l := by
  induction l with
  | nil => rfl
  | cons y r ih => by_cases hp : p y = true <;> simp [updFirst, hp, ih]

/-- The arrivals on the horizon barrier of a wave, one for each fragment of a list that is due (R171). -/
theorem arriveHz_of_wave {x : Core} {k : Nat} {w : Wave} {due : List Frag} (wave : x.wave? k = some w)
    (all : (x.frags.filter fun f => f.hzDue w) = due) :
    x.arriveHz k = { x.updWave k (fun y => due.foldl (fun y _ => y.arriveHz) y) with
      frags := x.frags.map fun f => if f.hzDue w then f.hzFree else f } := by
  subst all
  rw [Core.arriveHz, wave]

theorem arriveHz_of_none {x : Core} {k : Nat} {w : Wave} (wave : x.wave? k = some w)
    (none : (x.frags.filter fun f => f.hzDue w) = []) : x.arriveHz k = x := by
  have same : (x.frags.map fun f => if f.hzDue w then f.hzFree else f) = x.frags := by
    refine (List.map_congr_left fun f hf => if_neg ?_).trans (List.map_id x.frags)
    exact List.filter_eq_nil_iff.mp none f hf
  rw [arriveHz_of_wave wave none, same, Core.updWave]
  simp only [List.foldl_nil, updFirst_self]

/-- One arrival ends the phase of the horizon barrier, whose targets are 1 and 0 (R166, R170). -/
theorem arriveHz_phase (w : Wave) : w.arriveHz = { w with hzPhase := w.hzPhase + 1 } := by
  have next : BitVec.ofNat 16 ((w.hzPhase.toNat + 1) % 65536) = w.hzPhase + 1 := by
    apply BitVec.eq_of_toNat_eq
    simp
  rw [← next]
  rfl

theorem reached_seq (w : Wave) : w.reached w.seq = decide (w.hzn = w.seq) := by
  rw [Wave.reached, decide_eq_false (lt_irrefl _), Bool.or_false, beq_eq_decide]
  simp only [eq_comm]

/-- A fragment that waits for a number which HZN has not reached is not due. -/
theorem hzDue_false {w : Wave} {f : Frag} (later : f.wave = w.slot → ∀ n, f.park = .waithz n →
    n ≠ w.hzn ∧ (n - w.hzn).toNat ≤ (w.seq - w.hzn).toNat) : f.hzDue w = false := by
  unfold Frag.hzDue
  by_cases own : f.wave = w.slot
  · split
    · next n park =>
      obtain ⟨other, inWindow⟩ := later own n park
      have early : w.reached n = false := by
        rw [Wave.reached, beq_false_of_ne other, decide_eq_false inWindow.not_gt]
        rfl
      rw [early, Bool.and_false]
    · simp
  · simp [own]

theorem frag?_saved_parked {x : Ctx} {f : Nat} (frag : x.core.frag? f = some x.frag) (sw : Bool) (p : Park) :
    (parked x sw p).saved.frag? f = some (parked x sw p).frag := by
  have id := Core.frag?_id frag
  subst id
  refine (find?_updFirst _ _ _ fun y hy => by simp [parked]).trans ?_
  exact congrArg (Option.map fun _ => (parked x sw p).frag) frag

section
variable {s : State} {x : Ctx} {p : Park} (hx : s.ctx? = some x) (sw : Bool)
include hx

theorem wave?_saved_parked : (parked x sw p).saved.wave? x.wave.slot = some x.wave := by
  obtain ⟨-, -, wave, -⟩ := State.ctx?_eq hx
  rw [← Core.wave?_slot wave] at wave
  refine (find?_updFirst _ _ _ fun y hy => by simp [parked]).trans ?_
  exact congrArg (Option.map fun _ => x.wave) wave

/-- A fragment that parks on its wave's horizon barrier is due where HZN has reached its number. -/
theorem hzDue_parked : (parked x sw (.waithz x.wave.seq)).frag.hzDue x.wave = decide (x.wave.hzn = x.wave.seq) := by
  obtain ⟨-, -, wave, -⟩ := State.ctx?_eq hx
  have wave : x.frag.wave = x.wave.slot := (Core.wave?_slot wave).symm
  have own : (x.frag.wave == x.wave.slot) = true := by rw [wave, beq_self_eq_true]
  exact (congrArg₂ and own (reached_seq x.wave)).trans (Bool.true_and _)

/-- It is due then, and no other fragment is. -/
theorem due_saved_parked (later : ∀ f ∈ x.core.frags, f.wave = x.wave.slot → ∀ n, f.park = .waithz n →
      n ≠ x.wave.hzn ∧ (n - x.wave.hzn).toNat ≤ (x.wave.seq - x.wave.hzn).toNat) :
    let z := parked x sw (.waithz x.wave.seq)
    (z.saved.frags.filter fun f => f.hzDue x.wave) = if x.wave.hzn = x.wave.seq then [z.frag] else [] := by
  intro z
  obtain ⟨-, ⟨f, -, frag⟩, -, -⟩ := State.ctx?_eq hx
  have id := Core.frag?_id frag
  subst id
  refine (filter_updFirst (show x.core.frags.find? _ = some x.frag from frag) fun f hf => hzDue_false (later f hf)).trans ?_
  rw [hzDue_parked hx sw]
  simp only [decide_eq_true_eq]

/-- The one arrival on the horizon barrier of a wave whose only due fragment is the one that issues (R171). -/
theorem ctx?_arriveHz_parked (later : ∀ f ∈ x.core.frags, f.wave = x.wave.slot → ∀ n, f.park = .waithz n →
      n ≠ x.wave.hzn ∧ (n - x.wave.hzn).toNat ≤ (x.wave.seq - x.wave.hzn).toNat) (reached : x.wave.hzn = x.wave.seq) :
    let z := parked x sw (.waithz x.wave.seq)
    let core := z.saved.arriveHz x.wave.slot
    (s.setCore x.c core).ctx? = some { x with core := core, wave := x.wave.arriveHz, frag := z.frag.hzFree } := by
  intro z core
  obtain ⟨-, ⟨f, cur, frag⟩, ofFrag, ofWave⟩ := State.ctx?_eq hx
  have slot := Core.wave?_slot ofFrag
  rw [← slot] at ofFrag
  have waves := wave?_saved_parked (p := .waithz x.wave.seq) hx sw
  have due : (z.saved.frags.filter fun f => f.hzDue x.wave) = [z.frag] :=
    (due_saved_parked hx sw later).trans (if_pos reached)
  have ends : z.frag.hzDue x.wave = true := by rw [hzDue_parked hx sw, reached, decide_eq_true rfl]
  have arrived : core = _ := arriveHz_of_wave waves due
  refine State.ctx?_of_found cur (State.core_setCore_self ..) ?_ ?_ ?_ <;> simp only [arrived]
  · refine (Core.frag?_mapFrags (frag?_saved_parked frag sw _) fun f => ?_).trans (congrArg some (if_pos ends))
    split <;> rfl
  · show (updFirst _ _ z.saved.waves).find? (fun y => y.slot == x.frag.wave) = _
    rw [← slot]
    have kept : ∀ y : Wave, (y.slot == x.wave.slot) = true → (y.arriveHz.slot == x.wave.slot) = true := fun y hy => hy
    exact (find?_updFirst _ _ _ kept).trans (congrArg (Option.map Wave.arriveHz) waves)
  · have blocks : x.block.slot = x.wave.block := Core.block?_slot ofWave
    show z.saved.block? x.wave.block = some x.block
    rw [← blocks] at ofWave ⊢
    exact Ctx.block?_saved (z := z) ofWave

end

theorem hzFree_parked (x : Ctx) (sw : Bool) (p : Park) :
    (parked x sw p).frag.hzFree = { x.frag.past sw with holds := false } := rfl

theorem exec_waithz_of_ready {s : State} {x : Ctx} {g : Ctl} (o : MB) (h : FragReady s x g []) : exec (.waithz g o) s
    = .next (s.setCore x.c ((parked x g.sw (.waithz x.wave.seq)).saved.arriveHz x.wave.slot)) := by
  rw [exec_waithz, execWaithz, issueFragment_of_ready h]
  rfl

theorem waithzCompletes : WaithzCompletes := by
  intro g o s x h later
  have waves := wave?_saved_parked (p := .waithz x.wave.seq) h.ctx g.sw
  have due := due_saved_parked h.ctx g.sw later
  refine ⟨fun pending => ?_, fun reached => ?_⟩
  · rw [exec_waithz_of_ready o h, arriveHz_of_none waves (due.trans (if_neg pending))]
    rfl
  · exact ⟨_, _, exec_waithz_of_ready o h, rfl, fun c other => State.core_setCore_ne s _ other.symm,
      ctx?_arriveHz_parked h.ctx g.sw later reached, arriveHz_phase x.wave, hzFree_parked .., rfl⟩

/-- Settles O17: each wait is decided by its phase, or by the one fragment that is due at HZN. -/
theorem phaseWaits : Obligations.PhaseWaits :=
  ⟨waitphCompletes, numberedWaitphCompletes, tryphCompletes, waithzCompletes⟩

end Sys2Proof.Claim
end

section
/-! PROOFS. The commands of the Barrow at issue: accepted with their operands, or trapped on one of them (R172, R173, R237,
R334, R335, R343). -/

open Sys2Proof Sys2Proof.Machine

set_option Elab.async false

namespace Sys2Proof.Claim

/-- A new command enters behind the others of its core, and its word's number has resolved (R173, R343). -/
theorem newCmd_eq {r : CmdRule} {x : Ctx} :
    x.newCmd r.kind (r.dst x) (r.src x) (r.desc x) (r.bar x) (r.aux x) (r.len x)
      = { x with wave := engineWave x,
                 core := { x.core with cmds := x.core.cmds ++ [r.cmd x], nextCmd := x.core.nextCmd + 1 } } := by
  rw [Ctx.newCmd, engineOp_eq]
  rfl

/-- How a command of the Barrow issues: its operands trap first, then it waits behind acquires and for room (R189, R223,
R335). -/
def cmdWord (r : CmdRule) (s : State) : Host.Outcome State Fault Refusal :=
  issueFragment s r.g r.srcs fun x _ =>
    match r.traps x with
    | some t => s.raise x t
    | none =>
      if x.spadWaits [] || !x.opRoom .eng then s
      else s.save ((x.newCmd r.kind (r.dst x) (r.src x) (r.desc x) (r.bar x) (r.aux x) (r.len x)).done r.g.sw)

theorem exec_eq_cmdWord {i : Instr} {r : CmdRule} (s : State) (h : cmdRule i = some r) : exec i s = cmdWord r s := by
  unfold cmdRule at h
  split at h <;> cases h <;> rfl

theorem engineWordsComplete : EngineWordsComplete := by
  intro i r s x hr h fine free room
  rw [exec_eq_cmdWord s hr, cmdWord, issueFragment_of_ready h]
  simp only [fine, spadWaits_of_clear free, room, Bool.not_true, Bool.or_self, Bool.false_eq_true, if_false, newCmd_eq]
  rfl

/-- The barrier of a command is looked at before its other operands. -/
theorem traps_of_bar {i : Instr} {r : CmdRule} {x : Ctx} {t : Cause} (hr : cmdRule i = some r)
    (bad : x.barTrap (r.bar x) = some t) : r.traps x = some t := by
  unfold cmdRule at hr
  split at hr <;> cases hr
  case h_1 | h_2 | h_3 =>
    have bad : x.barTrap (locOf x _) = some t := bad
    simp only [directCmd, bad, Option.some_or]
  all_goals
    have bad : x.barTrap (locOf x _) = some t := bad
    simp only [descCmd, bad, Option.some_or]

theorem exec_cmd_trap {i : Instr} {r : CmdRule} {s : State} {x : Ctx} {t : Cause} (hr : cmdRule i = some r)
    (h : FragReady s x r.g r.srcs) (bad : x.barTrap (r.bar x) = some t) : exec i s = .next (s.raise x t) := by
  rw [exec_eq_cmdWord s hr, cmdWord, issueFragment_of_ready h, traps_of_bar hr bad]

theorem engineOperandTraps : EngineOperandTraps := by
  intro i r s x hr h
  refine ⟨fun odd => exec_cmd_trap hr h (if_pos odd), fun o aligned spad beyond => exec_cmd_trap hr h ?_⟩
  rw [Ctx.barTrap, if_neg (not_not.mpr aligned), spad, Ctx.locTrap, if_neg (by simp [beyond])]
  rfl

/-- Settles O29: each command issues in one way, its barrier's trap before its other operands'. -/
theorem engineWords : Obligations.EngineWords := ⟨engineWordsComplete, engineOperandTraps⟩

end Sys2Proof.Claim
end

section
/-! PROOFS. Global atomics and the updates of barriers at their homes (R165, R166, R168, R191, R301, R302, R310 to R313, R323,
R324, R401). -/

open Sys2Proof Sys2Proof.Machine

set_option Elab.async false

namespace Sys2Proof.Claim

section
variable {s : State} {c w : Nat} {n : HNum} {k : OpCtx} (h : Attempt s c w n k)
include h

/-! ## COLLIER_ATOMIC -/

theorem exec_collierAtomic_of_may : exec (.collierAtomic c w n) s = .next (s.tryAtomic c k) := by
  show execCollierAtomic c w n s = _
  rw [execCollierAtomic, if_neg h.core.not_ge, State.collierAtomic, h.op]
  simp only [h.may, if_true]

section
variable {ret : Option Nat} {cas : Bool} {aop : BitVec 4} {w64 : Bool} {ord : BitVec 2} {ps : List Piece}
  (work : k.o.work = .atomic false ret cas aop w64 ord) (fresh : k.o.answer = none) (pages : s.opPages c k = .go ps)
include work fresh

/-- Lanes that are refused or do not translate fail the whole atomic (R302, R313). -/
theorem collierAtomic_fails {e : BitVec 16} {a : DWord} (lanes : s.tryAtomicLanes c k cas aop = .fail e a) :
    exec (.collierAtomic c w n) s = .next (s.failOp c w n e a) := by
  have both : (Verdict.fail e a : Verdict (List (List Piece))).both (s.opPages c k) = .fail e a := by
    unfold Verdict.both
    rfl
  rw [exec_collierAtomic_of_may h, State.tryAtomic]
  simp only [work, fresh, lanes, both, withVerdict_fail h]

include pages

/-- Lanes of this module's own memory step at their homes, behind the write-back of a release (R311, R312). -/
theorem collierAtomic_goes {pss : List (List Piece)} (lanes : s.tryAtomicLanes c k cas aop = .go pss)
    (own : anyHost pss = false)
    (released : ord.getLsbD 1 = true → s.releaseFault c ps false = none ∧ k.w.hostOwed = false) :
    exec (.collierAtomic c w n) s = .next ((if ord.getLsbD 1 then s.release c ps false else s).performAtomic c k ret cas aop
      w64 ord pss ps []) := by
  rw [exec_collierAtomic_of_may h, State.tryAtomic]
  simp only [work, fresh, lanes, pages, both_go, withVerdict_go, own, Bool.false_eq_true, if_false]
  by_cases releases : ord.getLsbD 1 = true
  · obtain ⟨fine, owed⟩ := released releases
    simp only [releases, if_true, withRelease_of_none _ fine owed]
  · simp only [releases, Bool.false_eq_true, if_false]

end

end

/-- An access whose host refuses it is not admitted (R313). -/
theorem tryAtomicLanes_refused {s : State} {c : Nat} {k : OpCtx} {cas : Bool} {aop : BitVec 4} {r : Reach} {q : List Piece}
    (one : k.o.reaches .atomic = [r]) (reached : s.tryReach c k.root k.b.slot r = .go q)
    (refused : ∃ p ∈ q, placeClass p.x.place = 6 ∧ s.hostTakes cas aop p = false) :
    s.tryAtomicLanes c k cas aop = .fail eSysAtomicUnsupported r.va := by
  obtain ⟨p, mem, host, refuses⟩ := refused
  have some : s.hostRefuses cas aop q = some eSysAtomicUnsupported :=
    if_pos (List.any_eq_true.mpr ⟨p, mem, by simp [host, refuses]⟩)
  simp only [State.tryAtomicLanes, one, List.map_cons, List.map_nil, reached, Verdict.check, some, Verdict.all, Verdict.both]

theorem globalAtomicsPerformed : GlobalAtomicsPerformed := by
  intro s c w n k ret cas aop w64 ord pss ps h num slot work fresh pages
  refine ⟨?_, fun e a lanes => collierAtomic_fails h work fresh lanes,
    fun r q one reached refused => collierAtomic_fails h work fresh (tryAtomicLanes_refused one reached refused)⟩
  intro lanes own released s0 size t l homes fine r u
  rw [collierAtomic_goes h work fresh pages lanes own released, State.performAtomic]
  simp only [slot, num]
  simp only [t, s0, size] at homes fine
  simp only [homes, fine]
  rfl

/-! ## BARRIER_UPDATE -/

/-- A barrier operation that may be attempted is performed as its word says. -/
theorem exec_barrierUpdate_of_may {s : State} {c w : Nat} {n : HNum} {k : OpCtx} (h : Attempt s c w n k) {t : State}
    (performed : (∃ obj a b, k.o.work = .binit obj a b ∧ s.performBinit c k = t) ∨
      ∃ obj m e all, k.o.work = .arrive obj m e all ∧ s.performArrive c k = t) :
    exec (.barrierUpdate c w n) s = .next t := by
  show execBarrierUpdate c w n s = _
  rw [execBarrierUpdate, if_neg h.core.not_ge, State.barrierUpdate, attempt_eq h]
  obtain ⟨obj, a, b, work, rfl⟩ | ⟨obj, m, e, all, work, rfl⟩ := performed <;>
    simp only [h.may, work, Bool.not_true, Bool.false_eq_true, if_false]

theorem barrierUpdatesPerformed : BarrierUpdatesPerformed := by
  intro s c w n k obj home h u
  refine ⟨fun a b work reached => exec_barrierUpdate_of_may h (.inl ⟨_, _, _, work, ?_⟩),
    fun m e work unbound owed reached => exec_barrierUpdate_of_may h (.inr ⟨_, _, _, _, work, ?_⟩)⟩
  · simp only [State.performBinit, work, State.withObj, reached, withVerdict_go, init_eq_freshBar, h.slot, h.num]
    rfl
  · have pages : s.opPages c k = .go [] := opPages_of_none s c unbound (by rw [Op.writesAll, work])
    simp only [State.performArrive, work, State.withBoth, pages, reached, both_go, withVerdict_go, h.slot, h.num]
    rw [withRelease_of_none _ rfl owed]
    rfl

/-- Settles O35: each step goes on once its lanes and its object have been reached, and fails where they are not. -/
theorem atomicsAndBarriers : Obligations.AtomicsAndBarriers := ⟨globalAtomicsPerformed, barrierUpdatesPerformed⟩

end Sys2Proof.Claim
end

section
/-! PROOFS. The requests of the Staram: served, kept while it is busy, and refused in recovery (R177, R411 to R413, R415, R416,
R421, R424, R425). -/

open Sys2Proof Sys2Proof.Machine

set_option Elab.async false

namespace Sys2Proof.Machine

/-! ## Changes that are under way -/

/-- The start of a change asks for pre-emptions, which stand at the cores (R415). -/
theorem State.startJob_eq (s : State) : ∃ cores, s.startJob = { s with cores := cores } := by
  unfold State.startJob
  split
  · exact ⟨_, rfl⟩
  · next j _ _ =>
    refine List.foldlRecOn (motive := fun t : State => ∃ cores : Map Core, t = { s with cores := cores }) j.cores _
      ⟨s.cores, rfl⟩ ?_
    rintro _ ⟨cores, rfl⟩ c -
    split
    · exact ⟨_, rfl⟩
    · exact ⟨_, rfl⟩

/-- A change that a request asks for makes the Staram busy (R415). -/
theorem State.addJob_of_asked (s : State) {j : Job} (asked : j.asked = true) : ∃ cores,
    s.addJob j = { s with cores := cores, staram := { s.staram with busy := true, jobs := s.staram.jobs ++ [j] } } := by
  unfold State.addJob
  simp only [asked, if_true]
  split
  · exact State.startJob_eq _
  · exact ⟨_, rfl⟩

/-! ## The dies of an OP_SET -/

/-- A die takes a set point, and is brought to it where it is powered (R413, R415). -/
def State.setPoint (s : State) (mhz d : Nat) : State :=
  (s.updStaram fun m => { m with setPoint := Map.put m.setPoint d mhz,
                                 lowered := m.lowered.filter fun e => e != d }).setDiePoint d mhz true

theorem State.opSet_of_step {mhz : Nat} (step : isStep mhz = true) (s : State) (mask : BitVec 8) : s.opSet mask mhz
    = (((List.range 8).filter fun d => mask.getLsbD d).foldl (fun s d => s.setPoint mhz d) s).answerLater := by
  simp only [State.opSet, step, Bool.not_true, Bool.false_eq_true, if_false]
  rfl

/-- What the dies of an OP_SET leave: their set points, and a Staram that is busy where one of them is powered. -/
structure State.PointsSet (s t : State) (mhz : Nat) (ds : List Nat) : Prop where
  mem : t.mem = s.mem
  msix : t.msix = s.msix
  dies : t.dies = s.dies
  points : ∀ d, t.staram.setPointOf d = if d ∈ ds then mhz else s.staram.setPointOf d
  busy : t.staram.busy = (s.staram.busy || ds.any fun d => !s.dieGated d)

namespace State.PointsSet

theorem refl (s : State) (mhz : Nat) : s.PointsSet s mhz [] := ⟨rfl, rfl, rfl, fun _ => by simp, by simp⟩

theorem dieGated {s t : State} {mhz : Nat} {ds : List Nat} (h : s.PointsSet t mhz ds) (d : Nat) :
    t.dieGated d = s.dieGated d := by
  rw [State.dieGated, State.die, h.dies]
  rfl

theorem trans {s t u : State} {mhz : Nat} {ds es : List Nat} (h : s.PointsSet t mhz ds) (k : t.PointsSet u mhz es) :
    s.PointsSet u mhz (ds ++ es) where
  mem := k.mem.trans h.mem
  msix := k.msix.trans h.msix
  dies := k.dies.trans h.dies
  points d := by
    rw [k.points, h.points]
    by_cases first : d ∈ ds <;> by_cases second : d ∈ es <;> simp [first, second]
  busy := by simp only [k.busy, h.busy, h.dieGated, List.any_append, Bool.or_assoc]

theorem setPointOf_put (m : Staram) (mhz d e : Nat) :
    Map.get (Map.put m.setPoint d mhz) e 800 = if e ∈ [d] then mhz else m.setPointOf e := by
  simp only [Map.get_put, List.mem_singleton, eq_comm (a := d), Staram.setPointOf]

theorem setPoint (s : State) (mhz d : Nat) : s.PointsSet (s.setPoint mhz d) mhz [d] := by
  by_cases gated : s.dieGated d = true
  · have kept : s.setPoint mhz d = _ := if_pos gated
    rw [kept]
    exact ⟨rfl, rfl, rfl, setPointOf_put s.staram mhz d, by simp [State.updStaram, gated]⟩
  · have brought : s.setPoint mhz d = _ := if_neg gated
    obtain ⟨cores, job⟩ := State.addJob_of_asked (s.updStaram fun m => { m with
      setPoint := Map.put m.setPoint d mhz, lowered := m.lowered.filter fun e => e != d })
      (j := { cores := coresOfDie d, change := .point d mhz, half := false, asked := true }) rfl
    rw [brought, job]
    exact ⟨rfl, rfl, rfl, setPointOf_put s.staram mhz d, by simp [gated]⟩

theorem foldl (mhz : Nat) (ds : List Nat) (s : State) : s.PointsSet (ds.foldl (fun s d => s.setPoint mhz d) s) mhz ds := by
  induction ds generalizing s with
  | nil => exact refl s mhz
  | cons d r ih => exact (setPoint s mhz d).trans (ih _)

end State.PointsSet

end Sys2Proof.Machine

namespace Sys2Proof.Claim

/-! ## How a request is taken -/

section
variable {s : State}

theorem request_served (up : s.up = true) (good : s.staram.recovery = false) (idle : s.staram.busy = false) (r : Request) :
    s.request r = s.handle r := by
  simp only [State.request, good, State.firmwareRuns, up, idle, Bool.or_true, Bool.not_true, Bool.not_false,
    Bool.false_eq_true, if_false, if_true]

/-- A request that finds the Staram busy (R411, R412). -/
theorem request_busy (up : s.up = true) (good : s.staram.recovery = false) (busy : s.staram.busy = true) (r : Request) :
    s.request r = if s.staram.queue.length < Config.requestRoom then
      s.updStaram fun m => { m with queue := m.queue ++ [r] } else s.answer statusBusy := by
  simp only [State.request, good, State.firmwareRuns, up, busy, Bool.or_true, Bool.not_true, Bool.false_eq_true, if_false]

theorem identity_served (up : s.up = true) (good : s.staram.recovery = false) (r : Response) :
    s.identity r = s.answer r := by
  simp only [State.identity, good, State.firmwareRuns, up, Bool.or_true, Bool.not_true, Bool.false_eq_true, if_false]

end

/-! ## OP_SET and CAP_SET -/

theorem exec_opSet (s : State) (mask : BitVec 8) (mhz : Nat) : exec (.opSet mask mhz) s = .next (s.request (.opSet mask mhz)) :=
  rfl

theorem exec_capSet (s : State) (watts : Nat) : exec (.capSet watts) s = .next (s.request (.capSet watts)) := rfl

theorem mem_dies_iff (mask : BitVec 8) {d : Nat} (hd : d < 8) :
    d ∈ ((List.range 8).filter fun d => mask.getLsbD d) ↔ mask.getLsbD d = true := by
  simp [hd]

theorem anyPowered_iff (s : State) (mask : BitVec 8) :
    (((List.range 8).filter fun d => mask.getLsbD d).any fun d => !s.dieGated d) = true ↔
      ∃ d, d < 8 ∧ mask.getLsbD d = true ∧ s.dieGated d = false := by
  simp

/-- An OP_SET completes at once where no die of its mask is powered, and else later. -/
theorem answerLater_cases (t : State) : (t.staram.busy = true ∧ t.answerLater = t) ∨
    (t.staram.busy = false ∧ t.answerLater = t.answer statusDone) := by
  rw [State.answerLater]
  cases t.staram.busy
  · exact .inr ⟨rfl, rfl⟩
  · exact .inl ⟨rfl, rfl⟩

theorem opSet_of_pointsSet {s t : State} {mask : BitVec 8} {mhz : Nat} (idle : s.staram.busy = false)
    (set : s.PointsSet t mhz ((List.range 8).filter fun d => mask.getLsbD d)) :
    t.answerLater.mem = s.mem ∧
    (∀ d, d < 8 → t.answerLater.staram.setPointOf d = if mask.getLsbD d then mhz else s.staram.setPointOf d) ∧
    ((∀ d, d < 8 → mask.getLsbD d = true → s.dieGated d = true) → t.answerLater.staram.response = .status 0 ∧
      t.answerLater.msix = s.msix ++ [1] ∧ t.answerLater.staram.busy = false) ∧
    ((∃ d, d < 8 ∧ mask.getLsbD d = true ∧ s.dieGated d = false) →
      t.answerLater.staram.busy = true ∧ t.answerLater.msix = s.msix) := by
  have powered : t.staram.busy = true ↔ ∃ d, d < 8 ∧ mask.getLsbD d = true ∧ s.dieGated d = false := by
    rw [set.busy, idle, Bool.false_or, anyPowered_iff]
  have points : ∀ d, d < 8 → t.staram.setPointOf d = if mask.getLsbD d then mhz else s.staram.setPointOf d :=
    fun d hd => by simp only [set.points, mem_dies_iff mask hd]
  obtain ⟨busy, later⟩ | ⟨free, now⟩ := answerLater_cases t
  · rw [later]
    obtain ⟨e, he, named, on⟩ := powered.mp busy
    refine ⟨set.mem, points, fun gated => ?_, fun _ => ⟨busy, set.msix⟩⟩
    rw [gated e he named] at on
    cases on
  · rw [now]
    refine ⟨set.mem, points, fun _ => ⟨rfl, congrArg (· ++ [1]) set.msix, free⟩, fun some => ?_⟩
    rw [powered.mpr some] at free
    cases free

theorem pointsAndCaps : PointsAndCaps := by
  intro s mask mhz watts up good idle
  simp only [exec_opSet, exec_capSet, request_served up good idle, State.handle]
  refine ⟨fun odd => ?_, fun step => ⟨_, rfl, ?_⟩, fun some low => ?_, fun fine => ⟨_, rfl, ?_⟩⟩
  · rw [State.opSet, odd]
    rfl
  · rw [State.opSet_of_step step]
    exact opSet_of_pointsSet idle (State.PointsSet.foldl ..)
  · rw [State.capSet, if_pos ⟨some, low⟩]
    rfl
  · rw [State.capSet, if_neg (by omega)]
    exact ⟨rfl, rfl, rfl, rfl, rfl⟩

/-! ## A busy Staram, and one in recovery -/

theorem requestsWait : RequestsWait := by
  intro s mask mhz up good busy
  rw [exec_opSet, request_busy up good busy]
  exact ⟨fun room => by rw [if_pos room]; rfl, fun full => by rw [if_neg full.not_gt]; rfl⟩

theorem request_refused {s : State} (recovery : s.staram.recovery = true) {r : Request} (other : ∀ bs, r ≠ .fwUpdate bs) :
    s.request r = s.answer statusRefused := by
  simp only [State.request, recovery, if_true]

theorem identity_refused {s : State} (recovery : s.staram.recovery = true) (r : Response) :
    s.identity r = s.answer statusRefused := if_pos recovery

theorem recoveryRefusesRequests : RecoveryRefusesRequests := by
  intro s mask a b u f n recovery e mem
  have refused : ∀ r : Request, (∀ bs, r ≠ .fwUpdate bs) → Host.Outcome.next (s.request r)
      = (.next (s.answer statusRefused) : Host.Outcome State Fault Refusal) :=
    fun r other => congrArg _ (request_refused recovery other)
  have unnamed : ∀ r : Response, Host.Outcome.next (s.identity r)
      = (.next (s.answer statusRefused) : Host.Outcome State Fault Refusal) :=
    fun r => congrArg _ (identity_refused recovery r)
  simp only [List.mem_cons, List.not_mem_nil, or_false] at mem
  obtain rfl | rfl | rfl | rfl | rfl | rfl | rfl | rfl | rfl | rfl | rfl | rfl := mem
  · exact refused (.opSet mask a) nofun
  · exact refused (.capSet a) nofun
  · exact refused (.laneRetire a b) nofun
  · exact refused (.dieGate a) nofun
  · exact refused (.dieWake a) nofun
  · exact refused (.countersRead u f) nofun
  · exact refused .telemetryRead nofun
  · exact refused .reportRead nofun
  · exact unnamed (.digests [sha512 Config.certificates])
  · exact unnamed (.certificate Config.certificates)
  · exact unnamed (.signed n [] (Config.signature n []))
  · exact unnamed (.signed n s.measurements (Config.signature n (measured s.measurements)))

/-! ## Counters and reports -/

section
variable (s : State)

theorem exec_countersRead (u : CounterUnit) (clear : Bool) :
    exec (.countersRead u clear) s = .next (s.request (.countersRead u clear)) := rfl

theorem exec_telemetryRead : exec .telemetryRead s = .next (s.request .telemetryRead) := rfl

theorem exec_reportRead : exec .reportRead s = .next (s.request .reportRead) := rfl

end

theorem countersAndReports : CountersAndReports := by
  intro s up good idle
  simp only [exec_countersRead, exec_telemetryRead, exec_reportRead, request_served up good idle, State.handle]
  refine ⟨fun u => ⟨rfl, rfl⟩, ⟨_, rfl, rfl, rfl, rfl⟩, rfl, fun e r oldest => ?_, fun none => ?_⟩
  · rw [State.reportRead, oldest]
    rfl
  · rw [State.reportRead, none]

/-! ## Firmware and identity -/

theorem exec_fwUpdate (s : State) (chunk : List Byte) : exec (.fwUpdate chunk) s = .next (s.request (.fwUpdate chunk)) := rfl

theorem firmwareAndIdentity : FirmwareAndIdentity := by
  intro s chunk nonce up good
  have named : ∀ r, Host.Outcome.next (s.identity r) = (.next (s.answer r) : Host.Outcome State Fault Refusal) :=
    fun r => congrArg _ (identity_served up good r)
  refine ⟨fun idle => ?_, named _, named _, named _, named _⟩
  rw [exec_fwUpdate, request_served up good idle]
  exact ⟨_, rfl, rfl, rfl, rfl, rfl⟩

/-- Settles O53: a request is refused in recovery, kept while the Staram is busy, and served else; an OP_SET takes its dies one
by one. -/
theorem staramRequests : Obligations.StaramRequests :=
  ⟨pointsAndCaps, requestsWait, recoveryRefusesRequests, countersAndReports, firmwareAndIdentity⟩

end Sys2Proof.Claim
end

section
/-! PROOFS. A step that the agenda names runs the instruction that its word decodes to, or the step of its unit (R222 to R226,
R246, R249). -/

open Sys2Proof Sys2Proof.Machine

set_option Elab.async false

namespace Sys2Proof.Machine

/-! ## A word that passes its checks -/

theorem State.runWord_of_decodeHeader {s : State} {c : Nat} {f : Frag} {word : DWord} {i : Instr} {a : DWord}
    (stands : f.loc = .header a) (decodes : decodeHeader word = .ok i) (issues : (s.withCur c f.id word).ctx? ≠ none) :
    s.runWord c f word = exec i (s.withCur c f.id word) := by
  obtain ⟨x, context⟩ := Option.ne_none_iff_exists'.mp issues
  simp only [State.runWord, context, stands, decodes]

theorem State.runWord_of_decode {s : State} {c : Nat} {f : Frag} {word : DWord} {i : Instr} {h : DWord} {cls : Cls} {n j : Nat}
    (stands : f.loc = .word h cls n j) (placed : misplaced f word = false) (decodes : decode word = .ok i)
    (issues : (s.withCur c f.id word).ctx? ≠ none) : s.runWord c f word = exec i (s.withCur c f.id word) := by
  obtain ⟨x, context⟩ := Option.ne_none_iff_exists'.mp issues
  simp only [State.runWord, context, stands, placed, decodes, Bool.false_eq_true, if_false]

/-! ## The activity at the head of the agenda -/

variable {s : State} {r : List Act}

theorem State.act_issue {c : Nat} {k : Slot} (head : s.agenda = .issue c k :: r) :
    s.act = ({ s with agenda := r } : State).issueStep c k := by
  rw [State.act, head]

theorem State.act_header {c f : Nat} (head : s.agenda = .header c f :: r) :
    s.act = ({ s with agenda := r } : State).fetchStep c f := by
  rw [State.act, head]

theorem State.act_event {e : Instr} (head : s.agenda = .event e :: r) :
    s.act = ({ s with agenda := r } : State).eventStep e := by
  rw [State.act, head]

theorem State.fetchStep_of_word {c id : Nat} {f : Frag} {w : Wave} {b : Block} {word : DWord}
    (found : (s.core c).frag? id = some f) (fetches : s.needsFetch c f = true) (home : (s.core c).home? f = some (w, b))
    (next : s.nextWord c f = .ok word) :
    s.fetchStep c id = (s.fetchKeep c ((s.core c).rootOf b.ctx) f.loc.addr).runWord c f word := by
  simp only [State.fetchStep, found, fetches, next, home, Bool.not_true, Bool.false_eq_true, if_false]

theorem State.eventStep_of_unit {e : Instr} (unit : encode e = none) : s.eventStep e = exec e s :=
  if_neg (by rw [unit]; exact Bool.false_ne_true)

end Sys2Proof.Machine

namespace Sys2Proof.Claim

theorem step_eq_counted (s : State) : step s = counted s.act := rfl

/-- The word of the chosen fragment runs in the state of `issuing`. -/
theorem issueStep_of_choice {s : State} {c : Nat} {k : Slot} {f : Frag} {w : Wave} {b : Block} {word : DWord} {i : Instr}
    {h : DWord} {cls : Cls} {n j : Nat} (chosen : s.choose c k = some f) (home : (s.core c).home? f = some (w, b))
    (next : s.nextWord c f = .ok word) (stands : f.loc = .word h cls n j) (placed : misplaced f word = false)
    (decodes : decode word = .ok i) (issues : (issuing s c k f b word).ctx? ≠ none) :
    s.issueStep c k = exec i (issuing s c k f b word) := by
  simp only [State.issueStep, chosen, home, next]
  cases k <;> exact State.runWord_of_decode stands placed decodes issues

/-- Settles O58: the head of the agenda names the activity, and a fetched word that passes its checks runs what it decodes
to. -/
theorem stepsRunWhatIsDecoded : Obligations.StepsRunWhatIsDecoded := by
  intro s r u
  refine ⟨fun c k f w b word i head chosen home next ⟨h, cls, n, j, stands⟩ placed decodes issues => ?_,
    fun c f fr w b word i head found fetches home next ⟨a, stands⟩ decodes issues => ?_, fun e head unit => ?_⟩
  · rw [step_eq_counted, State.act_issue head, issueStep_of_choice chosen home next stands placed decodes issues]
  · rw [step_eq_counted, State.act_header head, State.fetchStep_of_word found fetches home next,
      State.runWord_of_decodeHeader stands decodes issues]
  · rw [step_eq_counted, State.act_event head, State.eventStep_of_unit unit]

end Sys2Proof.Claim
end

section
/-! PROOFS. Contexts are asked for, drained, saved, streamed out and restored (R208, R233, R241 to R245, R396). -/

open Sys2Proof Sys2Proof.Machine

set_option Elab.async false

namespace Sys2Proof.Machine

/-! ## Requests -/

/-- Every core changes as one that has been reset stays. -/
theorem State.core_mapCores (s : State) {f : Core → Core} (reset : f Core.reset = Core.reset) (c : Nat) :
    ({ s with cores := s.cores.map fun e => (e.1, f e.2) } : State).core c = f (s.core c) := by
  rw [State.core, State.core, Map.get, Map.get, Map.find_mapEntries]
  cases Map.find s.cores c with
  | none => exact reset.symm
  | some x => rfl

theorem Core.addReq_of_new {x : Core} {r : PreReq} (new : ∀ q ∈ x.reqs, q.slot ≠ r.slot) :
    x.addReq r = { x with reqs := x.reqs ++ [r] } :=
  if_neg (by simpa using new)

theorem Core.preempt_reqs {x : Core} {k : Nat} {ctxid : BitVec 16} {stream : Bool} (active : x.active = some k)
    (named : (x.ctxSlot k).ctxid = ctxid) (new : ∀ q ∈ x.reqs, q.slot ≠ k) :
    (x.preempt ctxid stream).reqs = x.reqs ++ [⟨k, stream, none, false, true⟩] := by
  simp only [Core.preempt, active, if_pos named]
  rw [Core.addReq_of_new new]

theorem State.core_preemptWrite (s : State) (v : DWord) (c : Nat) :
    (s.preemptWrite v).core c = (s.core c).preempt (v.extractLsb' 0 16) (v.getLsbD 16) :=
  s.core_mapCores (f := fun x => x.preempt (v.extractLsb' 0 16) (v.getLsbD 16)) rfl c

/-- The request of a launch for the context that R208 chooses. -/
theorem State.priorityPreempt_of_victim {s : State} {l : Launch} {c k : Nat} (found : s.launch? l.id = some l)
    (waits : l.offer.isSome = true) (unasked : ∀ e ∈ s.cores, ∀ r ∈ e.2.reqs, r.launch ≠ some l.id)
    (full : ∀ d, d < coreCount → s.eligible d l.record = false)
    (works : ∃ d, d < coreCount ∧ (s.core d).enabled = true ∧ s.dieGated (dieOf d) = false)
    (victim : ∃ v ∈ s.victims l.queue, v.core = c ∧ v.slot = k ∧ ∀ w ∈ s.victims l.queue, w.beats v = false) :
    s.priorityPreempt l.id c k = s.updCore c fun x => x.addReq ⟨k, false, some l.id, false, false⟩ := by
  have offered : l.offer.isNone = false := by rw [← Option.not_isSome, waits]; rfl
  have noRequest : (s.cores.any fun e => e.2.reqs.any fun r => r.launch == some l.id) = false := by simpa using unasked
  have noRoom : ((List.range coreCount).any fun d => s.eligible d l.record) = false := by simpa using full
  have someCore : ((List.range coreCount).any fun d => (s.core d).enabled && !s.dieGated (dieOf d)) = true := by
    simpa using works
  have chosen : (((s.victims l.queue).filter fun v => v.core == c && v.slot == k).any fun v =>
      !((s.victims l.queue).any fun w => w.beats v)) = true := by
    obtain ⟨v, mem, core, slot, best⟩ := victim
    exact List.any_eq_true.mpr ⟨v, List.mem_filter.mpr ⟨mem, by simp [core, slot]⟩, by simpa using best⟩
  simp only [State.priorityPreempt, found, offered, noRequest, noRoom, someCore, chosen, Bool.not_true, Bool.or_false,
    Bool.false_eq_true, if_false]

/-! ## Drains -/

/-- A core whose active context in a slot begins its drain. -/
def Core.drains (x : Core) (k : Nat) : Core :=
  { x with
    draining := k :: x.draining,
    waves := x.waves.map fun w =>
      if (x.blocks.any fun b => b.slot == w.block && b.ctx == k) && w.delivered.isSome then { w with trapEarly := true }
      else w }

theorem State.beginDrain_of_requested {s : State} {c k : Nat} (active : (s.core c).active = some k)
    (asked : ∃ r ∈ (s.core c).reqs, r.slot = k) (fresh : k ∉ (s.core c).draining) :
    s.beginDrain c k = s.updCore c fun x => x.drains k :=
  congrArg (s.setCore c) (if_pos ⟨active, by simpa using asked, by simpa using fresh⟩)

theorem State.beginDrain_of_inactive {s : State} {c k : Nat} (inactive : (s.core c).active ≠ some k) :
    s.beginDrain c k = s.updCore c fun x => x :=
  congrArg (s.setCore c) (if_neg fun h => inactive h.1)

/-! ## Contexts that are saved -/

theorem Core.dequeue_contexts (x : Core) (f : Nat) :
    ((x.dequeue f).shadows, (x.dequeue f).blocks) = (x.shadows, x.blocks) := by
  unfold Core.dequeue
  split <;> rfl

theorem Core.withoutSaved_contexts (x : Core) (v : SavedCtx) : (x.withoutSaved v).shadows = x.shadows ++ [v] ∧
    (x.withoutSaved v).blocks = x.blocks.filter fun b => b.ctx != v.slotIdx := by
  have kept := foldl_keeps (fun y : Core => (y.shadows, y.blocks)) (fun y (f : Frag) => y.dequeue_contexts f.id) v.frags x
  exact ⟨(congrArg (fun p => p.1 ++ [v]) kept :), (congrArg (fun p => p.2.filter fun b => b.ctx != v.slotIdx) kept :)⟩

/-! ## What waits for a context -/

/-- The contexts in their save areas, the requests for blocks, the event records, and the requests of a core for allotments. -/
def State.waiting (s : State) (c : Nat) : List SavedCtx × List DrawReq × List Event × List Nat :=
  (s.saved, s.drawReqs, s.eventQ, (s.core c).allocs)

theorem State.waiting_updCore (s : State) (c d : Nat) {f : Core → Core} (keeps : ∀ x, (f x).allocs = x.allocs) :
    (s.updCore d f).waiting c = s.waiting c := by
  refine congrArg (fun l => (s.saved, s.drawReqs, s.eventQ, l)) ?_
  rw [State.core_updCore]
  split
  · exact keeps _
  · rfl

theorem State.waiting_flushHome (s : State) (c d : Nat) (q : Nat → CByte → Bool) :
    (s.flushHome d q).waiting c = s.waiting c :=
  calc (s.flushHome d q).waiting c
      _ = (((s.l1WriteBack d q).l2WriteBack (dieOf d) q).updCore d fun x =>
          { x with l1 := dropBytes x.l1 fun p b => q p b && !b.dirty }).waiting c := rfl
      _ = ((s.l1WriteBack d q).l2WriteBack (dieOf d) q).waiting c := State.waiting_updCore _ c d fun _ => rfl
      _ = (s.l1WriteBack d q).waiting c := rfl
      _ = s.waiting c := State.waiting_updCore _ c d (f := fun x => { x with l1 := cleanBytes x.l1 q }) fun _ => rfl

theorem State.waiting_setLevel (s : State) (c d : Nat) (cluster : Bool) (m : Map ILine) :
    (s.setLevel d cluster m).waiting c = s.waiting c := by
  cases cluster
  · exact State.waiting_updCore s c d (f := fun x => { x with l0 := m }) fun _ => rfl
  · rfl

theorem State.waiting_dropPins (s : State) (c d : Nat) (b : Block) : (s.dropPins d b).waiting c = s.waiting c :=
  foldl_keeps (fun t : State => t.waiting c) (fun t (p : PinRec) =>
    t.waiting_setLevel c d p.cluster (unpinLines (t.level d p.cluster) p.lines)) b.pins s

/-- The module once the dirty bytes of a core have gone home and a context's pins have gone. -/
def State.unpinned (s : State) (c : Nat) (v : SavedCtx) : State :=
  v.blocks.foldl (fun s b => s.dropPins c b) (s.flushHome c fun _ _ => true)

theorem State.foldl_dropPins (s : State) (c : Nat) (v : SavedCtx) :
    v.blocks.foldl (fun s b => s.dropPins c b) (s.flushHome c fun _ _ => true) = s.unpinned c v := rfl

theorem State.waiting_unpinned (s : State) (c : Nat) (v : SavedCtx) : (s.unpinned c v).waiting c = s.waiting c :=
  (foldl_keeps (fun t : State => t.waiting c) (fun t b => t.waiting_dropPins c c b) v.blocks _).trans
    (State.waiting_flushHome ..)

theorem Core.freeSlot_shadows (x : Core) (k : Nat) : (x.freeSlot k).shadows = x.shadows := by
  unfold Core.freeSlot
  split <;> rfl

/-- A core that a shadow has left for its save area. -/
def Core.streamedOut (x : Core) (k : Nat) (v : SavedCtx) : Core :=
  Core.freeSlot { x with shadows := x.shadows.filter fun u => u.slotIdx != k,
                         allocs := x.allocs.filter fun b => !(v.blocks.any fun y => y.slot == b) } k

/-! ## Contexts that are restored -/

section
variable {s : State} {c : Nat} {v : SavedCtx} {ctxid : BitVec 16}

theorem State.contextRestore_of_unasked (unasked : (ctxid, c) ∉ s.restoreReqs) : s.contextRestore c ctxid = s :=
  if_pos (by simpa using unasked)

theorem State.contextRestore_shadow (asked : (ctxid, c) ∈ s.restoreReqs)
    (shadow : (s.core c).shadows.find? (fun u => u.ctxid == ctxid) = some v) (fits : s.restoreFits c v true = true) :
    s.contextRestore c ctxid = (s.enterContext c v.slotIdx v).reportRestore c ctxid := by
  have asked : s.restoreReqs.contains (ctxid, c) = true := by simpa using asked
  simp only [State.contextRestore, asked, shadow, fits, Bool.not_true, Bool.false_eq_true, if_false, if_true]

theorem State.contextRestore_saved {slot : Nat} (asked : (ctxid, c) ∈ s.restoreReqs)
    (noShadow : ∀ u ∈ (s.core c).shadows, u.ctxid ≠ ctxid) (saved : s.saved.find? (fun u => u.ctxid == ctxid) = some v)
    (free : (s.core c).ctxs.findIdx? (fun k => !k.used) = some slot) :
    let t := { s with saved := s.saved.erase v }
    s.contextRestore c ctxid = if s.restoreFits c v false then (t.enterContext c slot v).reportRestore c ctxid
      else if (s.core c).active.isSome && s.entryFits c v then t.enterShadow c slot v else s := by
  have asked : s.restoreReqs.contains (ctxid, c) = true := by simpa using asked
  have noShadow : (s.core c).shadows.find? (fun u => u.ctxid == ctxid) = none := by simpa using noShadow
  simp only [State.contextRestore, asked, noShadow, saved, free, Bool.not_true, Bool.false_eq_true, if_false]

/-- No context becomes active beside another. -/
theorem State.restoreFits_of_active (active : (s.core c).active.isSome = true) (resident : Bool) :
    s.restoreFits c v resident = false := by
  obtain ⟨k, active⟩ := Option.isSome_iff_exists.mp active
  simp [State.restoreFits, State.turnFits, active]

end

end Sys2Proof.Machine

namespace Sys2Proof.Claim

/-! ## Requests and drains -/

section
variable {s : State} {c : Nat} (hc : c < coreCount) (k : Nat)
include hc

theorem exec_priorityPreemptionRequest (id : Nat) :
    exec (.priorityPreemptionRequest id c k) s = .next (s.priorityPreempt id c k) := if_neg hc.not_ge

theorem exec_preemptionDrain : exec (.preemptionDrain c k) s = .next (s.beginDrain c k) := if_neg hc.not_ge

theorem exec_drainComplete : exec (.drainComplete c k) s = .next (s.drainComplete c k) := if_neg hc.not_ge

theorem exec_contextStreamOut : exec (.contextStreamOut c k) s = .next (s.streamOut c k) := if_neg hc.not_ge

theorem exec_contextRestore (ctxid : BitVec 16) :
    exec (.contextRestore c ctxid.toNat) s = .next (s.contextRestore c ctxid) :=
  (if_neg hc.not_ge).trans (by rw [BitVec.ofNat_toNat, BitVec.setWidth_eq])

end

theorem preemptAndRestoreAreAsked : PreemptAndRestoreAreAsked := by
  intro s v
  refine ⟨⟨s.preemptWrite v, rfl, rfl, by simp [State.preemptWrite], fun c k active named new => ?_⟩,
    fun none => congrArg Host.Outcome.next ?_, fun c core new => congrArg Host.Outcome.next ?_⟩
  · rw [State.core_preemptWrite, Core.preempt_reqs active named new]
  · rw [State.restoreWrite, none]
  · simp only [State.restoreWrite, core]
    exact if_neg (by simpa using new)

theorem drainsBegin : DrainsBegin := by
  intro s c k hc
  refine ⟨fun l found waits unasked full works victim => ?_, fun active asked fresh => ?_, fun inactive => ?_⟩
  · rw [exec_priorityPreemptionRequest hc, State.priorityPreempt_of_victim found waits unasked full works victim]
  · rw [exec_preemptionDrain hc, State.beginDrain_of_requested active asked fresh]
    rfl
  · rw [exec_preemptionDrain hc, State.beginDrain_of_inactive inactive]

theorem drainedContextsAreSaved : DrainedContextsAreSaved := by
  intro s c k hc
  refine ⟨fun runs => ?_, fun drained none => ?_, fun y hy => ?_⟩
  · rw [exec_drainComplete hc, State.drainComplete, runs]
    rfl
  · simp only [exec_drainComplete hc, State.drainComplete, drained, none, Bool.not_true, Bool.false_eq_true, if_false]
  · subst hy
    obtain ⟨shadows, blocks⟩ := Core.withoutSaved_contexts (s.core c) (s.savedCtx c k)
    refine ⟨rfl, shadows, fun b mem => ?_, fun b mem own => List.mem_filter.mpr ⟨mem, by simpa using own⟩⟩
    rw [blocks] at mem
    exact bne_iff_ne.mp (List.mem_filter.mp mem).2

/-! ## Contexts that move -/

/-- A shadow that streams out: what waits for it is what waited before its core's bytes and pins went. -/
theorem contextStreamOut_moves {s : State} {c k : Nat} {v : SavedCtx}
    (shadow : (s.core c).shadows.find? (fun u => u.slotIdx == k) = some v) (stream : v.stream = true)
    (area : s.saveArea v.ctxid ≠ 0) :
    let draws (q : DrawReq) : Bool := q.core == c && v.waves.any fun w => w.slot == q.wave
    let t := s.streamOut c k
    t.saved = s.saved ++ [{ v with stream := false, blocks := v.blocks.map (fun b => { b with pins := [] }),
                                   allocs := (s.core c).allocs.filter fun b => v.blocks.any fun y => y.slot == b,
                                   draws := s.drawReqs.filter draws }] ∧
      t.drawReqs = s.drawReqs.filter (fun q => !draws q) ∧
      t.eventQ = s.eventQ ++ [⟨3, v.ctxid, ccid c, 0⟩] ∧ ∀ u ∈ (t.core c).shadows, u.slotIdx ≠ k := by
  intro draws t
  have kept := s.waiting_unpinned c v
  simp only [State.waiting, Prod.mk.injEq] at kept
  obtain ⟨saved, drawReqs, eventQ, allocs⟩ := kept
  have marked : ¬((!v.stream || s.saveArea v.ctxid == 0) = true) := by simp [stream, area]
  simp only [t, State.streamOut, shadow, if_neg marked, State.foldl_dropPins]
  refine ⟨?_, congrArg (List.filter _) drawReqs, congrArg (· ++ _) eventQ, fun u mem => ?_⟩
  · simp only [State.updCore_saved, saved, drawReqs, allocs]
    rfl
  · change u ∈ (((s.unpinned c v).updCore c fun x => x.streamedOut k v).core c).shadows at mem
    rw [State.core_updCore_self, Core.streamedOut, Core.freeSlot_shadows] at mem
    exact bne_iff_ne.mp (List.mem_filter.mp mem).2

theorem streamOut_stays {s : State} {c k : Nat} {v : SavedCtx}
    (shadow : (s.core c).shadows.find? (fun u => u.slotIdx == k) = some v) (stays : v.stream = false ∨ s.saveArea v.ctxid = 0) :
    s.streamOut c k = s := by
  simp only [State.streamOut, shadow]
  exact if_pos (by simpa using stays)

theorem contextsMove : ContextsMove := by
  intro s c k v hc
  simp only [exec_contextStreamOut hc, exec_contextRestore hc]
  refine ⟨fun shadow stream area => ⟨_, rfl, contextStreamOut_moves shadow stream area⟩,
    fun shadow stays => congrArg _ (streamOut_stays shadow stays),
    fun unasked => congrArg _ (State.contextRestore_of_unasked unasked),
    fun asked shadow fits => congrArg _ (State.contextRestore_shadow asked shadow fits),
    fun slot asked noShadow saved free => ⟨fun fits => congrArg _ ?_, fun active fits => congrArg _ ?_⟩⟩
  · rw [State.contextRestore_saved asked noShadow saved free, if_pos fits]
  · rw [State.contextRestore_saved asked noShadow saved free, State.restoreFits_of_active active, if_neg Bool.false_ne_true,
      if_pos (by rw [active, fits]; rfl)]

/-- Settles O49: each step by the case of its function that the premises name, and a shadow that streams out by what the flush
of its core and the loss of its pins leave as it was. -/
theorem contextSteps : Obligations.ContextSteps :=
  ⟨preemptAndRestoreAreAsked, drainsBegin, drainedContextsAreSaved, contextsMove⟩

end Sys2Proof.Claim
end

section
/-! SUPPORT. What a killed wave is left with, and what its killing leaves: the host link, the stoke queues, the Stoker's counts
and the error of every launch (R39, R47, R107, R199, R221, R235). -/

open Sys2Proof Sys2Proof.Machine

set_option Elab.async false

namespace Sys2Proof.Machine

/-! ## A killed wave -/

/-- The core of a killed wave, without its fragments, its fault buffer entries and its turn to trap. -/
def Core.cleared (w : Nat) (x : Core) : Core :=
  { (x.dropFrags w).dropFaults (fun e => e.wave == w) with trapQueue := x.trapQueue.filter fun j => j != w }

/-- The wave without a trap, a window or a frame. -/
def Wave.cleared (y : Wave) : Wave :=
  { y with trap := none, win := none, winHeld := false, frameAsked := false, heldFetchw := none, trapcause := 0 }

theorem State.killWave_eq (s : State) (c w : Nat) : s.killWave c w
    = ((((((s.killEngines c w).abandonAll c w).updCore c (Core.cleared w)).unstall c w).refillFaults c).updWave c w
        Wave.cleared).endWave c w := rfl

/-- A killed wave as it is left, which says more than `State.wave?_killWave`: no operation, and its horizon at its sequence. -/
theorem State.wave?_killWave_eq {s : State} {c w : Nat} {y : Wave} (h : (s.core c).wave? w = some y) :
    ((s.killWave c w).core c).wave? w
      = some { ({ y with ops := [], hzn := y.seq } : Wave).cleared with ended := true, drawn := [] } := by
  have abandoned := State.wave?_abandonAll (((State.WavesKept.killEngines s c w).wave? c w).trans h)
  have cleared := (State.WavesKept.refl ((s.killEngines c w).abandonAll c w)).updCore c (f := Core.cleared w)
    (Core.dropFrags_waves · w)
  have kept := (cleared.trans (State.WavesKept.unstall _ c w)).trans (State.WavesKept.refillFaults _ c)
  rw [State.killWave_eq]
  exact State.wave?_endWave (State.wave?_updWave ((kept.wave? c w).trans abandoned) fun _ => rfl)

/-! ## The front of the module -/

/-- What of the host's side no failure of an operation touches: its link, the stoke queues and its registers. -/
structure HostSide where
  linkUp : Bool
  stokeQ : List (List QRec)
  host : HostRegs

/-- What the killing of a wave leaves outside the cores: the host's side, the Stoker's counts, and the error of every launch. -/
structure Front where
  side : HostSide
  stoker : StokerCnt
  launchErr : Nat → Option (BitVec 16)

def State.hostSide (s : State) : HostSide := ⟨s.linkUp, s.stokeQ, s.host⟩

/-- The error of the launch with an identifier, 0 where it has recorded nothing. -/
def State.launchErr? (s : State) (id : Nat) : Option (BitVec 16) := (s.launches.find? fun l => l.id == id).map Launch.err

def State.front (s : State) : Front := ⟨s.hostSide, s.stoker, s.launchErr?⟩

theorem State.side_front (s : State) : s.front.side = s.hostSide := rfl

theorem State.front_updCore (s : State) (c : Nat) (f : Core → Core) : (s.updCore c f).front = s.front := rfl
theorem State.front_updDie (s : State) (d : Nat) (f : Die → Die) : (s.updDie d f).front = s.front := rfl
theorem State.front_updCluster (s : State) (k : Nat) (f : Cluster → Cluster) : (s.updCluster k f).front = s.front := rfl

/-! ### Landings -/

theorem State.front_takeFault (s : State) (c : Nat) (e : FaultEnt) : (s.takeFault c e).front = s.front := by
  unfold State.takeFault
  split <;> rfl

theorem State.front_refillFaults (s : State) (c : Nat) : (s.refillFaults c).front = s.front :=
  (foldl_keeps State.front (fun t e => t.front_takeFault c e) _ _).trans (by rfl)

theorem State.front_noteWrites (s : State) (h : Home) (lines : List Nat) (die : Option Nat) :
    (s.noteWrites h lines die).front = s.front := by
  unfold State.noteWrites
  split
  · rfl
  · split
    · rfl
    · cases h <;> rfl

theorem State.front_homeWrite (s : State) (h : Home) (bs : List Byte) : (s.homeWrite h bs).front = s.front := by
  cases h <;> rfl

theorem State.front_countErrLost (s : State) (h : Home) (n : Nat) : (s.countErrLost h n).front = s.front := by
  unfold State.countErrLost
  split
  · rfl
  · cases h <;> rfl

theorem State.front_updateFor (s : State) (own : Option (Nat × Nat)) (h : Home) (a n : Nat) (code : BitVec 16) (d : Dropped) :
    (s.updateFor own h a n code d).front = s.front := by
  unfold State.updateFor
  split
  · cases h <;> rfl
  · exact (State.front_countErrLost ..).trans (State.front_homeWrite ..)

theorem State.front_landNow (s : State) (c b : Nat) (l : Landing) : (s.landNow c b l).front = s.front := by
  unfold State.landNow
  split
  · exact (State.front_updateFor ..).trans (State.front_noteWrites ..)
  · split
    · rfl
    · dsimp only
      unfold State.unreached
      split
      · exact State.front_takeFault ..
      · rfl

theorem State.front_landTask (s : State) (r : HRec) (n : Nat) (code : BitVec 16) (lines : List Nat) (die : Option Nat) :
    (s.landTask r n code lines die).front = s.front := by
  unfold State.landTask
  split
  · split <;> rfl
  · unfold State.land
    split
    · split
      · rfl
      · exact State.front_landNow ..
    · exact State.front_landNow ..

/-! ### Engine operations -/

theorem State.front_unregister (s : State) (gone : HRec → Bool) : (s.unregister gone).front = s.front := by
  unfold State.unregister
  dsimp only
  split
  · split <;> rfl
  · rfl

theorem State.front_refuseGroups (s : State) (keys : List GroupReg) (gone : HRec → Bool) :
    (s.refuseGroups keys gone).front = s.front := by
  have freed (served : Bool) : (if served then s.unreserve else s).front = s.front := by cases served <;> rfl
  unfold State.refuseGroups
  refine (foldl_keeps State.front (fun t r => ?_) _ _).trans ?_
  · exact State.front_landTask ..
  · exact freed _

theorem State.front_abandonWhere (s : State) (c : Nat) (p : EngCmd → Bool) (q : HRec → Bool) :
    (s.abandonWhere c p q).front = s.front := by
  unfold State.abandonWhere
  refine (foldl_keeps State.front (fun _ _ => by rfl) _ _).trans ?_
  refine (foldl_keeps State.front (fun _ _ => by exact State.front_landTask ..) _ _).trans ?_
  exact (State.front_unregister ..).trans (State.front_refillFaults ..)

theorem State.front_stopEngines (s : State) (c b : Nat) : (s.stopEngines c b).front = s.front := by
  have stopped (t : State) (gone : HRec → Bool) : (t.trimTasks gone).front = t.front := rfl
  simp only [State.stopEngines, State.front_updCore, State.front_updDie, stopped, State.front_updCluster]
  exact State.front_refuseGroups ..

theorem State.front_killEngines (s : State) (c w : Nat) : (s.killEngines c w).front = s.front := by
  unfold State.killEngines
  split
  · rfl
  · split
    · exact State.front_abandonWhere ..
    · exact State.front_stopEngines ..

theorem State.front_unstall (s : State) (c w : Nat) : (s.unstall c w).front = s.front :=
  (foldl_keeps State.front (fun _ _ => by rfl) _ _).trans (by rfl)

theorem State.front_abandonAll (s : State) (c w : Nat) : (s.abandonAll c w).front = s.front := by
  unfold State.abandonAll
  split
  · rfl
  · refine foldl_keeps State.front (fun t o => ?_) _ s
    split
    · exact State.front_abandonWhere ..
    · rfl

/-! ### Launches -/

/-- One launch changes and keeps its identifier: the others' errors are as they were. -/
theorem State.launchErr?_updFirst {f : Launch → Launch} (keeps : ∀ l, (f l).id = l.id) (s : State) (j id : Nat) :
    ({ s with launches := updFirst (fun l => l.id == j) f s.launches } : State).launchErr? id
      = if j = id then (s.launches.find? fun l => l.id == id).map fun l => (f l).err else s.launchErr? id := by
  unfold State.launchErr?
  split
  · next same =>
    subst same
    rw [find?_updFirst _ f _ fun l here => (congrArg (· == j) (keeps l)).trans here, Option.map_map]
    rfl
  · next other =>
    refine congrArg (Option.map Launch.err) (find?_updFirst_ne _ _ f _ fun l here => ?_)
    have here : l.id = j := beq_iff_eq.mp here
    exact ⟨beq_false_of_ne (here ▸ other), beq_false_of_ne (keeps l ▸ here ▸ other)⟩

/-- The end of a drawn block counts it off its launch, and is no error of that. -/
theorem State.front_endDrawn (s : State) (ds : List Drawn) : (s.endDrawn ds).front = s.front := by
  refine foldl_keeps State.front (fun t d => ?_) ds s
  refine congrArg (Front.mk t.hostSide t.stoker) (funext fun id => ?_)
  refine (State.launchErr?_updFirst (f := fun l => { l with live := l.live - 1 }) (fun _ => rfl) t d.launch id).trans ?_
  split <;> rfl

theorem State.front_endWave (s : State) (c w : Nat) : (s.endWave c w).front = s.front := by
  unfold State.endWave
  split
  · rfl
  · exact State.front_endDrawn ..

theorem State.front_killWave (s : State) (c w : Nat) : (s.killWave c w).front = s.front := by
  rw [State.killWave_eq, State.front_endWave, State.updWave, State.front_updCore, State.front_refillFaults, State.front_unstall,
    State.front_updCore, State.front_abandonAll, State.front_killEngines]

theorem State.launchErr?_eq_some {s : State} {id : Nat} {code : BitVec 16} :
    s.launchErr? id = some code ↔ ∃ l, s.launches.find? (fun l => l.id == id) = some l ∧ l.err = code :=
  Option.map_eq_some_iff

/-- The first code recorded against a launch is kept, and none is counted (R32). -/
theorem State.launchFault_first {s : State} {id : Nat} (first : s.launchErr? id = some 0) (code : BitVec 16) :
    s.launchFault id code
      = { s with launches := updFirst (fun k => k.id == id) (fun k => { k with err := code }) s.launches } := by
  obtain ⟨l, found, err⟩ := State.launchErr?_eq_some.mp first
  simp only [State.launchFault, found, err, if_true]

theorem State.launchErr?_launchFault {s : State} {id : Nat} (first : s.launchErr? id = some 0) (code : BitVec 16) :
    (s.launchFault id code).launchErr? id = some code := by
  obtain ⟨l, found, -⟩ := State.launchErr?_eq_some.mp first
  rw [State.launchFault_first first]
  refine (State.launchErr?_updFirst (f := fun k => { k with err := code }) (fun _ => rfl) s id id).trans ?_
  rw [if_pos rfl, found]
  rfl

theorem State.hostSide_launchFault (s : State) (id : Nat) (code : BitVec 16) : (s.launchFault id code).hostSide = s.hostSide := by
  unfold State.launchFault
  split
  · rfl
  · split <;> rfl

/-! ## Failures of operations -/

theorem State.hostSide_countLaunchErr (s : State) : s.countLaunchErr.hostSide = s.hostSide := rfl

theorem State.hostSide_nestedTrap (s : State) (c w : Nat) : (s.nestedTrap c w).hostSide = s.hostSide := by
  rw [State.nestedTrap, State.hostSide_countLaunchErr, State.hostSide_launchFault, ← State.side_front, State.front_killWave,
    State.side_front]

theorem State.hostSide_failOp (s : State) (c w : Nat) (n : HNum) (code : BitVec 16) (a : DWord) :
    (s.failOp c w n code a).hostSide = s.hostSide := by
  unfold State.failOp
  split
  · rfl
  · split
    · unfold State.failLasting
      split
      · rfl
      · split
        · exact State.hostSide_nestedTrap ..
        · rfl
    · rfl

end Sys2Proof.Machine
end

section
/-! PROOFS. Precise traps are held until they are entered, TRAP raises one, and a trap in a handler kills its wave (R230, R231,
R235, R389). -/

open Sys2Proof Sys2Proof.Machine

set_option Elab.async false

namespace Sys2Proof.Machine

/-! ## A precise trap -/

/-- What a precise trap of the issuing word saves for its entry (R230). -/
def Ctx.trapOf (x : Ctx) (t : Cause) : PreciseTrap :=
  { code := t.code, sub := t.sub, addr := t.addr, pc := x.frag.loc.addr, word := x.word, fmask := x.frag.mask,
    frag := x.frag.id }

/-- The context of a word of a program that has trapped precisely. -/
def Ctx.trapped (x : Ctx) (t : Cause) : Ctx :=
  { x with
    core := { (x.core.updWave x.wave.slot fun w => { w with trap := some (x.trapOf t) }).updFrag x.frag.id
      fun f => { f with holds := false } with trapQueue := x.core.trapQueue ++ [x.wave.slot] }
    wave := { x.wave with trap := some (x.trapOf t) }
    frag := { x.frag with holds := false } }

section
variable {s : State} {x : Ctx} (hx : s.ctx? = some x) (program : x.frag.handler = false) (t : Cause)

include program in
theorem State.raise_program : s.raise x t
    = (s.updWave x.c x.wave.slot fun w => { w with trap := some (x.trapOf t) }).updCore x.c fun k =>
      { (k.updFrag x.frag.id fun f => { f with holds := false }) with trapQueue := k.trapQueue ++ [x.wave.slot] } := by
  rw [State.raise, program, if_neg Bool.false_ne_true]
  rfl

include program hx in
theorem State.core_raise : (s.raise x t).core x.c = (x.trapped t).core := by
  obtain ⟨core, -⟩ := State.ctx?_eq hx
  rw [State.raise_program program, State.core_updCore_self, State.updWave, State.core_updCore_self, ← core]
  rfl

include program in
theorem State.core_raise_ne {c : Nat} (other : c ≠ x.c) : (s.raise x t).core c = s.core c := by
  rw [State.raise_program program, State.core_updCore, if_neg other.symm, State.updWave, State.core_updCore, if_neg other.symm]

include hx

theorem Ctx.wave?_trapped : (x.trapped t).core.wave? x.frag.wave = some (x.trapped t).wave := by
  obtain ⟨-, -, wave, -⟩ := State.ctx?_eq hx
  have trapped := Core.wave?_updWave x.core x.wave.slot (fun w => { w with trap := some (x.trapOf t) }) fun _ => rfl
  rw [Core.wave?_slot wave, wave] at trapped
  rw [Ctx.trapped, Core.wave?_slot wave]
  exact trapped

theorem Ctx.frag?_trapped : (x.trapped t).core.frag? x.frag.id = some (x.trapped t).frag := by
  obtain ⟨-, ⟨f, -, frag⟩, -, -⟩ := State.ctx?_eq hx
  have id := Core.frag?_id frag
  subst id
  exact (find?_updFirst _ (fun f => { f with holds := false }) x.core.frags fun _ here => here).trans
    (congrArg (Option.map _) frag)

include program in
/-- The word that has trapped stands as the issuing word still. -/
theorem State.ctx?_raise : (s.raise x t).ctx? = some (x.trapped t) := by
  obtain ⟨-, ⟨f, cur, frag⟩, -, block⟩ := State.ctx?_eq hx
  have id := Core.frag?_id frag
  subst id
  refine State.ctx?_of_found ?_ (State.core_raise hx program t) (Ctx.frag?_trapped hx t) (Ctx.wave?_trapped hx t) block
  rw [State.raise_program program]
  exact cur

end

end Sys2Proof.Machine

namespace Sys2Proof.Claim

theorem preciseTraps : PreciseTraps := by
  intro s x t hx program
  refine ⟨x.trapped t, State.ctx?_raise hx program t, ?_, fun c other => State.core_raise_ne program t other, rfl, rfl, rfl, rfl,
    fun w other => ?_, fun f other => ?_⟩
  · rw [State.raise_program program]
    rfl
  · exact Core.wave?_updWave_ne x.core _ (fun _ => rfl) other.symm
  · refine find?_updFirst_ne _ _ _ _ fun g here => ?_
    have here : g.id = x.frag.id := beq_iff_eq.mp here
    exact ⟨beq_false_of_ne (here ▸ other.symm), beq_false_of_ne (here ▸ other.symm)⟩

theorem trapCompletes : TrapCompletes := by
  intro g o s x ready
  show execTrap g o s = _
  rw [execTrap, issueFragment_of_ready ready]

/-! ## A trap in a handler -/

theorem nestedTrapsKill : NestedTrapsKill := by
  intro s x t l hx handler ofLaunch found fresh
  obtain ⟨core, -, wave, block⟩ := State.ctx?_eq hx
  rw [← Core.wave?_slot wave, core] at wave
  rw [core] at block
  have launch : s.launchOf x.c x.wave.slot = l.id := by
    simp only [State.launchOf, wave, block]
    exact ofLaunch
  have killed := State.wave?_killWave_eq wave
  have front := s.front_killWave x.c x.wave.slot
  rw [State.raise, handler, if_pos rfl, State.nestedTrap, launch]
  generalize s.killWave x.c x.wave.slot = u at killed front
  have first : u.launchErr? l.id = some 0 :=
    (congrFun (congrArg Front.launchErr front) l.id).trans (State.launchErr?_eq_some.mpr ⟨l, found, fresh⟩)
  have recorded := State.launchErr?_eq_some.mp (State.launchErr?_launchFault first eTrapNested)
  rw [State.launchFault_first first] at recorded ⊢
  exact ⟨⟨_, killed, rfl, rfl, rfl, rfl, rfl⟩, recorded,
    congrArg (fun f : Front => satInc f.stoker.launchErr) front⟩

/-- Settles O23: a precise trap by the context that it leaves, TRAP by its own trap, and a trap in a handler by what the killing
of its wave leaves of the wave and of its launch. -/
theorem trapsAreTaken : Obligations.TrapsAreTaken := ⟨preciseTraps, trapCompletes, nestedTrapsKill⟩

end Sys2Proof.Claim
end

section
/-! PROOFS. Answers of the host, the loss of its link, and the one retry of a failed operation (R228, R400). -/

open Sys2Proof Sys2Proof.Machine

set_option Elab.async false

namespace Sys2Proof.Machine

theorem Verdict.all_map_go {α : Type} (l : List α) : Verdict.all (l.map Verdict.go) = .go l := by
  induction l with
  | nil => rfl
  | cons a r ih =>
    rw [List.map_cons, Verdict.all, ih]
    rfl

/-! ## Answers of the host -/

section
variable {s : State} {c : Nat} {k : OpCtx}

/-- A load whose pieces can all be read is performed with the host's data, every lane as it was translated (R302, R400). -/
theorem State.loadAnswer_of_reach (lanes : k.o.reach.length = k.o.lanes.length)
    (clean : ∀ ps ∈ k.o.reach, s.readFault c ps = none) (bs : List Byte) : s.loadAnswer c k bs = s.performLoad c k.w.slot k k.o.reach bs := by
  have read : ((k.o.lanes.zip k.o.reach).map fun e => (Verdict.go e.2).check (s.readFault c) e.1.ea)
      = k.o.reach.map Verdict.go := by
    calc _ = (k.o.lanes.zip k.o.reach).map (Verdict.go ∘ Prod.snd) := List.map_congr_left fun e he => by
            rw [Verdict.check, clean e.2 (List.of_mem_zip he).2]
            rfl
      _ = _ := by rw [← List.map_map, List.map_snd_zip lanes.le]
  rw [State.loadAnswer, read, Verdict.all_map_go]
  rfl

/-- What an operation that waits for the host makes of its answer. -/
theorem State.hostCompletion_sent {w : Nat} {n : HNum} (op : s.opCtx? c w n = some k) (sent : k.o.atHost = true)
    (a : HostAnswer) : s.hostCompletion c w n a = match a with
      | .data bs => s.hostData c k bs
      | .refused => s.hostRefused c k
      | .poisoned => s.failOp c w n eMemPoison k.o.hostAddr := by
  cases a <;> simp only [State.hostCompletion, op, sent, if_true]

theorem State.hostLost_sent {w : Nat} {n : HNum} (op : s.opCtx? c w n = some k) (sent : k.o.atHost = true) :
    s.hostLost c w n = s.failOp c w n ePlaceOffline k.o.hostAddr := by
  simp only [State.hostLost, op, sent, if_true]

/-- A load that the completer refuses has no place (R400). -/
theorem State.hostRefused_load {d sz : Nat} {sx : Bool} (load : k.o.work = .load d sz sx) :
    s.hostRefused c k = s.failOp c k.w.slot k.o.num ePlaceUnmapped k.o.hostAddr := by
  unfold State.hostRefused
  rw [load]
  cases k.o.mark <;> rfl

end

/-! ## The host's link goes down -/

theorem State.hostSide_hostLost (s : State) (c w : Nat) (n : HNum) : (s.hostLost c w n).hostSide = s.hostSide := by
  unfold State.hostLost
  split
  · split
    · exact State.hostSide_failOp ..
    · rfl
  · rfl

theorem State.hostSide_hostDown (s : State) : s.hostDown.hostSide = ⟨false, s.stokeQ, s.host⟩ := by
  refine (foldl_keeps State.hostSide (fun t e => foldl_keeps State.hostSide (fun u w => ?_) _ t) s.cores _).trans rfl
  have lost := foldl_keeps State.hostSide (fun t (o : Op) => t.hostSide_hostLost e.1 w.slot o.num) (w.ops.filter Op.atHost) u
  dsimp only
  split <;> exact lost

/-- A link that nothing waits for only goes down. -/
theorem State.hostDown_of_quiet {s : State} (quiet : ∀ e ∈ s.cores, ∀ w ∈ e.2.waves,
    w.frameAsked = false ∧ w.hostAsk = none ∧ ∀ o ∈ w.ops, o.atHost = false) : s.hostDown = { s with linkUp := false } := by
  refine List.foldlRecOn (motive := (· = { s with linkUp := false })) s.cores _ rfl fun t ht e he => ?_
  refine List.foldlRecOn (motive := (· = { s with linkUp := false })) e.2.waves _ ht fun u hu w hw => ?_
  obtain ⟨frame, ask, ops⟩ := quiet e he w hw
  have none : w.ops.filter Op.atHost = [] := List.filter_eq_nil_iff.mpr fun o ho => by simp [ops o ho]
  simp only [none, frame, ask, List.foldl_nil, Option.isSome_none, Bool.or_self, Bool.false_eq_true, if_false]
  exact hu

/-! ## The retry -/

theorem Op.retry_num (o : Op) : o.retry.num = o.num := by
  unfold Op.retry
  split
  · split <;> rfl
  · rfl

/-- An operation that sends no remote request is attempted anew (R228). -/
theorem Op.retry_of_failing {o : Op} {code : BitVec 16} {a : DWord} (failing : o.status = .failing code a)
    (noRst : ∀ t b f, o.work ≠ .rst t b f) (noRmo : ∀ op d e, o.work ≠ .rmo op d e) :
    o.retry = { o with retried := true, status := .waiting, results := [], mark := none } := by
  unfold Op.retry
  rw [failing]
  dsimp only
  split
  · next work => exact absurd work (noRst _ _ _)
  · next work => exact absurd work (noRmo _ _ _)
  · rfl

end Sys2Proof.Machine

namespace Sys2Proof.Claim

/-! ## The steps -/

section
variable {c : Nat} (hc : c < coreCount) (s : State) (w : Nat) (n : HNum)
include hc

theorem exec_hostCompletion (a : HostAnswer) : exec (.hostCompletion c w n a) s = .next (s.hostCompletion c w n a) :=
  if_neg hc.not_ge

theorem exec_hostCompletionTimeout : exec (.hostCompletionTimeout c w n) s = .next (s.hostLost c w n) := if_neg hc.not_ge

variable {s w n} in
theorem exec_failureRetry {y : Wave} {o : Op} (wave : (s.core c).wave? w = some y) (op : y.op? n = some o) :
    exec (.failureRetry c w n) s = .next (s.updOp c w n Op.retry) := by
  have held : ((s.core c).waves.any fun w' => w'.slot == w && w'.ops.any fun o => o.num == n) = true :=
    List.any_eq_true.mpr ⟨y, List.mem_of_find?_eq_some wave, by
      rw [Core.wave?_slot wave, beq_self_eq_true, Bool.true_and]
      exact List.any_eq_true.mpr ⟨o, List.mem_of_find?_eq_some op, beq_iff_eq.mpr (Wave.num_of_op? op)⟩⟩
  show execFailureRetry c w n s = _
  rw [execFailureRetry, if_neg hc.not_ge, if_pos held]

end

/-! ## What they do -/

theorem hostAnswers : HostAnswers := by
  intro s c w n k hc op sent
  obtain ⟨wave, found, -⟩ := State.opCtx?_found op
  have slot := Core.wave?_slot wave
  have num := Wave.num_of_op? found
  have answer (a : HostAnswer) := (exec_hostCompletion hc s w n a).trans (congrArg _ (State.hostCompletion_sent op sent a))
  refine ⟨fun d sz sx bs load unmarked lanes clean => ?_, fun m bs marked => ?_, fun d sz sx load => ?_, answer .poisoned, ?_⟩
  · rw [answer]
    simp only [State.hostData, unmarked, load]
    rw [State.loadAnswer_of_reach lanes clean, slot]
  · rw [answer]
    simp only [State.hostData, marked]
    rw [State.behindDone, slot, num]
    rfl
  · rw [answer]
    exact congrArg _ (by rw [State.hostRefused_load load, slot, num])
  · rw [exec_hostCompletionTimeout hc, State.hostLost_sent op sent]

theorem hostLinkGoesDown : HostLinkGoesDown := by
  intro s
  have side := s.hostSide_hostDown
  exact ⟨s.hostDown, rfl, congrArg HostSide.linkUp side, congrArg HostSide.stokeQ side, congrArg HostSide.host side,
    State.hostDown_of_quiet⟩

theorem failuresAreRetried : FailuresAreRetried := by
  intro s c w n y o code a hc wave op failing noRst noRmo
  refine ⟨_, y.updOp n Op.retry, exec_failureRetry hc wave op, rfl, State.wave?_updOp wave n Op.retry, ?_, rfl, rfl⟩
  rw [Wave.op?_updOp y n Op.retry_num, op, Option.map_some, Op.retry_of_failing failing noRst noRmo]

/-- Settles O38: an answer by what the operation waits for, the link by what is left of the host's side, and the retry by the
operation that failed. -/
theorem hostAndRetry : Obligations.HostAndRetry := ⟨hostAnswers, hostLinkGoesDown, failuresAreRetried⟩

end Sys2Proof.Claim
end

section
/-! PROOFS. The fields of the formats and the opcode map, each way: what a word of an instruction decodes to, and what word a
decoded instruction has (R247, R249 to R271). -/

open Sys2Proof Sys2Proof.Machine

set_option Elab.async false

namespace Sys2Proof

open BitVec (extractLsb'_append_eq_of_le extractLsb'_append_eq_of_add_le extractLsb'_append_extractLsb'_eq_extractLsb'
  extractLsb'_eq_self getLsbD_append getLsbD_eq_getElem)

/-! ## The fields of the formats

A field of a concatenation is reached past the fields on its right; fields that lie side by side join to one. Widths stay the
sums that they are (`-Nat.reduceAdd`), as the library's rules about `++` need. -/

theorem ofBool_getLsbD {n : Nat} (x : BitVec n) (k : Nat) : BitVec.ofBool (x.getLsbD k) = x.extractLsb' k 1 := by
  ext j hj
  obtain rfl : j = 0 := by omega
  simp

/-! ### The fields of any bits make up the bits -/

@[simp] theorem VX.toBits_ofBits (x : BitVec 50) : (VX.ofBits x).toBits = x := by
  simp (disch := decide) only [VX.toBits, VX.ofBits, ofBool_getLsbD, extractLsb'_append_extractLsb'_eq_extractLsb',
    extractLsb'_eq_self, -Nat.reduceAdd]

@[simp] theorem VI.toBits_ofBits (x : BitVec 50) : (VI.ofBits x).toBits = x := by
  simp (disch := decide) only [VI.toBits, VI.ofBits, extractLsb'_append_extractLsb'_eq_extractLsb',
    extractLsb'_eq_self, -Nat.reduceAdd]

@[simp] theorem UN.toBits_ofBits (x : BitVec 50) : (UN.ofBits x).toBits = x := by
  simp (disch := decide) only [UN.toBits, UN.ofBits, extractLsb'_append_extractLsb'_eq_extractLsb',
    extractLsb'_eq_self, -Nat.reduceAdd]

@[simp] theorem MG.toBits_ofBits (x : BitVec 50) : (MG.ofBits x).toBits = x := by
  simp (disch := decide) only [MG.toBits, MG.ofBits, ofBool_getLsbD, extractLsb'_append_extractLsb'_eq_extractLsb',
    extractLsb'_eq_self, -Nat.reduceAdd]

@[simp] theorem MA.toBits_ofBits (x : BitVec 50) : (MA.ofBits x).toBits = x := by
  simp (disch := decide) only [MA.toBits, MA.ofBits, ofBool_getLsbD, extractLsb'_append_extractLsb'_eq_extractLsb',
    extractLsb'_eq_self, -Nat.reduceAdd]

@[simp] theorem MB.toBits_ofBits (x : BitVec 50) : (MB.ofBits x).toBits = x := by
  simp (disch := decide) only [MB.toBits, MB.ofBits, ofBool_getLsbD, extractLsb'_append_extractLsb'_eq_extractLsb',
    extractLsb'_eq_self, -Nat.reduceAdd]

@[simp] theorem EC.toBits_ofBits (x : BitVec 50) : (EC.ofBits x).toBits = x := by
  simp (disch := decide) only [EC.toBits, EC.ofBits, extractLsb'_append_extractLsb'_eq_extractLsb',
    extractLsb'_eq_self, -Nat.reduceAdd]

@[simp] theorem ED.toBits_ofBits (x : BitVec 50) : (ED.ofBits x).toBits = x := by
  simp (disch := decide) only [ED.toBits, ED.ofBits, ofBool_getLsbD, extractLsb'_append_extractLsb'_eq_extractLsb',
    extractLsb'_eq_self, -Nat.reduceAdd]

@[simp] theorem ER.toBits_ofBits (x : BitVec 50) : (ER.ofBits x).toBits = x := by
  simp (disch := decide) only [ER.toBits, ER.ofBits, ofBool_getLsbD, extractLsb'_append_extractLsb'_eq_extractLsb',
    extractLsb'_eq_self, -Nat.reduceAdd]

@[simp] theorem CB.toBits_ofBits (x : BitVec 50) : (CB.ofBits x).toBits = x := by
  simp (disch := decide) only [CB.toBits, CB.ofBits, ofBool_getLsbD, extractLsb'_append_extractLsb'_eq_extractLsb',
    extractLsb'_eq_self, -Nat.reduceAdd]

@[simp] theorem CR.toBits_ofBits (x : BitVec 50) : (CR.ofBits x).toBits = x := by
  simp (disch := decide) only [CR.toBits, CR.ofBits, extractLsb'_append_extractLsb'_eq_extractLsb',
    extractLsb'_eq_self, -Nat.reduceAdd]

@[simp] theorem SR.toBits_ofBits (x : BitVec 50) : (SR.ofBits x).toBits = x := by
  simp (disch := decide) only [SR.toBits, SR.ofBits, ofBool_getLsbD, extractLsb'_append_extractLsb'_eq_extractLsb',
    extractLsb'_eq_self, -Nat.reduceAdd]

@[simp] theorem Compact.toBits_ofBits (x : BitVec 31) : (Compact.ofBits x).toBits = x := by
  simp (disch := decide) only [Compact.toBits, Compact.ofBits, ofBool_getLsbD, extractLsb'_append_extractLsb'_eq_extractLsb',
    extractLsb'_eq_self, -Nat.reduceAdd]

@[simp] theorem Header.toBits_ofBits (w : DWord) : (Header.ofBits w).toBits = w := by
  simp (disch := decide) only [Header.toBits, Header.ofBits, extractLsb'_append_extractLsb'_eq_extractLsb',
    extractLsb'_eq_self, -Nat.reduceAdd]

@[simp] theorem CN.toBits_ofBits (x : BitVec 50) : (CN.ofBits x).toBits = x := rfl

/-! ### Each field is read back -/

@[simp] theorem VX.ofBits_toBits (o : VX) : VX.ofBits o.toBits = o := by
  simp (disch := decide) [VX.toBits, VX.ofBits, extractLsb'_append_eq_of_le, extractLsb'_append_eq_of_add_le,
    getLsbD_append, -getLsbD_eq_getElem, -Nat.reduceAdd]

@[simp] theorem VI.ofBits_toBits (o : VI) : VI.ofBits o.toBits = o := by
  simp (disch := decide) [VI.toBits, VI.ofBits, extractLsb'_append_eq_of_le, extractLsb'_append_eq_of_add_le,
    -Nat.reduceAdd]

@[simp] theorem UN.ofBits_toBits (o : UN) : UN.ofBits o.toBits = o := by
  simp (disch := decide) [UN.toBits, UN.ofBits, extractLsb'_append_eq_of_le, extractLsb'_append_eq_of_add_le,
    -Nat.reduceAdd]

@[simp] theorem MG.ofBits_toBits (o : MG) : MG.ofBits o.toBits = o := by
  simp (disch := decide) [MG.toBits, MG.ofBits, extractLsb'_append_eq_of_le, extractLsb'_append_eq_of_add_le,
    getLsbD_append, -getLsbD_eq_getElem, -Nat.reduceAdd]

@[simp] theorem MA.ofBits_toBits (o : MA) : MA.ofBits o.toBits = o := by
  simp (disch := decide) [MA.toBits, MA.ofBits, extractLsb'_append_eq_of_le, extractLsb'_append_eq_of_add_le,
    getLsbD_append, -getLsbD_eq_getElem, -Nat.reduceAdd]

@[simp] theorem MB.ofBits_toBits (o : MB) : MB.ofBits o.toBits = o := by
  simp (disch := decide) [MB.toBits, MB.ofBits, extractLsb'_append_eq_of_le, extractLsb'_append_eq_of_add_le,
    getLsbD_append, -getLsbD_eq_getElem, -Nat.reduceAdd]

@[simp] theorem EC.ofBits_toBits (o : EC) : EC.ofBits o.toBits = o := by
  simp (disch := decide) [EC.toBits, EC.ofBits, extractLsb'_append_eq_of_le, extractLsb'_append_eq_of_add_le,
    -Nat.reduceAdd]

@[simp] theorem ED.ofBits_toBits (o : ED) : ED.ofBits o.toBits = o := by
  simp (disch := decide) [ED.toBits, ED.ofBits, extractLsb'_append_eq_of_le, extractLsb'_append_eq_of_add_le,
    getLsbD_append, -getLsbD_eq_getElem, -Nat.reduceAdd]

@[simp] theorem ER.ofBits_toBits (o : ER) : ER.ofBits o.toBits = o := by
  simp (disch := decide) [ER.toBits, ER.ofBits, extractLsb'_append_eq_of_le, extractLsb'_append_eq_of_add_le,
    getLsbD_append, -getLsbD_eq_getElem, -Nat.reduceAdd]

@[simp] theorem CB.ofBits_toBits (o : CB) : CB.ofBits o.toBits = o := by
  simp (disch := decide) [CB.toBits, CB.ofBits, extractLsb'_append_eq_of_le, extractLsb'_append_eq_of_add_le,
    getLsbD_append, -getLsbD_eq_getElem, -Nat.reduceAdd]

@[simp] theorem CR.ofBits_toBits (o : CR) : CR.ofBits o.toBits = o := by
  simp (disch := decide) [CR.toBits, CR.ofBits, extractLsb'_append_eq_of_le, extractLsb'_append_eq_of_add_le,
    -Nat.reduceAdd]

@[simp] theorem SR.ofBits_toBits (o : SR) : SR.ofBits o.toBits = o := by
  simp (disch := decide) [SR.toBits, SR.ofBits, extractLsb'_append_eq_of_le, extractLsb'_append_eq_of_add_le,
    getLsbD_append, -getLsbD_eq_getElem, -Nat.reduceAdd]

@[simp] theorem Compact.ofBits_toBits (h : Compact) : Compact.ofBits h.toBits = h := by
  simp (disch := decide) [Compact.toBits, Compact.ofBits, extractLsb'_append_eq_of_le, extractLsb'_append_eq_of_add_le,
    getLsbD_append, -getLsbD_eq_getElem, -Nat.reduceAdd]

@[simp] theorem Header.ofBits_toBits (h : Header) : Header.ofBits h.toBits = h := by
  simp (disch := decide) [Header.toBits, Header.ofBits, extractLsb'_append_eq_of_le, extractLsb'_append_eq_of_add_le,
    -Nat.reduceAdd]

@[simp] theorem CN.ofBits_toBits (o : CN) : CN.ofBits o.toBits = o := rfl

/-! ## The fields of words (R249) -/

section
variable (g : Ctl) (op : BitVec 8) (x : BitVec 50)

theorem getLsbD_wordBits : (wordBits g op x).getLsbD 62 = false := by
  simp [wordBits, getLsbD_append, -getLsbD_eq_getElem, -Nat.reduceAdd]

theorem extractLsb'_wordBits_opcode : (wordBits g op x).extractLsb' 54 8 = op := by
  simp (disch := decide) [wordBits, extractLsb'_append_eq_of_le, extractLsb'_append_eq_of_add_le, -Nat.reduceAdd]

theorem extractLsb'_wordBits_operands : (wordBits g op x).extractLsb' 0 50 = x :=
  BitVec.extractLsb'_append_eq_right

theorem Ctl.ofWord_wordBits : Ctl.ofWord (wordBits g op x) = g := by
  simp (disch := decide) [wordBits, Ctl.ofWord, extractLsb'_append_eq_of_le, extractLsb'_append_eq_of_add_le, getLsbD_append,
    -getLsbD_eq_getElem, -Nat.reduceAdd]

theorem ofWord_wordBits : ofWord (wordBits g op x) = ofOpcode op.toNat g (wordBits g op x) := by
  rw [ofWord, getLsbD_wordBits, if_neg Bool.false_ne_true, extractLsb'_wordBits_opcode, Ctl.ofWord_wordBits]

/-- MOD[1:0], which selects a shuffle or a vote, stands in the lowest bits of the word (R253, R269). -/
theorem extractLsb'_wordBits_mode (o : VX) : (wordBits g op o.toBits).extractLsb' 0 2 = o.mode.extractLsb' 0 2 := by
  simp (disch := decide) only [wordBits, VX.toBits, extractLsb'_append_eq_of_add_le, -Nat.reduceAdd]

end

theorem ofWord_pairBits (sw : Bool) (l r : Compact) : ofWord (pairBits sw l r) = some (.pairWord sw l r) := by
  simp (disch := decide) [ofWord, pairBits, extractLsb'_append_eq_of_le, extractLsb'_append_eq_of_add_le, getLsbD_append,
    -getLsbD_eq_getElem, -Nat.reduceAdd]

theorem wordBits_of_fields {w : DWord} (single : w.getLsbD 62 = false) :
    wordBits (Ctl.ofWord w) (w.extractLsb' 54 8) (w.extractLsb' 0 50) = w := by
  have bit62 : 0#1 = w.extractLsb' 62 1 := by rw [← ofBool_getLsbD, single]; rfl
  simp (disch := decide) only [wordBits, Ctl.ofWord, bit62, ofBool_getLsbD,
    extractLsb'_append_extractLsb'_eq_extractLsb', extractLsb'_eq_self, -Nat.reduceAdd]

theorem pairBits_of_fields {w : DWord} (pair : w.getLsbD 62 = true) :
    pairBits (w.getLsbD 63) (Compact.ofBits (w.extractLsb' 31 31)) (Compact.ofBits (w.extractLsb' 0 31)) = w := by
  have bit62 : 1#1 = w.extractLsb' 62 1 := by rw [← ofBool_getLsbD, pair]; rfl
  simp (disch := decide) only [pairBits, Compact.toBits_ofBits, bit62, ofBool_getLsbD,
    extractLsb'_append_extractLsb'_eq_extractLsb', extractLsb'_eq_self, -Nat.reduceAdd]

/-! ## The checks -/

theorem decode_eq_ok_iff {w : DWord} {i : Instr} : decode w = .ok i ↔ ofWord w = some i ∧ i.WellFormed := by
  unfold decode
  split
  case h_1 dash => simp [dash]
  case h_2 j read =>
    rw [read, Option.some_inj]
    split
    case h_1 n fault =>
      refine ⟨nofun, fun ⟨same, wf⟩ => ?_⟩
      rw [← same, Instr.WellFormed, fault] at wf
      cases wf
    case h_2 wf => exact ⟨fun same => by cases same; exact ⟨rfl, wf⟩, fun ⟨same, _⟩ => by rw [same]⟩

theorem decodeHeader_eq_ok_iff {w : DWord} {i : Instr} :
    decodeHeader w = .ok i ↔ i = .clauseHeader (Header.ofBits w) ∧ i.WellFormed := by
  unfold decodeHeader
  split
  case h_1 n fault =>
    refine ⟨nofun, fun ⟨same, wf⟩ => ?_⟩
    rw [same, Instr.WellFormed, Instr.fieldFault, fault] at wf
    cases wf
  case h_2 wf => exact ⟨fun same => by cases same; exact ⟨rfl, wf⟩, fun ⟨same, _⟩ => by rw [same]⟩

theorem fieldsOk_of_wellFormed {i : Instr} (wf : i.WellFormed) (notHeader : ∀ h, i ≠ .clauseHeader h) : i.fieldsOk = true := by
  unfold Instr.WellFormed Instr.fieldFault at wf
  split at wf
  case h_1 h => exact absurd rfl (notHeader h)
  case h_2 =>
    cases ok : i.fieldsOk with
    | true => rfl
    | false => simp [ok] at wf

/-! ## From instructions to words -/

/-- An instruction of one format reads back from its word: its opcode leads to it, and the format keeps its fields. -/
theorem ofWord_of_row {α : Type} {ofBits : BitVec 50 → α} {toBits : α → BitVec 50} {mk : Ctl → α → Instr} {op : BitVec 8}
    {g : Ctl} {o : α} {w : DWord} (format : ∀ o, ofBits (toBits o) = o)
    (row : ∀ g w, ofOpcode op.toNat g w = some (mk g (ofBits (w.extractLsb' 0 50))))
    (word : some (wordBits g op (toBits o)) = some w) : ofWord w = some (mk g o) := by
  cases word
  rw [ofWord_wordBits, row, extractLsb'_wordBits_operands, format]

/-- A shuffle or a vote reads back from its word: with the opcode, its MOD field names it. -/
theorem ofWord_of_mode {select : BitVec 2 → Ctl → VX → Instr} {op : BitVec 8} {g : Ctl} {o : VX} {w : DWord} {m : BitVec 5}
    (row : ∀ g w, ofOpcode op.toNat g w = some (select (w.extractLsb' 0 2) g (VX.ofBits (w.extractLsb' 0 50))))
    (word : some (wordBits g op o.toBits) = some w) (mode : (o.mode == m) = true) :
    ofWord w = some (select (m.extractLsb' 0 2) g o) := by
  cases word
  rw [ofWord_wordBits, row, extractLsb'_wordBits_operands, VX.ofBits_toBits, extractLsb'_wordBits_mode, eq_of_beq mode]

/-- By the format of the instruction; a step of a unit has no word. -/
theorem ofWord_of_encode {i : Instr} {w : DWord} (wf : i.WellFormed) (word : encode i = some w)
    (notHeader : ∀ h, i ≠ .clauseHeader h) : ofWord w = some i := by
  have ok := fieldsOk_of_wellFormed wf notHeader
  cases i with
  | umov g o | umovi g o | uadd g o | usub g o | umul g o | umulh g o | uand g o | uor g o | uxor g o | ushl g o
  | ushr g o | usra g o | umin g o | umax g o | ucmp g o | usel g o | addpc g o | aadd g o | aset g o | acpy g o
  | aget g o | rdhz g o => exact ofWord_of_row UN.ofBits_toBits (fun _ _ => rfl) word
  | mov g o | iadd g o | isub g o | imul g o | imulh g o | imulhu g o | imad g o | imin g o | imax g o | iminu g o
  | imaxu g o | iabs g o | ineg g o | and g o | or g o | xor g o | not g o | ishl g o | ishr g o | isra g o
  | irol g o | popc g o | clz g o | brev g o | bfe g o | bfi g o | sel g o | icmp g o | idot4 g o | idot2 g o
  | plop g o | fadd g o | fsub g o | fmul g o | ffma g o | fmin g o | fmax g o | fabs g o | fneg g o | fcmp g o
  | fclass g o | frnd g o | faddF64 g o | fsubF64 g o | fmulF64 g o | ffmaF64 g o | fminF64 g o | fmaxF64 g o
  | fabsF64 g o | fnegF64 g o | fcmpF64 g o | fclassF64 g o | frndF64 g o | faddF16 g o | fsubF16 g o | fmulF16 g o
  | ffmaF16 g o | fminF16 g o | fmaxF16 g o | fabsF16 g o | fnegF16 g o | fcmpF16 g o | fclassF16 g o | frndF16 g o
  | faddBf16 g o | fsubBf16 g o | fmulBf16 g o | ffmaBf16 g o | fminBf16 g o | fmaxBf16 g o | fabsBf16 g o
  | fnegBf16 g o | fcmpBf16 g o | fclassBf16 g o | frndBf16 g o | cvt g o | pack g o | rcp g o | rsq g o | sqrt g o
  | exp2 g o | log2 g o | sin g o | cos g o | tanh g o | rcpF64 g o | sqrtF64 g o | redl g o | scanl g o =>
    exact ofWord_of_row VX.ofBits_toBits (fun _ _ => rfl) word
  | movi g o => exact ofWord_of_row VI.ofBits_toBits (fun _ _ => rfl) word
  | ld g o | st g o | lds g o | sts g o | gather g o | scatter g o | uld g o =>
    exact ofWord_of_row MG.ofBits_toBits (fun _ _ => rfl) word
  | atom g o | atomn g o | cas g o | atoms g o | cass g o => exact ofWord_of_row MA.ofBits_toBits (fun _ _ => rfl) word
  | fence g o | bind g o | unbind g o | acq g o | rel g o | binit g o | arrive g o | waitph g o | tryph g o
  | qwait g o | wake g o | waithz g o => exact ofWord_of_row MB.ofBits_toBits (fun _ _ => rfl) word
  | cpy g o | tierp g o | tiere g o => exact ofWord_of_row EC.ofBits_toBits (fun _ _ => rfl) word
  | cpy2 g o | cpyt g o | cpyg g o | wload g o | mtask g o | qcfg g o | commOpen g o | commClose g o | collRs g o
  | collAg g o | collAr g o | collBc g o | collBar g o | collSend g o | collRecv g o | matchArm g o =>
    exact ofWord_of_row ED.ofBits_toBits (fun _ _ => rfl) word
  | rmoCas4 g o | rmoEnq g o | rmoChase g o | rst g o | rflush g o =>
    exact ofWord_of_row ER.ofBits_toBits (fun _ _ => rfl) word
  | bra g o | brc g o | call g o | bhz g o => exact ofWord_of_row CB.ofBits_toBits (fun _ _ => rfl) word
  | brx g o | ret g o | prefi g o | pin g o | unpin g o | launch g o | fetchw g o | shape g o | rte g o =>
    exact ofWord_of_row CR.ofBits_toBits (fun _ _ => rfl) word
  | rcv g o | exit g o | yield g o | nop g o | alloc g o | freea g o | trap g o =>
    exact ofWord_of_row CN.ofBits_toBits (fun _ _ => rfl) word
  | rdsr g o | wrsr g o => exact ofWord_of_row SR.ofBits_toBits (fun _ _ => rfl) word
  | shflIdx g o | shflUp g o | shflDown g o | shflXor g o =>
    exact (ofWord_of_mode (select := shflOfMode) (fun _ _ => rfl) word (Bool.and_elim_right ok) :)
  | voteAny g o | voteAll g o | voteBallot g o | voteEq g o =>
    exact (ofWord_of_mode (select := voteOfMode) (fun _ _ => rfl) word (Bool.and_elim_right ok) :)
  | pairWord sw l r => cases word; exact ofWord_pairBits sw l r
  | clauseHeader h => exact absurd rfl (notHeader h)
  | _ => cases word

theorem decode_of_encode {i : Instr} {w : DWord} (wf : i.WellFormed) (word : encode i = some w)
    (notHeader : ∀ h, i ≠ .clauseHeader h) : decode w = .ok i :=
  decode_eq_ok_iff.mpr ⟨ofWord_of_encode wf word notHeader, wf⟩

/-! ## From words to instructions -/

/-- The instruction that an opcode names has the word that it is read from. -/
def ReadsBack (op : Nat) : Prop :=
  ∀ g w i, ofOpcode op g w = some i → encode i = some (wordBits g (BitVec.ofNat 8 op) (w.extractLsb' 0 50))

theorem readsBack_of_row {α : Type} {ofBits : BitVec 50 → α} {toBits : α → BitVec 50} {mk : Ctl → α → Instr} {op : Nat}
    (format : ∀ x, toBits (ofBits x) = x) (row : ∀ g w, ofOpcode op g w = some (mk g (ofBits (w.extractLsb' 0 50))))
    (word : ∀ g o, encode (mk g o) = some (wordBits g (BitVec.ofNat 8 op) (toBits o))) : ReadsBack op := by
  intro g w i read
  obtain rfl := Option.some.inj ((row g w).symm.trans read)
  rw [word, format]

theorem readsBack_of_mode {select : BitVec 2 → Ctl → VX → Instr} {op : Nat}
    (row : ∀ g w, ofOpcode op g w = some (select (w.extractLsb' 0 2) g (VX.ofBits (w.extractLsb' 0 50))))
    (word : ∀ m g o, encode (select m g o) = some (wordBits g (BitVec.ofNat 8 op) o.toBits)) : ReadsBack op := by
  intro g w i read
  obtain rfl := Option.some.inj ((row g w).symm.trans read)
  rw [word, VX.toBits_ofBits]

theorem encode_shflOfMode (m : BitVec 2) (g : Ctl) (o : VX) : encode (shflOfMode m g o) = some (wordBits g 0x90 o.toBits) := by
  unfold shflOfMode
  split <;> rfl

theorem encode_voteOfMode (m : BitVec 2) (g : Ctl) (o : VX) : encode (voteOfMode m g o) = some (wordBits g 0x91 o.toBits) := by
  unfold voteOfMode
  split <;> rfl

/-! ### The opcodes of the map (R250, R268) -/

/-- The number lies in one of the ranges, whose ends belong to them. -/
abbrev Within (ranges : List (Nat × Nat)) (n : Nat) : Prop := ∃ r ∈ ranges, r.1 ≤ n ∧ n ≤ r.2

/-- The opcodes that name one instruction each. -/
def rowRanges : List (Nat × Nat) :=
  [(0x00, 0x15), (0x20, 0x4A), (0x50, 0x5A), (0x60, 0x6A), (0x70, 0x7A), (0x80, 0x8B), (0x92, 0x93), (0xA0, 0xB7), (0xC8, 0xDF),
    (0xE4, 0xF9)]

theorem opcode_cases : ∀ op < 256, Within rowRanges op ∨ op = 0x90 ∨ op = 0x91 ∨ Within Claim.dashes op := by decide +kernel

/-- Opcode by opcode; `simp` finds that the format of the instruction keeps its bits. -/
theorem readsBack_of_rowRanges {op : Nat} (h : Within rowRanges op) : ReadsBack op := by
  obtain ⟨r, mem, lo, hi⟩ := h
  fin_cases mem <;> interval_cases op <;> exact readsBack_of_row (fun _ => by simp) (fun _ _ => rfl) fun _ _ => rfl

theorem ofOpcode_of_dash {op : Nat} (dash : Within Claim.dashes op) (g : Ctl) (w : DWord) : ofOpcode op g w = none := by
  obtain ⟨r, mem, lo, hi⟩ := dash
  fin_cases mem <;> interval_cases op <;> rfl

theorem readsBack {op : Nat} (byte : op < 256) : ReadsBack op := by
  rcases opcode_cases op byte with row | rfl | rfl | dash
  · exact readsBack_of_rowRanges row
  · exact readsBack_of_mode (fun _ _ => rfl) encode_shflOfMode
  · exact readsBack_of_mode (fun _ _ => rfl) encode_voteOfMode
  · intro g w i read
    rw [ofOpcode_of_dash dash] at read
    cases read

theorem encode_of_ofWord {w : DWord} {i : Instr} (read : ofWord w = some i) : encode i = some w := by
  unfold ofWord at read
  split at read
  case isTrue pair =>
    cases read
    exact congrArg some (pairBits_of_fields pair)
  case isFalse single =>
    have word := readsBack (w.extractLsb' 54 8).isLt _ _ _ read
    rwa [BitVec.ofNat_toNat, BitVec.setWidth_eq, wordBits_of_fields (eq_false_of_ne_true single)] at word

end Sys2Proof

namespace Sys2Proof.Claim

/-- Settles O56: the format keeps each field, and the opcode, with MOD of shuffles and votes, leads back to the instruction. -/
theorem encodingsDecode : Obligations.EncodingsDecode := by
  intro i w wf word
  unfold decodesTo
  split
  case h_1 h =>
    cases word
    exact decodeHeader_eq_ok_iff.mpr ⟨by rw [Header.ofBits_toBits], wf⟩
  case h_2 notHeader => exact decode_of_encode wf word notHeader

/-- Settles O57: the fields of the word make up the word again, and no opcode of a dash names an instruction. -/
theorem decodingsEncode : Obligations.DecodingsEncode := by
  refine ⟨fun w i decodes => ?_, fun w i decodes => ?_, fun w single dash => ?_⟩
  · obtain ⟨read, wf⟩ := decode_eq_ok_iff.mp decodes
    exact ⟨wf, encode_of_ofWord read⟩
  · obtain ⟨rfl, wf⟩ := decodeHeader_eq_ok_iff.mp decodes
    exact ⟨wf, congrArg some (Header.toBits_ofBits w)⟩
  · have noInstr : ofWord w = none := by rw [ofWord, single, if_neg Bool.false_ne_true, ofOpcode_of_dash dash]
    rw [decode, noInstr]

/-- Settles O55: each word is the word of its instruction, which is well formed. -/
theorem wordsOfTheManual : Obligations.WordsOfTheManual := by
  refine ⟨?_, ?_, ?_, ?_, ?_, ?_, ?_, ?_, ?_, ?_, decodeHeader_eq_ok_iff.mpr ⟨rfl, rfl⟩⟩ <;>
    exact decode_of_encode rfl rfl nofun

end Sys2Proof.Claim
end

section
/-! PROOFS. FP32 and packed words, FMIN and FMAX, and special functions, whose results are pending (R278 to R281, R285, R286). -/

open Sys2Proof Sys2Proof.Machine

set_option Elab.async false

namespace Sys2Proof.Claim

/-! ## FP32 and packed words -/

theorem floatWordsComplete : FloatWordsComplete := by
  intro i r s x hr h
  rw [exec_of_floatRule s hr, issueVector_of_ready h, Ctx.setLanes_eq_raiseAs]
  exact ⟨_, _, rfl, (Ctx.LanesWritten.setV x r.d _ _).laneEffect h.ctx false⟩

/-! ## FMIN and FMAX -/

/-- Of two numbers not both are less than the other. -/
theorem ltVal_asymm {x y : FVal} (hx : x.isNan = false) (hy : y.isNan = false) (h : ltVal x y = true) :
    ltVal y x = false := by
  cases x with
  | nan => cases hx
  | inf a =>
    cases y with
    | nan => cases hy
    | inf b => cases a <;> cases b <;> simp_all [ltVal]
    | fin b n d => simpa [ltVal] using h
  | fin a m e =>
    cases y with
    | nan => cases hy
    | inf b => simpa [ltVal] using h
    | fin b n d =>
      have lo : (if d ≤ e then d else e) = if e ≤ d then e else d := by split <;> split <;> omega
      simp only [ltVal, decide_eq_true_eq] at h
      simpa only [ltVal, lo, decide_eq_false_iff_not, not_lt] using h.le

section
variable {f : FFmt} {mx : Bool} {a b : Nat} (ha : (f.value a).isNan = false) (hb : (f.value b).isNan = false)
include ha hb

/-- FMIN and FMAX of two numbers choose the smaller and the greater (R280). -/
theorem fMinMax_of_lt (h : ltVal (f.value a) (f.value b) = true) : (fMinMax f mx a b).1 = if mx then b else a := by
  simp [fMinMax, ltNum, ha, hb, h]

theorem fMinMax_of_gt (h : ltVal (f.value b) (f.value a) = true) : (fMinMax f mx a b).1 = if mx then a else b := by
  simp [fMinMax, ltNum, ha, hb, h, ltVal_asymm hb ha h]

end

/-- FMAX of −∞ and the canonical NaN of FP32 gives −∞ (R280). -/
theorem fMax_negInf_nan : fMinMax fp32 true 0xFF800000 0x7FC00000 = (0xFF800000, 0) := by decide

/-- `ltVal`, which is stated for numbers alone, puts −∞ below the NaN. -/
theorem ltVal_negInf_nan : ltVal (fp32.value 0xFF800000) (fp32.value 0x7FC00000) = true := by decide

/-- Refutes O3: FP32 and packed words complete (`floatWordsComplete`), and FMIN and FMAX of two numbers choose as stated
(`fMinMax_of_lt`, `fMinMax_of_gt`); but MinimumAndMaximum asks for the greater operand wherever `ltVal` holds, and so for the
NaN as the FMAX of −∞ and a NaN, where R280 and the model give −∞. -/
theorem not_floatWords : ¬ Obligations.FloatWords := by
  rintro ⟨-, chooses⟩
  obtain ⟨-, -, -, less, -⟩ := chooses fp32 List.mem_cons_self true 0xFF800000 0x7FC00000 (by decide) (by decide)
  have greater : (fMinMax fp32 true 0xFF800000 0x7FC00000).1 = 0x7FC00000 := less ltVal_negInf_nan
  rw [fMax_negInf_nan] at greater
  exact absurd greater (by decide)

/-! ## Special functions -/

/-- A word whose result is pending has changed no register; without an active lane it has no result. -/
theorem pendEffect_of_pendResult {s : State} {x : Ctx} (hx : s.ctx? = some x) (g : Ctl) (kind : PendKind)
    (regs : List (Nat × Nat × Word)) (flags : BitVec 6) :
    PendEffect s (s.save ((x.pendResult kind (x.active g) regs [] flags).done g.sw)) x
      ((x.pendResult kind (x.active g) regs [] flags).issued g.sw) g
      { kind := kind, wave := x.wave.slot, frags := [x.frag.id], handler := x.frag.handler, regs := regs,
        preds := [], flags := flags, sr := none } := by
  have w := Ctx.writes_pendResult x kind (x.active g) regs [] flags
  refine { outside := w.outside hx g.sw, core := ?_, frag := w.moved g.sw, wave := ?_ }
  · rw [w.core_issued, Ctx.pendResult_eq]
    split
    · rw [List.append_nil]
    · rfl
  · rw [Ctx.issued_wave, Ctx.pendResult_eq]

/-- The halves of a pair are pending for its two registers, the even one first (R57). -/
theorem pendPairLanes_eq (x : Ctx) (kind : PendKind) (d : Nat) (m : LaneMask) (val : Nat → Nat × BitVec 6) :
    x.pendPairLanes kind d m (fun l => onF64 (val l)) = x.pendResult kind m
      (((lanesOf m).map fun l => (d, l, BitVec.ofNat 32 (val l).1))
        ++ (lanesOf m).map fun l => (d + 1, l, BitVec.ofNat 32 ((val l).1 / 2 ^ 32))) []
      (allFlags m fun l => (val l).2) := by
  simp only [Ctx.pendPairLanes, onF64, List.map_map, Function.comp_def, orFlags_lanes, extractLsb'_ofNat_low,
    extractLsb'_ofNat_high]

/-- Settles O7: each special function leaves its result pending in the shared way, as a register or as a pair. -/
theorem specialFunctionWords : Obligations.SpecialFunctionWords := by
  refine fun i s x => ⟨fun r hr h => ?single, fun r hr h => ?pair⟩
  case single =>
    rw [exec_of_sfuRule s hr, issueVector_of_ready h, Ctx.pendLanes_eq]
    exact ⟨_, _, rfl, pendEffect_of_pendResult h.ctx r.g .sfu _ _⟩
  case pair =>
    rw [exec_of_sfu64Rule s hr, issueVector_of_ready h, pendPairLanes_eq]
    exact ⟨_, _, rfl, pendEffect_of_pendResult h.ctx r.g .sfu _ _⟩

end Sys2Proof.Claim
end

section
/-! PROOFS. What an atomic writes, and its step at a home in memory (R310, R311). -/

open Sys2Proof Sys2Proof.Machine

set_option Elab.async false

namespace Sys2Proof.Machine

/-! ## Bytes written at their homes -/

theorem placeKey_of_lt {p : Nat} (h : p < 2 ^ 48) : placeKey p = p := Nat.mod_eq_of_lt h

/-- A place reads, after writes of which one alone names it, as that one has written. -/
theorem Memory.get_foldl_put_of_mem {β : Type} {l : List β} {k : β → Nat} (v : β → Byte) (m : Memory) {e : β}
    (he : e ∈ l) (alone : ∀ d ∈ l, k d = k e → d = e) :
    Memory.get (l.foldl (fun m c => Memory.put m (k c) (v c)) m) (k e) = v e := by
  induction l generalizing m with
  | nil => cases he
  | cons d r ih =>
    rw [List.foldl_cons]
    by_cases again : e ∈ r
    · exact ih _ again fun c hc => alone c (List.mem_cons_of_mem _ hc)
    · obtain rfl : e = d := (List.mem_cons.mp he).resolve_right again
      have apart : ∀ c ∈ r, k c ≠ k e := fun c hc same => again (alone c (List.mem_cons_of_mem _ hc) same ▸ hc)
      rw [Memory.get_foldl_put_ne _ _ _ _ _ apart, Memory.get_put, if_pos rfl]

theorem mem_cellsFrom {p : Nat} {bs : List Byte} {c : Nat × Byte} :
    c ∈ cellsFrom p bs ↔ ∃ k, bs[k]? = some c.2 ∧ c.1 = p + k := by
  rw [cellsFrom, List.mem_mapIdx]
  constructor
  · rintro ⟨k, hk, rfl⟩
    exact ⟨k, List.getElem?_eq_getElem hk, rfl⟩
  · rintro ⟨k, byte, place⟩
    obtain ⟨hk, byte⟩ := List.getElem?_eq_some_iff.mp byte
    exact ⟨k, hk, Prod.ext place.symm byte⟩

section
variable (s : State) {p : Nat} {bs : List Byte} (fits : p + bs.length ≤ 2 ^ 48)
include fits

theorem placeKey_of_mem_cellsFrom {c : Nat × Byte} (hc : c ∈ cellsFrom p bs) :
    ∃ k < bs.length, bs[k]? = some c.2 ∧ c.1 = p + k ∧ placeKey c.1 = p + k := by
  obtain ⟨k, byte, place⟩ := mem_cellsFrom.mp hc
  obtain ⟨hk, -⟩ := List.getElem?_eq_some_iff.mp byte
  exact ⟨k, hk, byte, place, place ▸ placeKey_of_lt (by omega)⟩

/-- A write at a home changes no byte outside it. -/
theorem State.homeWrite_get_outside {j : Nat} (h : ¬ (p ≤ j ∧ j < p + bs.length)) :
    Memory.get (s.homeWrite (.mem p) bs).mem j = Memory.get s.mem j :=
  State.writeHome_get_ne _ _ fun c hc same => by
    obtain ⟨k, hk, -, -, key⟩ := placeKey_of_mem_cellsFrom fits hc
    omega

/-- A byte that may be written reads as written. -/
theorem State.homeWrite_get_inside {k : Nat} {b : Byte} (byte : bs[k]? = some b) (writable : s.homeWritable (p + k) = true) :
    Memory.get (s.homeWrite (.mem p) bs).mem (p + k) = b := by
  have cell : (p + k, b) ∈ cellsFrom p bs := mem_cellsFrom.mpr ⟨k, byte, rfl⟩
  obtain ⟨_, hk, -, here, key⟩ := placeKey_of_mem_cellsFrom fits cell
  have kept : (p + k, b) ∈ (cellsFrom p bs).filter fun c => s.homeWritable c.1 := List.mem_filter.mpr ⟨cell, writable⟩
  have written := Memory.get_foldl_put_of_mem (k := fun c : Nat × Byte => placeKey c.1) (fun c => c.2) s.mem kept
    fun d hd same => by
      obtain ⟨j, -, other, place, otherKey⟩ := placeKey_of_mem_cellsFrom fits (List.mem_of_mem_filter hd)
      obtain rfl : j = k := by omega
      exact Prod.ext place (Option.some.inj (other.symm.trans byte))
  rwa [show placeKey (p + k, b).1 = p + k from key.trans here.symm] at written

end

theorem State.homeRead_mem (s : State) {p n : Nat} (fits : p + n ≤ 2 ^ 48) :
    s.homeRead (.mem p) n = (List.range n).map fun k => Memory.get s.mem (p + k) :=
  List.map_congr_left fun k hk => by
    rw [State.homeByte, placeKey_of_lt (by have := List.mem_range.mp hk; omega)]

end Sys2Proof.Machine

namespace Sys2Proof.Claim

theorem atomicValues : AtomicValues := fun _ _ _ _ _ _ _ => atomNew_eq_atomicResult

section
variable {s : State} {h : Home} {cas : Bool} {aop : BitVec 4} {w64 : Bool} {a : LaneAcc}

theorem atomStep_found : (s.atomStep h cas aop w64 a).2 = BitVec.ofNat 64 (leNat (s.homeRead h (if w64 then 8 else 4))) := by
  unfold State.atomStep
  dsimp only
  split <;> rfl

theorem atomStep_of_some {v : DWord}
    (new : atomNew cas aop w64 (s.atomStep h cas aop w64 a).2 (a.data.extractLsb' 0 64) a.cmp = some v) :
    (s.atomStep h cas aop w64 a).1 = s.homeWrite h (toBytes (if w64 then 8 else 4) v.toNat) := by
  rw [atomStep_found] at new
  simp only [State.atomStep, new]

/-- A comparison that fails leaves the module as it is. -/
theorem atomStep_of_none (fails : atomNew cas aop w64 (s.atomStep h cas aop w64 a).2 (a.data.extractLsb' 0 64) a.cmp = none) :
    (s.atomStep h cas aop w64 a).1 = s := by
  rw [atomStep_found] at fails
  simp only [State.atomStep, fails]

end

theorem atomicStep : AtomicStep := by
  intro s p cas aop w64 a fits n r
  have width : n ≤ 8 := by cases w64 <;> decide
  have bytes (v : DWord) : (toBytes n v.toNat).length = n := length_toBytes ..
  refine ⟨?found, fun j outside => ?outside, fun v k new hk writable => ?inside, atomStep_of_none⟩
  case found =>
    rw [← State.homeRead_mem s (by omega)]
    exact atomStep_found
  case outside =>
    cases new : atomNew cas aop w64 r.2 (a.data.extractLsb' 0 64) a.cmp with
    | none => rw [atomStep_of_none new]
    | some v =>
      rw [atomStep_of_some new]
      exact State.homeWrite_get_outside s (by rw [bytes]; omega) (by rwa [bytes])
  case inside =>
    rw [atomStep_of_some new]
    exact State.homeWrite_get_inside s (by rw [bytes]; omega) (getElem?_toBytes _ hk) writable

/-- Settles O13: the model's value is that of R310, and a step writes its bytes over those that it has found. -/
theorem atomicResults : Obligations.AtomicResults := ⟨atomicValues, atomicStep⟩

end Sys2Proof.Claim
end

section
/-! PROOFS. UNBIND, and the words that transfer the whole fragment: BRA, CALL, RET and BHZ (R320, R330, R372, R373, R376). -/

open Sys2Proof Sys2Proof.Machine

set_option Elab.async false

namespace Sys2Proof.Claim

/-! ## UNBIND -/

theorem sameAs_iff {e f : BindEnt} :
    e.sameAs f = true ↔ e.slot = f.slot ∧ e.base = f.base ∧ e.len = f.len ∧ e.obj = f.obj := by
  simp [BindEnt.sameAs, and_assoc]

/-- A core without the entries of its binding table that have the block, the region and the object of one (R320). -/
def withoutBinding (x : Core) (e : BindEnt) : Core := { x with binds := x.binds.filter fun k => !k.2.sameAs e }

theorem exec_unbind (s : State) (g : Ctl) (o : MB) : exec (.unbind g o) s =
    issueObject s g o [] [.a (o.low.extractLsb' 25 4).toNat] 8 8 false fun x _ obj =>
      s.save (stepped { x with core := withoutBinding x.core (bindEntry x o obj) } g.sw) := rfl

theorem mem_binds_withoutBinding {x : Core} {e : BindEnt} {k : Nat × BindEnt} :
    k ∈ (withoutBinding x e).binds ↔ k ∈ x.binds ∧ ¬ k.2.sameAs e := by
  simp [withoutBinding]

/-- A region of an object that a core knows of stands in an entry of its table. -/
theorem mem_regionsOf {x : Core} {slot : Nat} {obj : Obj} {id : DWord} (named : obj.ident = some id) {r : DWord × Nat} :
    r ∈ x.regionsOf slot obj ↔ ∃ k ∈ x.binds, k.2.slot = slot ∧ k.2.obj = id ∧ (k.2.base, k.2.len) = r := by
  simp [Core.regionsOf, named, and_assoc]

/-- Settles O15: what is freed is what the filter leaves out, and a region is found through an entry alone. -/
theorem unbindFrees : Obligations.UnbindFrees := by
  intro g o s x h e
  refine ⟨stepped { x with core := withoutBinding x.core e } g.sw, ?_, rfl, fun k => ?_, fun obj id named same found => ?_⟩
  · exact (exec_unbind s g o).trans (issueObject_of_ready h _)
  · exact mem_binds_withoutBinding.trans (and_congr_right fun _ => not_congr sameAs_iff)
  · obtain ⟨k, kept, slot, object, region⟩ := (mem_regionsOf named).mp found
    obtain ⟨base, len⟩ := Prod.mk.inj region
    exact (mem_binds_withoutBinding.mp kept).2 (sameAs_iff.mpr ⟨slot, base, len, object.trans same⟩)

/-! ## Transfers of the whole fragment -/

section
variable (s : State) (g : Ctl) (o : CB)

theorem exec_bra : exec (.bra g o) s =
    issueFragment s g [] fun x _ => s.save (transferred x g.sw (offTarget x o) true) := by
  simp only [← jump_eq_transferred]
  rfl

theorem exec_call : exec (.call g o) s = issueFragment s g [] fun x _ => s.save
    (transferred (x.setA o.link.toNat x.frag.loc.next.addr) g.sw (offTarget x o) false) := by
  simp only [← jump_eq_transferred]
  rfl

theorem exec_ret (o : CR) : exec (.ret g o) s =
    issueFragment s g [.a o.a.toNat] fun x _ => s.save (transferred x g.sw (regTo x o) false) := by
  simp only [← jump_eq_transferred]
  rfl

theorem openCount_eq_zero_iff (w : Wave) : w.openCount = 0 ↔ w.seq = w.hzn := by
  rw [Wave.openCount, ← BitVec.toNat_zero, BitVec.toNat_inj]
  exact sub_eq_zero

/-- BHZ is taken where the wave has no open operation (R330). -/
theorem exec_bhz : exec (.bhz g o) s = issueFragment s g [] fun x _ => if x.wave.seq = x.wave.hzn
    then s.save (transferred x g.sw (offTarget x o) true) else s.save (stepped x g.sw) := by
  simp only [← jump_eq_transferred, ← openCount_eq_zero_iff]
  rfl

end

section
variable (x : Ctx) (sw : Bool) (target : DWord) (counts : Bool)

theorem transferred_mask : (transferred x sw target counts).frag.mask = x.frag.mask := by simp only [transferred, jumped]
theorem transferred_stack : (transferred x sw target counts).frag.stack = x.frag.stack := by simp only [transferred, jumped]
theorem transferred_loc : (transferred x sw target counts).frag.loc = .header target := by simp only [transferred, jumped]

end

/-- The fields that a well-formed BRA leaves 0 (R373). -/
theorem bra_fields {g : Ctl} {o : CB} (wf : (Instr.bra g o).WellFormed) :
    o.token = 0 ∧ o.p = 0 ∧ o.pn = false ∧ o.link = 0 := by
  have fields : (g.none && o.token == 0 && o.p == 0 && !o.pn && o.link == 0 && o.rsv == 0) = true :=
    fieldsOk_of_wellFormed wf fun _ => Instr.noConfusion
  simp only [Bool.and_eq_true, beq_iff_eq, Bool.not_eq_true'] at fields
  obtain ⟨⟨⟨⟨⟨-, token⟩, p⟩, pn⟩, link⟩, -⟩ := fields
  exact ⟨token, p, pn, link⟩

/-- Settles O18: a transfer leaves the mask and the stack of its fragment alone; and a word of BRA that decodes is well formed. -/
theorem branchAlways : Obligations.BranchAlways :=
  ⟨fun g o s _ h => ⟨(exec_bra s g o).trans (issueFragment_of_ready h _), transferred_mask .., transferred_stack ..,
    transferred_loc ..⟩, fun _ _ _ decodes => bra_fields (decode_eq_ok_iff.mp decodes).2⟩

/-- Settles O19: each word transfers its fragment in the shared way, CALL after it has written its link. -/
theorem transferWords : Obligations.TransferWords := by
  refine fun g s x => ⟨fun o h => ⟨(exec_call s g o).trans (issueFragment_of_ready h _), ?link⟩,
    fun o h => (exec_ret s g o).trans (issueFragment_of_ready h _), fun o h closed => ?taken, fun o h opened => ?notTaken⟩
  case link => rw [Ctx.setA_a, if_pos rfl]
  case taken => rw [exec_bhz, issueFragment_of_ready h, if_pos closed]
  case notTaken => rw [exec_bhz, issueFragment_of_ready h, if_neg opened]

end Sys2Proof.Claim
end

section
/-! PROOFS. The lanes of remote operations as they are performed and answered, their loss, and the compare and swap of one word
(R364, R365, R367, R406). -/

open Sys2Proof Sys2Proof.Machine

set_option Elab.async false

namespace Sys2Proof.Claim

/-! ## The lanes of a remote operation -/

section
variable {c : Nat} (hc : c < coreCount) (s : State) (w : Nat) (n : HNum)
include hc

theorem exec_rmoPerform (remote : Option (List Byte)) :
    exec (.rmoPerform c w n remote) s = .next (s.rmoPerform c w n remote) := (if_neg hc.not_ge :)

theorem exec_rmoResponse : exec (.rmoResponse c w n) s = .next (s.rmoResponse c w n) := (if_neg hc.not_ge :)

theorem exec_flueTimeout : exec (.flueTimeout c w n) s = .next (s.flueTimeout c w n) := (if_neg hc.not_ge :)

end

/-- The operation of the step is found and has been sent; what its next lane answers, whether all lanes have answered, or which
lane is lost, then leaves one branch of the step. -/
theorem remoteOperationsRun : RemoteOperationsRun := by
  intro s c w n k op d desc hc found work sent
  refine ⟨fun a r remote next record own => ?performed, fun answered => ?response, fun a lost => ?lost⟩
  case performed =>
    refine ⟨fun _ step => ?_, fun _ step => ?_⟩ <;>
      rw [exec_rmoPerform hc, State.rmoPerform, found] <;>
      simp only [work, next, sent, record, own, step, if_true, bne_self_eq_false, Bool.false_eq_true, if_false]
  case response =>
    have all : (k.o.lanes.any fun a => !k.o.results.any fun r => r.1 == a.lane) = false := by simpa using answered
    rw [exec_rmoResponse hc, State.rmoResponse, found]
    simp only [work, sent, all, bne_self_eq_false, Bool.or_self, Bool.false_eq_true, if_false]
  case lost =>
    rw [exec_flueTimeout hc, State.flueTimeout, found]
    simp only [work, sent, lost, bne_self_eq_false, Bool.false_eq_true, if_false]

/-! ## Compare and swap -/

/-- The record is in order, and its one word is found: whether it is the word compared with decides what is written (R365). -/
theorem compareAndSwapFour : CompareAndSwapFour := by
  intro s a r f0 words reserved pad aligned found writable
  have valid : ¬ (recNat r 0 1 = 0 ∨ 4 < recNat r 0 1 ∨ recNat r 1 7 ≠ 0 ∨ recNat r 72 8 ≠ 0 ∨ a % 8 ≠ 0
      ∨ 32 < a % 32 + 8 * recNat r 0 1) := by omega
  have one : List.range 1 = [0] := rfl
  rw [State.rmoCas4, if_neg valid]
  refine ⟨fun same => ?equal, fun other => ?differ⟩
  case equal => simp [words, one, found, writable, ← same]
  case differ => simp [words, one, found, other]

/-- Settles O45: each step of a remote operation takes the branch of its hypotheses, and so does the compare and swap of one
word. -/
theorem remoteOperations : Obligations.RemoteOperations := ⟨remoteOperationsRun, compareAndSwapFour⟩

end Sys2Proof.Claim
end

section
/-! PROOFS. The state after reset (R396, R426; logs 3 and 4). -/

open Sys2Proof Sys2Proof.Machine

set_option Elab.async false

namespace Sys2Proof.Claim

theorem core_reset (c : Nat) : State.reset.core c = Core.reset := rfl

theorem mem_reset_get (a : Nat) : Memory.get State.reset.mem a = 0 := rfl

/-- Settles O59: the registers and the queues stand in the state, and no core and no byte is listed. -/
theorem resetIsAsStated : Obligations.ResetIsAsStated := by
  refine ⟨rfl, rfl, rfl, rfl, rfl, rfl, fun q hq => List.eq_of_mem_replicate hq, fun c => ?cores, mem_reset_get, rfl⟩
  case cores =>
    rw [core_reset]
    exact ⟨rfl, rfl, rfl⟩

end Sys2Proof.Claim
end
